-- ==== Sys2Proof/Word.lean ====
section
/-!
DEFINITION. The words of the DVG-7200 and their names: 64-bit scalars and system registers, 32-bit thread
registers, bytes, 57-bit program counters, and sets of threads as the 4,096 mark bits of one level
(spec 01 R11, 03 R45, 06 R83, 12 R194).
-/
namespace Sys2Proof

/-- A 64-bit scalar or system register. -/
abbrev Word := BitVec 64

/-- A 32-bit thread register, or a 32-bit field. -/
abbrev W32 := BitVec 32

/-- A byte of memory or scratchpad. -/
abbrev Byte := BitVec 8

/-- A program counter: a 57-bit virtual address of a line with the slot in bits [2:0] (R45). -/
abbrev PC := BitVec 57

/-- One level of a responder stack: bit t is the mark of the thread of linear index t (R11, R195). -/
abbrev TSet := BitVec 4096

/-- A number of a scalar register s0-s63. -/
abbrev SReg := BitVec 6

/-- A 9-bit thread-register name (R57). -/
abbrev VName := BitVec 9

end Sys2Proof
end

