-- ==== Sys2Proof/Syntax.lean ====
section
/-!
DEFINITION. The steps of the DVG-7200 as syntax: one constructor of `Instr` for each row of spec/opcode_table.json.
The 96-bit instructions carry the operands of their layout (03 R46-R56), the queue bytecode the fields of R278,
the mailbox commands their parameters (29 R374, 26 R350, 27 R356, 28 R366-R367), and the events the place where
they happen.
-/
namespace Sys2Proof

/-- The variable bits of the common header (R46): the STOP bit and the three WF bits. OP and SUB follow from the
constructor. -/
structure Hdr where
  stop : Bool
  wfa : Bool
  wfb : Bool
  wfc : Bool
  deriving DecidableEq, Repr

/-- S layout (R49). -/
structure SOps where
  hdr : Hdr
  sd : SReg
  sa : SReg
  sb : SReg
  imm : Bool
  w32 : Bool
  imm32 : W32
  deriving DecidableEq, Repr

/-- B layout (R50) without COND, which the constructor holds. -/
structure BOps where
  hdr : Hdr
  sa : SReg
  sb : SReg
  sd : SReg
  tslot : BitVec 3
  loff : BitVec 29
  deriving DecidableEq, Repr

/-- COND of `b` (R73). -/
inductive BCond where
  | eq | ne | lt | ge | ltu | geu
  deriving DecidableEq, Repr

/-- COND of `bcnt` (R73). -/
inductive CntCond where
  | z | nz | one | ge
  deriving DecidableEq, Repr

/-- CMP of the Q layout (R51). -/
inductive Cmp where
  | eq | ne | ltu | leu | gtu | geu | lts | les | gts | ges | bitset | bitclr | mask
  deriving DecidableEq, Repr

/-- SOP of the Q layout (R51). -/
inductive SetOp where
  | push | and | or | rep | peek
  deriving DecidableEq, Repr

/-- OPD of the Q layout (R51). -/
inductive Opd where
  | imm | scalar | thread
  deriving DecidableEq, Repr

/-- Q layout (R51). -/
structure QOps where
  hdr : Hdr
  va : VName
  lo : BitVec 5
  hi : BitVec 5
  cmp : Cmp
  sop : SetOp
  sdc : SReg
  sdf : SReg
  opd : Opd
  sc : SReg
  imm32 : W32
  deriving DecidableEq, Repr

/-- TY of the V layout (R21). -/
inductive Ty where
  | i32 | u32 | i16x2 | u16x2 | i8x4 | u8x4 | f32 | f16x2 | bf16x2
  deriving DecidableEq, Repr

/-- BSRC of the V layout (R52). -/
inductive BSrc where
  | thread | scalar | imm
  deriving DecidableEq, Repr

/-- RND of the V layout (R23): to nearest even, toward zero, down, up. -/
inductive Rnd where
  | rne | rtz | rdn | rup
  deriving DecidableEq, Repr

/-- V layout (R52). -/
structure VOps where
  hdr : Hdr
  vd : VName
  va : VName
  vb : VName
  vc : VName
  ty : Ty
  bsrc : BSrc
  sat : Bool
  rnd : Rnd
  ftz : Bool
  all : Bool
  imm32 : W32
  deriving DecidableEq, Repr

/-- WID of the M layout (R53). -/
inductive Wid where
  | b8 | b16 | b32 | b64 | b128
  deriving DecidableEq, Repr

/-- SCOPE of the M layout (R53, R211). -/
inductive Scope where
  | strand | block | cluster | die | pkg | sys
  deriving DecidableEq, Repr

/-- ORD of the M layout (R53). -/
inductive Ord4 where
  | relaxed | acq | rel | ar
  deriving DecidableEq, Repr

/-- AOP of the M layout (R53). -/
inductive AOp where
  | add | fadd | min | max | minu | maxu | and | or | xor | xchg | cas
  deriving DecidableEq, Repr

/-- M layout (R53). `dst` is true for the scratchpad. -/
structure MOps where
  hdr : Hdr
  vd : VName
  vx : VName
  sb : SReg
  wid : Wid
  scope : Scope
  ord : Ord4
  dst : Bool
  aop : AOp
  sx : SReg
  off32 : W32
  deriving DecidableEq, Repr

/-- SHPN of the T layout (R54): the tile width. -/
inductive ShpN where
  | n16 | n32 | n64
  deriving DecidableEq, Repr

/-- Operand type of `mma`, `mmag` and `bmv`, SUB[2:1] (R72). -/
inductive MatTy where
  | slot | fp16 | bf16
  deriving DecidableEq, Repr

/-- T layout (R54) without GG, which the constructor holds. -/
structure TOps where
  hdr : Hdr
  at5 : BitVec 5
  va : VName
  sb : SReg
  fsa : BitVec 3
  fsb : BitVec 3
  shpn : ShpN
  shpk : BitVec 2
  ru : Bool
  sp : Bool
  za : Bool
  th : BitVec 4
  sx : SReg
  off32 : W32
  deriving DecidableEq, Repr

/-- F layout (R55). -/
structure FOps where
  hdr : Hdr
  at5 : BitVec 5
  vx : VName
  sn : SReg
  trl : Bool
  dir : Bool
  th : BitVec 4
  deriving DecidableEq, Repr

/-- ENG of the E layout (R56). -/
inductive Eng where
  | copy | gather | sort
  deriving DecidableEq, Repr

/-- E layout (R56). -/
structure EOps where
  hdr : Hdr
  sc : SReg
  eng : Eng
  sd : SReg
  th : BitVec 4
  sx : SReg
  deriving DecidableEq, Repr

/-- SUB of `fcmp` (R72). -/
inductive FRel where
  | eq | lt | le | un
  deriving DecidableEq, Repr

/-- SUB of `fcvt` (R72), destination type first. -/
inductive FCvt where
  | f32I64 | f32U64 | i64F32 | u64F32
  deriving DecidableEq, Repr

/-- SUB of `vcmp` (R72). -/
inductive VRel where
  | eq | ne | lt | le | gt | ge
  deriving DecidableEq, Repr

/-- SUB of `vfcmp` (R72). -/
inductive VFRel where
  | eq | ne | lt | le | gt | ge | un | ord
  deriving DecidableEq, Repr

/-- SUB of `vred` and `vscan` (R72). -/
inductive RedOp where
  | add | min | max | and | or | xor | fadd | fmin | fmax
  deriving DecidableEq, Repr

/-- SUB 2-5 of `vcvt` (R72): conversions with FP16 and BF16. -/
inductive HCvt where
  | f16F32 | f32F16 | bf16F32 | f32Bf16
  deriving DecidableEq, Repr

/-- SUB of `vcvti` (R72), destination type first. -/
inductive ICvt where
  | f32I32 | f32U32 | i32F32 | u32F32
  deriving DecidableEq, Repr

/-- One operation of the queue bytecode (R278) less its OPC, which the constructor holds. -/
structure QeOps where
  d : BitVec 3
  a : BitVec 3
  b : BitVec 3
  w : BitVec 2
  imm : W32
  deriving DecidableEq, Repr

/-- The page of the mailbox a command comes through (true: page 0, with the operator right) and its tag (R373). -/
structure CmdHdr where
  page0 : Bool
  tag : W32
  deriving DecidableEq, Repr

/-- POL.REDACT of a context descriptor (R295). -/
inductive Redact where
  | full | shape | gap
  deriving DecidableEq, Repr

/-- A context descriptor (R295). -/
structure CtxDesc where
  ptroot : Word
  save : Word
  part : BitVec 16
  serial : Bool
  valid : Bool
  redact : Redact
  pcap : BitVec 3
  wdog : Word
  vcred : List Byte
  tarena : Word
  tasz : W32
  deriving DecidableEq, Repr

/-- Where a storage error strikes (R358). -/
inductive ErrSite where
  /-- thread registers, keys and marks of a cluster, by SRAM word index -/
  | registers (c word : Nat)
  /-- a tile of a block of a cluster: 4096 for each name, 16 names more for a shadow, and the element -/
  | tile (c b tile : Nat)
  /-- a scratchpad granule of 64 bits of a block of a cluster -/
  | scratchpad (c b word : Nat)
  /-- a die-cache granule of 128 bits, by physical address -/
  | dieCache (pa : Nat)
  /-- a weight-store granule of 128 bits, by physical address -/
  | weightStore (pa : Nat)
  /-- a record of a vault -/
  | vault (unit index : Nat)
  /-- 64 bits of the strongroom: a held capsule by handle, and the word of its bytes -/
  | strongroom (handle word : Nat)
  /-- 64 bits of a summary in NOR: its slot, and the word of its bytes -/
  | nor (slot word : Nat)
  deriving DecidableEq, Repr

/-- The steps of the machine: one constructor per row of spec/opcode_table.json, in
the table's order but for the mailbox commands and the events that only the outside brings, which stand last. -/
inductive Instr where
  /-- ADD (R84). Scalar add of A and B into sD, wrapping. -/
  | add (o : SOps)
  /-- SUB (R84). Scalar subtract B from A into sD. -/
  | sub (o : SOps)
  /-- MUL (R84). Low w bits of the scalar product. -/
  | mul (o : SOps)
  /-- MULH (R84). High 64 bits of the signed 128-bit product. -/
  | mulh (o : SOps)
  /-- MULHU (R84). High 64 bits of the unsigned 128-bit product. -/
  | mulhu (o : SOps)
  /-- DIV (R84). Signed scalar quotient under R22. -/
  | div (o : SOps)
  /-- DIVU (R84). Unsigned scalar quotient under R22. -/
  | divu (o : SOps)
  /-- REM (R84). Signed scalar remainder under R22. -/
  | rem (o : SOps)
  /-- REMU (R84). Unsigned scalar remainder under R22. -/
  | remu (o : SOps)
  /-- AND (R84). Scalar bitwise AND. -/
  | andI (o : SOps)
  /-- OR (R84). Scalar bitwise OR. -/
  | orI (o : SOps)
  /-- XOR (R84). Scalar bitwise XOR. -/
  | xorI (o : SOps)
  /-- ANDN (R84). Scalar A AND NOT B. -/
  | andn (o : SOps)
  /-- SHL (R84). Scalar shift left by B mod w. -/
  | shl (o : SOps)
  /-- SHR (R84). Scalar logical shift right by B mod w. -/
  | shr (o : SOps)
  /-- SRA (R84). Scalar arithmetic shift right by B mod w. -/
  | sra (o : SOps)
  /-- ROL (R84). Scalar rotate left by B mod w. -/
  | rol (o : SOps)
  /-- MIN (R84). Signed scalar minimum. -/
  | minI (o : SOps)
  /-- MAX (R84). Signed scalar maximum. -/
  | maxI (o : SOps)
  /-- MINU (R84). Unsigned scalar minimum. -/
  | minu (o : SOps)
  /-- MAXU (R84). Unsigned scalar maximum. -/
  | maxu (o : SOps)
  /-- CLZ (R84). Count of leading zeros of A. -/
  | clz (o : SOps)
  /-- CTZ (R84). Count of trailing zeros of A. -/
  | ctz (o : SOps)
  /-- POPC (R84). Count of ones in A. -/
  | popc (o : SOps)
  /-- BFX (R84). Extracts a zero-extended bit field of A. -/
  | bfx (o : SOps)
  /-- BFI (R84). Inserts low bits of A into a field of sD. -/
  | bfi (o : SOps)
  /-- SEL (R84). Selects A or B by whether sD is nonzero. -/
  | sel (o : SOps)
  /-- SEQ (R84). Sets sD to 1 when A equals B. -/
  | seqI (o : SOps)
  /-- SLT (R84). Sets sD to 1 when A is below B, signed. -/
  | slt (o : SOps)
  /-- SLTU (R84). Sets sD to 1 when A is below B, unsigned. -/
  | sltu (o : SOps)
  /-- LI (R84). Loads the sign-extended immediate into sD. -/
  | liI (o : SOps)
  /-- LI_HI (R84). Loads the immediate into bits 63:32 of sD. -/
  | liHi (o : SOps)
  /-- MOV (R84). Copies sA into sD. -/
  | mov (o : SOps)
  /-- FADD (R85). Scalar FP32 add, RNE. -/
  | fadd (o : SOps)
  /-- FSUB (R85). Scalar FP32 subtract, RNE. -/
  | fsub (o : SOps)
  /-- FMUL (R85). Scalar FP32 multiply, RNE. -/
  | fmul (o : SOps)
  /-- FFMA (R85). Scalar fused multiply-add with one rounding. -/
  | ffma (o : SOps)
  /-- FDIV (R85). Scalar FP32 divide, correctly rounded. -/
  | fdiv (o : SOps)
  /-- FSQRT (R85). Scalar FP32 square root, correctly rounded. -/
  | fsqrt (o : SOps)
  /-- FMIN (R85). Scalar FP32 minimumNumber. -/
  | fmin (o : SOps)
  /-- FMAX (R85). Scalar FP32 maximumNumber. -/
  | fmax (o : SOps)
  /-- FCMP (R85). Scalar FP32 compare .eq/.lt/.le/.un into sD. -/
  | fcmp (r : FRel) (o : SOps)
  /-- FCVT (R85). Converts between 64-bit integers and FP32. -/
  | fcvt (k : FCvt) (o : SOps)
  /-- SYSR (R86). Reads a system register into sD. -/
  | sysr (o : SOps)
  /-- SYSW (R86). Writes sA to a system register. -/
  | sysw (o : SOps)
  /-- TIME (R188). Reads the global TIME count into sD. -/
  | timeI (o : SOps)
  /-- CYC (R188). Reads the context's CYC count into sD. -/
  | cyc (o : SOps)
  /-- PERF (R189). Requests a performance level, clipped to PCAP. -/
  | perf (o : SOps)
  /-- THRA (R190). Arms or disarms the strand's throttle trap. -/
  | thra (o : SOps)
  /-- ERMARK (R188). Writes an ERMARK recorder record with a payload. -/
  | ermark (o : SOps)
  /-- QUOTA (R191). Moves private register granules from one role to another. -/
  | quota (o : SOps)
  /-- GANG (R192). Sets GANG.MEMB and returns the live members. -/
  | gang (o : SOps)
  /-- CKSUM (R193). Computes CRC-64 over a scratchpad range. -/
  | cksum (o : SOps)
  /-- NOP (R87). Does nothing. -/
  | nop (o : SOps)
  /-- B (R88). Conditional branch on a scalar compare. -/
  | branch (c : BCond) (o : BOps)
  /-- BCNT (R88). Branch on the responder count RSC. -/
  | bcnt (c : CntCond) (o : BOps)
  /-- JMP (R88). Unconditional direct jump. -/
  | jmp (o : BOps)
  /-- JMPR (R88). Indirect jump to s[SA]. -/
  | jmpr (o : SOps)
  /-- CALL (R88). Direct call writing the link to s63. -/
  | call (o : BOps)
  /-- RET (R88). Returns to s63, or ends a spawned callee at CDEPTH 0. -/
  | ret (o : SOps)
  /-- LOOP (R88). Decrements sD and branches while nonzero. -/
  | loopI (o : BOps)
  /-- SPAWN (R89). Starts a child strand on TOP or runs the callee inline. -/
  | spawn (o : BOps)
  /-- JOIN (R92). Waits for all children and unparks threads. -/
  | joinI (o : SOps)
  /-- TAIL (R93). Gives up the strand's threads and hands outstanding accesses to the tracker. -/
  | tail (o : SOps)
  /-- HALT (R94). Joins, tails and ends the strand. -/
  | halt (o : SOps)
  /-- LAUNCH (R95). Submits a launch record to the device launch queue. -/
  | launchI (o : SOps)
  /-- TRAP (R96). Raises USERTRAP. -/
  | trapI (o : SOps)
  /-- TRET (R248). Ends a handler and resumes the trapped strand. -/
  | tret (o : SOps)
  /-- BKPT (R96). Raises BKPT. -/
  | bkpt (o : SOps)
  /-- WAIT_INT (R97). Sleeps on the armed watch or a timeout, as an internal wait. -/
  | waitInt (o : SOps)
  /-- WAIT_EXT (R97). Sleeps on the armed watch or a timeout, as an external wait. -/
  | waitExt (o : SOps)
  /-- YIELD (R98). Makes the strand youngest and skips one issue opportunity. -/
  | yield (o : SOps)
  /-- SRCH (R102). Searches a bit range against an immediate or scalar and applies a set operation. -/
  | srch (o : QOps)
  /-- SRCHK (R101). Searches a key and applies a set operation. -/
  | srchk (o : QOps)
  /-- SRCHV (R101). Searches a bit range against each thread's own register. -/
  | srchv (o : QOps)
  /-- PUSH_ALL (R104). Pushes a copy of TOP. -/
  | pushAll (o : QOps)
  /-- POP (R104). Removes TOP. -/
  | pop (o : QOps)
  /-- POPN (R104). Removes the top n levels. -/
  | popn (o : QOps)
  /-- ELSE (R104). Replaces TOP with PARENT minus TOP. -/
  | elseSet (o : QOps)
  /-- FOLD (R104). Removes the level below TOP. -/
  | fold (o : QOps)
  /-- FIRST (R104). Pushes the level holding the first responder. -/
  | firstSet (o : QOps)
  /-- NEXT (R69). Removes the first responder from TOP. -/
  | nextSet (o : QOps)
  /-- GCNT (R106). Writes 64 group counts of TOP to scratchpad. -/
  | gcnt (o : QOps)
  /-- RDSET (R107). Writes TOP as a 512-byte bit map to scratchpad. -/
  | rdset (o : QOps)
  /-- WRSET (R107). Replaces TOP from a scratchpad bit map. -/
  | wrset (o : QOps)
  /-- MARK (R105). Writes TOP membership into a key. -/
  | mark (o : QOps)
  /-- VADD (R116). Per-lane integer add. -/
  | vadd (o : VOps)
  /-- VSUB (R116). Per-lane integer subtract. -/
  | vsub (o : VOps)
  /-- VMUL (R116). Per-lane low product. -/
  | vmul (o : VOps)
  /-- VMULH (R116). Per-lane high product. -/
  | vmulh (o : VOps)
  /-- VMAD (R116). Per-lane multiply-add. -/
  | vmad (o : VOps)
  /-- VADDS (R116). Per-lane saturating add. -/
  | vadds (o : VOps)
  /-- VSUBS (R116). Per-lane saturating subtract. -/
  | vsubs (o : VOps)
  /-- VAND (R116). Per-lane AND. -/
  | vand (o : VOps)
  /-- VOR (R116). Per-lane OR. -/
  | vor (o : VOps)
  /-- VXOR (R116). Per-lane XOR. -/
  | vxor (o : VOps)
  /-- VNOT (R116). Per-lane NOT. -/
  | vnot (o : VOps)
  /-- VSHL (R116). Per-lane shift left. -/
  | vshl (o : VOps)
  /-- VSHR (R116). Per-lane logical shift right. -/
  | vshr (o : VOps)
  /-- VSRA (R116). Per-lane arithmetic shift right. -/
  | vsra (o : VOps)
  /-- VMIN (R116). Per-lane signed minimum. -/
  | vmin (o : VOps)
  /-- VMINU (R116). Per-lane unsigned minimum. -/
  | vminu (o : VOps)
  /-- VMAX (R116). Per-lane signed maximum. -/
  | vmax (o : VOps)
  /-- VMAXU (R116). Per-lane unsigned maximum. -/
  | vmaxu (o : VOps)
  /-- VABS (R116). Per-lane absolute value. -/
  | vabs (o : VOps)
  /-- VNEG (R116). Per-lane negation. -/
  | vneg (o : VOps)
  /-- VCLZ (R116). Per-lane leading-zero count. -/
  | vclz (o : VOps)
  /-- VPOPC (R116). Per-lane population count. -/
  | vpopc (o : VOps)
  /-- VBFX (R116). Per-thread bit-field extract. -/
  | vbfx (o : VOps)
  /-- VBFI (R116). Per-thread bit-field insert. -/
  | vbfi (o : VOps)
  /-- VSEL (R116). Per-thread select by a key. -/
  | vsel (o : VOps)
  /-- VMOV (R116). Per-thread move of B. -/
  | vmov (o : VOps)
  /-- VCMP (R117). Per-thread integer compare into a key. -/
  | vcmp (r : VRel) (o : VOps)
  /-- VRD (R124). Reads one named thread's register into a scalar. -/
  | vrd (o : VOps)
  /-- VRD_FIRST (R124). Reads the first responder's register into a scalar. -/
  | vrdFirst (o : VOps)
  /-- VWR (R124). Writes a scalar into one named thread's register. -/
  | vwr (o : VOps)
  /-- VRED (R125). Reduces a register over ACT into a scalar. -/
  | vred (f : RedOp) (o : VOps)
  /-- VSCAN (R126). Writes the inclusive prefix over ACT. -/
  | vscan (f : RedOp) (o : VOps)
  /-- VPERM (R127). Each thread reads another thread's register. -/
  | vperm (o : VOps)
  /-- VLUT (R128). Per-thread table lookup in scratchpad. -/
  | vlut (o : VOps)
  /-- VFADD (R118). Per-thread FP32 add. -/
  | vfadd (o : VOps)
  /-- VFSUB (R118). Per-thread FP32 subtract. -/
  | vfsub (o : VOps)
  /-- VFMUL (R118). Per-thread FP32 multiply. -/
  | vfmul (o : VOps)
  /-- VFFMA (R118). Per-thread FP32 fused multiply-add. -/
  | vffma (o : VOps)
  /-- VFMIN (R118). Per-thread FP32 minimumNumber. -/
  | vfmin (o : VOps)
  /-- VFMAX (R118). Per-thread FP32 maximumNumber. -/
  | vfmax (o : VOps)
  /-- VFABS (R118). Clears the sign bit of each lane. -/
  | vfabs (o : VOps)
  /-- VFNEG (R118). Inverts the sign bit of each lane. -/
  | vfneg (o : VOps)
  /-- VFDIV (R118). Per-thread FP32 divide. -/
  | vfdiv (o : VOps)
  /-- VFSQRT (R118). Per-thread FP32 square root. -/
  | vfsqrt (o : VOps)
  /-- VFRCP (R119). Per-thread reciprocal within 1 ulp. -/
  | vfrcp (o : VOps)
  /-- VFRSQ (R119). Per-thread reciprocal square root within 1 ulp. -/
  | vfrsq (o : VOps)
  /-- VFEXP2 (R119). Per-thread 2^a within 1 ulp. -/
  | vfexp2 (o : VOps)
  /-- VFLOG2 (R119). Per-thread log2 within 1 ulp. -/
  | vflog2 (o : VOps)
  /-- VFCMP (R120). Per-thread FP32 compare into a key. -/
  | vfcmp (r : VFRel) (o : VOps)
  /-- VFCLASS (R121). Writes a one-hot class mask of an FP32 value. -/
  | vfclass (o : VOps)
  /-- VHADD (R118). Per-lane FP16/BF16 add. -/
  | vhadd (o : VOps)
  /-- VHMUL (R118). Per-lane FP16/BF16 multiply. -/
  | vhmul (o : VOps)
  /-- VHFMA (R118). Per-lane FP16/BF16 fused multiply-add. -/
  | vhfma (o : VOps)
  /-- VCVT_ENC (R122). Converts FP32 into a format slot's code. -/
  | vcvtEnc (o : VOps)
  /-- VCVT_DEC (R122). Decodes a format slot's code to FP32. -/
  | vcvtDec (o : VOps)
  /-- VCVT (R122). Converts between FP32 and FP16 or BF16 pairs. -/
  | vcvt (k : HCvt) (o : VOps)
  /-- VCVTI (R122). Converts between FP32 and 32-bit integers. -/
  | vcvti (k : ICvt) (o : VOps)
  /-- VPACK (R123). Converts into a slot format and writes one container. -/
  | vpack (o : VOps)
  /-- VUNPK (R123). Decodes one container of a slot format to FP32. -/
  | vunpk (o : VOps)
  /-- LD (R134). Broadcast global load through a pending delivery. -/
  | ld (o : MOps)
  /-- ST (R134). Broadcast global store. -/
  | st (o : MOps)
  /-- LDS (R135). Broadcast scratchpad load. -/
  | lds (o : MOps)
  /-- STS (R135). Broadcast scratchpad store. -/
  | sts (o : MOps)
  /-- LDSC (R137). Global load counted against a barrier word's PEND. -/
  | ldsc (o : MOps)
  /-- SLD (R136). Scalar load from global or scratchpad. -/
  | sld (o : MOps)
  /-- SST (R136). Scalar store to global or scratchpad. -/
  | sst (o : MOps)
  /-- PREF (R131). Prefetch with no architectural effect. -/
  | pref (o : MOps)
  /-- ATOM (R138). Aggregated broadcast global atomic. -/
  | atom (o : MOps)
  /-- ATOMS (R138). Aggregated broadcast scratchpad atomic. -/
  | atoms (o : MOps)
  /-- SATOM (R139). Scalar atomic read-modify-write. -/
  | satom (o : MOps)
  /-- FENCE (R140). Orders PRED accesses before SUCC accesses at a scope. -/
  | fence (o : MOps)
  /-- BARA (R142). Arrives on a barrier word. -/
  | bara (o : MOps)
  /-- BARW (R142). Waits for a barrier phase to differ from a value. -/
  | barw (o : MOps)
  /-- BARAW (R142). Arrives on a barrier word and waits for the phase change. -/
  | baraw (o : MOps)
  /-- GBAR (R143). Grid-wide barrier of a cooperative grid. -/
  | gbar (o : MOps)
  /-- LOCK (R144). Takes a lock or queues in FIFO order. -/
  | lockW (o : MOps)
  /-- UNLOCK (R144). Hands the lock to the oldest waiter or frees it. -/
  | unlockW (o : MOps)
  /-- TRYLOCK (R144). Takes a free lock or reports failure. -/
  | trylock (o : MOps)
  /-- WAITV (R145). Arms the strand's watch on a word. -/
  | waitv (o : MOps)
  /-- MMA (R154). Matrix multiply-accumulate of responder rows into a tile. -/
  | mma (sat : Bool) (ty : MatTy) (o : TOps)
  /-- MMAG (R157). Gang matrix multiply that arrives at a rendezvous latch. -/
  | mmag (sat : Bool) (ty : MatTy) (o : TOps)
  /-- TZERO (R160). Binds a fresh zero plain tile. -/
  | tzero (o : TOps)
  /-- TLD (R160). Binds a fresh tile and loads its rows. -/
  | tld (o : TOps)
  /-- TST (R160). Stores a tile's rows. -/
  | tst (o : TOps)
  /-- TMOV (R161). Delivers tile rows to responders' registers. -/
  | tmov (o : TOps)
  /-- TSCALE (R162). Scales each tile row by a responder's value. -/
  | tscale (o : TOps)
  /-- TROW (R161). Delivers a row maximum or sum to each responder. -/
  | trow (sum : Bool) (o : TOps)
  /-- TCOMMIT (R159). Makes the shadow tile architectural. -/
  | tcommit (o : TOps)
  /-- TDISCARD (R159). Frees the shadow tile and its counts. -/
  | tdiscard (o : TOps)
  /-- BMV (R186). Bank-compute matrix-vector product over weight-store rows. -/
  | bmv (sat : Bool) (ty : MatTy) (o : TOps)
  /-- FINIT (R163). Binds a fresh factor tile of dimension n. -/
  | finit (o : FOps)
  /-- FUPD (R165). Rank-one update of the factor tile. -/
  | fupd (o : FOps)
  /-- FDWN (R166). Rank-one downdate of the factor tile. -/
  | fdwn (o : FOps)
  /-- FSOLV (R168). Forward or back triangular solve in place. -/
  | fsolv (o : FOps)
  /-- FSTAT (R169). Reads a tile name's status word. -/
  | fstat (o : FOps)
  /-- JOB (R178). Checks a job card and issues a copy, gather or sort job. -/
  | job (o : EOps)
  /-- JWAIT (R180). Waits until a job ticket has retired. -/
  | jwait (o : EOps)
  /-- JPOLL (R180). Reports whether a job ticket has retired. -/
  | jpoll (o : EOps)
  /-- PENDING_DELIVERY (R19). A late thread-register result is written to all acting threads and frees its entry. -/
  | pendingDelivery (c id : Nat)
  /-- LATE_SCALAR_RESULT (R18). A late scalar result arrives and marks its register full. -/
  | lateScalarResult (c slot : Nat) (reg : SReg)
  /-- LDSC_BYTE_LANDING (R137). Bytes of an ldsc land and are subtracted from PEND, testing the phase. -/
  | ldscByteLanding (c id : Nat)
  /-- JOB_START (R179). A job whose edges have retired starts and reads its descriptors. -/
  | jobStart (c b ticket : Nat)
  /-- JOB_RETIRE (R179). A job's writes are performed; it releases ranges and signals completion. -/
  | jobRetire (c b ticket : Nat)
  /-- JOB_FAULT (R181). A job access faults and the job stops. -/
  | jobFault (c b ticket : Nat)
  /-- TILE_ENGINE_DONE (R155). A tile-engine run ends and releases its current. -/
  | tileEngineDone (c id : Nat)
  /-- FACTOR_SWEEP_RETIRE (R170). An fupd or fdwn sweep commits or aborts and retires. -/
  | factorSweepRetire (c slot : Nat)
  /-- WATCH_FIRE (R145). A watched word differs from the compare value. -/
  | watchFire (c slot : Nat)
  /-- WAIT_TIMEOUT (R97). A wait's timeout elapses and writes 2. -/
  | waitTimeout (c slot : Nat)
  /-- SPAWN_SLOT_TIMEOUT (R89). No strand slot found within 64 cc; the callee runs inline. -/
  | spawnSlotTimeout (c slot : Nat)
  /-- TIMER (R301). The CYC or TIME compare fires a TIMER trap. -/
  | timerFire (c slot : Nat)
  /-- TRAP_ENTRY (R243). A trapped strand enters its handler and freezes the cluster. -/
  | trapEntry (c slot : Nat)
  /-- CONTROL_INTERVAL_BOUNDARY (R317). USED restarts at the debt, and levels and ceilings update. -/
  | controlIntervalBoundary (draws : List Nat)
  /-- TASK_ADMIT (R317). A waiting tile task fits the budget and is admitted. -/
  | taskAdmit (c slot : Nat)
  /-- DROOP_STRETCH_END (R321). Six stretched edges pass and halved issue begins. -/
  | droopStretchEnd (c : Nat)
  /-- DROOP_HALVING_END (R322). 64 halved edges pass and full issue resumes. -/
  | droopHalvingEnd (c : Nat)
  /-- CONTEXT_KILL (R361). A context is stopped and its resources discarded. -/
  | contextKill (ctx : Nat)
  /-- KILL_HORIZON (R362). All in-flight accesses of a killed context are settled. -/
  | killHorizon (ctx : Nat)
  /-- WATCHDOG (R363). A strand's wait age reaches WDOG and the context is killed. -/
  | watchdog (c slot : Nat)
  /-- FREEZE (R340). A unit writes FAULT and FREEZE and sends the freeze token. -/
  | freezeVaults (unit cause : Nat) (info : Word)
  /-- FREEZE_TOKEN (R340). A vault receives the freeze token and freezes. -/
  | freezeToken (unit : Nat)
  /-- GAP (R337). Every 64th cc a GAP record reports dropped records. -/
  | gapRecord (unit : Nat)
  /-- BARRIER_FOLD (R353). A replay checksum fold of the block's registers after a phase completion. -/
  | barrierFold (c b : Nat)
  /-- CENSUS_MERGE (R356). The hub merges cluster census tables into merged tables. -/
  | censusMerge (ctx : Nat)
  /-- QUEUE_SLOT_MAP (R276). A waiting queue record is mapped into a freed hardware slot. -/
  | queueSlotMap (q : Nat)
  /-- PACKET_START (R280). The engine reads a packet's 256 bytes and starts its program. -/
  | packetStart (q : Nat)
  /-- QE_LDP (R278). Loads a packet word into a queue register. -/
  | qeLdp (o : QeOps)
  /-- QE_LDW (R278). Loads a window word. -/
  | qeLdw (o : QeOps)
  /-- QE_STW (R278). Stores a window word. -/
  | qeStw (o : QeOps)
  /-- QE_LDI (R278). Loads a sign-extended immediate. -/
  | qeLdi (o : QeOps)
  /-- QE_MOV (R278). Copies a queue register. -/
  | qeMov (o : QeOps)
  /-- QE_ADD (R278). Wrapping 64-bit add. -/
  | qeAdd (o : QeOps)
  /-- QE_ADDI (R278). Adds a sign-extended immediate. -/
  | qeAddi (o : QeOps)
  /-- QE_SUB (R278). Wrapping 64-bit subtract. -/
  | qeSub (o : QeOps)
  /-- QE_AND (R278). 64-bit AND. -/
  | qeAnd (o : QeOps)
  /-- QE_OR (R278). 64-bit OR. -/
  | qeOr (o : QeOps)
  /-- QE_SHL (R278). Logical shift left by an immediate. -/
  | qeShl (o : QeOps)
  /-- QE_SHR (R278). Logical shift right by an immediate. -/
  | qeShr (o : QeOps)
  /-- QE_BEQ (R278). Branch if equal. -/
  | qeBeq (o : QeOps)
  /-- QE_BNE (R278). Branch if not equal. -/
  | qeBne (o : QeOps)
  /-- QE_BLTU (R278). Branch if below, unsigned. -/
  | qeBltu (o : QeOps)
  /-- QE_BGEU (R278). Branch if at or above, unsigned. -/
  | qeBgeu (o : QeOps)
  /-- QE_JMPF (R278). Forward jump. -/
  | qeJmpf (o : QeOps)
  /-- QE_LOOP (R278). Repeats the next len operations n times. -/
  | qeLoop (o : QeOps)
  /-- QE_WAITSIG (R278). Waits until a window word reaches a value, then acquires. -/
  | qeWaitsig (o : QeOps)
  /-- QE_LAUNCH (R285). Launches from a record in a window and returns the status. -/
  | qeLaunch (o : QeOps)
  /-- QE_LAUNCHP (R285). Launches from the packet itself and returns the status. -/
  | qeLaunchp (o : QeOps)
  /-- QE_SIGNAL (R278). Atomically adds to a window word with a release. -/
  | qeSignal (o : QeOps)
  /-- QE_ADVANCE (R277). Ends the packet with status OK and advances HEAD. -/
  | qeAdvance (o : QeOps)
  /-- QE_FENCE (R278). Performs earlier window stores and signals before later operations. -/
  | qeFence (o : QeOps)
  /-- INDIRECT_DIM_READ (R284). The hub reads an indirect grid's dimensions once PSIG reaches PVAL. -/
  | indirectDimRead (grid : Nat)
  /-- BLOCK_PLACE (R288). The dispatcher places the next block of a grid in a cluster. -/
  | blockPlace (grid : Nat)
  /-- TRACKER_ENTRY_FREE (R201). The last outstanding access of a tailed strand is performed. -/
  | trackerEntryFree (c id : Nat)
  /-- WSFILL_DONE (R291). A weight-store fill ends and raises its signal. -/
  | wsfillDone (id : Nat)
  /-- ACCESS_PERFORMED (R140). A memory access that has been sent is performed at its home slice, bank, doorbell or the pool. Fences, releases and RANGE stalls that wait on it are then released. -/
  | accessPerformed (c slot id : Nat)
  /-- PAGE_WALK_DONE (R308). A die walker finishes a page walk with a leaf or a PAGEFAULT. The waiting broadcast memory instruction can then move its INDEX, commit or trap. -/
  | pageWalkDone (c slot : Nat)
  /-- BANK_COMPUTE_DONE (R187). A bmv finishes in the bank compute units. It writes y in scratchpad mode, ends the pre-emption wait and releases its current from INFL. -/
  | bankComputeDone (c id : Nat)
  /-- WAITSIG_CONDITION_HOLDS (R276). The watched window word of a slot waiting in waitsig reaches the wanted value, and the engine gives the slot an interpreter again. -/
  | waitsigConditionHolds (q : Nat)
  /-- DROOP_TRIP (R321). A supply droop is detected and clock stretching starts. -/
  | droopTrip (c : Nat)
  /-- PREEMPT_REQUEST (R296). The cluster stops for pre-emption of a context. -/
  | preemptRequest (ctx rows : Nat)
  /-- PREEMPT_IMAGE_CAPTURED (R297). Outstanding work has drained and the cluster image is written. -/
  | preemptImageCaptured (ctx : Nat)
  /-- ATOMIC_REPLY_TIMEOUT (R302). An atomic reply misses 12,000 cc and its destination is marked lost. -/
  | atomicReplyTimeout (c slot id : Nat)
  /-- CONTEXT_RESTORE (R299). The hub restores a cluster image into a free cluster. -/
  | contextRestore (ctx : Nat)
  /-- RETENTION_ENTRY (R364). An idle cluster enters retention after 38,400 cc. -/
  | retentionEntry (c : Nat)
  /-- RETENTION_EXIT (R365). A wake event takes the cluster out of retention and checks loft parity. -/
  | retentionExit (c : Nat) (parityOk : Bool)
  /-- SOFT_ERROR (R358). A storage error is corrected or the granule poisoned. -/
  | softError (site : ErrSite) (correctable : Bool)
  /-- REFRESH_WINDOW (R208). A weight-store bank group refreshes and is scrubbed. -/
  | refreshWindow (die group : Nat)
  /-- TOKEN_PULL (R325). A receiver pulls spilled tokens from the sender's cellar. -/
  | tokenPull (sender receiver : Nat) (reply : Bool)
  /-- TOKEN_SPILL (R325). A token meeting a full buffer is spilled and a pull notice posted. -/
  | tokenSpill (sender receiver : Nat) (reply : Bool)
  /-- BACK_INVALIDATE (R330). A pool snoop removes an SH = 1 line from its home slice; the pool holds these bytes of it next. -/
  | backInvalidate (line : Nat) (bytes : List Byte)
  /-- DOORBELL_HOST_WRITE (R328). A host 64-bit doorbell write raises the tail to the maximum. -/
  | doorbellHostWrite (word : Nat) (value : Word)
  /-- FUNCTION_READY (R370). A function finishes initialisation and sets its READY bit. -/
  | functionReady (bit : Nat)
  /-- PARTITION_COMMIT (R313). A write of 1 to COMMIT checks and applies the staged cluster table. -/
  | partitionCommit (value : Word)
  /-- REGISTER_WRITE (R327). A write of a number of bytes to a BAR0 or system register without a row of its own, or a dropped write. -/
  | registerWrite (offset bytes value : Nat)
  /-- UNCONTAINED_HARDWARE_ERROR (R360). A unit detects an uncontained hardware error. It freezes with cause 0x81, kills every context and clears the READY bits. -/
  | uncontainedHardwareError (unit : Nat)
  /-- INFO (R374). Returns device identity, firmware, ERRSUM and POOLSZ. -/
  | infoCmd (h : CmdHdr)
  /-- CTXSET (R377). Writes a context descriptor. -/
  | ctxset (h : CmdHdr) (ctx : Nat) (d : CtxDesc)
  /-- MAP (R307). Writes the leaves of one page. -/
  | mapPage (h : CmdHdr) (va leaf : Word) (ctx : Nat)
  /-- UNMAP (R310). Clears a page's leaves and shoots down translations. -/
  | unmapPage (h : CmdHdr) (va : Word) (ctx : Nat)
  /-- QREG (R279). Registers a queue record and binds its doorbell. -/
  | qreg (h : CmdHdr) (va : Word) (ctx : Nat)
  /-- QDEREG (R374). Deregisters a queue record. -/
  | qdereg (h : CmdHdr) (va : Word) (ctx : Nat)
  /-- WSFILL (R291). Starts a weight-store fill from pooled memory. -/
  | wsfill (h : CmdHdr) (frame : Word) (count : Nat) (source signal : Word)
  /-- ATTEST (R373). Produces a signed attestation report for a nonce. -/
  | attest (h : CmdHdr) (nonce : List Byte)
  /-- FWSTAGE (R372). Writes staged firmware into the inactive slot. -/
  | fwstage (h : CmdHdr) (offset : Nat)
  /-- FWCOMMIT (R372). Verifies the staged image and optionally raises the minimum SVN. -/
  | fwcommit (h : CmdHdr) (raise : Bool)
  /-- CAPLIST (R350). Lists held capsules. -/
  | caplist (h : CmdHdr)
  /-- CAPVIEW (R350). Renders and signs a redacted view of a capsule. -/
  | capview (h : CmdHdr) (handle : Nat) (operator : Bool) (creds : List (Nat × List Byte))
  /-- CAPREAD (R350). Places 64 KiB of a view in the retrieval window. -/
  | capread (h : CmdHdr) (view offset : Nat)
  /-- CAPREL (R350). Frees a capsule and ends its views. -/
  | caprel (h : CmdHdr) (handle : Nat)
  /-- CAPFREEZE (R350). Starts a freeze with cause 0x82. -/
  | capfreeze (h : CmdHdr)
  /-- NORLIST (R350). Lists the valid NOR capsule summaries. -/
  | norlist (h : CmdHdr)
  /-- CKLOG (R356). Sets or stops a context's checksum log. -/
  | cklog (h : CmdHdr) (ctx : Nat) (base : Word) (entries : Nat)
  /-- CENSUS (R356). Sets and clears a context's merged census table. -/
  | censusCmd (h : CmdHdr) (ctx : Nat) (base : Word) (entries : Nat)
  /-- ERRREAD (R366). Returns the ERRSUM word. -/
  | errread (h : CmdHdr)
  /-- FNOTE (R367). Sets the pool address for fault notices. -/
  | fnote (h : CmdHdr) (addr : Word)
  /-- FAULT_NOTICE (R367). The hub writes a fault notice and raises SEQ. -/
  | faultNotice
  /-- CAPSULE_ASSEMBLED (R343). The capsule is assembled and signed in the strongroom. -/
  | capsuleAssembled
  /-- CAPSULE_NOR_SUMMARY (R348). A capsule summary is written to a NOR slot. -/
  | capsuleNorSummary
  /-- EPOCH (R335). TIME[31:0] wraps and every vault writes an EPOCH record. -/
  | epochRecord
  /-- DEVICE_RESET (R370). A reset clears READY bits and restarts bring-up. -/
  | deviceReset
  /-- COLD_POWER_ON (R347). Power-on empties the strongroom and vaults. -/
  | coldPowerOn
  /-- FIRMWARE_BOOT (R372). The boot ROM verifies the firmware slots and boots one. -/
  | firmwareBoot
  deriving DecidableEq, Repr

end Sys2Proof
end

