-- ==== Sys2Proof/WellFormed.lean ====
section
/-!
DEFINITION. Which instructions are well formed: rules Y3-Y6 and Y11 of the code-page scanner (03 R64) for the 96-bit
instructions, the field rules of R279 for the queue bytecode, and the parameter ranges of the mailbox commands.
Each check answers the list of the rules broken, so that the scanner can report the lowest (R65).
Rules about whole pages (Y7-Y10) are in Machine/Scan.lean.
-/
namespace Sys2Proof

/-- A thread-register name that may be read (R57). -/
def VName.readable (n : VName) : Bool := n.toNat < 320 || (448 ≤ n.toNat && n.toNat < 456)

/-- A thread-register name that may be written (R57). -/
def VName.writable (n : VName) : Bool := n.toNat < 320

/-- A group of `k` consecutive names from `n` lies in one kind of window (R132, Y5). -/
def VName.groupOk (n : VName) (k : Nat) : Bool :=
  n.toNat + k ≤ 256 || (256 ≤ n.toNat && n.toNat + k ≤ 320)

/-- A group of names that may be read: a single special name also serves (R57, R132). -/
def VName.readGroup (n : VName) (k : Nat) : Bool := (k == 1 && n.readable) || n.groupOk k

/-- The field names a scalar: its upper three bits are zero (R52, R131). -/
def VName.isScalar (n : VName) : Bool := n.toNat < 64

/-- The field names a key: its upper six bits are zero (R52). -/
def VName.isKey (n : VName) : Bool := n.toNat < 8

/-- `p → q` on Bool. -/
def imp (p q : Bool) : Bool := !p || q

/-- The rules broken by one condition: none when it holds, rule `n` otherwise. -/
def need (n : Nat) (ok : Bool) : List Nat := if ok then [] else [n]

/-- Fields an instruction does not use are zero (Y3). -/
def y3 (ok : Bool) : List Nat := need 3 ok
/-- Coded fields hold defined and accepted codes (Y4). -/
def y4 (ok : Bool) : List Nat := need 4 ok
/-- Register names are legal (Y5). -/
def y5 (ok : Bool) : List Nat := need 5 ok
/-- A key field's upper bits are zero: the layout marks them zero, and the rule on names asks for it too (R52, R64, R73, R100). -/
def keyField (n : VName) : List Nat := y3 n.isKey ++ y5 n.isKey
/-- LO does not exceed HI (Y6). -/
def y6 (ok : Bool) : List Nat := need 6 ok
/-- WF bits stand only on sources that are read (Y11). -/
def y11 (ok : Bool) : List Nat := need 11 ok

/-- WF bits only where the sources A, B and C are read. -/
def Hdr.only (a b c : Bool) (h : Hdr) : List Nat := y11 (imp h.wfa a && imp h.wfb b && imp h.wfc c)

/-! ### S layout -/

/-- Which parts of the S layout an instruction uses: SD, SA, the B operand, W32, SD as source C. -/
structure SUse where
  d : Bool := false
  a : Bool := false
  b : Bool := false
  w : Bool := false
  c : Bool := false

/-- An S-layout instruction whose B operand, if it has one, is SB or IMM32 (R49, R83). -/
def SOps.ok (u : SUse) (o : SOps) : List Nat :=
  y3 (imp (!u.d && !u.c) (o.sd == 0) && imp (!u.a) (o.sa == 0) && imp (!u.b) (o.sb == 0 && !o.imm)
    && imp o.imm (o.sb == 0) && imp (!o.imm) (o.imm32 == 0) && imp (!u.w) (!o.w32))
  ++ o.hdr.only u.a (u.b && !o.imm) u.c

/-- An S-layout instruction whose IMM32 holds a number below `2^k` under the given IMM bit (R84, R86, R96, R191). -/
def SOps.okNum (u : SUse) (imm : Bool) (k : Nat) (o : SOps) : List Nat :=
  y3 (imp (!u.d && !u.c) (o.sd == 0) && imp (!u.a) (o.sa == 0) && o.sb == 0 && o.imm == imm && !o.w32
    && o.imm32.toNat < 2 ^ k)
  ++ o.hdr.only u.a false u.c

def sAlu : SUse := { d := true, a := true, b := true }
def sAluW : SUse := { d := true, a := true, b := true, w := true }
def sUnary : SUse := { d := true, a := true }
def sUnaryW : SUse := { d := true, a := true, w := true }
def sAluC : SUse := { d := true, a := true, b := true, c := true }

/-! ### B layout -/

def BOps.ok (a b d : Bool) (o : BOps) : List Nat :=
  y3 (imp (!a) (o.sa == 0) && imp (!b) (o.sb == 0) && imp (!d) (o.sd == 0)) ++ o.hdr.only a b d

/-! ### Q layout (R100) -/

/-- No LO, HI, CMP, SOP. -/
def QOps.noTest (o : QOps) : Bool := o.lo == 0 && o.hi == 0 && o.cmp == .eq && o.sop == .push

def QOps.noCopy (o : QOps) : Bool := o.sdc == 0 && o.sdf == 0

/-- Every operand field zero. -/
def QOps.noOperand (o : QOps) : Bool := o.opd == .imm && o.sc == 0 && o.imm32 == 0

/-- The immediate or scalar operand of `srch` and `srchk` (R73). -/
def QOps.immOrScalar (o : QOps) : List Nat :=
  match o.opd with
  | .imm => y3 (o.sc == 0)
  | .scalar => y3 (o.imm32 == 0)
  | .thread => [4]

def QOps.okSrch (o : QOps) : List Nat :=
  y5 o.va.readable ++ y6 (o.lo.toNat ≤ o.hi.toNat) ++ o.immOrScalar ++ o.hdr.only true (o.opd == .scalar) false

/-- VA names a key, which has no wait flag: WF.A is zero (R48). Log 27 (DEDUCED). -/
def QOps.okSrchk (o : QOps) : List Nat :=
  keyField o.va ++ y3 (o.lo == 0 && o.hi == 0 && o.imm32.toNat < 2) ++ y4 (o.cmp == .eq || o.cmp == .ne)
  ++ o.immOrScalar ++ o.hdr.only false (o.opd == .scalar) false

def QOps.okSrchv (o : QOps) : List Nat :=
  y5 o.va.readable ++ y6 (o.lo.toNat ≤ o.hi.toNat) ++ y4 (o.opd == .thread)
  ++ y3 (o.sc == 0 && o.imm32.toNat < 512) ++ y5 (VName.readable (BitVec.ofNat 9 o.imm32.toNat))
  ++ o.hdr.only true true false

/-- A set operation with no operand (R100). -/
def QOps.okPlain (copies : Bool) (o : QOps) : List Nat :=
  y3 (o.va == 0 && o.noTest && o.noOperand && imp (!copies) o.noCopy) ++ o.hdr.only false false false

def QOps.okPopn (o : QOps) : List Nat :=
  y3 (o.va == 0 && o.noTest && o.sc == 0 && o.imm32.toNat < 16 && o.noCopy)
  ++ y4 (o.opd == .imm && o.imm32 != 0) ++ o.hdr.only false false false

def QOps.okMap (o : QOps) : List Nat :=
  y3 (o.va == 0 && o.noTest && o.noCopy) ++ y4 (o.opd == .scalar) ++ o.hdr.only false true false

def QOps.okGcnt (o : QOps) : List Nat :=
  y5 o.va.readable ++ y3 (o.noTest && o.noCopy) ++ y4 (o.opd == .scalar) ++ o.hdr.only true true false

def QOps.okMark (o : QOps) : List Nat :=
  keyField o.va ++ y3 (o.noTest && o.noOperand && o.noCopy) ++ o.hdr.only false false false

/-! ### V layout (R114-R128) -/

def Ty.isInt : Ty → Bool
  | .i32 | .u32 | .i16x2 | .u16x2 | .i8x4 | .u8x4 => true
  | .f32 | .f16x2 | .bf16x2 => false

def Ty.isSigned : Ty → Bool
  | .i32 | .i16x2 | .i8x4 => true
  | _ => false

def Ty.is32 : Ty → Bool
  | .i32 | .u32 => true
  | _ => false

def Ty.isHalf : Ty → Bool
  | .f16x2 | .bf16x2 => true
  | _ => false

/-- B is read in one of its three forms (R52). -/
def VOps.bForms (o : VOps) : List Nat :=
  (match o.bsrc with
   | .thread => y5 o.vb.readable ++ y3 (o.imm32 == 0)
   | .scalar => y3 (o.vb.isScalar && o.imm32 == 0)
   | .imm => y3 (o.vb == 0))
  ++ y11 (imp o.hdr.wfb (o.bsrc != .imm))

/-- B is not read (R114). -/
def VOps.noB (o : VOps) : List Nat := y3 (o.bsrc == .thread && o.vb == 0 && o.imm32 == 0) ++ y11 (!o.hdr.wfb)

/-- B is a scalar or an immediate (R124). -/
def VOps.bScalarImm (o : VOps) : List Nat := y4 (o.bsrc != .thread) ++ o.bForms

def VOps.aReg (o : VOps) : List Nat := y5 o.va.readable
def VOps.noA (o : VOps) : List Nat := y3 (o.va == 0) ++ y11 (!o.hdr.wfa)
def VOps.cReg (o : VOps) : List Nat := y5 o.vc.readable
def VOps.noC (o : VOps) : List Nat := y3 (o.vc == 0) ++ y11 (!o.hdr.wfc)
/-- VC names a key (R52), which has no wait flag: WF.C is zero (R48). Log 27 (DEDUCED). -/
def VOps.cKey (o : VOps) : List Nat := keyField o.vc ++ y11 (!o.hdr.wfc)
/-- VC names a format slot in its low three bits; the others are no register name and must be zero (R122, R115). -/
def VOps.cSlot (o : VOps) : List Nat := y3 (o.vc.toNat < 8) ++ y11 (!o.hdr.wfc)
def VOps.dReg (o : VOps) : List Nat := y5 o.vd.writable
def VOps.dKey (o : VOps) : List Nat := keyField o.vd
/-- VD names a scalar in its low six bits; the others must be zero (R124, R115). Log 27 (DEDUCED). -/
def VOps.dScalar (o : VOps) : List Nat := y3 o.vd.isScalar
def VOps.noRnd (o : VOps) : List Nat := y3 (o.rnd == .rne)
def VOps.noSat (o : VOps) : List Nat := y3 (!o.sat)
def VOps.noAll (o : VOps) : List Nat := y3 (!o.all)
/-- RND and FTZ are zero (R115). -/
def VOps.intClass (o : VOps) : List Nat := o.noRnd ++ y3 (!o.ftz)

/-- Two-source integer instruction (R116). -/
def VOps.okInt2 (sat : Bool) (o : VOps) : List Nat :=
  o.dReg ++ o.aReg ++ o.bForms ++ o.noC ++ o.intClass ++ y3 (imp (!sat) (!o.sat)) ++ y4 o.ty.isInt

def VOps.okInt1 (o : VOps) : List Nat :=
  o.dReg ++ o.aReg ++ o.noB ++ o.noC ++ o.intClass ++ o.noSat ++ y4 o.ty.isInt

def VOps.okIntSigned1 (o : VOps) : List Nat :=
  o.dReg ++ o.aReg ++ o.noB ++ o.noC ++ o.intClass ++ y4 o.ty.isSigned

def VOps.okF2 (rnd : Bool) (o : VOps) : List Nat :=
  o.dReg ++ o.aReg ++ o.bForms ++ o.noC ++ o.noSat ++ y4 (o.ty == .f32) ++ y3 (imp (!rnd) (o.rnd == .rne))

def VOps.okF1 (o : VOps) : List Nat :=
  o.dReg ++ o.aReg ++ o.noB ++ o.noC ++ o.noSat ++ y4 (o.ty == .f32)

def VOps.okF3 (o : VOps) : List Nat :=
  o.dReg ++ o.aReg ++ o.bForms ++ o.cReg ++ o.noSat ++ y4 (o.ty == .f32)

def VOps.okSign (o : VOps) : List Nat :=
  o.dReg ++ o.aReg ++ o.noB ++ o.noC ++ o.noSat ++ o.intClass ++ y4 (o.ty == .f32 || o.ty.isHalf)

def VOps.okH2 (o : VOps) : List Nat :=
  o.dReg ++ o.aReg ++ o.bForms ++ o.noC ++ o.noSat ++ y4 o.ty.isHalf

def VOps.okH3 (o : VOps) : List Nat :=
  o.dReg ++ o.aReg ++ o.bForms ++ o.cReg ++ o.noSat ++ y4 o.ty.isHalf

def RedOp.isFloat : RedOp → Bool
  | .fadd | .fmin | .fmax => true
  | _ => false

/-- The TY, RND, FTZ and SAT rules of `vred` and `vscan` (R115, R125). -/
def VOps.okRed (f : RedOp) (o : VOps) : List Nat :=
  o.aReg ++ o.noB ++ o.noC ++ o.noSat ++ y4 (if f.isFloat then o.ty == .f32 else o.ty.is32)
  ++ y3 (imp (!f.isFloat) (!o.ftz) && imp (f != .fadd) (o.rnd == .rne))

/-- A conversion with a format slot in VC (R122). -/
def VOps.okSlot (o : VOps) : List Nat :=
  o.dReg ++ o.aReg ++ o.cSlot ++ o.noSat ++ o.noRnd ++ y4 (o.ty == .f32)

def VOps.okHCvt (k : HCvt) (o : VOps) : List Nat :=
  o.dReg ++ o.aReg ++ o.noC ++ o.noSat ++ y4 (o.ty == .f32)
  ++ match k with
     | .f16F32 | .bf16F32 => o.bForms
     | .f32F16 | .f32Bf16 => y4 (o.bsrc == .imm) ++ o.bForms ++ y3 (o.imm32.toNat < 2)

/-- `vpack` and `vunpk`: the position is an immediate (R123). -/
def VOps.okPos (o : VOps) : List Nat := o.okSlot ++ y4 (o.bsrc == .imm) ++ o.bForms ++ y3 (o.imm32.toNat < 32)

/-! ### M layout (R131) -/

/-- Width in bytes (R53). -/
def Wid.bytes : Wid → Nat
  | .b8 => 1 | .b16 => 2 | .b32 => 4 | .b64 => 8 | .b128 => 16

/-- Names a thread-register operand of that width occupies (R132). -/
def Wid.names (w : Wid) : Nat := max 1 (w.bytes / 4)

def Ord4.isAcq : Ord4 → Bool
  | .acq | .ar => true
  | _ => false

def Ord4.isRel : Ord4 → Bool
  | .rel | .ar => true
  | _ => false

def Scope.isLocal : Scope → Bool
  | .strand | .block => true
  | _ => false

/-- VX encodes v454 in a scalar address (R131): another name is a field that is not as the layout has it. Log 27 (DEDUCED). -/
def MOps.scalarAddr (o : MOps) : List Nat := y3 (o.vx == 454) ++ y11 (!o.hdr.wfa)
def MOps.noAop (o : MOps) : List Nat := y3 (o.aop == .add)
def MOps.noSx (o : MOps) : List Nat := y3 (o.sx == 0) ++ y11 (!o.hdr.wfc)
def MOps.noDst (o : MOps) : List Nat := y3 (!o.dst)
/-- WID 0 is the only code in the opcode's list (R131). -/
def MOps.noWid (o : MOps) : List Nat := y4 (o.wid == .b8)
def MOps.relaxed (o : MOps) : List Nat := y4 (o.ord == .relaxed)
def MOps.loadOrd (o : MOps) : List Nat := y4 (o.ord == .relaxed || o.ord == .acq)
def MOps.storeOrd (o : MOps) : List Nat := y4 (o.ord == .relaxed || o.ord == .rel)
def MOps.widAtom (o : MOps) : List Nat :=
  y4 ((o.wid == .b32 || o.wid == .b64) && imp (o.aop == .fadd) (o.wid == .b32))
def MOps.widScalar (o : MOps) : List Nat := y4 (o.wid != .b128)
/-- Scratchpad forms take `.strand` and `.block` alone (R131, R212). -/
def MOps.scopeFor (sp : Bool) (o : MOps) : List Nat := y4 (imp sp o.scope.isLocal)
def MOps.strandScope (o : MOps) : List Nat := y4 (o.scope == .strand)
def MOps.vxReg (o : MOps) : List Nat := y5 o.vx.readable
/-- VD names a scalar in its low six bits; the others must be zero (R131). Log 27 (DEDUCED). -/
def MOps.vdScalar (o : MOps) : List Nat := y3 o.vd.isScalar
def MOps.noVd (o : MOps) : List Nat := y3 (o.vd == 0)

def MOps.okLoad (sp : Bool) (o : MOps) : List Nat :=
  y5 (o.vd.groupOk o.wid.names) ++ o.vxReg ++ o.loadOrd ++ o.scopeFor sp ++ o.noDst ++ o.noAop ++ o.noSx

def MOps.okStore (sp : Bool) (o : MOps) : List Nat :=
  y5 (o.vd.readGroup o.wid.names) ++ o.vxReg ++ o.storeOrd ++ o.scopeFor sp ++ o.noDst ++ o.noAop
  ++ y3 (o.sx == 0)

def MOps.okLdsc (o : MOps) : List Nat :=
  (if o.dst then o.vdScalar else y5 (o.vd.groupOk o.wid.names)) ++ o.vxReg ++ o.relaxed ++ o.noAop

def MOps.okSld (o : MOps) : List Nat :=
  o.vdScalar ++ o.scalarAddr ++ o.widScalar ++ o.loadOrd ++ o.scopeFor o.dst ++ o.noAop ++ o.noSx

def MOps.okSst (o : MOps) : List Nat :=
  o.vdScalar ++ o.scalarAddr ++ o.widScalar ++ o.storeOrd ++ o.scopeFor o.dst ++ o.noAop ++ y3 (o.sx == 0)

def MOps.okPref (o : MOps) : List Nat :=
  o.noVd ++ o.vxReg ++ o.relaxed ++ o.strandScope ++ o.noDst ++ o.noAop ++ o.noSx

/-- VC of `atom` and `atoms`: OFF32[8:0] (R131). -/
def MOps.vc (o : MOps) : VName := o.off32.truncate 9

def MOps.okAtom (sp : Bool) (o : MOps) : List Nat :=
  y5 (o.vd.groupOk o.wid.names && o.vc.readGroup o.wid.names) ++ o.vxReg ++ o.widAtom ++ o.scopeFor sp
  ++ o.noDst ++ y3 (o.sx == 0 && (o.off32.toNat / 512) % 128 == 0)

def MOps.okSatom (o : MOps) : List Nat := o.vdScalar ++ o.scalarAddr ++ o.widAtom ++ o.scopeFor o.dst

def MOps.okFence (o : MOps) : List Nat :=
  o.noVd ++ y3 (o.vx == 0 && o.sb == 0 && o.off32.toNat < 65536) ++ o.noWid ++ o.relaxed ++ o.noDst ++ o.noAop
  ++ o.noSx ++ o.hdr.only false false false

/-- Barrier and lock forms: a scalar address, WID 0, relaxed, `.strand`. -/
def MOps.okSync (dest sx : Bool) (o : MOps) : List Nat :=
  (if dest then o.vdScalar else o.noVd) ++ o.scalarAddr ++ o.noWid ++ o.relaxed ++ o.strandScope ++ o.noDst
  ++ o.noAop ++ (if sx then [] else o.noSx)

def MOps.okGbar (o : MOps) : List Nat :=
  o.noVd ++ y3 (o.vx == 0 && o.sb == 0 && o.off32 == 0) ++ o.noWid ++ o.relaxed ++ o.strandScope ++ o.noDst
  ++ o.noAop ++ o.noSx ++ o.hdr.only false false false

def MOps.okWaitv (o : MOps) : List Nat :=
  o.noVd ++ o.scalarAddr ++ y4 (o.wid == .b32 || o.wid == .b64) ++ o.relaxed ++ o.strandScope ++ o.noAop

/-! ### T layout (R150) -/

def TOps.atOk (o : TOps) : List Nat := y5 (o.at5.toNat < 16)
def TOps.noFmt (o : TOps) : Bool := o.fsa == 0 && o.fsb == 0
def TOps.noShape (o : TOps) : Bool := o.shpn == .n16 && o.shpk == 0
def TOps.noMode (o : TOps) : Bool := !o.ru && !o.sp && !o.za

/-- FSA, FSB and the scale address SX are used with a format slot alone (R150, R153). -/
def TOps.okMma (gang : Bool) (ty : MatTy) (o : TOps) : List Nat :=
  o.atOk ++ y5 o.va.readable ++ y3 (imp (ty != .slot) (o.noFmt && o.sx == 0) && o.off32 == 0) ++ y4 (imp gang (!o.sp))
  ++ o.hdr.only true true (ty == .slot)

/-- The tile forms that name a register (read or written), or none. -/
def TOps.okReg (va : VName → Bool) (wfa : Bool) (o : TOps) : List Nat :=
  o.atOk ++ y5 (va o.va)
  ++ y3 (o.sb == 0 && o.noFmt && o.noShape && o.noMode && o.th == 0 && o.sx == 0 && o.off32 == 0)
  ++ o.hdr.only wfa false false

def TOps.okTzero (o : TOps) : List Nat :=
  o.atOk ++ y3 (o.va == 0 && o.sb == 0 && o.noFmt && o.shpk == 0 && o.noMode && o.th == 0 && o.sx == 0
    && o.off32 == 0) ++ o.hdr.only false false false

def TOps.okTldst (o : TOps) : List Nat :=
  o.atOk ++ y3 (o.va == 0 && o.noFmt && o.shpk == 0 && o.noMode && o.th == 0) ++ o.hdr.only false true true

def TOps.okTcommit (sx : Bool) (o : TOps) : List Nat :=
  o.atOk ++ y3 (o.va == 0 && o.sb == 0 && o.noFmt && o.noShape && o.noMode && o.th == 0 && o.off32 == 0
    && imp (!sx) (o.sx == 0)) ++ o.hdr.only false false false

def TOps.okBmv (ty : MatTy) (o : TOps) : List Nat :=
  y3 (o.at5 == 0 && o.fsb == 0 && imp (ty != .slot) (o.fsa == 0) && o.noShape && o.noMode && o.sx == 0
    && o.off32 == 0) ++ y5 o.va.writable ++ o.hdr.only true true false

/-! ### F and E layouts -/

def FOps.atOk (o : FOps) : List Nat := y5 (o.at5.toNat < 16)

def FOps.okFinit (o : FOps) : List Nat :=
  o.atOk ++ y3 (o.vx == 0 && !o.trl && !o.dir && o.th == 0) ++ o.hdr.only false true false

def FOps.okSweep (o : FOps) : List Nat :=
  o.atOk ++ y5 o.vx.readable ++ y3 (o.sn == 0 && !o.dir) ++ o.hdr.only true false false

def FOps.okFsolv (o : FOps) : List Nat :=
  o.atOk ++ y5 o.vx.writable ++ y3 (o.sn == 0 && !o.trl) ++ o.hdr.only true false false

def FOps.okFstat (o : FOps) : List Nat :=
  o.atOk ++ y3 (o.vx == 0 && !o.trl && !o.dir && o.th == 0) ++ o.hdr.only false false false

def EOps.okJob (o : EOps) : List Nat := y3 (o.sx == 0) ++ o.hdr.only true false false

def EOps.okTicket (dest : Bool) (o : EOps) : List Nat :=
  y3 (o.eng == .copy && imp (!dest) (o.sd == 0) && o.th == 0 && o.sx == 0) ++ o.hdr.only true false false

/-! ### Queue bytecode (R278): the rules of R279 broken -/

/-- Fields an operation does not use are zero (rule 2). -/
def QeOps.ok (d a b w imm : Bool) (o : QeOps) : List Nat :=
  need 2 (imp (!d) (o.d == 0) && imp (!a) (o.a == 0) && imp (!b) (o.b == 0) && imp (!w) (o.w == 0)
    && imp (!imm) (o.imm == 0))

/-- Repetitions of `loop`, IMM[6:0]. -/
def QeOps.loopN (o : QeOps) : Nat := o.imm.toNat % 128
/-- Length of the body of `loop`, IMM[15:8]. -/
def QeOps.loopLen (o : QeOps) : Nat := (o.imm.toNat / 256) % 256

/-- `loop`: n from 1 to 64, len from 1 to 255, other bits zero (rules 2 and 5). -/
def QeOps.okLoop (o : QeOps) : List Nat :=
  o.ok false false false false true ++ need 2 ((o.imm.toNat / 128) % 2 == 0 && o.imm.toNat < 65536)
  ++ need 5 (1 ≤ o.loopN && o.loopN ≤ 64 && 1 ≤ o.loopLen)

def QeOps.okLdp (o : QeOps) : List Nat :=
  o.ok true false false false true ++ need 3 (o.imm.toNat ≤ 248 && o.imm.toNat % 8 == 0)

def QeOps.okShift (o : QeOps) : List Nat := o.ok true true false false true ++ need 3 (o.imm.toNat ≤ 63)

/-- A branch or `jmpf` goes forward (rule 4). -/
def QeOps.okJump (a : Bool) (o : QeOps) : List Nat :=
  o.ok false a a false true ++ need 4 (1 ≤ o.imm.toNat && o.imm.toNat < 2 ^ 31)

/-! ### All instructions -/

/-- The rules broken by the instruction: of R64 for a 96-bit instruction, of R279 for an operation of the bytecode, and
0 for a parameter out of range of a mailbox command. -/
def Instr.broken : Instr → List Nat
  | .add o | .sub o | .mul o | .andI o | .orI o | .xorI o | .shl o | .shr o | .sra o | .rol o
  | .minI o | .maxI o | .minu o | .maxu o => o.ok sAluW
  | .mulh o | .mulhu o | .div o | .divu o | .rem o | .remu o | .andn o | .bfx o | .seqI o | .slt o
  | .sltu o => o.ok sAlu
  | .clz o | .ctz o | .popc o => o.ok sUnaryW
  | .bfi o | .sel o => o.ok sAluC
  | .liI o => o.okNum { d := true } true 32
  | .liHi o => o.okNum { d := true, c := true } true 32
  | .mov o => o.ok sUnary
  | .fadd o | .fsub o | .fmul o | .fdiv o | .fmin o | .fmax o => o.ok sAlu
  | .ffma o => o.ok sAluC
  | .fsqrt o => o.ok sUnary
  | .fcmp _ o => o.ok sAlu
  | .fcvt _ o => o.ok sUnary
  | .sysr o => o.okNum { d := true } false 12
  | .sysw o => o.okNum { a := true } false 12
  | .timeI o | .cyc o => o.ok { d := true }
  | .perf o | .gang o => o.ok sUnary
  | .thra o | .ermark o => o.ok { a := true }
  | .quota o => o.okNum {} true 12 ++ y3 ((o.imm32.toNat / 8) % 2 == 0 && (o.imm32.toNat / 128) % 2 == 0)
  | .cksum o => o.ok sAlu ++ y3 (!o.imm)
  | .nop o | .ret o | .joinI o | .tail o | .halt o | .tret o | .yield o => o.ok {}
  | .jmpr o => o.ok { a := true }
  | .launchI o | .waitInt o | .waitExt o => o.ok sUnary
  | .trapI o | .bkpt o => o.okNum {} false 16
  | .branch _ o => o.ok true true false
  | .bcnt c o => o.ok (c == .ge) false false
  | .jmp o | .call o | .spawn o => o.ok false false false
  | .loopI o => o.ok false false true
  | .srch o => o.okSrch
  | .srchk o => o.okSrchk
  | .srchv o => o.okSrchv
  | .pushAll o | .pop o | .elseSet o | .fold o => o.okPlain false
  | .popn o => o.okPopn
  | .firstSet o | .nextSet o => o.okPlain true
  | .gcnt o => o.okGcnt
  | .rdset o | .wrset o => o.okMap
  | .mark o => o.okMark
  | .vadd o | .vsub o | .vmul o => o.okInt2 true
  | .vmulh o | .vadds o | .vsubs o | .vand o | .vor o | .vxor o | .vshl o | .vshr o | .vsra o | .vmin o
  | .vminu o | .vmax o | .vmaxu o => o.okInt2 false
  | .vmad o => o.dReg ++ o.aReg ++ o.bForms ++ o.cReg ++ o.intClass ++ y4 o.ty.isInt
  | .vnot o | .vclz o | .vpopc o => o.okInt1
  | .vabs o | .vneg o => o.okIntSigned1
  | .vbfx o => o.okInt2 false ++ y4 o.ty.is32
  | .vbfi o => o.dReg ++ o.aReg ++ o.bForms ++ o.cReg ++ o.intClass ++ o.noSat ++ y4 o.ty.is32
  | .vsel o => o.dReg ++ o.aReg ++ o.bForms ++ o.cKey ++ o.intClass ++ o.noSat ++ y4 (o.ty == .i32)
  | .vmov o => o.dReg ++ o.noA ++ o.bForms ++ o.noC ++ o.intClass ++ o.noSat ++ y4 (o.ty == .i32)
  | .vcmp _ o => o.dKey ++ o.aReg ++ o.bForms ++ o.noC ++ o.intClass ++ o.noSat ++ y4 o.ty.is32
  | .vrd o => o.dScalar ++ o.aReg ++ o.bScalarImm ++ o.noC ++ o.intClass ++ o.noSat ++ y4 o.ty.is32 ++ o.noAll
  | .vrdFirst o => o.dScalar ++ o.aReg ++ o.noB ++ o.noC ++ o.intClass ++ o.noSat ++ y4 o.ty.is32 ++ o.noAll
  | .vwr o => o.dReg ++ o.noA ++ o.bScalarImm ++ y3 o.vc.isScalar ++ o.intClass ++ o.noSat ++ y4 (o.ty == .i32) ++ o.noAll
  | .vred f o => o.dScalar ++ o.okRed f
  | .vscan f o => o.dReg ++ o.okRed f
  | .vperm o => o.okInt2 false ++ y4 (o.ty == .i32)
  | .vlut o => o.okInt2 false ++ y4 (o.bsrc == .scalar && (o.ty == .u32 || o.ty == .u8x4))
  | .vfadd o | .vfsub o | .vfmul o | .vfdiv o => o.okF2 true
  | .vffma o => o.okF3
  | .vfmin o | .vfmax o => o.okF2 false
  | .vfabs o | .vfneg o => o.okSign
  | .vfsqrt o | .vfrcp o | .vfrsq o | .vfexp2 o | .vflog2 o => o.okF1
  | .vfcmp _ o => o.dKey ++ o.aReg ++ o.bForms ++ o.noC ++ o.noSat ++ o.noRnd ++ y4 (o.ty == .f32)
  | .vfclass o => o.okF1 ++ o.intClass
  | .vhadd o | .vhmul o => o.okH2
  | .vhfma o => o.okH3
  | .vcvtEnc o | .vcvtDec o => o.okSlot ++ o.bForms
  | .vcvt k o => o.okHCvt k
  | .vcvti _ o => o.okF1
  | .vpack o | .vunpk o => o.okPos
  | .ld o => o.okLoad false
  | .st o => o.okStore false
  | .lds o => o.okLoad true
  | .sts o => o.okStore true
  | .ldsc o => o.okLdsc
  | .sld o => o.okSld
  | .sst o => o.okSst
  | .pref o => o.okPref
  | .atom o => o.okAtom false
  | .atoms o => o.okAtom true
  | .satom o => o.okSatom
  | .fence o => o.okFence
  | .bara o | .baraw o | .lockW o | .unlockW o => o.okSync false false
  | .barw o => o.okSync false true
  | .trylock o => o.okSync true false
  | .gbar o => o.okGbar
  | .waitv o => o.okWaitv
  | .mma _ ty o => o.okMma false ty
  | .mmag _ ty o => o.okMma true ty
  | .tzero o => o.okTzero
  | .tld o | .tst o => o.okTldst
  | .tmov o => o.okReg VName.writable false
  | .trow _ o => o.okReg VName.writable false
  | .tscale o => o.okReg VName.readable true
  | .tcommit o => o.okTcommit true
  | .tdiscard o => o.okTcommit false
  | .bmv _ ty o => o.okBmv ty
  | .finit o => o.okFinit
  | .fupd o | .fdwn o => o.okSweep
  | .fsolv o => o.okFsolv
  | .fstat o => o.okFstat
  | .job o => o.okJob
  | .jwait o => o.okTicket false
  | .jpoll o => o.okTicket true
  | .qeLdp o => o.okLdp
  | .qeLdw o => o.ok true true false true true
  | .qeStw o => o.ok false true true true true
  | .qeLdi o => o.ok true false false false true
  | .qeMov o => o.ok true true false false false
  | .qeAdd o | .qeSub o | .qeAnd o | .qeOr o => o.ok true true true false false
  | .qeAddi o => o.ok true true false false true
  | .qeShl o | .qeShr o => o.okShift
  | .qeBeq o | .qeBne o | .qeBltu o | .qeBgeu o => o.okJump true
  | .qeJmpf o => o.okJump false
  | .qeLoop o => o.okLoop
  | .qeWaitsig o | .qeSignal o => o.ok false true true true true
  | .qeLaunch o => o.ok true true false true true
  | .qeLaunchp o => o.ok true false false false false
  | .qeAdvance o | .qeFence o => o.ok false false false false false
  | .ctxset _ ctx d => need 0 (ctx < 64 && d.vcred.length == 16)
  | .mapPage _ _ _ ctx | .unmapPage _ _ ctx | .qreg _ _ ctx | .qdereg _ _ ctx => need 0 (ctx < 64)
  | .wsfill _ _ count _ _ => need 0 (count < 2 ^ 32)
  | .attest _ nonce => need 0 (nonce.length == 32)
  | .fwstage _ off => need 0 (off < 2 ^ 64)
  | .capview _ handle _ creds =>
      need 0 (handle < 2 ^ 64 && creds.length ≤ 64 && creds.all fun p => p.1 < 64 && p.2.length == 16)
  | .capread _ view off => need 0 (view < 2 ^ 64 && off < 2 ^ 64)
  | .caprel _ handle => need 0 (handle < 2 ^ 64)
  | .cklog _ ctx _ n | .censusCmd _ ctx _ n => need 0 (ctx < 64 && n < 2 ^ 32)
  | .infoCmd _ | .caplist _ | .capfreeze _ | .norlist _ | .errread _ | .fwcommit _ _ | .fnote _ _ => []
  | .pendingDelivery .. | .lateScalarResult .. | .ldscByteLanding .. | .jobStart .. | .jobRetire ..
  | .jobFault .. | .tileEngineDone .. | .factorSweepRetire .. | .watchFire .. | .waitTimeout ..
  | .spawnSlotTimeout .. | .timerFire .. | .trapEntry .. | .controlIntervalBoundary .. | .taskAdmit ..
  | .droopTrip .. | .droopStretchEnd .. | .droopHalvingEnd .. | .preemptRequest ..
  | .preemptImageCaptured .. | .atomicReplyTimeout .. | .contextRestore .. | .contextKill ..
  | .killHorizon .. | .faultNotice | .watchdog .. | .freezeVaults .. | .freezeToken ..
  | .capsuleAssembled | .capsuleNorSummary | .gapRecord .. | .epochRecord | .retentionEntry ..
  | .retentionExit .. | .softError .. | .refreshWindow .. | .barrierFold .. | .censusMerge ..
  | .tokenPull .. | .tokenSpill .. | .backInvalidate .. | .doorbellHostWrite .. | .queueSlotMap ..
  | .packetStart .. | .indirectDimRead .. | .blockPlace .. | .trackerEntryFree .. | .wsfillDone ..
  | .functionReady .. | .deviceReset | .coldPowerOn | .firmwareBoot | .partitionCommit ..
  | .registerWrite .. | .accessPerformed .. | .pageWalkDone .. | .bankComputeDone ..
  | .uncontainedHardwareError .. | .waitsigConditionHolds .. => []

/-- The instruction passes the rules that one word can be judged by. -/
def Instr.wf (i : Instr) : Bool := i.broken.isEmpty

end Sys2Proof
end

