-- ==== Sys2Proof/Decode.lean ====
section
/-!
DEFINITION. Decoding a 96-bit slot (03 R46-R57, 05 R70-R73) and a 64-bit operation of the queue bytecode (21 R278), total
on every word and refusing by name, and the encoders written from the same tables.
A word is split into its fields once, least significant first, and no later definition sees a raw encoding.
-/
namespace Sys2Proof

/-- Why a word is refused: the scanner rule it breaks (R64), or the rule of R279. -/
inductive DecodeError where
  /-- Y1: OP is not defined -/
  | badOpcode
  /-- Y2: SUB is not defined for OP -/
  | badSub
  /-- Y3, or rule 2 of R279: a bit that must be zero is set -/
  | reservedBits
  /-- Y4: a coded field holds an undefined or unaccepted code -/
  | badCode
  /-- Y5: an illegal register name -/
  | badName
  /-- Y6: LO above HI -/
  | badRange
  /-- Y11: a WF bit without its source -/
  | badWaitFlag
  /-- rules 3 to 5 of R279: a number out of range -/
  | badOperation
  deriving DecidableEq, Repr

/-- The number of the scanner rule (R64). -/
def DecodeError.rule : DecodeError → Nat
  | .badOpcode => 1 | .badSub => 2 | .reservedBits => 3 | .badCode => 4 | .badName => 5 | .badRange => 6
  | .badWaitFlag => 11 | .badOperation => 0

/-- The name of the scanner rule `n` (R64). -/
def DecodeError.ofRule : Nat → DecodeError
  | 1 => .badOpcode | 2 => .badSub | 3 => .reservedBits | 4 => .badCode | 5 => .badName | 6 => .badRange
  | _ => .badWaitFlag

/-! ### Fields -/

/-- The fields of the given widths of a word, least significant first. -/
def splitFields : List Nat → Nat → List Nat
  | [], _ => []
  | w :: ws, n => n % 2 ^ w :: splitFields ws (n / 2 ^ w)

/-- The word of fields given as (width, value), least significant first. -/
def joinFields : List (Nat × Nat) → Nat
  | [] => 0
  | (w, v) :: r => v % 2 ^ w + 2 ^ w * joinFields r

/-- 1 for a set bit. -/
def bit01 (b : Bool) : Nat := if b then 1 else 0

/-! ### Codes -/

def BCond.code : BCond → Nat
  | .eq => 0 | .ne => 1 | .lt => 2 | .ge => 3 | .ltu => 4 | .geu => 5
def BCond.ofCode : Nat → Option BCond
  | 0 => some .eq | 1 => some .ne | 2 => some .lt | 3 => some .ge | 4 => some .ltu | 5 => some .geu | _ => none

def CntCond.code : CntCond → Nat
  | .z => 0 | .nz => 1 | .one => 2 | .ge => 3
def CntCond.ofCode : Nat → Option CntCond
  | 0 => some .z | 1 => some .nz | 2 => some .one | 3 => some .ge | _ => none

def Cmp.code : Cmp → Nat
  | .eq => 0 | .ne => 1 | .ltu => 2 | .leu => 3 | .gtu => 4 | .geu => 5 | .lts => 6 | .les => 7 | .gts => 8
  | .ges => 9 | .bitset => 10 | .bitclr => 11 | .mask => 12
def Cmp.ofCode : Nat → Option Cmp
  | 0 => some .eq | 1 => some .ne | 2 => some .ltu | 3 => some .leu | 4 => some .gtu | 5 => some .geu
  | 6 => some .lts | 7 => some .les | 8 => some .gts | 9 => some .ges | 10 => some .bitset
  | 11 => some .bitclr | 12 => some .mask | _ => none

def SetOp.code : SetOp → Nat
  | .push => 0 | .and => 1 | .or => 2 | .rep => 3 | .peek => 4
def SetOp.ofCode : Nat → Option SetOp
  | 0 => some .push | 1 => some .and | 2 => some .or | 3 => some .rep | 4 => some .peek | _ => none

def Opd.code : Opd → Nat
  | .imm => 0 | .scalar => 1 | .thread => 2
def Opd.ofCode : Nat → Option Opd
  | 0 => some .imm | 1 => some .scalar | 2 => some .thread | _ => none

/-- TY codes (R21). -/
def Ty.code : Ty → Nat
  | .i32 => 0 | .u32 => 1 | .i16x2 => 2 | .u16x2 => 3 | .i8x4 => 4 | .u8x4 => 5 | .f32 => 8 | .f16x2 => 9
  | .bf16x2 => 10
def Ty.ofCode : Nat → Option Ty
  | 0 => some .i32 | 1 => some .u32 | 2 => some .i16x2 | 3 => some .u16x2 | 4 => some .i8x4 | 5 => some .u8x4
  | 8 => some .f32 | 9 => some .f16x2 | 10 => some .bf16x2 | _ => none

def BSrc.code : BSrc → Nat
  | .thread => 0 | .scalar => 1 | .imm => 2
def BSrc.ofCode : Nat → Option BSrc
  | 0 => some .thread | 1 => some .scalar | 2 => some .imm | _ => none

/-- RND codes (R23). -/
def Rnd.code : Rnd → Nat
  | .rne => 0 | .rtz => 1 | .rdn => 2 | .rup => 3
def Rnd.ofCode : Nat → Option Rnd
  | 0 => some .rne | 1 => some .rtz | 2 => some .rdn | 3 => some .rup | _ => none

def Wid.code : Wid → Nat
  | .b8 => 0 | .b16 => 1 | .b32 => 2 | .b64 => 3 | .b128 => 4
def Wid.ofCode : Nat → Option Wid
  | 0 => some .b8 | 1 => some .b16 | 2 => some .b32 | 3 => some .b64 | 4 => some .b128 | _ => none

def Scope.code : Scope → Nat
  | .strand => 0 | .block => 1 | .cluster => 2 | .die => 3 | .pkg => 4 | .sys => 5
def Scope.ofCode : Nat → Option Scope
  | 0 => some .strand | 1 => some .block | 2 => some .cluster | 3 => some .die | 4 => some .pkg | 5 => some .sys
  | _ => none

def Ord4.code : Ord4 → Nat
  | .relaxed => 0 | .acq => 1 | .rel => 2 | .ar => 3
def Ord4.ofCode : Nat → Option Ord4
  | 0 => some .relaxed | 1 => some .acq | 2 => some .rel | 3 => some .ar | _ => none

def AOp.code : AOp → Nat
  | .add => 0 | .fadd => 1 | .min => 2 | .max => 3 | .minu => 4 | .maxu => 5 | .and => 6 | .or => 7 | .xor => 8
  | .xchg => 9 | .cas => 10
def AOp.ofCode : Nat → Option AOp
  | 0 => some .add | 1 => some .fadd | 2 => some .min | 3 => some .max | 4 => some .minu | 5 => some .maxu
  | 6 => some .and | 7 => some .or | 8 => some .xor | 9 => some .xchg | 10 => some .cas | _ => none

def ShpN.code : ShpN → Nat
  | .n16 => 0 | .n32 => 1 | .n64 => 2
def ShpN.ofCode : Nat → Option ShpN
  | 0 => some .n16 | 1 => some .n32 | 2 => some .n64 | _ => none

def Eng.code : Eng → Nat
  | .copy => 0 | .gather => 1 | .sort => 2
def Eng.ofCode : Nat → Option Eng
  | 0 => some .copy | 1 => some .gather | 2 => some .sort | _ => none

/-! ### Opcode map -/

/-- The S-layout instructions by 16·OP + SUB (R70-R72). -/
def sCtor (key : Nat) : Option (SOps → Instr) :=
  match key with
  | 0x000 => some (Instr.add)
  | 0x010 => some (Instr.sub)
  | 0x020 => some (Instr.mul)
  | 0x030 => some (Instr.mulh)
  | 0x040 => some (Instr.mulhu)
  | 0x050 => some (Instr.div)
  | 0x060 => some (Instr.divu)
  | 0x070 => some (Instr.rem)
  | 0x080 => some (Instr.remu)
  | 0x090 => some (Instr.andI)
  | 0x0A0 => some (Instr.orI)
  | 0x0B0 => some (Instr.xorI)
  | 0x0C0 => some (Instr.andn)
  | 0x0D0 => some (Instr.shl)
  | 0x0E0 => some (Instr.shr)
  | 0x0F0 => some (Instr.sra)
  | 0x100 => some (Instr.rol)
  | 0x110 => some (Instr.minI)
  | 0x120 => some (Instr.maxI)
  | 0x130 => some (Instr.minu)
  | 0x140 => some (Instr.maxu)
  | 0x150 => some (Instr.clz)
  | 0x160 => some (Instr.ctz)
  | 0x170 => some (Instr.popc)
  | 0x180 => some (Instr.bfx)
  | 0x190 => some (Instr.bfi)
  | 0x1A0 => some (Instr.sel)
  | 0x1B0 => some (Instr.seqI)
  | 0x1C0 => some (Instr.slt)
  | 0x1D0 => some (Instr.sltu)
  | 0x1E0 => some (Instr.liI)
  | 0x1E1 => some (Instr.liHi)
  | 0x1F0 => some (Instr.mov)
  | 0x200 => some (Instr.fadd)
  | 0x210 => some (Instr.fsub)
  | 0x220 => some (Instr.fmul)
  | 0x230 => some (Instr.ffma)
  | 0x240 => some (Instr.fdiv)
  | 0x250 => some (Instr.fsqrt)
  | 0x260 => some (Instr.fmin)
  | 0x270 => some (Instr.fmax)
  | 0x280 => some (Instr.fcmp .eq)
  | 0x281 => some (Instr.fcmp .lt)
  | 0x282 => some (Instr.fcmp .le)
  | 0x283 => some (Instr.fcmp .un)
  | 0x290 => some (Instr.fcvt .f32I64)
  | 0x291 => some (Instr.fcvt .f32U64)
  | 0x292 => some (Instr.fcvt .i64F32)
  | 0x293 => some (Instr.fcvt .u64F32)
  | 0x2A0 => some (Instr.sysr)
  | 0x2B0 => some (Instr.sysw)
  | 0x2C0 => some (Instr.timeI)
  | 0x2D0 => some (Instr.cyc)
  | 0x2E0 => some (Instr.perf)
  | 0x2F0 => some (Instr.thra)
  | 0x300 => some (Instr.ermark)
  | 0x310 => some (Instr.quota)
  | 0x320 => some (Instr.gang)
  | 0x330 => some (Instr.cksum)
  | 0x340 => some (Instr.nop)
  | 0x430 => some (Instr.jmpr)
  | 0x450 => some (Instr.ret)
  | 0x480 => some (Instr.joinI)
  | 0x490 => some (Instr.tail)
  | 0x4A0 => some (Instr.halt)
  | 0x4B0 => some (Instr.launchI)
  | 0x4C0 => some (Instr.trapI)
  | 0x4D0 => some (Instr.tret)
  | 0x4E0 => some (Instr.bkpt)
  | 0x4F0 => some (Instr.waitInt)
  | 0x4F1 => some (Instr.waitExt)
  | 0x500 => some (Instr.yield)
  | _ => none

/-- The Q-layout instructions by 16·OP + SUB (R70-R72). -/
def qCtor (key : Nat) : Option (QOps → Instr) :=
  match key with
  | 0x600 => some (Instr.srch)
  | 0x610 => some (Instr.srchk)
  | 0x620 => some (Instr.srchv)
  | 0x630 => some (Instr.pushAll)
  | 0x640 => some (Instr.pop)
  | 0x650 => some (Instr.popn)
  | 0x660 => some (Instr.elseSet)
  | 0x670 => some (Instr.fold)
  | 0x680 => some (Instr.firstSet)
  | 0x690 => some (Instr.nextSet)
  | 0x6A0 => some (Instr.gcnt)
  | 0x6B0 => some (Instr.rdset)
  | 0x6C0 => some (Instr.wrset)
  | 0x6D0 => some (Instr.mark)
  | _ => none

/-- The V-layout instructions by 16·OP + SUB (R70-R72). -/
def vCtor (key : Nat) : Option (VOps → Instr) :=
  match key with
  | 0x800 => some (Instr.vadd)
  | 0x810 => some (Instr.vsub)
  | 0x820 => some (Instr.vmul)
  | 0x830 => some (Instr.vmulh)
  | 0x840 => some (Instr.vmad)
  | 0x850 => some (Instr.vadds)
  | 0x860 => some (Instr.vsubs)
  | 0x870 => some (Instr.vand)
  | 0x880 => some (Instr.vor)
  | 0x890 => some (Instr.vxor)
  | 0x8A0 => some (Instr.vnot)
  | 0x8B0 => some (Instr.vshl)
  | 0x8C0 => some (Instr.vshr)
  | 0x8D0 => some (Instr.vsra)
  | 0x8E0 => some (Instr.vmin)
  | 0x8E1 => some (Instr.vminu)
  | 0x8F0 => some (Instr.vmax)
  | 0x8F1 => some (Instr.vmaxu)
  | 0x900 => some (Instr.vabs)
  | 0x910 => some (Instr.vneg)
  | 0x920 => some (Instr.vclz)
  | 0x930 => some (Instr.vpopc)
  | 0x940 => some (Instr.vbfx)
  | 0x950 => some (Instr.vbfi)
  | 0x960 => some (Instr.vsel)
  | 0x970 => some (Instr.vmov)
  | 0x980 => some (Instr.vcmp .eq)
  | 0x981 => some (Instr.vcmp .ne)
  | 0x982 => some (Instr.vcmp .lt)
  | 0x983 => some (Instr.vcmp .le)
  | 0x984 => some (Instr.vcmp .gt)
  | 0x985 => some (Instr.vcmp .ge)
  | 0x990 => some (Instr.vrd)
  | 0x991 => some (Instr.vrdFirst)
  | 0x9A0 => some (Instr.vwr)
  | 0x9B0 => some (Instr.vred .add)
  | 0x9B1 => some (Instr.vred .min)
  | 0x9B2 => some (Instr.vred .max)
  | 0x9B3 => some (Instr.vred .and)
  | 0x9B4 => some (Instr.vred .or)
  | 0x9B5 => some (Instr.vred .xor)
  | 0x9B6 => some (Instr.vred .fadd)
  | 0x9B7 => some (Instr.vred .fmin)
  | 0x9B8 => some (Instr.vred .fmax)
  | 0x9C0 => some (Instr.vscan .add)
  | 0x9C1 => some (Instr.vscan .min)
  | 0x9C2 => some (Instr.vscan .max)
  | 0x9C3 => some (Instr.vscan .and)
  | 0x9C4 => some (Instr.vscan .or)
  | 0x9C5 => some (Instr.vscan .xor)
  | 0x9C6 => some (Instr.vscan .fadd)
  | 0x9C7 => some (Instr.vscan .fmin)
  | 0x9C8 => some (Instr.vscan .fmax)
  | 0x9D0 => some (Instr.vperm)
  | 0x9E0 => some (Instr.vlut)
  | 0xA00 => some (Instr.vfadd)
  | 0xA10 => some (Instr.vfsub)
  | 0xA20 => some (Instr.vfmul)
  | 0xA30 => some (Instr.vffma)
  | 0xA40 => some (Instr.vfmin)
  | 0xA50 => some (Instr.vfmax)
  | 0xA60 => some (Instr.vfabs)
  | 0xA70 => some (Instr.vfneg)
  | 0xA80 => some (Instr.vfdiv)
  | 0xA90 => some (Instr.vfsqrt)
  | 0xAA0 => some (Instr.vfrcp)
  | 0xAB0 => some (Instr.vfrsq)
  | 0xAC0 => some (Instr.vfexp2)
  | 0xAD0 => some (Instr.vflog2)
  | 0xAE0 => some (Instr.vfcmp .eq)
  | 0xAE1 => some (Instr.vfcmp .ne)
  | 0xAE2 => some (Instr.vfcmp .lt)
  | 0xAE3 => some (Instr.vfcmp .le)
  | 0xAE4 => some (Instr.vfcmp .gt)
  | 0xAE5 => some (Instr.vfcmp .ge)
  | 0xAE6 => some (Instr.vfcmp .un)
  | 0xAE7 => some (Instr.vfcmp .ord)
  | 0xAF0 => some (Instr.vfclass)
  | 0xB00 => some (Instr.vhadd)
  | 0xB10 => some (Instr.vhmul)
  | 0xB20 => some (Instr.vhfma)
  | 0xB30 => some (Instr.vcvtEnc)
  | 0xB31 => some (Instr.vcvtDec)
  | 0xB32 => some (Instr.vcvt .f16F32)
  | 0xB33 => some (Instr.vcvt .f32F16)
  | 0xB34 => some (Instr.vcvt .bf16F32)
  | 0xB35 => some (Instr.vcvt .f32Bf16)
  | 0xB40 => some (Instr.vcvti .f32I32)
  | 0xB41 => some (Instr.vcvti .f32U32)
  | 0xB42 => some (Instr.vcvti .i32F32)
  | 0xB43 => some (Instr.vcvti .u32F32)
  | 0xB50 => some (Instr.vpack)
  | 0xB60 => some (Instr.vunpk)
  | _ => none

/-- The M-layout instructions by 16·OP + SUB (R70-R72). -/
def mCtor (key : Nat) : Option (MOps → Instr) :=
  match key with
  | 0xC00 => some (Instr.ld)
  | 0xC10 => some (Instr.st)
  | 0xC20 => some (Instr.lds)
  | 0xC30 => some (Instr.sts)
  | 0xC40 => some (Instr.ldsc)
  | 0xC50 => some (Instr.sld)
  | 0xC60 => some (Instr.sst)
  | 0xC70 => some (Instr.pref)
  | 0xC80 => some (Instr.atom)
  | 0xC90 => some (Instr.atoms)
  | 0xCA0 => some (Instr.satom)
  | 0xCB0 => some (Instr.fence)
  | 0xCC0 => some (Instr.bara)
  | 0xCD0 => some (Instr.barw)
  | 0xCE0 => some (Instr.baraw)
  | 0xCF0 => some (Instr.gbar)
  | 0xD00 => some (Instr.lockW)
  | 0xD10 => some (Instr.unlockW)
  | 0xD20 => some (Instr.trylock)
  | 0xD30 => some (Instr.waitv)
  | _ => none

/-- The F-layout instructions by 16·OP + SUB (R70-R72). -/
def fCtor (key : Nat) : Option (FOps → Instr) :=
  match key with
  | 0xEA0 => some (Instr.finit)
  | 0xEB0 => some (Instr.fupd)
  | 0xEC0 => some (Instr.fdwn)
  | 0xED0 => some (Instr.fsolv)
  | 0xEE0 => some (Instr.fstat)
  | _ => none

/-- The E-layout instructions by 16·OP + SUB (R70-R72). -/
def eCtor (key : Nat) : Option (EOps → Instr) :=
  match key with
  | 0xEF0 => some (Instr.job)
  | 0xF00 => some (Instr.jwait)
  | 0xF10 => some (Instr.jpoll)
  | _ => none

/-- The T-layout instructions by 16·OP + SUB (R70-R72), with GG = 0. -/
def tCtor (key : Nat) : Option (TOps → Instr) :=
  match key with
  | 0xE00 => some (Instr.mma false .slot)
  | 0xE01 => some (Instr.mma true .slot)
  | 0xE02 => some (Instr.mma false .fp16)
  | 0xE03 => some (Instr.mma true .fp16)
  | 0xE04 => some (Instr.mma false .bf16)
  | 0xE05 => some (Instr.mma true .bf16)
  | 0xE10 => some (Instr.tzero)
  | 0xE20 => some (Instr.tld)
  | 0xE30 => some (Instr.tst)
  | 0xE40 => some (Instr.tmov)
  | 0xE50 => some (Instr.tscale)
  | 0xE60 => some (Instr.trow false)
  | 0xE61 => some (Instr.trow true)
  | 0xE70 => some (Instr.tcommit)
  | 0xE80 => some (Instr.tdiscard)
  | 0xE90 => some (Instr.bmv false .slot)
  | 0xE91 => some (Instr.bmv true .slot)
  | 0xE92 => some (Instr.bmv false .fp16)
  | 0xE93 => some (Instr.bmv true .fp16)
  | 0xE94 => some (Instr.bmv false .bf16)
  | 0xE95 => some (Instr.bmv true .bf16)
  | _ => none

/-- The gang forms, GG = 1 (R72). -/
def tgCtor (key : Nat) : Option (TOps → Instr) :=
  match key with
  | 0xE00 => some (Instr.mmag false .slot)
  | 0xE01 => some (Instr.mmag true .slot)
  | 0xE02 => some (Instr.mmag false .fp16)
  | 0xE03 => some (Instr.mmag true .fp16)
  | 0xE04 => some (Instr.mmag false .bf16)
  | 0xE05 => some (Instr.mmag true .bf16)
  | _ => none

/-! ### Decoding a slot -/

/-- A layout read from a word: the rules its raw fields break, and the instruction (codes that are not defined read as the
first code, for the checks of the other fields). -/
structure Raw where
  bad : List Nat
  instr : Instr
  deriving DecidableEq, Repr

/-- The rules a coded field breaks whose code is not defined: Y4, and also Y3 where the instruction does not use the field, which
every `probe`, with another code there and the fields it must not use at zero, then shows (R64, R65). -/
def undefinedCode (ok : Bool) (probes : List Instr) : List Nat :=
  if ok then [] else 4 :: if probes.all fun i => i.broken.contains 3 then [3] else []

/-- Operands of zeros, from which the probes of a layout are made. -/
def qZero : QOps :=
  { hdr := ⟨false, false, false, false⟩, va := 0, lo := 0, hi := 0, cmp := .eq, sop := .push, sdc := 0, sdf := 0, opd := .imm,
    sc := 0, imm32 := 0 }
def vZero : VOps :=
  { hdr := ⟨false, false, false, false⟩, vd := 0, va := 0, vb := 0, vc := 0, ty := .i32, bsrc := .thread, sat := false, rnd := .rne,
    ftz := false, all := false, imm32 := 0 }
def mZero : MOps :=
  { hdr := ⟨false, false, false, false⟩, vd := 0, vx := 0, sb := 0, wid := .b8, scope := .strand, ord := .relaxed, dst := false,
    aop := .add, sx := 0, off32 := 0 }
def tZero : TOps :=
  { hdr := ⟨false, false, false, false⟩, at5 := 0, va := 0, sb := 0, fsa := 0, fsb := 0, shpn := .n16, shpk := 0, ru := false,
    sp := false, za := false, th := 0, sx := 0, off32 := 0 }
def eZero : EOps := { hdr := ⟨false, false, false, false⟩, sc := 0, eng := .copy, sd := 0, th := 0, sx := 0 }

/-- The operands of the M layout with VX zero and with VX naming v454, as scalar addresses have it (R131). -/
def mProbes (f : MOps → Instr) (g : MOps → MOps) : List Instr := [f (g mZero), f (g { mZero with vx := 454 })]

/-- Widths of the header (R46): OP, STOP, WF.A, WF.B, WF.C, SUB. -/
def hdrWidths : List Nat := [8, 1, 1, 1, 1, 4]

def mkHdr (stop a b c : Nat) : Hdr := ⟨stop == 1, a == 1, b == 1, c == 1⟩

/-- S layout (R49): SD, SA, SB, IMM, W32, COND, zero, IMM32. -/
def sWidths : List Nat := [6, 6, 6, 1, 1, 4, 24, 32]

def rawS (h : Hdr) (n : Nat) (f : SOps → Instr) : Option Raw :=
  match splitFields sWidths n with
  | [sd, sa, sb, imm, w, cond, z, imm32] =>
      some ⟨y3 (cond == 0 && z == 0),
        f { hdr := h, sd := .ofNat 6 sd, sa := .ofNat 6 sa, sb := .ofNat 6 sb, imm := imm == 1, w32 := w == 1,
            imm32 := .ofNat 32 imm32 }⟩
  | _ => none

/-- B layout (R50): COND, SA, SB, SD, zero, TSLOT, LOFF. -/
def bWidths : List Nat := [4, 6, 6, 6, 26, 3, 29]

/-- The B-layout instructions by 16·OP + SUB and COND (R70-R73); false where the COND code is not defined. -/
def bCtor (key cond : Nat) : Option (List Nat × (BOps → Instr)) :=
  match key with
  | 0x400 => some (y4 (BCond.ofCode cond).isSome, Instr.branch ((BCond.ofCode cond).getD .eq))
  | 0x410 => some (y4 (CntCond.ofCode cond).isSome, Instr.bcnt ((CntCond.ofCode cond).getD .z))
  | 0x420 => some (y3 (cond == 0), Instr.jmp)
  | 0x440 => some (y3 (cond == 0), Instr.call)
  | 0x460 => some (y3 (cond == 0), Instr.loopI)
  | 0x470 => some (y3 (cond == 0), Instr.spawn)
  | _ => none

def rawB (h : Hdr) (key n : Nat) : Option Raw :=
  match splitFields bWidths n with
  | [cond, sa, sb, sd, z, tslot, loff] =>
      (bCtor key cond).map fun p =>
        ⟨y3 (z == 0) ++ p.1,
          p.2 { hdr := h, sa := .ofNat 6 sa, sb := .ofNat 6 sb, sd := .ofNat 6 sd, tslot := .ofNat 3 tslot,
                loff := .ofNat 29 loff }⟩
  | _ => none

/-- Q layout (R51): VA, LO, HI, CMP, SOP, SDC, SDF, OPD, SC, zero, IMM32. -/
def qWidths : List Nat := [9, 5, 5, 4, 3, 6, 6, 2, 6, 2, 32]

def rawQ (h : Hdr) (n : Nat) (f : QOps → Instr) : Option Raw :=
  match splitFields qWidths n with
  | [va, lo, hi, cmp, sop, sdc, sdf, opd, sc, z, imm32] =>
      some ⟨y3 (z == 0) ++ undefinedCode (Cmp.ofCode cmp).isSome [f { qZero with cmp := .ne }]
          ++ undefinedCode (SetOp.ofCode sop).isSome [f { qZero with sop := .and }]
          ++ undefinedCode (Opd.ofCode opd).isSome [f { qZero with opd := .scalar }],
        f { hdr := h, va := .ofNat 9 va, lo := .ofNat 5 lo, hi := .ofNat 5 hi, cmp := (Cmp.ofCode cmp).getD .eq,
            sop := (SetOp.ofCode sop).getD .push, sdc := .ofNat 6 sdc, sdf := .ofNat 6 sdf,
            opd := (Opd.ofCode opd).getD .imm, sc := .ofNat 6 sc, imm32 := .ofNat 32 imm32 }⟩
  | _ => none

/-- V layout (R52): VD, VA, VB, VC, TY, BSRC, SAT, RND, FTZ, ALL, IMM32. -/
def vWidths : List Nat := [9, 9, 9, 9, 4, 2, 1, 3, 1, 1, 32]

def rawV (h : Hdr) (n : Nat) (f : VOps → Instr) : Option Raw :=
  match splitFields vWidths n with
  | [vd, va, vb, vc, ty, bsrc, sat, rnd, ftz, all, imm32] =>
      some ⟨y4 (Ty.ofCode ty).isSome ++ undefinedCode (BSrc.ofCode bsrc).isSome [f { vZero with bsrc := .scalar }]
          ++ undefinedCode (Rnd.ofCode rnd).isSome [f { vZero with rnd := .rtz }],
        f { hdr := h, vd := .ofNat 9 vd, va := .ofNat 9 va, vb := .ofNat 9 vb, vc := .ofNat 9 vc,
            ty := (Ty.ofCode ty).getD .i32, bsrc := (BSrc.ofCode bsrc).getD .thread, sat := sat == 1,
            rnd := (Rnd.ofCode rnd).getD .rne, ftz := ftz == 1, all := all == 1, imm32 := .ofNat 32 imm32 }⟩
  | _ => none

/-- M layout (R53): VD, VX, SB, WID, SCOPE, ORD, DST, AOP, SX, zero, OFF32. -/
def mWidths : List Nat := [9, 9, 6, 3, 3, 2, 1, 4, 6, 5, 32]

def rawM (h : Hdr) (n : Nat) (f : MOps → Instr) : Option Raw :=
  match splitFields mWidths n with
  | [vd, vx, sb, wid, scope, ord, dst, aop, sx, z, off] =>
      some ⟨y3 (z == 0) ++ y4 ((Wid.ofCode wid).isSome && (Scope.ofCode scope).isSome)
          ++ undefinedCode (AOp.ofCode aop).isSome (mProbes f fun o => { o with aop := .min }),
        f { hdr := h, vd := .ofNat 9 vd, vx := .ofNat 9 vx, sb := .ofNat 6 sb, wid := (Wid.ofCode wid).getD .b8,
            scope := (Scope.ofCode scope).getD .strand, ord := (Ord4.ofCode ord).getD .relaxed, dst := dst == 1,
            aop := (AOp.ofCode aop).getD .add, sx := .ofNat 6 sx, off32 := .ofNat 32 off }⟩
  | _ => none

/-- T layout (R54): AT, VA, SB, FSA, FSB, SHPN, SHPK, RU, GG, SP, ZA, TH, SX, zero, OFF32. -/
def tWidths : List Nat := [5, 9, 6, 3, 3, 2, 2, 1, 1, 1, 1, 4, 6, 4, 32]

def rawT (h : Hdr) (key n : Nat) : Option Raw :=
  match splitFields tWidths n with
  | [at5, va, sb, fsa, fsb, shpn, shpk, ru, gg, sp, za, th, sx, z, off] =>
      let gang := (tgCtor key).filter fun _ => gg == 1
      (gang.or (tCtor key)).map fun f =>
        ⟨y3 (z == 0 && (gg == 0 || gang.isSome)) ++ undefinedCode (ShpN.ofCode shpn).isSome [f { tZero with shpn := .n32 }],
          f { hdr := h, at5 := .ofNat 5 at5, va := .ofNat 9 va, sb := .ofNat 6 sb, fsa := .ofNat 3 fsa,
              fsb := .ofNat 3 fsb, shpn := (ShpN.ofCode shpn).getD .n16, shpk := .ofNat 2 shpk, ru := ru == 1,
              sp := sp == 1, za := za == 1, th := .ofNat 4 th, sx := .ofNat 6 sx, off32 := .ofNat 32 off }⟩
  | _ => none

/-- F layout (R55): AT, VX, SN, TRL, DIR, TH, zero. -/
def fWidths : List Nat := [5, 9, 6, 1, 1, 4, 54]

def rawF (h : Hdr) (n : Nat) (f : FOps → Instr) : Option Raw :=
  match splitFields fWidths n with
  | [at5, vx, sn, trl, dir, th, z] =>
      some ⟨y3 (z == 0),
        f { hdr := h, at5 := .ofNat 5 at5, vx := .ofNat 9 vx, sn := .ofNat 6 sn, trl := trl == 1, dir := dir == 1,
            th := .ofNat 4 th }⟩
  | _ => none

/-- E layout (R56): SC, ENG, SD, TH, SX, zero. -/
def eWidths : List Nat := [6, 3, 6, 4, 6, 55]

def rawE (h : Hdr) (n : Nat) (f : EOps → Instr) : Option Raw :=
  match splitFields eWidths n with
  | [sc, eng, sd, th, sx, z] =>
      some ⟨y3 (z == 0) ++ undefinedCode (Eng.ofCode eng).isSome [f { eZero with eng := .gather }],
        f { hdr := h, sc := .ofNat 6 sc, eng := (Eng.ofCode eng).getD .copy, sd := .ofNat 6 sd, th := .ofNat 4 th,
            sx := .ofNat 6 sx }⟩
  | _ => none

/-- The layouts. -/
inductive Layout where
  | s | b | q | v | m | t | f | e
  deriving DecidableEq, Repr

/-- The layout of a defined opcode (R70, R71). -/
def layoutOf (op : Nat) : Option Layout :=
  if op < 0x20 then some .s
  else if op < 0x35 then some .s
  else if op < 0x40 then none
  else if op < 0x51 then
    if op == 0x40 || op == 0x41 || op == 0x42 || op == 0x44 || op == 0x46 || op == 0x47 then some .b else some .s
  else if op < 0x60 then none
  else if op < 0x6E then some .q
  else if op < 0x80 then none
  else if op < 0x9F then some .v
  else if op < 0xA0 then none
  else if op < 0xB7 then some .v
  else if op < 0xC0 then none
  else if op < 0xD4 then some .m
  else if op < 0xE0 then none
  else if op < 0xEA then some .t
  else if op < 0xEF then some .f
  else if op < 0xF2 then some .e
  else none

/-- A 96-bit word by its layout. -/
def rawWord (n : Nat) : Except DecodeError Raw :=
  match splitFields hdrWidths n with
  | [op, stop, a, b, c, sub] =>
      let h := mkHdr stop a b c
      let key := 16 * op + sub
      let body := n / 2 ^ 16
      match layoutOf op with
      | none => .error .badOpcode
      | some l =>
          let r := match l with
            | .s => (sCtor key).bind (rawS h body)
            | .b => rawB h key body
            | .q => (qCtor key).bind (rawQ h body)
            | .v => (vCtor key).bind (rawV h body)
            | .m => (mCtor key).bind (rawM h body)
            | .t => rawT h key body
            | .f => (fCtor key).bind (rawF h body)
            | .e => (eCtor key).bind (rawE h body)
          match r with
          | none => .error .badSub
          | some r => .ok r
  | _ => .error .badOpcode

/-- The least of a list of rule numbers. -/
def leastRule : List Nat → Option Nat
  | [] => none
  | r :: rs => some (rs.foldl min r)

/-- The instruction of a 96-bit slot word, or the lowest rule of R64 it breaks (R65). -/
def decodeWord (n : Nat) : Except DecodeError Instr :=
  match rawWord n with
  | .error e => .error e
  | .ok r =>
      match leastRule (r.bad ++ r.instr.broken) with
      | none => .ok r.instr
      | some k => .error (.ofRule k)

/-! ### Encoding a slot -/

/-- The header of R46 for 16·OP + SUB. -/
def hdrFields (key : Nat) (h : Hdr) : List (Nat × Nat) :=
  [(8, key / 16), (1, bit01 h.stop), (1, bit01 h.wfa), (1, bit01 h.wfb), (1, bit01 h.wfc), (4, key % 16)]

def encS (key : Nat) (o : SOps) : Nat :=
  joinFields (hdrFields key o.hdr ++ [(6, o.sd.toNat), (6, o.sa.toNat), (6, o.sb.toNat), (1, bit01 o.imm),
    (1, bit01 o.w32), (4, 0), (24, 0), (32, o.imm32.toNat)])

def encB (key cond : Nat) (o : BOps) : Nat :=
  joinFields (hdrFields key o.hdr ++ [(4, cond), (6, o.sa.toNat), (6, o.sb.toNat), (6, o.sd.toNat), (26, 0),
    (3, o.tslot.toNat), (29, o.loff.toNat)])

def encQ (key : Nat) (o : QOps) : Nat :=
  joinFields (hdrFields key o.hdr ++ [(9, o.va.toNat), (5, o.lo.toNat), (5, o.hi.toNat), (4, o.cmp.code),
    (3, o.sop.code), (6, o.sdc.toNat), (6, o.sdf.toNat), (2, o.opd.code), (6, o.sc.toNat), (2, 0),
    (32, o.imm32.toNat)])

def encV (key : Nat) (o : VOps) : Nat :=
  joinFields (hdrFields key o.hdr ++ [(9, o.vd.toNat), (9, o.va.toNat), (9, o.vb.toNat), (9, o.vc.toNat),
    (4, o.ty.code), (2, o.bsrc.code), (1, bit01 o.sat), (3, o.rnd.code), (1, bit01 o.ftz), (1, bit01 o.all),
    (32, o.imm32.toNat)])

def encM (key : Nat) (o : MOps) : Nat :=
  joinFields (hdrFields key o.hdr ++ [(9, o.vd.toNat), (9, o.vx.toNat), (6, o.sb.toNat), (3, o.wid.code),
    (3, o.scope.code), (2, o.ord.code), (1, bit01 o.dst), (4, o.aop.code), (6, o.sx.toNat), (5, 0),
    (32, o.off32.toNat)])

def encT (key : Nat) (gang : Bool) (o : TOps) : Nat :=
  joinFields (hdrFields key o.hdr ++ [(5, o.at5.toNat), (9, o.va.toNat), (6, o.sb.toNat), (3, o.fsa.toNat),
    (3, o.fsb.toNat), (2, o.shpn.code), (2, o.shpk.toNat), (1, bit01 o.ru), (1, bit01 gang), (1, bit01 o.sp),
    (1, bit01 o.za), (4, o.th.toNat), (6, o.sx.toNat), (4, 0), (32, o.off32.toNat)])

def encF (key : Nat) (o : FOps) : Nat :=
  joinFields (hdrFields key o.hdr ++ [(5, o.at5.toNat), (9, o.vx.toNat), (6, o.sn.toNat), (1, bit01 o.trl),
    (1, bit01 o.dir), (4, o.th.toNat), (54, 0)])

def encE (key : Nat) (o : EOps) : Nat :=
  joinFields (hdrFields key o.hdr ++ [(6, o.sc.toNat), (3, o.eng.code), (6, o.sd.toNat), (4, o.th.toNat),
    (6, o.sx.toNat), (55, 0)])

/-- The word of a 96-bit instruction (R46-R56, R70-R73); none for the bytecode, the commands and the events, which have
no 96-bit word. -/
def encodeWord : Instr → Option Nat
  | .add o => some (encS 0x000 o)
  | .sub o => some (encS 0x010 o)
  | .mul o => some (encS 0x020 o)
  | .mulh o => some (encS 0x030 o)
  | .mulhu o => some (encS 0x040 o)
  | .div o => some (encS 0x050 o)
  | .divu o => some (encS 0x060 o)
  | .rem o => some (encS 0x070 o)
  | .remu o => some (encS 0x080 o)
  | .andI o => some (encS 0x090 o)
  | .orI o => some (encS 0x0A0 o)
  | .xorI o => some (encS 0x0B0 o)
  | .andn o => some (encS 0x0C0 o)
  | .shl o => some (encS 0x0D0 o)
  | .shr o => some (encS 0x0E0 o)
  | .sra o => some (encS 0x0F0 o)
  | .rol o => some (encS 0x100 o)
  | .minI o => some (encS 0x110 o)
  | .maxI o => some (encS 0x120 o)
  | .minu o => some (encS 0x130 o)
  | .maxu o => some (encS 0x140 o)
  | .clz o => some (encS 0x150 o)
  | .ctz o => some (encS 0x160 o)
  | .popc o => some (encS 0x170 o)
  | .bfx o => some (encS 0x180 o)
  | .bfi o => some (encS 0x190 o)
  | .sel o => some (encS 0x1A0 o)
  | .seqI o => some (encS 0x1B0 o)
  | .slt o => some (encS 0x1C0 o)
  | .sltu o => some (encS 0x1D0 o)
  | .liI o => some (encS 0x1E0 o)
  | .liHi o => some (encS 0x1E1 o)
  | .mov o => some (encS 0x1F0 o)
  | .fadd o => some (encS 0x200 o)
  | .fsub o => some (encS 0x210 o)
  | .fmul o => some (encS 0x220 o)
  | .ffma o => some (encS 0x230 o)
  | .fdiv o => some (encS 0x240 o)
  | .fsqrt o => some (encS 0x250 o)
  | .fmin o => some (encS 0x260 o)
  | .fmax o => some (encS 0x270 o)
  | .fcmp .eq o => some (encS 0x280 o)
  | .fcmp .lt o => some (encS 0x281 o)
  | .fcmp .le o => some (encS 0x282 o)
  | .fcmp .un o => some (encS 0x283 o)
  | .fcvt .f32I64 o => some (encS 0x290 o)
  | .fcvt .f32U64 o => some (encS 0x291 o)
  | .fcvt .i64F32 o => some (encS 0x292 o)
  | .fcvt .u64F32 o => some (encS 0x293 o)
  | .sysr o => some (encS 0x2A0 o)
  | .sysw o => some (encS 0x2B0 o)
  | .timeI o => some (encS 0x2C0 o)
  | .cyc o => some (encS 0x2D0 o)
  | .perf o => some (encS 0x2E0 o)
  | .thra o => some (encS 0x2F0 o)
  | .ermark o => some (encS 0x300 o)
  | .quota o => some (encS 0x310 o)
  | .gang o => some (encS 0x320 o)
  | .cksum o => some (encS 0x330 o)
  | .nop o => some (encS 0x340 o)
  | .jmpr o => some (encS 0x430 o)
  | .ret o => some (encS 0x450 o)
  | .joinI o => some (encS 0x480 o)
  | .tail o => some (encS 0x490 o)
  | .halt o => some (encS 0x4A0 o)
  | .launchI o => some (encS 0x4B0 o)
  | .trapI o => some (encS 0x4C0 o)
  | .tret o => some (encS 0x4D0 o)
  | .bkpt o => some (encS 0x4E0 o)
  | .waitInt o => some (encS 0x4F0 o)
  | .waitExt o => some (encS 0x4F1 o)
  | .yield o => some (encS 0x500 o)
  | .srch o => some (encQ 0x600 o)
  | .srchk o => some (encQ 0x610 o)
  | .srchv o => some (encQ 0x620 o)
  | .pushAll o => some (encQ 0x630 o)
  | .pop o => some (encQ 0x640 o)
  | .popn o => some (encQ 0x650 o)
  | .elseSet o => some (encQ 0x660 o)
  | .fold o => some (encQ 0x670 o)
  | .firstSet o => some (encQ 0x680 o)
  | .nextSet o => some (encQ 0x690 o)
  | .gcnt o => some (encQ 0x6A0 o)
  | .rdset o => some (encQ 0x6B0 o)
  | .wrset o => some (encQ 0x6C0 o)
  | .mark o => some (encQ 0x6D0 o)
  | .vadd o => some (encV 0x800 o)
  | .vsub o => some (encV 0x810 o)
  | .vmul o => some (encV 0x820 o)
  | .vmulh o => some (encV 0x830 o)
  | .vmad o => some (encV 0x840 o)
  | .vadds o => some (encV 0x850 o)
  | .vsubs o => some (encV 0x860 o)
  | .vand o => some (encV 0x870 o)
  | .vor o => some (encV 0x880 o)
  | .vxor o => some (encV 0x890 o)
  | .vnot o => some (encV 0x8A0 o)
  | .vshl o => some (encV 0x8B0 o)
  | .vshr o => some (encV 0x8C0 o)
  | .vsra o => some (encV 0x8D0 o)
  | .vmin o => some (encV 0x8E0 o)
  | .vminu o => some (encV 0x8E1 o)
  | .vmax o => some (encV 0x8F0 o)
  | .vmaxu o => some (encV 0x8F1 o)
  | .vabs o => some (encV 0x900 o)
  | .vneg o => some (encV 0x910 o)
  | .vclz o => some (encV 0x920 o)
  | .vpopc o => some (encV 0x930 o)
  | .vbfx o => some (encV 0x940 o)
  | .vbfi o => some (encV 0x950 o)
  | .vsel o => some (encV 0x960 o)
  | .vmov o => some (encV 0x970 o)
  | .vcmp .eq o => some (encV 0x980 o)
  | .vcmp .ne o => some (encV 0x981 o)
  | .vcmp .lt o => some (encV 0x982 o)
  | .vcmp .le o => some (encV 0x983 o)
  | .vcmp .gt o => some (encV 0x984 o)
  | .vcmp .ge o => some (encV 0x985 o)
  | .vrd o => some (encV 0x990 o)
  | .vrdFirst o => some (encV 0x991 o)
  | .vwr o => some (encV 0x9A0 o)
  | .vred .add o => some (encV 0x9B0 o)
  | .vred .min o => some (encV 0x9B1 o)
  | .vred .max o => some (encV 0x9B2 o)
  | .vred .and o => some (encV 0x9B3 o)
  | .vred .or o => some (encV 0x9B4 o)
  | .vred .xor o => some (encV 0x9B5 o)
  | .vred .fadd o => some (encV 0x9B6 o)
  | .vred .fmin o => some (encV 0x9B7 o)
  | .vred .fmax o => some (encV 0x9B8 o)
  | .vscan .add o => some (encV 0x9C0 o)
  | .vscan .min o => some (encV 0x9C1 o)
  | .vscan .max o => some (encV 0x9C2 o)
  | .vscan .and o => some (encV 0x9C3 o)
  | .vscan .or o => some (encV 0x9C4 o)
  | .vscan .xor o => some (encV 0x9C5 o)
  | .vscan .fadd o => some (encV 0x9C6 o)
  | .vscan .fmin o => some (encV 0x9C7 o)
  | .vscan .fmax o => some (encV 0x9C8 o)
  | .vperm o => some (encV 0x9D0 o)
  | .vlut o => some (encV 0x9E0 o)
  | .vfadd o => some (encV 0xA00 o)
  | .vfsub o => some (encV 0xA10 o)
  | .vfmul o => some (encV 0xA20 o)
  | .vffma o => some (encV 0xA30 o)
  | .vfmin o => some (encV 0xA40 o)
  | .vfmax o => some (encV 0xA50 o)
  | .vfabs o => some (encV 0xA60 o)
  | .vfneg o => some (encV 0xA70 o)
  | .vfdiv o => some (encV 0xA80 o)
  | .vfsqrt o => some (encV 0xA90 o)
  | .vfrcp o => some (encV 0xAA0 o)
  | .vfrsq o => some (encV 0xAB0 o)
  | .vfexp2 o => some (encV 0xAC0 o)
  | .vflog2 o => some (encV 0xAD0 o)
  | .vfcmp .eq o => some (encV 0xAE0 o)
  | .vfcmp .ne o => some (encV 0xAE1 o)
  | .vfcmp .lt o => some (encV 0xAE2 o)
  | .vfcmp .le o => some (encV 0xAE3 o)
  | .vfcmp .gt o => some (encV 0xAE4 o)
  | .vfcmp .ge o => some (encV 0xAE5 o)
  | .vfcmp .un o => some (encV 0xAE6 o)
  | .vfcmp .ord o => some (encV 0xAE7 o)
  | .vfclass o => some (encV 0xAF0 o)
  | .vhadd o => some (encV 0xB00 o)
  | .vhmul o => some (encV 0xB10 o)
  | .vhfma o => some (encV 0xB20 o)
  | .vcvtEnc o => some (encV 0xB30 o)
  | .vcvtDec o => some (encV 0xB31 o)
  | .vcvt .f16F32 o => some (encV 0xB32 o)
  | .vcvt .f32F16 o => some (encV 0xB33 o)
  | .vcvt .bf16F32 o => some (encV 0xB34 o)
  | .vcvt .f32Bf16 o => some (encV 0xB35 o)
  | .vcvti .f32I32 o => some (encV 0xB40 o)
  | .vcvti .f32U32 o => some (encV 0xB41 o)
  | .vcvti .i32F32 o => some (encV 0xB42 o)
  | .vcvti .u32F32 o => some (encV 0xB43 o)
  | .vpack o => some (encV 0xB50 o)
  | .vunpk o => some (encV 0xB60 o)
  | .ld o => some (encM 0xC00 o)
  | .st o => some (encM 0xC10 o)
  | .lds o => some (encM 0xC20 o)
  | .sts o => some (encM 0xC30 o)
  | .ldsc o => some (encM 0xC40 o)
  | .sld o => some (encM 0xC50 o)
  | .sst o => some (encM 0xC60 o)
  | .pref o => some (encM 0xC70 o)
  | .atom o => some (encM 0xC80 o)
  | .atoms o => some (encM 0xC90 o)
  | .satom o => some (encM 0xCA0 o)
  | .fence o => some (encM 0xCB0 o)
  | .bara o => some (encM 0xCC0 o)
  | .barw o => some (encM 0xCD0 o)
  | .baraw o => some (encM 0xCE0 o)
  | .gbar o => some (encM 0xCF0 o)
  | .lockW o => some (encM 0xD00 o)
  | .unlockW o => some (encM 0xD10 o)
  | .trylock o => some (encM 0xD20 o)
  | .waitv o => some (encM 0xD30 o)
  | .finit o => some (encF 0xEA0 o)
  | .fupd o => some (encF 0xEB0 o)
  | .fdwn o => some (encF 0xEC0 o)
  | .fsolv o => some (encF 0xED0 o)
  | .fstat o => some (encF 0xEE0 o)
  | .job o => some (encE 0xEF0 o)
  | .jwait o => some (encE 0xF00 o)
  | .jpoll o => some (encE 0xF10 o)
  | .mma false .slot o => some (encT 0xE00 false o)
  | .mmag false .slot o => some (encT 0xE00 true o)
  | .mma true .slot o => some (encT 0xE01 false o)
  | .mmag true .slot o => some (encT 0xE01 true o)
  | .mma false .fp16 o => some (encT 0xE02 false o)
  | .mmag false .fp16 o => some (encT 0xE02 true o)
  | .mma true .fp16 o => some (encT 0xE03 false o)
  | .mmag true .fp16 o => some (encT 0xE03 true o)
  | .mma false .bf16 o => some (encT 0xE04 false o)
  | .mmag false .bf16 o => some (encT 0xE04 true o)
  | .mma true .bf16 o => some (encT 0xE05 false o)
  | .mmag true .bf16 o => some (encT 0xE05 true o)
  | .tzero o => some (encT 0xE10 false o)
  | .tld o => some (encT 0xE20 false o)
  | .tst o => some (encT 0xE30 false o)
  | .tmov o => some (encT 0xE40 false o)
  | .tscale o => some (encT 0xE50 false o)
  | .trow false o => some (encT 0xE60 false o)
  | .trow true o => some (encT 0xE61 false o)
  | .tcommit o => some (encT 0xE70 false o)
  | .tdiscard o => some (encT 0xE80 false o)
  | .bmv false .slot o => some (encT 0xE90 false o)
  | .bmv true .slot o => some (encT 0xE91 false o)
  | .bmv false .fp16 o => some (encT 0xE92 false o)
  | .bmv true .fp16 o => some (encT 0xE93 false o)
  | .bmv false .bf16 o => some (encT 0xE94 false o)
  | .bmv true .bf16 o => some (encT 0xE95 false o)
  | .branch c o => some (encB 0x400 c.code o)
  | .bcnt c o => some (encB 0x410 c.code o)
  | .jmp o => some (encB 0x420 0 o)
  | .call o => some (encB 0x440 0 o)
  | .loopI o => some (encB 0x460 0 o)
  | .spawn o => some (encB 0x470 0 o)
  | _ => none

/-! ### Queue bytecode (R278) -/

/-- The operations by OPC. -/
def qeCtor (opc : Nat) : Option (QeOps → Instr) :=
  match opc with
  | 0x01 => some .qeLdp
  | 0x02 => some .qeLdw
  | 0x03 => some .qeStw
  | 0x04 => some .qeLdi
  | 0x05 => some .qeMov
  | 0x06 => some .qeAdd
  | 0x07 => some .qeAddi
  | 0x08 => some .qeSub
  | 0x09 => some .qeAnd
  | 0x0A => some .qeOr
  | 0x0B => some .qeShl
  | 0x0C => some .qeShr
  | 0x10 => some .qeBeq
  | 0x11 => some .qeBne
  | 0x12 => some .qeBltu
  | 0x13 => some .qeBgeu
  | 0x14 => some .qeJmpf
  | 0x15 => some .qeLoop
  | 0x18 => some .qeWaitsig
  | 0x19 => some .qeLaunch
  | 0x1A => some .qeLaunchp
  | 0x1B => some .qeSignal
  | 0x1C => some .qeAdvance
  | 0x1D => some .qeFence
  | _ => none

/-- OPC, D, A, B, W, zero, IMM. -/
def qeWidths : List Nat := [8, 3, 3, 3, 2, 13, 32]

/-- The operation of a bytecode word with the rules of R279 (2 to 5) that it breaks, or none where OPC is not defined. -/
def rawOp (n : Nat) : Option Raw :=
  match splitFields qeWidths n with
  | [opc, d, a, b, w, z, imm] =>
      (qeCtor opc).map fun f =>
        ⟨need 2 (z == 0), f { d := .ofNat 3 d, a := .ofNat 3 a, b := .ofNat 3 b, w := .ofNat 2 w, imm := .ofNat 32 imm }⟩
  | _ => none

/-- The operation of a 64-bit bytecode word (R278), or why registration refuses it (R279 rules 2 to 5). -/
def decodeOp (n : Nat) : Except DecodeError Instr :=
  match rawOp n with
  | none => .error .badOpcode
  | some r =>
      match leastRule (r.bad ++ r.instr.broken) with
      | none => .ok r.instr
      | some 2 => .error .reservedBits
      | some _ => .error .badOperation

def encQe (opc : Nat) (o : QeOps) : Nat :=
  joinFields [(8, opc), (3, o.d.toNat), (3, o.a.toNat), (3, o.b.toNat), (2, o.w.toNat), (13, 0), (32, o.imm.toNat)]

/-- The word of an operation of the bytecode (R278). -/
def encodeOp : Instr → Option Nat
  | .qeLdp o => some (encQe 0x01 o)
  | .qeLdw o => some (encQe 0x02 o)
  | .qeStw o => some (encQe 0x03 o)
  | .qeLdi o => some (encQe 0x04 o)
  | .qeMov o => some (encQe 0x05 o)
  | .qeAdd o => some (encQe 0x06 o)
  | .qeAddi o => some (encQe 0x07 o)
  | .qeSub o => some (encQe 0x08 o)
  | .qeAnd o => some (encQe 0x09 o)
  | .qeOr o => some (encQe 0x0A o)
  | .qeShl o => some (encQe 0x0B o)
  | .qeShr o => some (encQe 0x0C o)
  | .qeBeq o => some (encQe 0x10 o)
  | .qeBne o => some (encQe 0x11 o)
  | .qeBltu o => some (encQe 0x12 o)
  | .qeBgeu o => some (encQe 0x13 o)
  | .qeJmpf o => some (encQe 0x14 o)
  | .qeLoop o => some (encQe 0x15 o)
  | .qeWaitsig o => some (encQe 0x18 o)
  | .qeLaunch o => some (encQe 0x19 o)
  | .qeLaunchp o => some (encQe 0x1A o)
  | .qeSignal o => some (encQe 0x1B o)
  | .qeAdvance o => some (encQe 0x1C o)
  | .qeFence o => some (encQe 0x1D o)
  | _ => none

/-! ### Bytes -/

/-- The little-endian number of a list of bytes (R2). -/
def leNat : List Byte → Nat
  | [] => 0
  | b :: bs => b.toNat + 256 * leNat bs

/-- The `k` little-endian bytes of a number (R2). -/
def leBytes : Nat → Nat → List Byte
  | 0, _ => []
  | k + 1, n => BitVec.ofNat 8 n :: leBytes k (n / 256)

/-- The instruction at the front of a list of bytes and the bytes after it: 12 bytes are one slot (R42). -/
def decodeSlot (bs : List Byte) : Except DecodeError (Instr × List Byte) :=
  match decodeWord (leNat (bs.take 12)) with
  | .ok i => .ok (i, bs.drop 12)
  | .error e => .error e

/-- The instruction of a word numbered as the opcode table numbers it: 64 bits are an operation of the queue bytecode, any
other length a slot of a fetch line whose higher bits are zero. -/
def decodeTableWord (nbits w : Nat) : Option Instr :=
  if nbits = 64 then (decodeOp (leNat (leBytes 8 w))).toOption
  else (decodeSlot (leBytes 12 (w % 2 ^ nbits))).toOption.map Prod.fst

end Sys2Proof
end

