-- ==== Sys2Proof/Config.lean ====
section
/-!
DEFINITION. What an implementation fixes, and the values the manual leaves open. Every `opaque` below has no body:
no proof can use a value of it. Each is named in a row of the assumption log.
-/
namespace Sys2Proof.Config

/-- Clusters of the package, 96 for each of the four compute dies (R288, R374). -/
abbrev clusters : Nat := 384

/-- Clusters of one compute die (R288). -/
abbrev clustersPerDie : Nat := 96

/-- Strand slots of a cluster (R197). -/
abbrev strandSlots : Nat := 8

/-- Capacity of the cluster structures the manual numbers (R178, R197, R201, R157, R19, R91). -/
abbrev schedulerJobs : Nat := 32
abbrev rangeEntries : Nat := 32
abbrev trackerEntries : Nat := 16
abbrev rendezvousLatches : Nat := 4
abbrev deliveryEntries : Nat := 4
abbrev inlineFrames : Nat := 4
abbrev shadowTiles : Nat := 4

/-- Requests of its own that a die may have outstanding (R324), and destination bytes of a job's chunk (R182). -/
abbrev dieRequests : Nat := 65536
abbrev jobChunk : Nat := 4096

/-- Free value 8 of the log: the contents of a register name moved by `quota` (R191), for the n-th `quota` and the
register key. -/
opaque freeRegister : Nat → Nat → BitVec 32

/-- Free value 10 of the log: which of the values within 1 ulp `vfrcp`, `vfrsq`, `vfexp2` and `vflog2` return
(R23), for the function (0-3) and the operand. -/
opaque ulpChoice : Nat → BitVec 32 → Nat

/-! Free values 12 of the log: the effect of the n-th slot that is issued although its word breaks R64 (R376). -/

/-- The cause it raises, of those below 0x40 and 0x40 itself; none where it raises none. -/
opaque illegalCause : Nat → Option Nat

/-- Its TINFO. -/
opaque illegalInfo : Nat → BitVec 64

/-- The PC at which the strand goes on where nothing is raised. -/
opaque illegalNext : Nat → BitVec 57

/-- A scalar of a strand, by the strand's number among those of the context and the scalar's. -/
opaque illegalScalar : Nat → Nat → Nat → BitVec 64

/-- Lost marks and the per-strand registers of such a strand by the numbers of R86, and by numbers above those other words of its state
and of a block's. -/
opaque illegalSystem : Nat → Nat → Nat → BitVec 64

/-- The levels of such a strand's responder stack, TOP first. -/
opaque illegalLevels : Nat → Nat → List (BitVec 4096)

/-- The threads that such a strand has parked. -/
opaque illegalParked : Nat → Nat → BitVec 4096

/-- The rows of such a strand's operand latch. -/
opaque illegalLatch : Nat → Nat → List (List (BitVec 32))

/-- Writes of thread registers of a block of the context, by the block's number: window, name, thread and value. -/
opaque illegalThread : Nat → Nat → List (Nat × Nat × Nat × BitVec 32)

/-- Key k of such a block. -/
opaque illegalKey : Nat → Nat → Nat → BitVec 4096

/-- Writes of bytes of such a block's scratchpad. -/
opaque illegalScratch : Nat → Nat → List (Nat × BitVec 8)

/-- Tiles of such a block by accumulator name, row by row. -/
opaque illegalTile : Nat → Nat → Nat → List (List (BitVec 32))

/-- Writes of bytes of memory at virtual addresses of the context. -/
opaque illegalMemory : Nat → List (Nat × BitVec 8)

/-- Free value 38 of the log: the bytes of the n-th cluster image in a save area, whose layout the manual gives by sections
alone (R298). -/
opaque savedImage : Nat → List (BitVec 8)

/-- Free value 13 of the log: the mean draw in watts that the hub measures of a regulator over a control interval (R315). -/
opaque regulatorDraw : Nat → Nat → Nat

/-- Free value 14 of the log: the location that the FAULT record of the n-th uncontained hardware error gives (26 R339). -/
opaque errorLocation : Nat → BitVec 64

/-- Free value 36 of the log: what the digest of a capsule reads as after the n-th uncorrectable error of its storage, where that
differs from the digest (28 R358). -/
opaque spoiledDigest : Nat → BitVec 256

/-- Free value 15 of the log: the home slice, 0-127, of a physical line of 128 bytes, a hash fixed at bring-up that the
manual does not give (R206). -/
opaque homeSlice : Nat → Nat

/-! Free values 11 of the log: what the capsule key (false) and the identity key (true) of the device are (R346, R372). -/

/-- The start of a chain of a WOTS+ key, by index and chain. -/
opaque xmssStart : Bool → Nat → Nat → BitVec 256

/-- The key from which the randomisers are made. -/
opaque xmssPrfKey : Bool → BitVec 256

/-- The public seed. -/
opaque xmssSeed : Bool → BitVec 256

/-- Free value 11 of the log: the vendor public key fused in the hub, its root and its seed (R372). -/
opaque vendorRoot : BitVec 256
opaque vendorSeed : BitVec 256

/-- Free value 11 of the log: the digest of the boot ROM (R373). -/
opaque romDigest : BitVec 256

end Sys2Proof.Config
end

