-- ==== Sys2Proof/Machine/Maps.lean ====
section
/-!
DEFINITION. Finite maps as sorted lists of (key, value) pairs: the one form in which State holds sparse data. A map has
its keys strictly rising, so that equal maps are equal lists.
-/
namespace Sys2Proof

/-- A finite map from Nat. -/
abbrev SMap (α : Type) : Type := List (Nat × α)

namespace SMap

/-- The value at a key. -/
def get? {α : Type} : SMap α → Nat → Option α
  | [], _ => none
  | (k, v) :: r, key => if k = key then some v else get? r key

/-- The map with `key` set to `v`. -/
def set {α : Type} : SMap α → Nat → α → SMap α
  | [], key, v => [(key, v)]
  | (k, w) :: r, key, v =>
      if key < k then (key, v) :: (k, w) :: r
      else if key = k then (key, v) :: r
      else (k, w) :: set r key v

/-- The map without `key`. -/
def del {α : Type} : SMap α → Nat → SMap α
  | [], _ => []
  | (k, w) :: r, key => if k = key then del r key else (k, w) :: del r key

/-- The keys of a map are strictly rising, and all above `lo` where one is given. -/
def sortedFrom {α : Type} : Option Nat → SMap α → Bool
  | _, [] => true
  | lo, (k, _) :: r => (match lo with | none => true | some b => b < k) && sortedFrom (some k) r

/-- The value at a key of a map that lists no entry equal to `d`. -/
def getD {α : Type} (d : α) (m : SMap α) (key : Nat) : α := (m.get? key).getD d

/-- Sets a key of a map that lists no entry equal to `d`. -/
def setD {α : Type} [DecidableEq α] (d : α) (m : SMap α) (key : Nat) (v : α) : SMap α :=
  if v = d then m.del key else m.set key v

/-- Applies `f` to the value at a key that is present. -/
def modify {α : Type} (m : SMap α) (key : Nat) (f : α → α) : SMap α :=
  match m.get? key with
  | none => m
  | some v => m.set key (f v)

end SMap
end Sys2Proof
end

