-- ==== Sys2Proof/Machine/State.lean ====
section
/-!
DEFINITION. The state of the machine as plain data: strands, blocks and clusters (01 R7, 12 R194), the hub (21 R274,
23 R295) and the recorder (26), with the reasons a step can stop and the state after reset.
-/
namespace Sys2Proof.Machine

/-! ### Strands -/

/-- The key of an operand latch (R20): VA, SHP, FSA and the operand type. -/
structure LatchKey where
  va : VName
  shpn : ShpN
  shpk : BitVec 2
  fsa : BitVec 3
  ty : MatTy
  deriving DecidableEq, Repr

/-- A valid operand latch (R20): its key, and for each captured row the A registers read. -/
structure Latch where
  key : LatchKey
  rows : List (List W32)
  deriving DecidableEq, Repr

/-- The strand's watch (R145): the word in the block's scratchpad or at a physical address, its width in bytes and the
compare value. -/
structure Watch where
  scratch : Bool
  addr : Nat
  bytes : Nat
  value : Nat
  /-- the word has differed from the compare value since it was armed -/
  seen : Bool
  fired : Bool
  deriving DecidableEq, Repr

/-- An asynchronous throttle trap that is due (R190). -/
structure Throttle where
  begins : Bool
  level : Nat
  deriving DecidableEq, Repr

/-- The registers of a strand that an inline frame saves (R91): scalars, full and lost marks, the per-strand registers of R86,
R241 and R300 other than SELF, the watch, the throttle arming and the latch. -/
structure Regs where
  s : Vector Word 64
  /-- bit n: s(n) is empty (R18) -/
  empty : BitVec 64
  /-- bit n: the reply for s(n) was lost (R17) -/
  lost : BitVec 64
  fpflags : BitVec 5
  fptrap : BitVec 5
  pi : W32
  rsc : BitVec 16
  rfr : BitVec 16
  z : Bool
  cdepth : BitVec 16
  children : Nat
  tvec : Word
  trpc : Word
  tcause : Word
  tinfo : Word
  tstate : Word
  tpi : W32
  tnpc : Word
  dbg : Word
  tmcmp : Word
  tmctl : Word
  gang : Word
  latch : Option Latch
  watch : Option Watch
  thrArmed : Bool
  thrDue : Option Throttle
  /-- the state last reported to the strand by a throttle trap, or that of the cluster when it armed: throttled or not (R316) -/
  thrTold : Bool
  deriving DecidableEq, Repr

/-- A stack of responder levels, TOP first; `base` levels lie below the base level (R91, R103). -/
structure Stack where
  levels : List TSet
  base : Nat
  limit : Nat
  deriving DecidableEq, Repr

/-- A job fault that waits for a strand (R181): ticket, cause, TINFO[63:32], and whether its issuer had tailed, so that it is
taken at the next instruction boundary (R202); it came while an instruction of the strand stood stalled, which goes first
(R269). -/
structure JobFault where
  ticket : Nat
  cause : Nat
  info : Nat
  orphan : Bool
  mid : Bool
  /-- one of several was taken before it, and it is taken after that one's `tret` -/
  later : Bool
  deriving DecidableEq, Repr

/-- An inline frame (R91): what the end of the callee restores. -/
structure Frame where
  regs : Regs
  base : Nat
  limit : Nat
  parked : TSet
  resume : PC
  inHandler : Bool
  /-- deliveries from this number on are the callee's -/
  first : Nat
  /-- the parent's `spans` and its job faults -/
  spans : List (Nat × Nat)
  jobFaults : List JobFault
  /-- the parent steps and the `spawn` is a stop site: its PC (R251) -/
  step : Option PC
  deriving DecidableEq, Repr

/-- The stall reasons, in code order (R239). -/
inductive Stall where
  | feWait | barrier | lock | rendezvous | range | engine | powerAdmit | droop | fetch | trap | extWait | sleep
  deriving DecidableEq, Repr

/-- What a strand has begun of an instruction that waits and that it attempts again. -/
inductive Wait where
  | none
  /-- `baraw` has arrived on the word at this scratchpad address, whose PHASE was this -/
  | arrived (addr : Nat) (phase : Bool)
  /-- `gbar` has arrived; the round of the grid it waits for -/
  | gbar (round : Nat)
  /-- `lock` stands in the queue of the word at this physical address -/
  | queued (pa : Nat)
  /-- `mmag` has arrived at the latch of its gang -/
  | gang
  /-- `wait` sleeps; edges left until the timeout, if one was given -/
  | asleep (ext : Bool) (left : Option Nat)
  /-- the timeout of `wait` has passed -/
  | timedOut
  /-- `spawn` searches for a slot; edges left -/
  | search (left : Nat)
  /-- the search of `spawn` has ended without a slot -/
  | noSlot
  /-- a broadcast memory instruction waits for the translation of this page -/
  | walk (vpage : Nat)
  /-- a walk of this page has found no leaf -/
  | walkFault (vpage : Nat)
  /-- the sweep of `fupd` or `fdwn` is under way -/
  | sweep
  /-- the sweep has retired; FT_LOSTDEF is due with these values of TINFO, or nothing is -/
  | swept (lost : Option Nat)
  deriving DecidableEq, Repr

/-- What a strand knows of the translation of its code page: nothing, that a walk of it is under way, or that no leaf was found
(R308, R239 reason FETCH). -/
inductive CodeWalk where
  | none
  | walking (vpage : Nat)
  | absent (vpage : Nat)
  deriving DecidableEq, Repr

/-- A trap that has been raised and waits for its handler (R243, R244). -/
structure Trap where
  cause : Nat
  info : Word
  pc : PC
  next : PC
  skip : Bool
  async : Bool
  pair : Bool
  bpinh : Bool
  deriving DecidableEq, Repr

/-- Where the result of an access goes. -/
inductive Dest where
  | none
  /-- the pending delivery of this number, for these threads -/
  | delivery (id : Nat) (threads : List Nat)
  /-- a scalar register of the strand -/
  | scalar (r : SReg)
  /-- the `ldsc` landing of this number, for these threads -/
  | landing (id : Nat) (threads : List Nat)
  deriving DecidableEq, Repr

/-- What an access does at its location (R134, R138, R210, R217). -/
inductive Act where
  | load
  /-- the bytes written and, for each, whether it is written -/
  | store (bytes : List (Option Byte))
  /-- an aggregated atomic: per thread in ascending order its data and its compare value -/
  | rmw (op : AOp) (members : List (Nat × Nat × Nat))
  /-- a doorbell store -/
  | bell (value : Nat)
  /-- a fence of a scope narrower than the package: its predecessor and successor sets (R140, R228) -/
  | fence (pred succ : Nat)
  deriving DecidableEq, Repr

/-- A memory access that has been sent and is not performed (R217, R219). -/
structure Access where
  id : Nat
  /-- the number of the first access of its instruction: the accesses of one instruction are not ordered (R217) -/
  group : Nat
  /-- the block whose scratchpad it reaches; none for global memory -/
  space : Option Nat
  pa : Nat
  bytes : Nat
  act : Act
  dest : Dest
  acq : Bool
  rel : Bool
  scope : Scope
  /-- the line is of an SH = 1 page that caches hold (R330) -/
  shared : Bool
  /-- the reply of an atomic was given up (R302) -/
  dropped : Bool
  /-- what a read-modify-write that makes its read and its write apart has read (R226) -/
  read : Option Nat
  deriving DecidableEq, Repr

/-- A strand (R194). -/
structure Strand where
  pc : PC
  regs : Regs
  stack : Stack
  parked : TSet
  frames : List Frame
  block : Nat
  role : Nat
  /-- the parent's slot and frame depth, for a spawned child -/
  parent : Option (Nat × Nat)
  tailed : Bool
  wait : Wait
  trap : Option Trap
  /-- TIME at which that trap was raised (R244) -/
  trapAt : Word
  /-- the reason recorded at the last attempt that did not issue; none for a strand that could issue -/
  stall : Option Stall
  /-- opportunities at which it was eligible and not chosen (R233) -/
  waited : Nat
  yielded : Bool
  /-- the number of the gang completion after which its next broadcast is of class 2, 0 for none (R233) -/
  gangDone : Nat
  /-- the comparator does not fire on the next issue (R248) -/
  bpinh : Bool
  /-- where `tret` resumed the strand: that slot, and its successor, issue apart from the slot before (R59, R248) -/
  alone : Option PC
  /-- the entry slot has not been fetched: its TGT bit is checked (R66) -/
  entering : Bool
  code : CodeWalk
  /-- a STEP trap that is due at the next boundary: the slot it follows, and where the strand goes on (R251) -/
  stepDue : Option (PC × PC)
  /-- the context image gave it a stopped long instruction: it issues the first broadcast of its cluster (R17, R299) -/
  resumed : Bool
  /-- late scalar results by register: the number of the request, and the value once it is known (R18) -/
  late : SMap (Nat × Option Word)
  /-- accesses sent, oldest first -/
  out : List Access
  /-- ranges of numbers that accesses of ended inline callees have, for which `join` waits (R91, R92, R222) -/
  spans : List (Nat × Nat)
  /-- the strand's number, by which a lock knows its holder (R144): the MODEL's own (log 9) -/
  num : Nat
  jobFaults : List JobFault
  /-- the last retired stop site (R60) and the TIME of the strand's last STOPSITE record (R336) -/
  site : Option (PC × Word)
  /-- TIME at which it started (R240) -/
  started : Word
  /-- TIME ticks of its wait age (R363) -/
  age : Nat
  /-- the accumulator name of an `fsolv` that is stopped between two elements (R16, R168) -/
  solve : Option Nat
  /-- bytes of the scratchpad that the tile engine has read for the instruction at the strand's PC (R217) -/
  pre : SMap Byte
  deriving DecidableEq, Repr

/-! ### Blocks -/

/-- A role of a block (R195): its window, whether it was freed (R93), entry, handler, domain and number of strands. -/
structure Role where
  window : Nat
  freed : Bool
  entry : PC
  handler : Word
  lo : Nat
  hi : Nat
  strands : Nat
  deriving DecidableEq, Repr

/-- A physical tile: 64 rows of 64 FP32 elements, absent rows and elements +0 (R147). -/
abbrev TileData : Type := List (List W32)

/-- The mode of an accumulator name (R147). -/
inductive TileMode where
  | plain (width : Nat)
  | factor (n : Nat)
  deriving DecidableEq, Repr

/-- LAST of FSTAT (R169). -/
inductive Last where
  | none | fupd | fdwn
  deriving DecidableEq, Repr

/-- An accumulator name that is bound (R147): its tile and FSTAT. -/
structure AccName where
  mode : TileMode
  tile : TileData
  status : Nat
  k : Nat
  last : Last
  deriving DecidableEq, Repr

/-- A shadow tile with the census counts it holds back (R159, R41). -/
structure Shadow where
  width : Nat
  tile : TileData
  /-- census key and counts of each instruction -/
  counts : List (Nat × List Nat)
  deriving DecidableEq, Repr

/-- A block placed in a cluster (R194-R197). -/
structure Block where
  ctx : Nat
  grid : Nat
  index : Nat
  n : Nat
  bx : Nat
  by' : Nat
  bz : Nat
  roles : List Role
  shared : Nat
  scratchLen : Nat
  scratch : List Host.Cell
  bars : Nat
  tiles : Nat
  depth : Nat
  /-- first thread-slot granules (R197), in ascending order -/
  granules : List Nat
  /-- registers by window and name (`window · 320 + name`, window 8 shared), then by thread -/
  regs : SMap (SMap W32)
  /-- register names that a `quota` moved: window, first name, count, and the number of the free value their contents are, or
  none where they are 0 (R191, R353) -/
  open' : List (Nat × Nat × Nat × Option Nat)
  /-- register names whose atomic reply was lost, by window·320 + name (R302) -/
  lostRegs : SMap TSet
  keys : Vector TSet 8
  tol : W32
  acc : SMap AccName
  shadows : SMap Shadow
  fmts : Vector W32 8
  scales : Vector W32 8
  taskp : Nat
  tickets : Nat
  folds : Nat
  /-- barrier phase completions whose fold is due: barrier slot and new PHASE, oldest first (R353) -/
  foldDue : List (Nat × Bool)
  deriving DecidableEq, Repr

/-! ### Clusters -/

/-- A pending delivery (R19): the strand, the block, the window and names, the acting threads and the data that has come. -/
structure Delivery where
  id : Nat
  slot : Nat
  block : Nat
  window : Nat
  name : Nat
  count : Nat
  threads : List Nat
  data : SMap (List W32)
  /-- the entry was released by `tail` (R93): the data is discarded -/
  discard : Bool
  deriving DecidableEq, Repr

/-- Bytes of an `ldsc` that have not landed (R137): destination addresses by thread (DST 1), data that has come. -/
structure Landing where
  id : Nat
  slot : Nat
  block : Nat
  word : Nat
  bytes : Nat
  /-- scratchpad destination by thread; empty for registers -/
  dests : SMap Nat
  threads : List Nat
  data : SMap Nat
  /-- the pending delivery that completes with it (DST 0) -/
  delivery : Option Nat
  deriving DecidableEq, Repr

/-- A region of a footprint (R175). -/
structure Region where
  scratch : Bool
  base : Nat
  len : Nat
  deriving DecidableEq, Repr

/-- A job in flight (R178, R179). -/
structure Job where
  id : Nat
  block : Nat
  ctx : Nat
  ticket : Nat
  slot : Nat
  eng : Eng
  /-- the card's address, its OPC and ESZ, and its completion object, as read at issue -/
  card : Nat
  opc : Nat
  esz : Nat
  cmpl : Nat
  ixb : Nat
  cpl : Nat
  reads : List Region
  writes : List Region
  /-- the slot that issued it and the ordinal of that strand's last stop site -/
  origin : Nat
  site : Nat
  /-- numbers of the jobs it waits for -/
  edges : List Nat
  started : Bool
  /-- the descriptors read at its start -/
  src : List Byte
  dst : List Byte
  /-- the indices and the source elements that have been read, and the destination elements that have been written
  (R179, R217) -/
  ixs : SMap Nat
  got : SMap Nat
  wrote : SMap Nat
  /-- faults found, in order: cause and TINFO[63:32] (R180, R181) -/
  faults : List (Nat × Nat)
  current : Nat
  th : Nat
  deriving DecidableEq, Repr

/-- A tile-engine access or run that is outstanding (R153, R155). -/
structure TileOp where
  id : Nat
  slot : Nat
  block : Nat
  /-- the name it uses; 16 more for the name's shadow -/
  name : Nat
  /-- the bytes it touches: scratchpad, or physical memory -/
  regions : List Region
  reads : Bool
  writes : Bool
  /-- the number of the tile that drains until the run ends, 0 for the tile the name binds (R148) -/
  drains : Nat
  current : Nat
  deriving DecidableEq, Repr

/-- A `bmv` under way (R186, R187). -/
structure BankOp where
  id : Nat
  slot : Nat
  block : Nat
  reg : Bool
  rows : Nat
  /-- the descriptor, the fields and the physical pages of the weights, as read at issue -/
  desc : List Byte
  pages : List Nat
  site : Nat
  ops : TOps
  sat : Bool
  ty : MatTy
  /-- acting threads of register mode -/
  threads : List Nat
  delivery : Option Nat
  /-- elements of x, scale entries and previous y by row that have been read, and the rows whose y is made: its bits, and 1 for a
  saturation and 2 for an underflow counted (R41, R217) -/
  xs : SMap Nat
  scs : SMap Nat
  olds : SMap Nat
  ys : SMap (Nat × Nat)
  current : Nat
  deriving DecidableEq, Repr

/-- A sweep of the factor unit (R165, R166): its vector and its working tile, and the row it has reached. -/
structure Sweep where
  slot : Nat
  block : Nat
  name : Nat
  down : Bool
  trl : Bool
  x : List W32
  work : TileData
  index : Nat
  current : Nat
  deriving DecidableEq, Repr

/-- An arrival at a rendezvous latch (R157). -/
structure Arrival where
  slot : Nat
  gang : Nat
  sat : Bool
  ty : MatTy
  ops : TOps
  sb : Nat
  sx : Nat
  latch : Latch
  deriving DecidableEq, Repr

/-- An entry of the retirement tracker (R201): the block, the strand's number and its parent, and the numbers of the accesses,
jobs and engine accesses it has outstanding. -/
structure Tracked where
  id : Nat
  block : Nat
  strand : Nat
  parent : Option (Nat × Nat)
  ids : List Nat
  jobs : List Nat
  landings : List Nat
  tiles : List Nat
  banks : List Nat
  deriving DecidableEq, Repr

/-- An access that a strand had outstanding when it ended (R201), with the strand's number, block and context. -/
structure Orphan where
  strand : Nat
  block : Nat
  ctx : Nat
  access : Access
  deriving DecidableEq, Repr

/-- The counters of a context in a cluster (R188, R240). -/
structure Counters where
  cyc : Word
  elig : Vector Word 9
  stalls : Vector Word 12
  /-- its last `perf`, clipped to PCAP (R189, R315) -/
  perf : Option Nat
  deriving DecidableEq, Repr

/-- Power and droop state of a cluster (R315-R322). -/
structure Power where
  req : Nat
  eff : Nat
  thr : Bool
  used : Nat
  infl : Nat
  debt : Nat
  cnt : Nat
  en : Bool
  th : Nat
  /-- half edges of the stretch left: from 13 on a trip, odd at an edge, and 1 until the stretch has ended; 0 otherwise -/
  edges : Nat
  /-- halved edges left and one, odd where the edge is an opportunity; 0 at the full rate -/
  halved : Nat
  /-- tile tasks that wait for admission, in the order in which they began: the task, its energy and its current (R317). A task
is named by its strand's slot, 8 more for one of the strand's handler, and a gang by 16 and its lowest member -/
  waiting : List (Nat × Nat × Nat)
  /-- tasks that have been admitted and have not issued, with their current -/
  admitted : List (Nat × Nat)
  deriving DecidableEq, Repr

/-- A TLB entry (R308): one leaf of a context and the first address of its page. -/
structure TlbEntry where
  ctx : Nat
  base : Nat
  leaf : Nat
  deriving DecidableEq, Repr

/-- An entry of the cluster census table (R355): grid identity, format, counts. -/
structure CensusEntry where
  ctx : Nat
  key : Nat
  counts : List Nat
  deriving DecidableEq, Repr

/-- A cluster (R197, R232-R252). -/
structure Cluster where
  strands : SMap Strand
  blocks : SMap Block
  handler : Option Nat
  hstack : Stack
  hlatch : Option Latch
  deliveries : List Delivery
  landings : List Landing
  jobs : List Job
  tileOps : List TileOp
  bankOps : List BankOp
  sweeps : List Sweep
  arrivals : List Arrival
  tracker : List Tracked
  /-- accesses of strands that have ended, oldest first -/
  orphans : List Orphan
  /-- the slot that took the last broadcast opportunity (R233), and the one that took the last turn (R238) -/
  lastSlot : Nat
  turn : Nat
  nextId : Nat
  nextBlock : Nat
  power : Power
  counters : SMap Counters
  census : List CensusEntry
  /-- the µTLB (R308) -/
  utlb : List TlbEntry
  retained : Bool
  idle : Nat
  /-- the cluster is stopped for the pre-emption of a context (R296) -/
  stopping : Option Nat
  /-- TIME of that stop (R302) -/
  stopAt : Word
  deriving DecidableEq, Repr

/-! ### Recorder (26) -/

/-- A record (R334). -/
structure Record where
  tlo : Nat
  type : Nat
  ctx : Nat
  slot : Nat
  ord : Nat
  pay : Word
  deriving DecidableEq, Repr

/-- A vault (R333, R335, R337): its records by slot, its header, the dropped counts, the queue of class A, and the TIME at
which its port was last used. -/
structure Vault where
  slots : SMap Record
  wptr : Nat
  wraps : Nat
  wraphi : Nat
  full : Bool
  frozen : Bool
  ftime : Nat
  dropped : SMap Nat
  queue : List Record
  port : Option Word
  /-- records of class B whose events occurred in this cycle -/
  arrived : List Record
  /-- the latest cycle, counted in 64 cc, that was given to a GAP record -/
  gap : Nat
  deriving DecidableEq, Repr

/-- A secondary fault of a capsule (R344). -/
structure Second where
  cause : Nat
  unit : Nat
  tlo : Nat
  deriving DecidableEq, Repr

/-- A unit that starts a freeze, its cause and its T0: its tokens reach the vaults that have not frozen (R340). -/
structure FreezeStart where
  unit : Nat
  cause : Nat
  t0 : Word
  deriving DecidableEq, Repr

/-- A freeze in progress (R340, R341). -/
structure FreezeState where
  origin : Nat
  cause : Nat
  /-- context of the origin, 255 for none -/
  ctx : Nat
  t0 : Word
  info : Word
  seconds : List Second
  nsecond : Nat
  /-- the units whose tokens are under way, the first one first -/
  starts : List FreezeStart
  /-- units whose vault did not freeze (PARTIAL) -/
  lostUnits : List Nat
  capno : Nat
  boot : Nat
  /-- POL.REDACT of each context at T0, or none where it was not defined -/
  redact : List (Option Redact)
  /-- digests of the view credentials by context -/
  creds : SMap (BitVec 256)
  deriving DecidableEq, Repr

/-- A vault section of a capsule (R345): the unit, the frozen header's fields and its records, oldest first. -/
structure Section where
  unit : Nat
  vault : Vault
  records : List Record
  deriving DecidableEq, Repr

/-- A capsule (R343-R346). -/
structure Capsule where
  handle : Nat
  summary : Bool
  fr : FreezeState
  sections : List Section
  sigidx : Option Nat
  digest : BitVec 256
  sig : List Byte
  deriving DecidableEq, Repr

/-- An UNMAP that has removed its leaf and waits for the accesses translated by it (R310): context, first address and physical
ranges. -/
structure Unmapping where
  ctx : Nat
  /-- the address of the page; none for every page of the context -/
  va : Option Nat
  /-- the leaves that it removes, and the physical bytes that it waits for -/
  leaves : List Nat
  ranges : List (Nat × Nat)
  deriving DecidableEq, Repr

/-- A rendered view (R349, R350). -/
structure View where
  id : Nat
  handle : Nat
  bytes : List Byte
  deriving DecidableEq, Repr

/-! ### Hub -/

/-- A window of a queue record (R275). -/
structure Window where
  base : Nat
  len : Nat
  r : Bool
  w : Bool
  deriving DecidableEq, Repr

/-- The engine state of a packet (R278, R280). -/
structure Packet where
  regs : Vector Word 8
  index : Nat
  steps : Nat
  /-- the loop under way: first index, length, repetitions left -/
  rep : Option (Nat × Nat × Nat)
  bytes : List Byte
  /-- the current operation waits (`waitsig`, or a launch held by a full dispatcher): its step has been counted -/
  counted : Bool
  /-- it waits in `waitsig` and holds no interpreter (R276) -/
  parked : Bool
  /-- the submission that this packet carries and that no launch operation has resolved: parent grid and SIGP (R281) -/
  sub : Option (Nat × Nat)
  deriving DecidableEq, Repr

/-- A registered queue record (R275, R276). -/
structure Queue where
  va : Nat
  ctx : Nat
  pri : Nat
  dev : Bool
  rbase : Nat
  rlog : Nat
  /-- the operations of its program, as registration checked them (R279) -/
  ops : List Word
  /-- STAT as last written -/
  stat : Word
  /-- the doorbell word, by physical address -/
  door : Nat
  wins : List Window
  head : Word
  slot : Option Nat
  stopped : Bool
  /-- order of its first unserved store, and of its last use -/
  since : Nat
  used : Nat
  packet : Option Packet
  deriving DecidableEq, Repr

/-- A launch record, read (R282, R283). -/
structure Launch where
  code : Nat
  argp : Nat
  taskp : Nat
  sigp : Nat
  grid : Word
  bx : Nat
  by' : Nat
  bz : Nat
  coop : Bool
  ind : Bool
  depth : Nat
  scratch : Nat
  bars : Nat
  shared : Nat
  tiles : Nat
  pri : Nat
  ctx : Nat
  fmts : Vector W32 8
  scales : Vector W32 8
  roles : List Role
  deriving DecidableEq, Repr

/-- A grid record (R274, R200). -/
structure Grid where
  rec' : Launch
  /-- address of the launch record, for the recorder -/
  va : Nat
  /-- GX, GY, GZ once read -/
  dims : Option (Nat × Nat × Nat)
  parent : Option Nat
  /-- child grids that have not completed -/
  children : Nat
  placed : Nat
  retired : Nat
  /-- no further block is placed -/
  closed : Bool
  status : Nat
  accepted : Nat
  /-- grids the context accepted before this one (R354) -/
  gseq : Nat
  /-- rounds of `gbar` that have completed (R143) -/
  round : Nat
  deriving DecidableEq, Repr

/-- What the driver knows of a code object (R80): by base and context, its argument table (role, register, offset) and its
`.data sp` images (address, bytes). Log 6 (DESIGN CHOICE). -/
structure CodeObject where
  ctx : Nat
  base : Nat
  args : List (Nat × Nat × Nat)
  images : List (Nat × List Byte)
  deriving DecidableEq, Repr

/-- Who holds or waits for a lock (R144). -/
structure Holder where
  ctx : Nat
  cluster : Nat
  slot : Nat
  /-- the strand's number -/
  strand : Nat
  deriving DecidableEq, Repr

/-- The lock state of a word at its home slice (R144). -/
structure Lock where
  holder : Option Holder
  waiters : List Holder
  /-- virtual address named by the holder, for the recorder -/
  va : Nat
  deriving DecidableEq, Repr

/-- A cluster image of a pre-empted context (R298). Log 38 (DESIGN CHOICE). -/
structure Image where
  cluster : Nat
  strands : SMap Strand
  blocks : SMap Block
  handler : Option Nat
  hstack : Stack
  hlatch : Option Latch
  jobs : List Job
  sweeps : List Sweep
  arrivals : List Arrival
  counters : Option Counters
  /-- the numbers that the cluster's accesses and jobs have are below this -/
  nextId : Nat
  /-- poisoned words of its blocks (R358) -/
  poison : List ErrSite
  deriving DecidableEq, Repr

/-- What the hub holds of a context (R295, R377). -/
structure Context where
  desc : CtxDesc
  killed : Bool
  /-- 512-byte tables of the arena that have been taken, from its start on, and of these the ones free for later use -/
  tables : Nat
  freeTables : List Nat
  /-- grids it has accepted (R354) -/
  grids : Nat
  merged : Option (Nat × Nat)
  log : Option (Nat × Nat)
  images : List Image
  /-- submissions to its device launch queue that no launch operation has resolved: entry number → parent grid and SIGP (R281) -/
  subs : SMap (Nat × Nat)
  /-- periodic census merges that have occurred (R356) -/
  merges : Nat
  bpc : Vector (Option PC) 8
  deriving DecidableEq, Repr

/-- A kill whose horizon has not passed or whose notice is due (R361, R362, R367). Log 44 (DEDUCED). -/
structure Kill where
  /-- 255 for every context -/
  ctx : Nat
  cause : Nat
  at' : Word
  /-- the capsule of the freeze (R367) -/
  capno : Nat
  horizon : Bool
  /-- accesses sent before the kill and not performed, with the cluster that sent them -/
  out : List (Nat × Access)
  deriving DecidableEq, Repr

/-- A mailbox page (R373). -/
structure MboxPage where
  cmd : Word
  status : Word
  errcnt : Nat
  params : SMap Byte
  result : List Byte
  deriving DecidableEq, Repr

/-- A command taken by a GO write and waiting for the server (R373). -/
structure Request where
  page0 : Bool
  code : Nat
  tag : W32
  params : List Byte
  deriving DecidableEq, Repr

/-- A weight-store fill in progress (R291). -/
structure Fill where
  id : Nat
  frame : Nat
  count : Nat
  source : Nat
  signal : Nat
  deriving DecidableEq, Repr

/-- A token of an access that crosses a die link (R323): sender and receiver die (4 the hub), class, and the access it is for
or answers, by cluster and number; a reply names where its result goes, in the slot given. -/
structure Token where
  sender : Nat
  receiver : Nat
  reply : Bool
  cluster : Nat
  slot : Nat
  id : Nat
  dest : Dest
  /-- the access is an atomic (R302) -/
  atomic : Bool
  deriving DecidableEq, Repr

/-- A pull notice on the control channel (R325): a sender's spilled tokens of a class for a receiver, and how many. -/
structure Notice where
  sender : Nat
  receiver : Nat
  reply : Bool
  count : Nat
  deriving DecidableEq, Repr

/-- Bytes of the scratchpad of a block of the cluster, or of memory. -/
structure Span where
  space : Option Nat
  pa : Nat
  bytes : Nat
  deriving DecidableEq, Repr

/-- An event of a strand took place ahead of others of it, which an acquire, a release, a fence or a barrier of a narrow scope orders
before it. Agents of that scope that have met the event do not reach what it overtook until that has been performed (R228); the two
halves of a read-modify-write bar its bytes in the same way (R226). Log 23 (DEDUCED). -/
structure Debt where
  cluster : Nat
  slot : Nat
  block : Nat
  scope : Scope
  /-- the bytes of the event; none for a fence -/
  mark : Option Span
  /-- the bytes that are barred once an agent of the scope has met the event -/
  bars : List Span
  live : Bool
  /-- numbers of the accesses, jobs and engine accesses that it overtook -/
  overtaken : List Nat
  /-- jobs or engine accesses are among them -/
  engine : Bool
  deriving DecidableEq, Repr

/-- A separate access of a job (R217): the index of a destination or source element, a source element, or a destination
element. -/
inductive JobPart where
  | index (i : Nat)
  | source (i : Nat)
  | write (i : Nat)
  deriving DecidableEq, Repr

/-- A separate access of a `bmv` (R217): an element of x, an entry of the scale array, a previous y, or the weights of a row with
its y. -/
inductive BankPart where
  | x (k : Nat)
  | scale (k : Nat)
  | old (i : Nat)
  | row (i : Nat)
  deriving DecidableEq, Repr

/-- What happens next, as the agenda names it (the MODEL's own). -/
inductive Choice where
  /-- the strand in this slot of this cluster attempts to issue -/
  | issue (c slot : Nat)
  /-- the queue engine executes one operation of the record with this index -/
  | engine (q : Nat)
  /-- an event or a mailbox command -/
  | event (i : Instr)
  /-- the mailbox server takes its oldest request -/
  | server
  /-- a job in flight makes one access -/
  | jobPart (c block ticket : Nat) (p : JobPart)
  /-- a `bmv` under way makes one access -/
  | bankPart (c id : Nat) (p : BankPart)
  /-- an access is performed ahead of accesses that only a narrow scope orders before it -/
  | early (c slot id : Nat)
  /-- a read-modify-write of a narrow scope makes its read, apart from its write (R226) -/
  | split (c slot id : Nat)
  /-- the bytes of an `ldsc` land for this thread -/
  | land (c id thread : Nat)
  /-- the token of the k-th start of a freeze reaches the vault of a unit (R341) -/
  | token (unit k : Nat)
  /-- the hub begins to write a summary into NOR (R348) -/
  | norBegins
  /-- the strand attempts an `fsolv` that is stopped after so many elements (R168, R170) -/
  | part (c slot n : Nat)
  /-- the strand attempts an instruction that may go ahead of what only a narrow scope orders before it (R228) -/
  | ahead (c slot : Nat)
  /-- the tile engine reads bytes of the scratchpad for the instruction at the strand's PC (R217) -/
  | preread (c slot addr bytes : Nat)
  /-- the oldest token of a sender, receiver and class arrives (R323) -/
  | arrive (sender receiver : Nat) (reply : Bool)
  /-- the strand issues a slot whose page's scan finds that it breaks a rule (R376) -/
  | illegal (c slot : Nat)
  deriving DecidableEq, Repr

/-- The machine. -/
structure State where
  time : Word
  mem : List Host.Cell
  /-- the decoded extent of pooled memory, and the memory port of each way of the interleave table (R329; log 4) -/
  poolsz : Nat
  ports : List Nat
  clusters : SMap Cluster
  ctxs : SMap Context
  /-- what the driver holds of the code objects (R80; log 6) -/
  code : List CodeObject
  /-- doorbell tails by physical address of the word (R210) -/
  bells : SMap Word
  queues : SMap Queue
  grids : SMap Grid
  /-- the cluster that took a block last (R288; log 5) -/
  lastPlaced : Nat
  approved : List Nat
  mapCounts : SMap Nat
  dtlb : SMap (List TlbEntry)
  locks : SMap Lock
  sharedLines : List Nat
  fills : List Fill
  ready : BitVec 540
  active : SMap Word
  staged : SMap Word
  pstat : Word
  ceil : Vector Nat 4
  page0 : MboxPage
  page1 : MboxPage
  server : List Request
  vaults : SMap Vault
  freeze : Option FreezeState
  capsule : Option Capsule
  summaries : List Capsule
  views : List View
  /-- the summaries in NOR, oldest first: their bytes, or none where the write was broken off (R348) -/
  nor : List (Option (List Byte))
  /-- the newest of these is being written -/
  norOpen : Bool
  norDue : List Capsule
  capno : Nat
  nextIndex : Nat
  reserved : Nat
  idNext : Nat
  idReserved : Nat
  capWindow : List Byte
  attWindow : List Byte
  fwWindow : SMap Byte
  fwA : SMap Byte
  fwB : SMap Byte
  /-- the running slot: true for B; none when neither slot was valid -/
  running : Option Bool
  /-- the boot ROM has verified the firmware since the last reset (R371) -/
  booted : Bool
  boot : Nat
  minSvn : Nat
  serialNo : List Byte
  errsum : Word
  /-- the copy of ERRSUM in NOR (R366) -/
  norErr : Word
  fnote : Nat
  kills : List Kill
  /-- contexts that an uncontained error is yet to kill (R360) -/
  killDue : List Nat
  /-- replies that cross die links and have not arrived, and tokens in the cellars, oldest first (R323, R325) -/
  links : List Token
  cellar : List Token
  notices : List Notice
  debts : List Debt
  poison : List ErrSite
  phases : Vector Nat 4
  /-- an uncontained error has stopped launches until a device reset (R360) -/
  dead : Bool
  /-- an UNMAP that waits for accesses (R310) -/
  unmapping : Option Unmapping
  /-- TIME of the last reset -/
  upAt : Word
  /-- numbers given to grids, queues, fills, capsules and views: the MODEL's own (log 9, DESIGN CHOICE) -/
  fresh : Nat
  /-- how many free values have been taken: the MODEL's own (log 8, 12, 14, 36, 38, DESIGN CHOICE) -/
  freeCount : Nat
  /-- control intervals, and passages of TIME[31:0] to 0, whose event has occurred (R317, R335; log 9, DESIGN CHOICE) -/
  intervals : Nat
  epochs : Nat
  /-- what happens next, and the strand or the packet's queue that an instruction acts for: the MODEL's own (log 9) -/
  agenda : List Choice
  cur : Option (Nat × Nat)
  curQ : Option Nat
  /-- how many elements an attempt of `fsolv` solves, where it is stopped, and whether an attempt may go ahead of what only a
  narrow scope orders before it (the MODEL's own; R170, R228) -/
  cap : Option Nat
  ahead : Bool
  deriving DecidableEq, Repr

/-- Why a step stops with a fault. -/
inductive Fault where
  /-- raised by a strand instruction executed where no strand is the current agent; safe: no hardware step is lost -/
  | noStrand
  /-- raised by an operation of the queue bytecode executed where no packet is the current agent; safe -/
  | noPacket
  deriving DecidableEq, Repr

/-- Why an instruction has no meaning. -/
inductive Refusal where
  /-- raised by an arm of `exec` that has no meaning yet; safe -/
  | notModelled (mnemonic : String)
  deriving DecidableEq, Repr

/-! ### Reset -/

/-- A stack with the given base level alone. -/
def Stack.init (l0 : TSet) (limit : Nat) : Stack := { levels := [l0], base := 0, limit := limit }

/-- Power state at reset: level 0 requested, nothing in use, the detector enabled at 40 mV (R315, R318, R319). -/
def Power.reset : Power :=
  { req := 0, eff := 0, thr := false, used := 0, infl := 0, debt := 0, cnt := 0,
    en := true, th := 40, edges := 0, halved := 0, waiting := [], admitted := [] }

/-- A cluster that holds nothing. Log 3 (DESIGN CHOICE), 5 (DESIGN CHOICE). -/
def Cluster.reset : Cluster :=
  { strands := [], blocks := [], handler := none, hstack := { levels := [], base := 0, limit := 15 }, hlatch := none,
    deliveries := [], landings := [], jobs := [], tileOps := [], bankOps := [], sweeps := [], arrivals := [],
    tracker := [], orphans := [], lastSlot := 7, turn := 7, nextId := 0, nextBlock := 0, power := Power.reset, counters := [],
    census := [], utlb := [], retained := false, idle := 0, stopping := none, stopAt := 0 }

/-- Counters at reset (R240). -/
def Counters.reset : Counters :=
  { cyc := 0, elig := Vector.replicate 9 0, stalls := Vector.replicate 12 0, perf := none }

/-- A vault with nothing written (R335). Log 3 (DESIGN CHOICE). -/
def Vault.reset : Vault :=
  { slots := [], wptr := 0, wraps := 0, wraphi := 0, full := false, frozen := false, ftime := 0, dropped := [],
    queue := [], port := none, arrived := [], gap := 0 }

/-- A mailbox page after reset (R373): DONE = 1, status OK, tag 0. Log 3 (DESIGN CHOICE). -/
def MboxPage.reset : MboxPage := { cmd := 0, status := 0x100, errcnt := 0, params := [], result := [] }

/-- The machine right after reset: nothing resident, READY clear (R369), PSTAT 0x100 and ceilings 7 (R313, R315); the
values the manual does not give are those of the assumption log.
Log 2 (DESIGN CHOICE), 3 (DESIGN CHOICE), 4 (DESIGN CHOICE), 5 (DESIGN CHOICE), 7 (DESIGN CHOICE). -/
def State.reset : State :=
  { time := 0, mem := [], poolsz := 2 ^ 44, ports := List.range 8, clusters := [], ctxs := [], code := [], bells := [], queues := [],
    grids := [], lastPlaced := 383, approved := [], mapCounts := [], dtlb := [], locks := [], sharedLines := [],
    fills := [], ready := 0, active := [], staged := [], pstat := 0x100, ceil := Vector.replicate 4 7,
    page0 := MboxPage.reset, page1 := MboxPage.reset, server := [], vaults := [], freeze := none, capsule := none,
    summaries := [], views := [], nor := [], norOpen := false, norDue := [], capno := 0, nextIndex := 0, reserved := 0, idNext := 0,
    idReserved := 0, capWindow := [], attWindow := [], fwWindow := [], fwA := [], fwB := [], running := none, booted := false,
    boot := 0, minSvn := 0, serialNo := List.replicate 16 0, errsum := 0, norErr := 0, fnote := 0, kills := [],
    killDue := [], links := [], cellar := [], notices := [], debts := [], poison := [],
    phases := Vector.replicate 4 0, dead := false, unmapping := none, upAt := 0, fresh := 1,
    freeCount := 0, intervals := 0, epochs := 0, agenda := [], cur := none, curQ := none, cap := none, ahead := false }

end Sys2Proof.Machine
end

