-- ==== Sys2Proof/Machine/Memory.lean ====
section
/-!
DEFINITION. Byte memory in one canonical form (addresses strictly rising, no listed byte equal to 0, the value of an
unlisted byte) and the accessors of clusters, strands, blocks, contexts and grids. Physical memory, and the scratchpad of
each block, are such lists; every wider access is made of bytes here, little-endian (00 R2).
-/
namespace Sys2Proof.Machine

/-- What a byte that is not listed reads as: zero in a new scratchpad (12 R195) and, by the model's choice, in memory that
nothing has written. Log 2 (DESIGN CHOICE). -/
def blankByte : Byte := 0

/-- The byte at an address. Log 2 (DESIGN CHOICE). -/
def readByte : List Host.Cell → Nat → Byte
  | [], _ => blankByte
  | (k, v) :: r, a => if k = a then v else readByte r a

/-- The list without an address. -/
def dropByte : List Host.Cell → Nat → List Host.Cell
  | [], _ => []
  | (k, v) :: r, a => if k = a then r else (k, v) :: dropByte r a

/-- The list with a byte put in its place. -/
def putByte : List Host.Cell → Nat → Byte → List Host.Cell
  | [], a, b => [(a, b)]
  | (k, v) :: r, a, b =>
      if a < k then (a, b) :: (k, v) :: r
      else if k = a then (a, b) :: r
      else (k, v) :: putByte r a b

/-- The list with the byte at an address written. -/
def writeByte (m : List Host.Cell) (a : Nat) (b : Byte) : List Host.Cell :=
  if b = blankByte then dropByte m a else putByte m a b

/-- Addresses strictly rise from above `lo`, and no listed byte is blank. -/
def cellsFrom : Option Nat → List Host.Cell → Bool
  | _, [] => true
  | lo, (k, v) :: r =>
      (match lo with | none => true | some b => b < k) && v != blankByte && cellsFrom (some k) r

/-- The canonical form of a memory. -/
def Memory.wf (m : List Host.Cell) : Bool := cellsFrom none m

/-- The `n` bytes from an address. -/
def readBytes (m : List Host.Cell) (a : Nat) : Nat → List Byte
  | 0 => []
  | n + 1 => readByte m a :: readBytes m (a + 1) n

/-- Writes consecutive bytes. -/
def writeBytes (m : List Host.Cell) (a : Nat) : List Byte → List Host.Cell
  | [] => m
  | b :: bs => writeBytes (writeByte m a b) (a + 1) bs

/-- The little-endian number of `n` bytes at an address. -/
def readNat (m : List Host.Cell) (a n : Nat) : Nat := leNat (readBytes m a n)

/-- Writes a number in `n` bytes. -/
def writeNat (m : List Host.Cell) (a n v : Nat) : List Host.Cell := writeBytes m a (leBytes n v)

/-! ### Small arithmetic -/

/-- Bits `hi` to `lo` of a number. -/
def bitsOf (n hi lo : Nat) : Nat := (n / 2 ^ lo) % 2 ^ (hi + 1 - lo)

/-- The bit of a number. -/
def bitOf (n i : Nat) : Bool := (n / 2 ^ i) % 2 == 1

/-- `⌈a / b⌉`. -/
def ceilDiv (a b : Nat) : Nat := (a + b - 1) / b

/-- The indices 0 to n − 1. -/
def upto (n : Nat) : List Nat := List.range n

/-- The members of a set of threads, ascending. -/
def members (n : Nat) (s : TSet) : List Nat := (upto n).filter fun t => s.getLsbD t

/-- The set of threads of a list. -/
def setOf (l : List Nat) : TSet := l.foldl (fun s t => s ||| BitVec.twoPow 4096 t) 0

/-- Puts an element after those whose key is not greater. -/
def insertBy {α : Type} (key : α → Nat) (x : α) : List α → List α
  | [] => [x]
  | y :: ys => if key x < key y then x :: y :: ys else y :: insertBy key x ys

/-- A list in ascending order of a key; equal keys keep their order. -/
def sortBy {α : Type} (key : α → Nat) (l : List α) : List α := l.foldl (fun acc x => insertBy key x acc) []

/-- Two byte ranges intersect. -/
def overlaps (a n b m : Nat) : Bool := a < b + m && b < a + n && 0 < n && 0 < m

/-! ### Accessors of the state -/

namespace State

/-- Cluster `c`. -/
def cluster (s : State) (c : Nat) : Cluster := (s.clusters.get? c).getD Cluster.reset

def setCluster (s : State) (c : Nat) (cl : Cluster) : State := { s with clusters := s.clusters.set c cl }

def modCluster (s : State) (c : Nat) (f : Cluster → Cluster) : State := s.setCluster c (f (s.cluster c))

/-- The strand in a slot of a cluster. -/
def strand? (s : State) (c k : Nat) : Option Strand := (s.cluster c).strands.get? k

def setStrand (s : State) (c k : Nat) (st : Strand) : State :=
  s.modCluster c fun cl => { cl with strands := cl.strands.set k st }

def modStrand (s : State) (c k : Nat) (f : Strand → Strand) : State :=
  match s.strand? c k with
  | none => s
  | some st => s.setStrand c k (f st)

/-- A block of a cluster. -/
def block? (s : State) (c b : Nat) : Option Block := (s.cluster c).blocks.get? b

def setBlock (s : State) (c b : Nat) (bl : Block) : State :=
  s.modCluster c fun cl => { cl with blocks := cl.blocks.set b bl }

def modBlock (s : State) (c b : Nat) (f : Block → Block) : State :=
  match s.block? c b with
  | none => s
  | some bl => s.setBlock c b (f bl)

def ctx? (s : State) (n : Nat) : Option Context := s.ctxs.get? n

def setCtx (s : State) (n : Nat) (x : Context) : State := { s with ctxs := s.ctxs.set n x }

def modCtx (s : State) (n : Nat) (f : Context → Context) : State := { s with ctxs := s.ctxs.modify n f }

def modGrid (s : State) (g : Nat) (f : Grid → Grid) : State := { s with grids := s.grids.modify g f }

def modQueue (s : State) (q : Nat) (f : Queue → Queue) : State := { s with queues := s.queues.modify q f }

/-- The entry of the ACTIVE partition table for a cluster, CLUSTER_RAIL ⌊c/96⌋ at reset (R313). -/
def activeEntry (s : State) (c : Nat) : Word := (s.active.get? c).getD (BitVec.ofNat 64 (c / 96))

def stagedEntry (s : State) (c : Nat) : Word := (s.staged.get? c).getD (BitVec.ofNat 64 (c / 96))

/-- The counters of a context in a cluster; a context with no `perf` there requests its PCAP (R315). -/
def counters (s : State) (c ctx : Nat) : Counters := ((s.cluster c).counters.get? ctx).getD Counters.reset

end State

/-- The context descriptor's fields where the context is defined (R295). -/
def State.desc? (s : State) (n : Nat) : Option CtxDesc := (s.ctx? n).map Context.desc

/-- The context is defined and not killed (R377). -/
def State.ctxLive (s : State) (n : Nat) : Bool := match s.ctx? n with | some x => !x.killed | none => false

/-- The context's POL.VALID (R295). -/
def State.ctxValid (s : State) (n : Nat) : Bool := match s.desc? n with | some d => d.valid | none => false

end Sys2Proof.Machine
end

