-- ==== Sys2Proof/Machine/Float.lean ====
section
/-!
DEFINITION. Binary floating point (02 R23-R27): exact values as naturals times powers of two, one rounding at the end.
-/
namespace Sys2Proof.Machine

/-- FPFLAGS bits (R26). -/
def flNv : BitVec 5 := 16
def flDz : BitVec 5 := 8
def flOf : BitVec 5 := 4
def flUf : BitVec 5 := 2
def flNx : BitVec 5 := 1

/-- A binary format: exponent and fraction bits. -/
structure FFmt where
  ew : Nat
  mw : Nat
  deriving DecidableEq, Repr

def f32 : FFmt := { ew := 8, mw := 23 }
def f16 : FFmt := { ew := 5, mw := 10 }
def bf16 : FFmt := { ew := 8, mw := 7 }

def FFmt.bias (f : FFmt) : Int := 2 ^ (f.ew - 1) - 1
/-- Exponent of the smallest normal. -/
def FFmt.emin (f : FFmt) : Int := 1 - f.bias
/-- Exponent of the largest binade. -/
def FFmt.emax (f : FFmt) : Int := f.bias
def FFmt.sign (f : FFmt) (neg : Bool) : Nat := if neg then 2 ^ (f.ew + f.mw) else 0
def FFmt.inf (f : FFmt) (neg : Bool) : Nat := f.sign neg + (2 ^ f.ew - 1) * 2 ^ f.mw
def FFmt.maxFin (f : FFmt) (neg : Bool) : Nat := f.inf neg - 1
/-- The canonical NaN (R24). -/
def FFmt.nan (f : FFmt) : Nat := (2 ^ f.ew - 1) * 2 ^ f.mw + 2 ^ (f.mw - 1)

/-- A value read: NaN (signalling or not), infinity, zero, or ±m·2^e with m > 0. -/
inductive FVal where
  | nan (signalling : Bool)
  | inf (neg : Bool)
  | zero (neg : Bool)
  | fin (neg : Bool) (m : Nat) (e : Int)
  deriving DecidableEq, Repr

/-- A result: its bits and the flags raised. -/
structure FRes where
  bits : Nat
  flags : BitVec 5
  deriving DecidableEq, Repr

/-- Reads a code; with FTZ a subnormal reads as zero of its sign (R25). -/
def FFmt.read (f : FFmt) (ftz : Bool) (bits : Nat) : FVal :=
  let neg := bitOf bits (f.ew + f.mw)
  let e := (bits / 2 ^ f.mw) % 2 ^ f.ew
  let m := bits % 2 ^ f.mw
  if e == 2 ^ f.ew - 1 then (if m == 0 then .inf neg else .nan (m < 2 ^ (f.mw - 1)))
  else if e == 0 then (if m == 0 || ftz then .zero neg else .fin neg m (f.emin - f.mw))
  else .fin neg (m + 2 ^ f.mw) (f.emin - f.mw + e - 1)

/-- Bits of a natural. -/
def bitLen (n : Nat) : Nat := if n = 0 then 0 else Nat.log2 n + 1

/-- Whether a magnitude `q` with remainder `r` of `2^k` (and something below where `sticky`) is rounded up. -/
def roundUp (rnd : Rnd) (neg odd : Bool) (r k : Nat) (sticky : Bool) : Bool :=
  let inexact := r != 0 || sticky
  match rnd with
  | .rne => if k == 0 then false else
      2 ^ (k - 1) < r || (r == 2 ^ (k - 1) && (sticky || odd))
  | .rtz => false
  | .rdn => neg && inexact
  | .rup => !neg && inexact

/-- The magnitude `q·2^e` (plus something below its last bit where `sticky`) rounded to a multiple of `2^lsb`: the
multiple, and whether it is inexact. -/
def roundAt (rnd : Rnd) (neg : Bool) (q : Nat) (e lsb : Int) (sticky : Bool) : Nat × Bool :=
  if lsb ≤ e then (q * 2 ^ (e - lsb).toNat, sticky)
  else
    let k := (lsb - e).toNat
    let m := q / 2 ^ k
    let r := q % 2 ^ k
    (m + bit01 (roundUp rnd neg (m % 2 == 1) r k sticky), r != 0 || sticky)

/-- What a magnitude too large becomes (IEEE 754). -/
def FFmt.overflow (f : FFmt) (rnd : Rnd) (neg : Bool) : Nat :=
  match rnd with
  | .rne => f.inf neg
  | .rtz => f.maxFin neg
  | .rdn => if neg then f.inf neg else f.maxFin neg
  | .rup => if neg then f.maxFin neg else f.inf neg

/-- A nonzero magnitude is tiny after rounding: rounded as if the exponent range had no lower bound, it lies below the
smallest normal (R26, as IEEE 754 has it). Log 29 (DEDUCED). -/
def FFmt.tiny (f : FFmt) (rnd : Rnd) (neg : Bool) (q : Nat) (e : Int) (sticky : Bool) : Bool :=
  let top := e + bitLen q - 1
  top < f.emin && !(top + 1 == f.emin && (roundAt rnd neg q e (top - f.mw) sticky).1 == 2 ^ (f.mw + 1))

/-- Rounds a nonzero magnitude `q·2^e` once to a format (R23), with the flags OF, UF, NX (R26) and the flush of FTZ (R25).
Log 29 (DEDUCED). -/
def FFmt.round (f : FFmt) (rnd : Rnd) (ftz neg : Bool) (q : Nat) (e : Int) (sticky : Bool) : FRes :=
  let top := e + bitLen q - 1
  let lsb := max (top - f.mw) (f.emin - f.mw)
  let (m, inexact) := roundAt rnd neg q e lsb sticky
  let (m, lsb) := if m == 2 ^ (f.mw + 1) then (2 ^ f.mw, lsb + 1) else (m, lsb)
  let nx := if inexact then (if f.tiny rnd neg q e sticky then flUf ||| flNx else flNx) else 0
  if m < 2 ^ f.mw then
    if m != 0 && ftz then { bits := f.sign neg, flags := flUf ||| flNx } else { bits := f.sign neg + m, flags := nx }
  else if f.emax < lsb + f.mw then { bits := f.overflow rnd neg, flags := flOf ||| flNx }
  else { bits := f.sign neg + ((lsb + f.mw - f.emin).toNat + 1) * 2 ^ f.mw + (m - 2 ^ f.mw), flags := nx }

def FFmt.nanRes (f : FFmt) (nv : Bool) : FRes := { bits := f.nan, flags := if nv then flNv else 0 }

def FVal.isNan : FVal → Bool
  | .nan _ => true
  | _ => false

def FVal.isSnan : FVal → Bool
  | .nan b => b
  | _ => false

def FVal.neg : FVal → FVal
  | .nan b => .nan b
  | .inf n => .inf !n
  | .zero n => .zero !n
  | .fin n m e => .fin (!n) m e

/-- A signed value ±m·2^e as an integer at exponent `lo`. -/
def atExp (neg : Bool) (m : Nat) (e lo : Int) : Int :=
  let v : Int := (m * 2 ^ (e - lo).toNat : Nat)
  if neg then -v else v

/-- Rounds an exact signed sum at exponent `lo`; an exact zero is +0, or −0 under RDN. -/
def FFmt.roundSum (f : FFmt) (rnd : Rnd) (ftz : Bool) (v : Int) (lo : Int) : FRes :=
  if v = 0 then { bits := f.sign (rnd == .rdn), flags := 0 }
  else f.round rnd ftz (v < 0) v.natAbs lo false

/-- a + b. -/
def FFmt.add (f : FFmt) (rnd : Rnd) (ftz : Bool) (a b : FVal) : FRes :=
  match a, b with
  | .nan x, y => f.nanRes (x || y.isSnan)
  | _, .nan y => f.nanRes y
  | .inf n, .inf m => if n == m then { bits := f.inf n, flags := 0 } else f.nanRes true
  | .inf n, _ => { bits := f.inf n, flags := 0 }
  | _, .inf m => { bits := f.inf m, flags := 0 }
  | .zero n, .zero m => { bits := f.sign (if n == m then n else rnd == .rdn), flags := 0 }
  | .zero _, .fin n m e => f.round rnd ftz n m e false
  | .fin n m e, .zero _ => f.round rnd ftz n m e false
  | .fin n m e, .fin n' m' e' => let lo := min e e'; f.roundSum rnd ftz (atExp n m e lo + atExp n' m' e' lo) lo

def FFmt.sub (f : FFmt) (rnd : Rnd) (ftz : Bool) (a b : FVal) : FRes := f.add rnd ftz a b.neg

/-- The exact product. -/
def FVal.mul (a b : FVal) : FVal :=
  match a, b with
  | .nan x, y => .nan (x || y.isSnan)
  | _, .nan y => .nan y
  | .inf n, .inf m => .inf (n != m)
  | .inf n, .fin m _ _ => .inf (n != m)
  | .fin n _ _, .inf m => .inf (n != m)
  | .inf _, .zero _ => .nan true
  | .zero _, .inf _ => .nan true
  | .zero n, .zero m => .zero (n != m)
  | .zero n, .fin m _ _ => .zero (n != m)
  | .fin n _ _, .zero m => .zero (n != m)
  | .fin n m e, .fin n' m' e' => .fin (n != n') (m * m') (e + e')

/-- a·b. -/
def FFmt.mul (f : FFmt) (rnd : Rnd) (ftz : Bool) (a b : FVal) : FRes :=
  match a.mul b with
  | .nan nv => f.nanRes nv
  | .inf n => { bits := f.inf n, flags := 0 }
  | .zero n => { bits := f.sign n, flags := 0 }
  | .fin n m e => f.round rnd ftz n m e false

/-- a·b + c, rounded once (R23). NV where a NaN comes of operands that are none, or a signalling NaN is read (R26). -/
def FFmt.fma (f : FFmt) (rnd : Rnd) (ftz : Bool) (a b c : FVal) : FRes :=
  match a.mul b with
  | .nan _ => f.nanRes (a.isSnan || b.isSnan || c.isSnan || !(a.isNan || b.isNan || c.isNan))
  | p => f.add rnd ftz p c

/-- The magnitude m·2^e / (m'·2^e') as a quotient with more bits than any format and a sticky remainder. -/
def divMag (m : Nat) (e : Int) (m' : Nat) (e' : Int) : Nat × Int × Bool :=
  let k := 80 + bitLen m'
  (m * 2 ^ k / m', e - e' - k, m * 2 ^ k % m' != 0)

/-- a / b, correctly rounded. -/
def FFmt.div (f : FFmt) (rnd : Rnd) (ftz : Bool) (a b : FVal) : FRes :=
  match a, b with
  | .nan x, y => f.nanRes (x || y.isSnan)
  | _, .nan y => f.nanRes y
  | .inf _, .inf _ => f.nanRes true
  | .zero _, .zero _ => f.nanRes true
  | .inf n, .zero m => { bits := f.inf (n != m), flags := 0 }
  | .inf n, .fin m _ _ => { bits := f.inf (n != m), flags := 0 }
  | .zero n, .inf m => { bits := f.sign (n != m), flags := 0 }
  | .zero n, .fin m _ _ => { bits := f.sign (n != m), flags := 0 }
  | .fin n _ _, .inf m => { bits := f.sign (n != m), flags := 0 }
  | .fin n _ _, .zero m => { bits := f.inf (n != m), flags := flDz }
  | .fin n m e, .fin n' m' e' =>
      let (q, x, st) := divMag m e m' e'
      f.round rnd ftz (n != n') q x st

/-- Integer square root by bits, from bit `k` down. -/
def isqrtFrom : Nat → Nat → Nat → Nat
  | 0, _, r => r
  | k + 1, n, r => if (r + 2 ^ k) * (r + 2 ^ k) ≤ n then isqrtFrom k n (r + 2 ^ k) else isqrtFrom k n r

/-- ⌊√n⌋. -/
def isqrt (n : Nat) : Nat := isqrtFrom (bitLen n / 2 + 1) n 0

/-- √(m·2^e) as a root with many bits and a sticky remainder. -/
def sqrtMag (m : Nat) (e : Int) : Nat × Int × Bool :=
  let (m, e) := if e % 2 = 0 then (m, e) else (m * 2, e - 1)
  let n := m * 2 ^ 160
  let r := isqrt n
  (r, e / 2 - 80, r * r != n)

/-- √a, correctly rounded. -/
def FFmt.sqrt (f : FFmt) (rnd : Rnd) (ftz : Bool) (a : FVal) : FRes :=
  match a with
  | .nan x => f.nanRes x
  | .inf false => { bits := f.inf false, flags := 0 }
  | .inf true => f.nanRes true
  | .zero n => { bits := f.sign n, flags := 0 }
  | .fin true _ _ => f.nanRes true
  | .fin false m e => let (q, x, st) := sqrtMag m e; f.round rnd ftz false q x st

/-! ### Comparison -/

/-- A value of a real order for compares: sign and magnitude at a common exponent; zero is 0. -/
def FVal.lt (a b : FVal) : Bool :=
  match a, b with
  | .nan _, _ => false
  | _, .nan _ => false
  | .inf true, .inf true => false
  | .inf true, _ => true
  | _, .inf true => false
  | .inf false, _ => false
  | _, .inf false => true
  | .zero _, .zero _ => false
  | .zero _, .fin n _ _ => !n
  | .fin n _ _, .zero _ => n
  | .fin n m e, .fin n' m' e' => let lo := min e e'; atExp n m e lo < atExp n' m' e' lo

def FVal.eq (a b : FVal) : Bool := !a.isNan && !b.isNan && !a.lt b && !b.lt a

def FVal.signed : FVal → Bool
  | .nan _ => false
  | .inf n => n
  | .zero n => n
  | .fin n _ _ => n

/-- Order of minimumNumber: −0 below +0 (R23). -/
def FVal.below (a b : FVal) : Bool :=
  a.lt b || (a.eq b && a.signed && !b.signed)

/-- minimumNumber (`max` false) and maximumNumber of two codes (R23): NV on a signalling NaN (R26). -/
def FFmt.minMax (f : FFmt) (max ftz : Bool) (x y : Nat) : FRes :=
  let a := f.read ftz x
  let b := f.read ftz y
  let nv : BitVec 5 := if a.isSnan || b.isSnan then flNv else 0
  let keep := fun (v : FVal) (bits : Nat) => match v with | .zero n => f.sign n | _ => bits
  match a.isNan, b.isNan with
  | true, true => { bits := f.nan, flags := nv }
  | true, false => { bits := keep b y, flags := nv }
  | false, true => { bits := keep a x, flags := nv }
  | false, false =>
      let first := if max then b.below a else a.below b
      { bits := if first then keep a x else keep b y, flags := nv }

/-! ### Integers -/

/-- An integer to a format. -/
def FFmt.ofInt (f : FFmt) (rnd : Rnd) (v : Int) : FRes :=
  if v = 0 then { bits := 0, flags := 0 } else f.round rnd false (v < 0) v.natAbs 0 false

/-- A value to an integer in `lo..hi` (R37): out of range clamps and NaN gives 0, both with NV; inexact raises NX. -/
def toInt (rnd : Rnd) (lo hi : Int) (a : FVal) : Int × BitVec 5 :=
  match a with
  | .nan _ => (0, flNv)
  | .inf n => (if n then lo else hi, flNv)
  | .zero _ => (0, 0)
  | .fin n m e =>
      let (q, inexact) := roundAt rnd n m e 0 false
      let v : Int := if n then -(q : Int) else q
      if v < lo then (lo, flNv) else if hi < v then (hi, flNv) else (v, if inexact then flNx else 0)

/-- A value of one format to another (R37). -/
def FFmt.convert (f : FFmt) (rnd : Rnd) (ftz : Bool) (a : FVal) : FRes :=
  match a with
  | .nan s => f.nanRes s
  | .inf n => { bits := f.inf n, flags := 0 }
  | .zero n => { bits := f.sign n, flags := 0 }
  | .fin n m e => f.round rnd ftz n m e false

/-- Class of a value as a bit number: see 08 R121. -/
def FFmt.isSub (f : FFmt) (bits : Nat) : Bool := (bits / 2 ^ f.mw) % 2 ^ f.ew == 0 && bits % 2 ^ f.mw != 0

/-! ### Functions within one ulp (R23) -/

/-- The neighbour of a positive or negative code one step away from zero (`up`) or toward it. -/
def stepCode (f : FFmt) (bits : Nat) (up : Bool) : Nat :=
  if up then bits + 1 else if bits % 2 ^ (f.ew + f.mw) == 0 then bits else bits - 1

/-- The codes within 1 ulp of a nonzero magnitude `q·2^e` (plus something below where `sticky`): the two around it, or, where
it is itself a code, it and its neighbours within 1 ulp. Below a power of two the codes lie half as far apart: one of them is within
1 ulp of what is nearer to the power than to its successor. A choice takes one of them. Log 10 (DESIGN CHOICE). -/
def FFmt.nearest (f : FFmt) (rnd : Rnd) (ftz neg : Bool) (q : Nat) (e : Int) (sticky : Bool) (choice : Nat) : FRes :=
  let r := f.round .rtz false neg q e sticky
  let exact := r.flags == 0
  if (r.flags &&& flOf) != 0 then f.round rnd ftz neg q e sticky
  else
    let lo := stepCode f r.bits false
    let halved := r.bits % 2 ^ f.mw == 0 && 1 < r.bits / 2 ^ f.mw % 2 ^ f.ew
    let cands := if exact then
        [r.bits, stepCode f r.bits true, lo] ++ (if halved then [stepCode f lo false] else [])
      else [r.bits, stepCode f r.bits true]
        ++ (if halved && (f.round .rne false neg q e sticky).bits == r.bits then [lo] else [])
    let pick := (cands[choice % cands.length]?).getD r.bits
    let nx : BitVec 5 := if exact && pick == r.bits then 0 else flNx
    if pick % 2 ^ (f.ew + f.mw) == (2 ^ f.ew - 1) * 2 ^ f.mw then { bits := pick, flags := flOf ||| flNx }
    else if pick % 2 ^ (f.ew + f.mw) == 0 then { bits := pick, flags := flUf ||| flNx }
    else if f.isSub pick then
      (if ftz then { bits := f.sign neg, flags := flUf ||| flNx }
       else { bits := pick, flags := if nx == 0 then 0 else flUf ||| flNx })
    else { bits := pick, flags := nx }

/-- A power of four: m·2^e with m a power of two and an even exponent. -/
def isPow4 (m : Nat) (e : Int) : Bool :=
  m == 2 ^ (bitLen m - 1) && (e + (bitLen m - 1 : Nat)) % 2 == 0

/-- `vfrcp` (R23): exact for ±4^n. Log 10 (DESIGN CHOICE). -/
def rcp (ftz : Bool) (rnd : Rnd) (choice : Nat) (a : FVal) : FRes :=
  match a with
  | .nan s => f32.nanRes s
  | .inf n => { bits := f32.sign n, flags := 0 }
  | .zero n => { bits := f32.inf n, flags := flDz }
  | .fin n m e =>
      let (q, x, st) := divMag 1 0 m e
      if isPow4 m e then f32.round rnd ftz n q x st else f32.nearest rnd ftz n q x st choice

/-- `vfrsq` (R23): exact for 4^n. Log 10 (DESIGN CHOICE). -/
def rsq (ftz : Bool) (rnd : Rnd) (choice : Nat) (a : FVal) : FRes :=
  match a with
  | .nan s => f32.nanRes s
  | .inf false => { bits := 0, flags := 0 }
  | .inf true => f32.nanRes true
  | .zero n => { bits := f32.inf n, flags := flDz }
  | .fin true _ _ => f32.nanRes true
  | .fin false m e =>
      -- 1/√v = √(1/v); the quotient keeps 400 bits, so that the root is right below the last bit kept
      let k := 400 + bitLen m
      let q := 2 ^ k / m
      let (r, x, st) := sqrtMag q (-e - k)
      let st := st || 2 ^ k % m != 0
      if isPow4 m e then f32.round rnd ftz false r x st else f32.nearest rnd ftz false r x st choice

/-- Roots √2, ⁴√2, … in fixed point with 160 fraction bits. -/
def rootChain : Nat → Nat → List Nat
  | 0, _ => []
  | k + 1, v => let r := isqrt (v * 2 ^ 160); r :: rootChain k r

/-- 2^(n / 2^k) for a fraction n / 2^k below 1, in fixed point with 160 fraction bits, truncated. -/
def exp2Frac (n k : Nat) : Nat :=
  ((rootChain k (2 * 2 ^ 160)).zip (upto k)).foldl
    (fun acc p => if bitOf n (k - 1 - p.2) then acc * p.1 / 2 ^ 160 else acc) (2 ^ 160)

/-- 2^v for an integer v: exact where it is representable (R23). Log 10 (DESIGN CHOICE). -/
def exp2Int (ftz : Bool) (rnd : Rnd) (choice : Nat) (v : Int) : FRes :=
  if v < -149 then f32.nearest rnd ftz false 1 v true choice else f32.round rnd ftz false 1 v false

/-- `vfexp2` (R23). Log 10 (DESIGN CHOICE). -/
def exp2 (ftz : Bool) (rnd : Rnd) (choice : Nat) (a : FVal) : FRes :=
  match a with
  | .nan s => f32.nanRes s
  | .inf false => { bits := f32.inf false, flags := 0 }
  | .inf true => { bits := 0, flags := 0 }
  | .zero _ => { bits := 0x3F800000, flags := 0 }
  | .fin n m e =>
      -- far from zero the result overflows or vanishes
      if 8 < e + bitLen m then
        (if n then f32.nearest rnd ftz false 1 (-1000) true choice else f32.round rnd ftz false 1 1000 true)
      else if 0 ≤ e then
        let v : Int := m * 2 ^ e.toNat
        exp2Int ftz rnd choice (if n then -v else v)
      else
        let k := min (-e).toNat 160
        let m' := if (-e).toNat ≤ 160 then m else m / 2 ^ ((-e).toNat - 160)
        let v : Int := if n then -(m' : Int) else m'
        let whole := v / (2 ^ k : Int)
        let frac := (v % (2 ^ k : Int)).toNat
        if frac == 0 && (-e).toNat ≤ 160 then exp2Int ftz rnd choice whole
        else f32.nearest rnd ftz false (exp2Frac frac k) (whole - 160) true choice

/-- Fraction bits of log2 of a fixed-point number in [1, 2) with 400 fraction bits, by squaring. -/
def log2Bits : Nat → Nat → Nat → Nat
  | 0, _, acc => acc
  | k + 1, x, acc =>
      let y := x * x / 2 ^ 400
      if 2 ^ 401 ≤ y then log2Bits k (y / 2) (2 * acc + 1) else log2Bits k y (2 * acc)

/-- `vflog2`. Log 10 (DESIGN CHOICE). -/
def log2 (ftz : Bool) (rnd : Rnd) (choice : Nat) (a : FVal) : FRes :=
  match a with
  | .nan s => f32.nanRes s
  | .inf false => { bits := f32.inf false, flags := 0 }
  | .inf true => f32.nanRes true
  | .zero _ => { bits := f32.inf true, flags := flDz }
  | .fin true _ _ => f32.nanRes true
  | .fin false m e =>
      let top : Int := e + bitLen m - 1
      let x := m * 2 ^ (401 - bitLen m)
      let frac := log2Bits 120 x 0
      let pow2 := m == 2 ^ (bitLen m - 1)
      let v : Int := top * 2 ^ 120 + frac
      if pow2 then
        (if top = 0 then { bits := 0, flags := 0 }
         else f32.nearest rnd ftz (top < 0) top.natAbs 0 false choice)
      else if 0 ≤ v then f32.nearest rnd ftz false v.toNat (-120) true choice
      else f32.nearest rnd ftz true ((-v).toNat - 1) (-120) true choice

end Sys2Proof.Machine
end

