-- ==== Sys2Proof/Machine/Slots.lean ====
section
/-!
DEFINITION. Format-slot descriptors and their codes: decoding, scales, packing, and conversion into a slot (02 R28-R37).
-/
namespace Sys2Proof.Machine

/-! ### Descriptors (R28) -/

def slotE (d : W32) : Nat := bitsOf d.toNat 2 0
def slotM (d : W32) : Nat := bitsOf d.toNat 5 3
def slotS (d : W32) : Bool := bitOf d.toNat 6
def slotBias (d : W32) : Int := (BitVec.ofNat 8 (bitsOf d.toNat 14 7)).toInt
def slotRead (d : W32) : Nat := bitsOf d.toNat 16 15
def slotScale (d : W32) : Nat := bitsOf d.toNat 18 17
def slotCrnd (d : W32) : Nat := bitsOf d.toNat 20 19
def slotSatf (d : W32) : Bool := bitOf d.toNat 21
def slotPack (d : W32) : Nat := bitsOf d.toNat 23 22
def slotWidth (d : W32) : Nat := bit01 (slotS d) + slotE d + slotM d
/-- Exponent of the smallest normal. -/
def slotEmin (d : W32) : Int := 1 - slotBias d

/-! ### Codes (R30) -/

/-- The value of a code, before scaling. -/
def slotValue (d : W32) (code : Nat) : FVal :=
  let w := slotWidth d
  let c := code % 2 ^ w
  if slotE d == 0 then
    let v : Int := if slotS d && bitOf c (w - 1) then (c : Int) - 2 ^ w else c
    if v = 0 then .zero false else .fin (v < 0) v.natAbs 0
  else
    let mw := slotM d
    let ew := slotE d
    let neg := slotS d && bitOf c (w - 1)
    let e := (c / 2 ^ mw) % 2 ^ ew
    let m := c % 2 ^ mw
    let top := e == 2 ^ ew - 1
    if slotRead d == 1 && top && m == 2 ^ mw - 1 then .nan false
    else if slotRead d == 2 && top then (if m == 0 then .inf neg else .nan false)
    else if e == 0 then (if m == 0 then .zero neg else .fin neg m (slotEmin d - mw))
    else .fin neg (m + 2 ^ mw) (slotEmin d - mw + e - 1)

/-- Magnitude code of the largest finite value, for E ≥ 1. -/
def slotMaxCode (d : W32) : Nat :=
  match slotRead d with
  | 0 => 2 ^ (slotE d + slotM d) - 1
  | 1 => 2 ^ (slotE d + slotM d) - 2
  | _ => (2 ^ slotE d - 1) * 2 ^ slotM d - 1

/-- R29. -/
def slotValid (d : W32) : Bool :=
  let w := slotWidth d
  let low : FVal := .fin false 1 (-149)
  let high : FVal := .fin false (2 ^ 24 - 1) 104
  2 ≤ w && w ≤ 8 && bitsOf d.toNat 31 24 == 0 && slotPack d ≤ 1 && slotCrnd d != 3 && slotRead d != 3
    && (slotE d != 0 || (slotRead d == 0 && slotBias d == 0))
    && (slotRead d != 1 || 1 ≤ slotE d)
    && (slotRead d != 2 || (2 ≤ slotE d && 1 ≤ slotM d))
    && (slotPack d != 1 || w == 2 || w == 4)
    && (slotE d == 0 || (upto (2 ^ (slotE d + slotM d))).all fun c =>
          match slotValue d c with
          | .fin n m e => !(FVal.fin n m e).lt low && !high.lt (.fin n m e)
          | _ => true)

/-! ### Scales (R32) -/

/-- 2^(b−127), NaN for 0xFF. -/
def byteScale (b : Nat) : FVal := if b % 256 == 0xFF then .nan false else .fin false 1 ((b % 256 : Nat) - 127)

/-- The scale factor of an element: 1, the per-tensor word, the byte or the row word. -/
def slotFactor (d : W32) (tensor entry : W32) : FVal :=
  match slotScale d with
  | 0 => .fin false 1 0
  | 1 => f32.read false tensor.toNat
  | 2 => byteScale entry.toNat
  | _ => f32.read false entry.toNat

/-! ### Out of a slot (R37) -/

/-- A code decoded, scaled, and rounded once to FP32. -/
def slotDecode (d : W32) (code : Nat) (scale : FVal) : FRes :=
  let v := slotValue d code
  if slotScale d == 0 then { f32.convert .rne false v with flags := 0 }
  else match v.mul scale with
    | .nan _ => f32.nanRes (!v.isNan && !scale.isNan)
    | p => f32.convert .rne false p

/-! ### Into a slot (R35, R36) -/

/-- A quotient on its way into a slot. -/
inductive Quot where
  | nan (neg : Bool)
  | inf (neg : Bool)
  | zero (neg : Bool)
  | fin (neg : Bool) (q : Nat) (e : Int) (sticky : Bool)
  deriving DecidableEq, Repr

/-- x over the scale factor (R35 step 1), and NV. `xneg` and `sneg` are the sign bits of x and of the scale. A NaN quotient has the
sign of the NaN operand, x before the scale, and else is positive. Log 54 (DEDUCED). -/
def slotDivide (x scale : FVal) (xneg sneg : Bool) : Quot × BitVec 5 :=
  match x, scale with
  | .nan _, _ => (.nan xneg, 0)
  | _, .nan _ => (.nan sneg, 0)
  | .inf _, .inf _ => (.nan false, flNv)
  | .zero _, .zero _ => (.nan false, flNv)
  | .inf n, s => (.inf (n != s.signed), 0)
  | .zero n, s => (.zero (n != s.signed), 0)
  | .fin n _ _, .inf m => (.zero (n != m), 0)
  | .fin n _ _, .zero m => (.inf (n != m), 0)
  | .fin n m e, .fin n' m' e' => let (q, x, st) := divMag m e m' e'; (.fin (n != n') q x st, 0)

/-- x unscaled. -/
def slotWhole (x : FVal) (xneg : Bool) : Quot :=
  match x with
  | .nan _ => .nan xneg
  | .inf n => .inf n
  | .zero n => .zero n
  | .fin n m e => .fin n m e false

/-- Rounds a magnitude to a multiple of 2^lsb under CRND: RNE, RTZ, round-to-odd (R35 step 2). A format without mantissa bits takes
the last bit of the significand for its least significant bit. Log 54 (DEDUCED). -/
def roundCrnd (crnd : Nat) (q : Nat) (e lsb : Int) (sticky : Bool) : Nat × Bool :=
  if crnd == 0 then roundAt .rne false q e lsb sticky
  else
    let (m, inexact) := roundAt .rtz false q e lsb sticky
    (if crnd == 2 && inexact && m % 2 == 0 then m + 1 else m, inexact)

/-- Into a scaled integer (R36). -/
def slotInteger (d : W32) (x : Quot) : Nat × BitVec 5 :=
  let w := slotWidth d
  let lo : Int := if slotS d then -2 ^ (w - 1) else 0
  let hi : Int := if slotS d then 2 ^ (w - 1) - 1 else 2 ^ w - 1
  let code := fun (v : Int) => (BitVec.ofInt w v).toNat
  match x with
  | .nan _ => (0, flNv)
  | .inf n => (code (if n then lo else hi), flNv)
  | .zero _ => (0, 0)
  | .fin n q e sticky =>
      let (m, inexact) := roundCrnd (slotCrnd d) q e 0 sticky
      let v : Int := if n then -(m : Int) else m
      if v < lo then (code lo, flNv) else if hi < v then (code hi, flNv) else (code v, if inexact then flNx else 0)

/-- Into a float slot (R35 steps 2 to 5 and the table); a signalling NaN that becomes a NaN code raises nothing, and a negative value
that an unsigned slot takes to +0 raises NV alone. Log 29 (DEDUCED), 54 (DEDUCED). -/
def slotFloat (d : W32) (x : Quot) : Nat × BitVec 5 :=
  let mw := slotM d
  let ew := slotE d
  let sign := fun (n : Bool) => if slotS d && n then 2 ^ (ew + mw) else 0
  let nan := 2 ^ (ew + mw) - 1
  let big := fun (n : Bool) => sign n + slotMaxCode d
  let inf := fun (n : Bool) => sign n + (2 ^ ew - 1) * 2 ^ mw
  match x with
  | .nan n => if slotRead d == 0 then (big n, flNv) else (nan, 0)
  | .inf n =>
      if n && !slotS d then (0, flNv)
      else if slotRead d == 2 then (inf n, 0)
      else if slotRead d == 0 || slotSatf d then (big n, flNv)
      else (nan, 0)
  | .zero n => (sign n, 0)
  | .fin n q e sticky =>
      if n && !slotS d then (0, flNv)
      else
        let base := slotEmin d - mw
        let lsb := max (e + bitLen q - 1 - mw) base
        let (i, inexact) := roundCrnd (slotCrnd d) q e lsb sticky
        let big? := match slotValue d (slotMaxCode d) with
          | .fin _ m e' => (FVal.fin false m e').lt (if i == 0 then .zero false else .fin false i lsb)
          | _ => i != 0
        if big? then
          (if slotCrnd d != 0 || slotRead d == 0 || slotSatf d then big n
            else if slotRead d == 1 then nan else inf n, flOf ||| flNx)
        else
          (sign n + i + (lsb - base).toNat * 2 ^ mw,
            if !inexact then 0 else if i != 0 && i < 2 ^ mw && lsb == base then flUf ||| flNx else flNx)

/-- An FP32 value converted into a slot: the code and the flags (R35-R37). -/
def slotEncode (d : W32) (x : W32) (scale : FVal) (sneg : Bool) : Nat × BitVec 5 :=
  let v := f32.read false x.toNat
  let (q, nv) := if slotScale d == 0 then (slotWhole v (x.getLsbD 31), 0) else slotDivide v scale (x.getLsbD 31) sneg
  let (c, fl) := if slotE d == 0 then slotInteger d q else slotFloat d q
  (c, nv ||| fl)

/-! ### Packing (R33, R34) -/

/-- Bits an element occupies: its width for 2 and 4, else a byte (R33, R123). -/
def containerBits (d : W32) : Nat := if slotWidth d == 2 || slotWidth d == 4 then slotWidth d else 8

/-- Bit position of element `j` of a packed sequence (R33, R34). -/
def elementBit (d : W32) (j : Nat) : Nat :=
  let w := containerBits d
  if slotPack d == 1 then
    let g := 1024 / w
    1024 * (j / g) + w * (g / 16 * (j % g % 16) + j % g / 16)
  else w * j

/-- The code of element `j` of a sequence, given its bytes by index. -/
def elementCode (d : W32) (byte : Nat → Nat) (j : Nat) : Nat :=
  let p := elementBit d j
  byte (p / 8) / 2 ^ (p % 8) % 2 ^ slotWidth d

end Sys2Proof.Machine
end

