-- ==== Sys2Proof/Machine/MatSum.lean ====
section
/-!
DEFINITION. Matrix sums (02 R38, R39) and the census classes of an element (02 R41).
-/
namespace Sys2Proof.Machine

/-- What a rounding came to: its bits, whether `.sat` replaced it, and whether a nonzero exact result became a subnormal or
zero (R41). -/
structure Rounded where
  bits : Nat
  sat : Bool
  uf : Bool
  deriving DecidableEq, Repr

/-- A finite result with R39's treatment of overflow. -/
def roundedOf (r : FRes) (sat : Bool) (neg : Bool) (exactZero : Bool) : Rounded :=
  if (r.flags &&& flOf) != 0 then
    (if sat then { bits := f32.maxFin neg, sat := true, uf := false } else { bits := f32.inf neg, sat := false, uf := false })
  else { bits := r.bits, sat := false, uf := !exactZero && r.bits % 2 ^ 31 < 2 ^ 23 }

/-- The least exponent among finite nonzero values. -/
def leastExp : List FVal → Option Int
  | [] => none
  | .fin _ _ e :: rest => (match leastExp rest with | none => some e | some x => some (min e x))
  | _ :: rest => leastExp rest

/-- The exact sum of the finite values at an exponent. -/
def exactAt (lo : Int) : List FVal → Int
  | [] => 0
  | .fin n m e :: rest => atExp n m e lo + exactAt lo rest
  | _ :: rest => exactAt lo rest

/-- The rounded sum of one group of exact products; `full` where no product is missing (R38, R39). -/
def groupSum (sat full : Bool) (ps : List FVal) : Rounded :=
  let posInf := ps.any fun p => p == .inf false
  let negInf := ps.any fun p => p == .inf true
  if ps.any FVal.isNan || (posInf && negInf) then { bits := f32.nan, sat := false, uf := false }
  else if posInf then { bits := f32.inf false, sat := false, uf := false }
  else if negInf then { bits := f32.inf true, sat := false, uf := false }
  else match leastExp ps with
    | none => { bits := f32.sign (full && ps.all fun p => p == .zero true), sat := false, uf := false }
    | some lo =>
        let v := exactAt lo ps
        roundedOf (f32.roundSum .rne false v lo) sat (v < 0) (v == 0)

/-- A group result added to the accumulator (R38 step 4, R39). -/
def accAdd (sat : Bool) (acc g : Nat) : Rounded :=
  let a := f32.read false acc
  let b := f32.read false g
  let r := f32.add .rne false a b
  let finite := fun (v : FVal) => match v with | .fin _ _ _ => true | .zero _ => true | _ => false
  if finite a && finite b then roundedOf r sat (bitOf r.bits 31) (r.bits % 2 ^ 31 == 0)
  else { bits := r.bits, sat := false, uf := false }

/-- The groups of a list of products. -/
def groupsOf (g : Nat) : Nat → List FVal → List (List FVal)
  | 0, _ => []
  | _, [] => []
  | fuel + 1, ps => ps.take g :: groupsOf g fuel (ps.drop g)

/-- An element: the accumulator after every group, with the classes saturation and underflow (R38, R41). -/
def elementSum (sat : Bool) (g : Nat) (acc : Nat) (ps : List FVal) : Rounded :=
  (groupsOf g ps.length ps).foldl (fun r grp =>
    let q := groupSum sat (grp.length == g) grp
    let a := accAdd sat r.bits q.bits
    { bits := a.bits, sat := r.sat || q.sat || a.sat, uf := r.uf || q.uf || a.uf }) { bits := acc, sat := false, uf := false }

/-- The products of two vectors. -/
def products (a b : List FVal) : List FVal := (a.zip b).map fun p => p.1.mul p.2

/-- The counts NAN, INF, SAT, UF of a written element (R41). -/
def classCounts (r : Rounded) : List Nat :=
  let v := f32.read false r.bits
  [bit01 v.isNan, bit01 (match v with | .inf _ => true | _ => false), bit01 r.sat, bit01 r.uf]

/-- Sums of counts. -/
def addCounts (a b : List Nat) : List Nat := (a.zip b).map fun p => p.1 + p.2

/-- The counts of the elements an instruction wrote, as a census site takes them: INST, NAN, INF, SAT, UF (R355).
Log 30 (DEDUCED). -/
def siteCounts (rs : List Rounded) : List Nat := 1 :: rs.foldl (fun c r => addCounts c (classCounts r)) [0, 0, 0, 0]

end Sys2Proof.Machine
end

