-- ==== Sys2Proof/Machine/Keccak.lean ====
section
/-!
DEFINITION. SHAKE256 with 256 bits of output, which the manual names (26 R343, 29 R372): the permutation Keccak-f[1600] on 25
lanes and the sponge of 136-byte blocks of FIPS 202. Log 11 (PRESUMED).
-/
namespace Sys2Proof.Machine

/-- Rotation of lane x + 5y. Log 11 (PRESUMED). -/
def keccakOffsets : List Nat := [0, 1, 62, 28, 27, 36, 44, 6, 55, 20, 3, 10, 43, 25, 39, 41, 45, 15, 21, 8, 18, 2, 61, 56, 14]

/-- The round constants. Log 11 (PRESUMED). -/
def keccakConstants : List (BitVec 64) :=
  [0x0000000000000001, 0x0000000000008082, 0x800000000000808A, 0x8000000080008000, 0x000000000000808B, 0x0000000080000001,
   0x8000000080008081, 0x8000000000008009, 0x000000000000008A, 0x0000000000000088, 0x0000000080008009, 0x000000008000000A,
   0x000000008000808B, 0x800000000000008B, 0x8000000000008089, 0x8000000000008003, 0x8000000000008002, 0x8000000000000080,
   0x000000000000800A, 0x800000008000000A, 0x8000000080008081, 0x8000000000008080, 0x0000000080000001, 0x8000000080008008]

/-- Lane (x, y) of a state. -/
def lane (a : List (BitVec 64)) (x y : Nat) : BitVec 64 := a.getD (x % 5 + 5 * (y % 5)) 0

/-- θ: each lane with the parities of two columns. -/
def keccakTheta (a : List (BitVec 64)) : List (BitVec 64) :=
  let c := (List.range 5).map fun x => lane a x 0 ^^^ lane a x 1 ^^^ lane a x 2 ^^^ lane a x 3 ^^^ lane a x 4
  (List.range 25).map fun i => a.getD i 0 ^^^ c.getD ((i + 4) % 5) 0 ^^^ (c.getD ((i + 1) % 5) 0).rotateLeft 1

/-- ρ and π: each lane rotated, in its new place. -/
def keccakRhoPi (a : List (BitVec 64)) : List (BitVec 64) :=
  (List.range 25).map fun i =>
    let j := (i + 3 * (i / 5)) % 5 + 5 * (i % 5)
    (a.getD j 0).rotateLeft (keccakOffsets.getD j 0)

/-- χ: each lane with its two neighbours in the row. -/
def keccakChi (a : List (BitVec 64)) : List (BitVec 64) :=
  (List.range 25).map fun i => lane a i (i / 5) ^^^ (~~~(lane a (i + 1) (i / 5)) &&& lane a (i + 2) (i / 5))

/-- One round, with ι. -/
def keccakRound (a : List (BitVec 64)) (rc : BitVec 64) : List (BitVec 64) :=
  (keccakChi (keccakRhoPi (keccakTheta a))).modify 0 (· ^^^ rc)

/-- Keccak-f[1600]. -/
def keccakF (a : List (BitVec 64)) : List (BitVec 64) := keccakConstants.foldl keccakRound a

/-- The little-endian lane of eight bytes. -/
def keccakLane (bs : List Byte) : BitVec 64 := BitVec.ofNat 64 (bs.foldr (fun b n => b.toNat + 256 * n) 0)

/-- A block of 136 bytes joins the state. -/
def keccakAbsorb (a : List (BitVec 64)) (block : List Byte) : List (BitVec 64) :=
  keccakF ((List.range 25).map fun i => a.getD i 0 ^^^ if i < 17 then keccakLane ((block.drop (8 * i)).take 8) else 0)

/-- The message with its suffix 0x1F and its last bit, to whole blocks of 136 bytes. -/
def shakePad (m : List Byte) : List Byte :=
  let n := 136 - m.length % 136
  if n == 1 then m ++ [0x9F] else m ++ [0x1F] ++ List.replicate (n - 2) 0 ++ [0x80]

/-- The blocks of a padded message, `n` of them. -/
def shakeBlocks : Nat → List Byte → List (List Byte)
  | 0, _ => []
  | n + 1, m => m.take 136 :: shakeBlocks n (m.drop 136)

/-- The first 32 bytes of SHAKE256 of a message. Log 11 (PRESUMED). -/
def shakeBytes (m : List Byte) : List Byte :=
  let p := shakePad m
  let a := (shakeBlocks (p.length / 136) p).foldl keccakAbsorb (List.replicate 25 0)
  (a.take 4).flatMap fun (x : BitVec 64) => (List.range 8).map fun i => BitVec.ofNat 8 (x.toNat / 2 ^ (8 * i))

/-- SHAKE256 with 256-bit output, its first byte in bits [7:0]. -/
def shake256 (m : List Byte) : BitVec 256 :=
  BitVec.ofNat 256 ((shakeBytes m).foldr (fun b n => b.toNat + 256 * n) 0)

end Sys2Proof.Machine
end

