-- ==== Sys2Proof/Machine/Recorder.lean ====
section
/-!
DEFINITION. The vaults (26 R333-R342): writing a record, what is dropped, and starting a freeze.
-/
namespace Sys2Proof.Machine

/-- Unit numbers (R344). -/
def fabricUnit (die : Nat) : Nat := 384 + die
def hubUnit : Nat := 388

/-- The die of a cluster (R288). -/
def dieOf (c : Nat) : Nat := c / 96

/-- Records a vault holds (R333). -/
def vaultSize (unit : Nat) : Nat := if unit < 384 then 4096 else if unit < 388 then 65536 else 16384

/-- Class A record types (R337): TRAP, PREEMPT, ECC, EPOCH, GAP, THAW, FAULT, FREEZE. -/
def classA (ty : Nat) : Bool := [0x08, 0x09, 0x32, 0x38, 0x3C, 0x3D, 0x3E, 0x3F].contains ty

/-- The vault is recording: RECORDER is ready (R338) and it is not frozen. -/
def State.vault (s : State) (u : Nat) : Vault := (s.vaults.get? u).getD Vault.reset

def State.setVault (s : State) (u : Nat) (v : Vault) : State := { s with vaults := s.vaults.set u v }

/-- Writes a record at WPTR (R333, R335). -/
def Vault.put (v : Vault) (size : Nat) (time : Word) (r : Record) : Vault :=
  let last := v.wptr + 1 == size
  { v with
    slots := v.slots.set v.wptr r
    wptr := if last then 0 else v.wptr + 1
    full := v.full || last
    wraps := if last then (v.wraps + 1) % 2 ^ 32 else v.wraps
    wraphi := if v.wptr == 0 then time.toNat / 2 ^ 32 else v.wraphi }

/-- Counts a dropped record of a type, in 32 bits (R337). -/
def Vault.drop (v : Vault) (ty : Nat) : Vault :=
  { v with dropped := v.dropped.set ty ((v.dropped.getD 0 ty + 1) % 2 ^ 32) }

/-- A record of an event of this cycle (R337). A record of class A takes the port of the cycle or waits in the queue, or is dropped
where the queue is full; those of class B are held until the cycle ends. A frozen vault counts a record of class B as dropped and
loses one of class A (R342). -/
def Vault.offer (v : Vault) (size : Nat) (time : Word) (r : Record) : Vault :=
  if v.frozen then (if classA r.type then v else v.drop r.type)
  else if !classA r.type then { v with arrived := v.arrived ++ [r] }
  else if v.port != some time && v.queue.isEmpty then { v.put size time r with port := some time }
  else if v.queue.length < 16 then { v with queue := v.queue ++ [r] }
  else v.drop r.type

/-- The records of class B in the order in which they take a cycle: by type, and by slot within a type (R337). -/
def Vault.classB (v : Vault) : List Record := sortBy (fun r => r.type * 8 + r.slot) v.arrived

/-- The port at the end of a cycle: where nothing has taken it, the oldest record of class A does, or else the first of class B.
The others of class B are dropped (R337). -/
def Vault.drain (v : Vault) (size : Nat) (time : Word) : Vault :=
  let lose : List Record → Vault → Vault := fun l v => l.foldl (fun v r => v.drop r.type) { v with arrived := [] }
  if v.frozen || v.port == some time then lose v.arrived v
  else match v.queue with
    | r :: rest => lose v.arrived { v.put size time r with queue := rest, port := some time }
    | [] => match v.classB with
      | [] => v
      | r :: rest => lose rest { v.put size time r with port := some time }

/-- Writes a record to the vault of a unit, stamped with TIME (R334), once the recorder is ready (R338). -/
def record (s : State) (unit ty ctx slot ord : Nat) (pay : Word) : State :=
  if s.ready.getLsbD 537 then
    s.setVault unit ((s.vault unit).offer (vaultSize unit) s.time
      { tlo := s.time.toNat % 2 ^ 32, type := ty, ctx := ctx, slot := slot, ord := ord, pay := pay })
  else s

/-- Payload made of fields given as (width, value), least significant first. -/
def payload (fs : List (Nat × Nat)) : Word := BitVec.ofNat 64 (joinFields fs)

/-! ### Freeze (R339-R341) -/

/-- The FAULT record of an origin (R336, R339). -/
def faultPay (cause : Nat) (ctx : Option Nat) (info : Word) : Word :=
  payload [(49, info.toNat), (6, ctx.getD 0), (1, bit01 ctx.isNone), (8, cause)]

/-- The FREEZE record of a vault (R336). -/
def freezePay (time : Word) (cause origin : Nat) : Word :=
  payload [(9, origin), (15, 0), (8, cause), (32, time.toNat / 2 ^ 32)]

/-- The record that the port accepts in this cycle, and then what the queue of class A holds (R340). -/
def Vault.flush (v : Vault) (size : Nat) (time : Word) : Vault :=
  let v := v.drain size time
  let w := v.queue.foldl (fun v r => v.put size time r) v
  { w with queue := [] }

/-- The FREEZE record of a vault, and the end of its recording (R340). -/
def Vault.close (v : Vault) (size : Nat) (time : Word) (cause origin : Nat) : Vault :=
  let tlo := time.toNat % 2 ^ 32
  let v := v.put size time { tlo := tlo, type := 0x3F, ctx := 0, slot := 0, ord := 0, pay := freezePay time cause origin }
  { v with frozen := true, ftime := tlo }

/-- A vault that a token reaches (R340). -/
def Vault.stop (v : Vault) (size : Nat) (time : Word) (cause origin : Nat) : Vault :=
  if v.frozen then v else (v.flush size time).close size time cause origin

/-- The vault of an origin: its FAULT record follows what it has accepted, and its FREEZE record the FAULT (R340). -/
def Vault.fault (v : Vault) (size : Nat) (time : Word) (cause origin : Nat) (pay : Word) : Vault :=
  ((v.flush size time).put size time
    { tlo := time.toNat % 2 ^ 32, type := 0x3E, ctx := 0, slot := 0, ord := 0, pay := pay }).close size time cause origin

/-- POL.REDACT of each context, none where it is not defined (R345). -/
def redactNow (s : State) : List (Option Redact) := (upto 64).map fun c => (s.ctx? c).map fun x => x.desc.redact

/-- The digests of the view credentials (R349). -/
def credsNow (s : State) : SMap (BitVec 256) := s.ctxs.map fun p => (p.1, shake256 p.2.desc.vcred)

/-- The freeze of an origin (R343, R344); it takes the next capsule number. Log 39 (DEDUCED). -/
def freezeFrom (s : State) (unit cause : Nat) (ctx : Option Nat) (info : Word) (lost : List Nat) : FreezeState :=
  { origin := unit, cause := cause, ctx := ctx.getD 255, t0 := s.time, info := faultPay cause ctx info, seconds := [],
    nsecond := 0, starts := [{ unit := unit, cause := cause, t0 := s.time }], lostUnits := lost, capno := (s.capno + 1) % 2 ^ 32
    boot := s.boot, redact := redactNow s, creds := credsNow s }

/-- A secondary fault; up to seven are listed (R341). -/
def FreezeState.second (f : FreezeState) (x : Second) : FreezeState :=
  { f with seconds := if f.seconds.length < 7 then f.seconds ++ [x] else f.seconds, nsecond := f.nsecond + 1 }

/-- A unit whose vault was recording starts a freeze while one is in progress (R341): the lower unit of an equal T0 is the
origin, and else it is a secondary fault. Its tokens go out beside the others. -/
def FreezeState.join (f : FreezeState) (s : State) (unit cause : Nat) (ctx : Option Nat) (info : Word) : FreezeState :=
  let tlo := s.time.toNat % 2 ^ 32
  let start : FreezeStart := { unit := unit, cause := cause, t0 := s.time }
  let f := { f with starts := f.starts ++ [start] }
  if s.time == f.t0 && unit < f.origin then
    { f.second { cause := f.cause, unit := f.origin, tlo := tlo } with
      origin := unit, cause := cause, ctx := ctx.getD 255, info := faultPay cause ctx info }
  else f.second { cause := cause, unit := unit, tlo := tlo }

/-- A unit starts a freeze, or adds a fault to the one in progress (R340, R341). Its own vault is lost where `partOnly` says so.
A unit whose vault has frozen starts nothing more, and neither does a CAPFREEZE during a freeze (R350). Before the recorder is
ready nothing is recorded and nothing freezes (R338). Log 39 (DEDUCED). -/
def startFreeze (s : State) (unit cause : Nat) (ctx : Option Nat) (info : Word) (partOnly : Bool) : State :=
  if !s.ready.getLsbD 537 then s
  else
    let v := s.vault unit
    let lost := if partOnly && !v.frozen then [unit] else []
    let s' := if v.frozen || partOnly then s
      else s.setVault unit (v.fault (vaultSize unit) s.time cause unit (faultPay cause ctx info))
    match s.freeze with
    | none => { s' with freeze := some (freezeFrom s unit cause ctx info lost), capno := (s.capno + 1) % 2 ^ 32 }
    | some f =>
        if v.frozen || cause == 0x82 then
          { s with freeze := some (f.second { cause := cause, unit := unit, tlo := s.time.toNat % 2 ^ 32 }) }
        else
          let f := f.join s unit cause ctx info
          { s' with freeze := some { f with lostUnits := f.lostUnits ++ lost } }

/-- A location in storage without a physical address (R339). -/
def storageLocation (code unit index : Nat) : Word := payload [(35, index), (9, unit), (4, code), (1, 1)]

/-- A location with a physical address (R339). -/
def physLocation (pa : Nat) : Word := payload [(48, pa / 16), (1, 0)]

end Sys2Proof.Machine
end

