-- ==== Sys2Proof/Machine/Translate.lean ====
section
/-!
DEFINITION. Page-table entries, the walk, the TLBs and the checks of one address (23 R303-R309, 09 R133).
-/
namespace Sys2Proof.Machine

/-! ### Entries (R304) -/

def pteV (e : Nat) : Bool := bitOf e 0
def pteR (e : Nat) : Bool := bitOf e 1
def pteW (e : Nat) : Bool := bitOf e 2
def pteX (e : Nat) : Bool := bitOf e 3
def pteSz (e : Nat) : Nat := bitsOf e 7 4
def pteWl (e : Nat) : Nat := bitsOf e 10 8
def pteDb (e : Nat) : Bool := bitOf e 11
/-- Physical address of the frame. -/
def pteFrame (e : Nat) : Nat := bitsOf e 51 12 * 4096
def pteMt (e : Nat) : Nat := bitsOf e 54 53
def pteSh (e : Nat) : Bool := bitOf e 55

/-- Bytes of a page (R304). -/
def pageBytes (sz : Nat) : Nat := 4096 * 4 ^ sz

/-- The region of a physical address (R305). -/
def regionOf (pa : Nat) : Nat := (pa / 2 ^ 48) % 16
def isPooled (pa : Nat) : Bool := regionOf pa == 0
def isWeight (pa : Nat) : Bool := regionOf pa == 8
def isBell (pa : Nat) : Bool := regionOf pa == 12

/-- The memory port that decodes a pooled physical address; none at or above POOLSZ (R329). -/
def portOf (s : State) (pa : Nat) : Option Nat :=
  if isPooled pa && pa < s.poolsz then s.ports[(pa / 4096) % s.ports.length]? else none

/-- The port of a pooled address is ready, or the address is not pooled (R371). -/
def portReady (s : State) (pa : Nat) : Bool := !isPooled pa || (portOf s pa).any fun p => s.ready.getLsbD (526 + p)

/-- The ports of the bytes of a range are ready. -/
def portsReady (s : State) (pa n : Nat) : Bool :=
  n == 0 || (upto ((pa + n - 1) / 4096 - pa / 4096 + 1)).all fun i => portReady s (if i == 0 then pa else (pa / 4096 + i) * 4096)

/-- The die of the home slice of a physical line. Log 15 (DESIGN CHOICE). -/
def homeDie (pa : Nat) : Nat := Config.homeSlice (pa / 128) % 128 / 32

/-- The frame's region exists, and a pooled frame lies below POOLSZ (R305, R329). A weight-store frame has its die in bits
[35:32] and its offset in [31:0]. Log 4 (DESIGN CHOICE). -/
def frameExists (poolsz pa size : Nat) : Bool :=
  (isPooled pa && pa + size ≤ poolsz) || (isWeight pa && (pa % 2 ^ 48) + size ≤ 4 * 2 ^ 32)
    || (isBell pa && (pa % 2 ^ 48) + size ≤ 2048 * 4096)

/-- A leaf entry has its reserved bits zero, a legal MT and WL and a frame that exists and is aligned (R304-R306). -/
def leafForm (poolsz e : Nat) : Bool :=
  pteV e && (pteR e || pteW e || pteX e) && bitsOf e 63 56 == 0 && !bitOf e 52 && pteMt e != 3 && pteWl e ≤ 4
    && frameExists poolsz (pteFrame e) 4096

/-! ### The walk (R303, R306) -/

/-- Levels of the walk: low bit of the index, index bits, natural leaf SZ. -/
def walkLevels : List (Nat × Nat × Option Nat) :=
  [(54, 3, none), (48, 6, none), (42, 6, some 15), (36, 6, some 12), (30, 6, some 9), (24, 6, some 6), (18, 6, some 3),
   (12, 6, some 0)]

/-- The leaf that an entry met at a level with natural SZ `n` gives for a page: its first address, and the entry with FRAME
moved to the first frame of its run. None where the entry breaks R306. -/
def leafAt (poolsz va e lo n : Nat) : Option (Nat × Nat) :=
  let sz := pteSz e
  let k := (va / 2 ^ lo) % 4 ^ (sz - n)
  let first := pteFrame e - k * pageBytes n
  if leafForm poolsz e && (sz == n || (n != 15 && (sz == n + 1 || sz == n + 2)))
      && k * pageBytes n ≤ pteFrame e && first % pageBytes sz == 0 && frameExists poolsz first (pageBytes sz)
  then some (va / pageBytes sz * pageBytes sz, e - pteFrame e + first)
  else none

/-- A pointer entry (R304): the next table's physical address. -/
def pointerTo (e : Nat) : Option Nat :=
  if pteV e && bitsOf e 8 1 == 0 && bitsOf e 63 52 == 0 then some (bitsOf e 51 9 * 512) else none

/-- Pooled memory holds a table of a size at this address (R305, R329). -/
def tableExists (poolsz pa size : Nat) : Bool := isPooled pa && pa + size ≤ poolsz

/-- The walk from a table over the levels left (R303). -/
def walkFrom (mem : List Host.Cell) (poolsz va : Nat) : Nat → List (Nat × Nat × Option Nat) → Option (Nat × Nat)
  | _, [] => none
  | table, (lo, k, nat) :: rest =>
      let e := readNat mem (table + 8 * ((va / 2 ^ lo) % 2 ^ k)) 8
      if !pteV e then none
      else if pteR e || pteW e || pteX e then nat.bind (leafAt poolsz va e lo)
      else match rest with
        | [] => none
        | _ => (pointerTo e).bind fun t => if tableExists poolsz t 512 then walkFrom mem poolsz va t rest else none

/-- The leaf of a virtual address of a context: the page's first address and the leaf entry (R303). -/
def walk (s : State) (ctx va : Nat) : Option (Nat × Nat) :=
  match s.desc? ctx with
  | none => none
  | some d => if tableExists s.poolsz d.ptroot.toNat 64 then walkFrom s.mem s.poolsz va d.ptroot.toNat walkLevels else none

/-- A poisoned line lies in the walk's way: the table lines it reads (R359). -/
def walkLines (mem : List Host.Cell) (poolsz va : Nat) : Nat → List (Nat × Nat × Option Nat) → List Nat
  | _, [] => []
  | table, (lo, k, _) :: rest =>
      let a := table + 8 * ((va / 2 ^ lo) % 2 ^ k)
      if !tableExists poolsz a 8 then []
      else a :: match pointerTo (readNat mem a 8) with
        | none => []
        | some t => walkLines mem poolsz va t rest

/-! ### TLBs (R308) -/

/-- The entry covers the address. -/
def TlbEntry.covers (e : TlbEntry) (ctx va : Nat) : Bool :=
  e.ctx == ctx && e.base ≤ va && va < e.base + pageBytes (pteSz e.leaf)

def dieTlb (s : State) (die : Nat) : List TlbEntry := (s.dtlb.get? die).getD []

/-- µTLB, then the die TLB. -/
def tlbFind (s : State) (c ctx va : Nat) : Option TlbEntry :=
  ((s.cluster c).utlb.find? fun e => e.covers ctx va).or ((dieTlb s (dieOf c)).find? fun e => e.covers ctx va)

/-- Enters a leaf into both TLBs; the oldest entry of a full one goes. -/
def tlbFill (s : State) (c : Nat) (e : TlbEntry) : State :=
  let s := s.modCluster c fun cl => { cl with utlb := (e :: cl.utlb).take 64 }
  { s with dtlb := s.dtlb.set (dieOf c) ((e :: dieTlb s (dieOf c)).take 16384) }

/-- Removes every entry of a context that meets a range (R310, R361). -/
def tlbDrop (s : State) (ctx lo size : Nat) : State :=
  let keep := fun (e : TlbEntry) => !(e.ctx == ctx && overlaps e.base (pageBytes (pteSz e.leaf)) lo size)
  { s with
    clusters := s.clusters.map fun p => (p.1, { p.2 with utlb := p.2.utlb.filter keep })
    dtlb := s.dtlb.map fun p => (p.1, p.2.filter keep) }

/-! ### One address (R133) -/

/-- What an instruction asks of a page (R133 steps 4-6). -/
inductive Need where
  /-- loads, `ldsc`, `pref`, `waitv` -/
  | load
  /-- stores; true for the 64-bit stores that a doorbell page takes -/
  | store (b64 : Bool)
  /-- atomics -/
  | atomic
  /-- `lock`, `unlock`, `trylock` -/
  | lock
  deriving DecidableEq, Repr

/-- The outcome of the checks of one address. -/
inductive Check where
  | ok (pa leaf : Nat)
  | trap (cause : Nat)
  /-- the page of this address is in no TLB -/
  | miss (va : Nat)
  deriving DecidableEq, Repr

/-- Trap causes (R242). -/
def causePagefault : Nat := 0x10
def causeAccess : Nat := 0x11
def causeMisalign : Nat := 0x12
def causeWswrite : Nat := 0x13

/-- The frame is approved code (R63). -/
def State.isApproved (s : State) (pa : Nat) : Bool := s.approved.contains (pa / 4096 * 4096)

/-- The instruction writes. -/
def Need.writes : Need → Bool
  | .load => false
  | _ => true

/-- The page grants what the instruction asks. -/
def Need.granted (leaf : Nat) : Need → Bool
  | .load => pteR leaf
  | .store _ => pteW leaf
  | .atomic => pteR leaf && pteW leaf
  | .lock => pteR leaf && pteW leaf

/-- A page of doorbells takes the instruction. -/
def Need.rings : Need → Bool
  | .load => true
  | .store b64 => b64
  | .atomic => false
  | .lock => false

/-- The checks on the leaf of a translated address (R133 steps 4-6, R144, R63). -/
def checkLeaf (s : State) (need : Need) (pa leaf : Nat) : Check :=
  if need.writes && isWeight pa then .trap causeWswrite
  else if !need.granted leaf || (need.writes && s.isApproved pa) then .trap causeAccess
  else if pteDb leaf && !need.rings then .trap causeAccess
  else if need == .lock && pteSh leaf then .trap causeAccess
  else .ok pa leaf

/-- The physical address of a virtual address under a TLB entry. -/
def TlbEntry.pa (e : TlbEntry) (va : Nat) : Nat := pteFrame e.leaf + (va - e.base)

/-- The checks of a global address of a strand, in order (R133). `absent` is a page known to have no leaf. -/
def checkGlobal (s : State) (c ctx : Nat) (need : Need) (bytes : Nat) (absent : Option Nat) (va : Nat) : Check :=
  if 2 ^ 57 ≤ va then .trap causeAccess
  else if va % bytes != 0 then .trap causeMisalign
  else match tlbFind s c ctx va with
    | some e => checkLeaf s need (e.pa va) e.leaf
    | none => if absent == some (va / 4096) then .trap causePagefault else .miss va

/-- The checks of a global address by an agent that walks at once: a job, the hub. -/
def checkDirect (s : State) (ctx : Nat) (need : Need) (va : Nat) : Check :=
  if 2 ^ 57 ≤ va then .trap causeAccess
  else match walk s ctx va with
    | none => .trap causePagefault
    | some (base, leaf) => checkLeaf s need (pteFrame leaf + (va - base)) leaf

/-- The physical address the hub reaches for a virtual address with the given need, if it may. -/
def hubPa (s : State) (ctx : Nat) (need : Need) (va : Nat) : Option Nat :=
  match checkDirect s ctx need va with
  | .ok pa _ => some pa
  | _ => none

/-- Every byte of a range may be reached: the pages it meets are each checked. -/
def rangeOk (s : State) (ctx : Nat) (need : Need) (va len : Nat) : Bool :=
  len == 0 || (upto ((va + len - 1) / 4096 - va / 4096 + 1)).all fun i =>
    (hubPa s ctx need (if i == 0 then va else (va / 4096 + i) * 4096)).isSome

/-! ### Reading and writing locations -/

/-- The doorbell tails seen as bytes (R210). -/
def bellBytes (s : State) (pa n : Nat) : List Byte :=
  (upto n).map fun i => BitVec.ofNat 8 (((s.bells.get? ((pa + i) / 8 * 8)).getD 0).toNat / 2 ^ (8 * ((pa + i) % 8)))

/-- The word a lock state shows (R144). -/
def lockWord (l : Lock) : Word :=
  match l.holder with
  | some h => payload [(1, 1), (29, 0), (3, h.slot), (9, h.cluster), (6, h.ctx), (16, l.waiters.length)]
  | none => payload [(48, 0), (16, l.waiters.length)]

/-- The lock state serves the word: held or waited for (R144). -/
def lockServes (s : State) (pa : Nat) : Option Lock :=
  (s.locks.get? (pa / 8 * 8)).filter fun l => l.holder.isSome || !l.waiters.isEmpty

/-- Bytes as coherently seen at physical addresses of one aligned access (R134, R144, R210). -/
def seenBytes (s : State) (pa n : Nat) : List Byte :=
  if isBell pa then bellBytes s pa n
  else (upto n).map fun i =>
    match lockServes s (pa + i) with
    | some l => BitVec.ofNat 8 ((lockWord l).toNat / 2 ^ (8 * ((pa + i) % 8)))
    | none => readByte s.mem (pa + i)

def seenNat (s : State) (pa n : Nat) : Nat := leNat (seenBytes s pa n)

/-- Writes the bytes given; a byte of a word that a lock state serves is left (R144). -/
def storeBytes (s : State) (pa : Nat) : List (Option Byte) → State
  | [] => s
  | b :: bs =>
      let s := match b with
        | none => s
        | some b => if (lockServes s pa).isSome then s else { s with mem := writeByte s.mem pa b }
      storeBytes s (pa + 1) bs

/-- A write of a whole line of a die cache ends its poison (28 R359). -/
def healLines (s : State) (pa n : Nat) : State :=
  if s.poison.isEmpty then s
  else { s with poison := s.poison.filter fun p => match p with
    | .dieCache a => !(pa ≤ a / 128 * 128 && a / 128 * 128 + 128 ≤ pa + n)
    | _ => true }

/-- Stores a number of `n` bytes. -/
def storeNat (s : State) (pa n v : Nat) : State := storeBytes s pa ((leBytes n v).map some)

/-- An access through a leaf reaches a line that the die caches hold with the pool's permission: of an SH = 1 page that is not
uncached (13 R205, 25 R330). -/
def leafShared (leaf : Nat) : Bool := pteSh leaf && pteMt leaf != 2

/-- The line is held once it has been reached (25 R330). -/
def shareLine (s : State) (shared : Bool) (pa : Nat) : State :=
  if shared && !s.sharedLines.contains (pa / 128) then { s with sharedLines := s.sharedLines ++ [pa / 128] } else s

/-- The lines of a range are held once they have been reached. -/
def shareRange (s : State) (shared : Bool) (pa n : Nat) : State :=
  if shared then (upto ((pa + n - 1) / 128 - pa / 128 + 1)).foldl (fun s i => shareLine s true (pa + 128 * i)) s else s

/-- The hub has reached bytes of a context: their shared lines are held (25 R330). -/
def hubHolds (s : State) (ctx va n : Nat) : State :=
  (upto ((va + n - 1) / 128 - va / 128 + 1)).foldl (fun s i =>
    let a := if i == 0 then va else (va / 128 + i) * 128
    match walk s ctx a with
    | some (base, leaf) => shareLine s (leafShared leaf) (pteFrame leaf + (a - base))
    | none => s) s

/-- The memory ports of bytes that the hub reaches for a context are ready: until then the access waits (29 R371). -/
def hubReady (s : State) (ctx va n : Nat) : Bool :=
  n == 0 || (upto ((va + n - 1) / 4096 - va / 4096 + 1)).all fun i =>
    let a := if i == 0 then va else (va / 4096 + i) * 4096
    match walk s ctx a with
    | some (base, leaf) => portReady s (pteFrame leaf + (a - base))
    | none => true

/-- Bytes the hub or a job reads through the page tables of a context; a byte that cannot be reached reads 0. -/
def hubBytes (s : State) (ctx va n : Nat) : List Byte :=
  (upto n).map fun i => match hubPa s ctx .load (va + i) with
    | some pa => (seenBytes s pa 1).headD 0
    | none => 0

def hubNat (s : State) (ctx va n : Nat) : Nat := leNat (hubBytes s ctx va n)

/-- A number the hub writes through the page tables of a context. -/
def hubStore (s : State) (ctx va n v : Nat) : State :=
  (upto n).foldl (fun s i => match hubPa s ctx (.store false) (va + i) with
    | some pa => storeBytes s pa [some (BitVec.ofNat 8 (v / 2 ^ (8 * i)))]
    | none => s) (hubHolds s ctx va n)

end Sys2Proof.Machine
end

