-- ==== Sys2Proof/Machine/Grids.lean ====
section
/-!
DEFINITION. Launch records, the census merge, and what accepts, completes and retires grids and blocks
(21 R281-R289, 12 R195-R201, 27 R355-R356).
-/
namespace Sys2Proof.Machine

/-! ### Census (R355, R356) -/

def maxW (w : Nat) : Nat := 2 ^ w - 1

/-- Saturating sum of counts in `w` bits. -/
def satAdd (w : Nat) (a b : List Nat) : List Nat := (a.zip b).map fun p => min (p.1 + p.2) (maxW w)

/-- The key of a census site. -/
def censusKey (ctx base ord : Nat) : Nat := joinFields [(17, ord), (41, base / 2 ^ 16), (6, ctx)]

/-- Adds the counts INST, NAN, INF, SAT, UF of a site into a cluster's table of 256 entries, the last reserved for sites that
find none (R355). The overflow entry is of the context that took it, and counts for others too. Log 30 (DEDUCED). -/
def censusAdd (t : List CensusEntry) (ctx key : Nat) (counts : List Nat) : List CensusEntry :=
  let add := fun (key : Nat) => t.map fun e => if e.key == key then { e with counts := satAdd 32 e.counts counts } else e
  let fresh := fun (key : Nat) => t ++ [{ ctx := ctx, key := key, counts := satAdd 32 (List.replicate 5 0) counts }]
  if t.any fun e => e.key == key then add key
  else if (t.filter fun e => e.key != maxW 64).length < 255 then fresh key
  else if t.any fun e => e.key == maxW 64 then add (maxW 64)
  else fresh (maxW 64)

/-- Adds one entry into a merged table at a physical base (R356). Log 30 (DEDUCED). -/
def mergeEntry (mem : List Host.Cell) (base cap : Nat) (e : CensusEntry) : List Host.Cell :=
  let used := readNat mem base 4
  let at' := fun i => base + 64 + 48 * i
  let hit := (upto used).find? fun i => readNat mem (at' i) 8 == e.key
  let addTo := fun (mem : List Host.Cell) (i : Nat) =>
    (e.counts.zip (upto 5)).foldl (fun mem p =>
      let a := at' i + 8 + 8 * p.2
      writeNat mem a 8 (min (readNat mem a 8 + p.1) (maxW 64))) mem
  match hit with
  | some i => addTo mem i
  | none =>
      if used < cap then
        let mem := writeNat (writeNat mem (at' used) 8 e.key) (at' used + 8) 40 0
        writeNat (addTo mem used) base 4 (used + 1)
      else addTo mem 0

/-- The merge of every cluster table of a context into its merged table (R356). -/
def mergeCensus (s : State) (ctx : Nat) : State :=
  let entries := (s.clusters.map fun p => p.2.census.filter fun e => e.ctx == ctx).flatten
  let s := { s with clusters := s.clusters.map fun p =>
    (p.1, { p.2 with census := p.2.census.filter fun e => e.ctx != ctx }) }
  match (s.ctx? ctx).bind Context.merged with
  | none => s
  | some (base, cap) => { s with mem := entries.foldl (fun m e => mergeEntry m base cap e) s.mem }

/-! ### The launch record (R282, R283) -/

/-- A field of a record's bytes. -/
def fieldAt (bs : List Byte) (off n : Nat) : Nat := leNat ((bs.drop off).take n)

/-- The roles of a record: entries up to the first with STR = 0 (R283). -/
def roleEntries (bs : List Byte) (code : Nat) : List Role :=
  let all : List Role := (upto 8).map fun i =>
    let o := 128 + 16 * i
    let h := fieldAt bs (o + 4) 4
    { window := fieldAt bs (o + 8) 2, freed := false, entry := BitVec.ofNat 57 (code + fieldAt bs o 4),
      handler := if h == 0xFFFFFFFF then 0 else BitVec.ofNat 64 (code + h), lo := fieldAt bs (o + 12) 2,
      hi := fieldAt bs (o + 14) 2, strands := fieldAt bs (o + 10) 1 }
  all.takeWhile fun r => r.strands != 0

/-- The fields of a 256-byte record. -/
def parseLaunch (bs : List Byte) : Launch :=
  let code := fieldAt bs 0 8
  { code := code, argp := fieldAt bs 8 8, taskp := fieldAt bs 16 8, sigp := fieldAt bs 24 8,
    grid := BitVec.ofNat 64 (fieldAt bs 32 8), bx := fieldAt bs 40 2, by' := fieldAt bs 42 2, bz := fieldAt bs 44 2,
    coop := bitOf (fieldAt bs 46 1) 0, ind := bitOf (fieldAt bs 46 1) 1, depth := fieldAt bs 47 1 % 16,
    scratch := fieldAt bs 48 4, bars := fieldAt bs 52 2, shared := fieldAt bs 54 1, tiles := fieldAt bs 55 1,
    pri := fieldAt bs 56 1 % 4, ctx := fieldAt bs 57 1 % 64,
    fmts := Vector.ofFn fun i => BitVec.ofNat 32 (fieldAt bs (64 + 4 * i.val) 4),
    scales := Vector.ofFn fun i => BitVec.ofNat 32 (fieldAt bs (96 + 4 * i.val) 4),
    roles := roleEntries bs code }

/-- Threads of a block. -/
def Launch.n (l : Launch) : Nat := l.bx * l.by' * l.bz

/-- Scratchpad granules of 4 KiB (R197). -/
def Launch.spGranules (l : Launch) : Nat := ceilDiv l.scratch 4096

/-- Register granules of one thread-slot granule (R197). -/
def windowGranules (roles : List Role) (shared : Nat) : Nat :=
  roles.foldl (fun g r => g + ceilDiv r.window 32) 0 + ceilDiv shared 32

def Launch.regGranules (l : Launch) : Nat := ceilDiv l.n 64 * windowGranules l.roles l.shared

def Launch.strandCount (l : Launch) : Nat := l.roles.foldl (fun n r => n + r.strands) 0

/-- GX, GY, GZ of the GRID field. -/
def gridDims (w : Nat) : Nat × Nat × Nat := (bitsOf w 31 0, bitsOf w 47 32, bitsOf w 63 48)

/-- The limits of R195, less those on N. -/
def Launch.rolesOk (l : Launch) : Bool :=
  1 ≤ l.roles.length && l.strandCount ≤ 8 && l.shared ≤ 64
    && l.roles.all fun r => 1 ≤ r.strands && r.strands ≤ 6 && r.window ≤ 256 && r.lo ≤ r.hi && r.hi < l.n

/-- Reserved bits of the record are zero (R282, R283). -/
def recordReserved (bs : List Byte) : Bool :=
  fieldAt bs 46 1 / 4 == 0 && fieldAt bs 47 1 / 16 == 0 && fieldAt bs 56 1 / 4 == 0 && fieldAt bs 57 1 / 64 == 0
    && fieldAt bs 58 6 == 0
    && (upto (roleEntries bs 0).length).all fun i => fieldAt bs (128 + 16 * i + 11) 1 == 0

/-- The argument words the code object's table names (R80): offsets from ARGP. -/
def argOffsets (s : State) (ctx code : Nat) : List Nat :=
  match s.code.find? fun o => o.ctx == ctx && o.base == code with
  | none => []
  | some o => o.args.map fun a => a.2.2

/-! ### Placement (R197, R288, R289) -/

/-- What a cluster has left: thread granules, register granules, scratchpad granules, barrier slots, strand slots, tiles,
and blocks. -/
structure Room where
  threads : Nat
  regs : Nat
  scratch : Nat
  bars : Nat
  slots : Nat
  tiles : Nat
  blocks : Nat
  deriving DecidableEq, Repr

def Block.room (b : Block) : Room :=
  { threads := ceilDiv b.n 64
    regs := ceilDiv b.n 64 * windowGranules (b.roles.filter fun r => !r.freed) b.shared
    scratch := ceilDiv b.scratchLen 4096, bars := b.bars, slots := 0, tiles := b.tiles
    blocks := 1 }

def Launch.need (l : Launch) : Room :=
  { threads := ceilDiv l.n 64, regs := l.regGranules, scratch := l.spGranules, bars := l.bars, slots := l.strandCount,
    tiles := l.tiles, blocks := 1 }

def Room.full : Room := { threads := 64, regs := 256, scratch := 768, bars := 256, slots := 8, tiles := 48, blocks := 8 }

def Room.sub (a b : Room) : Room :=
  { threads := a.threads - b.threads, regs := a.regs - b.regs, scratch := a.scratch - b.scratch, bars := a.bars - b.bars,
    slots := a.slots - b.slots, tiles := a.tiles - b.tiles, blocks := a.blocks - b.blocks }

def Room.fits (need have' : Room) : Bool :=
  need.threads ≤ have'.threads && need.regs ≤ have'.regs && need.scratch ≤ have'.scratch && need.bars ≤ have'.bars
    && need.slots ≤ have'.slots && need.tiles ≤ have'.tiles && need.blocks ≤ have'.blocks

/-- Tiles of blocks that have retired which the tile engine still reads (R148, R201). -/
def Cluster.tilesLeft (cl : Cluster) : Nat :=
  (((cl.tileOps.filter fun t => (cl.blocks.get? t.block).isNone).map fun t => (t.block, t.name, t.drains)).eraseDups).length

/-- The room left in a cluster. -/
def Cluster.room (cl : Cluster) : Room :=
  let r := cl.blocks.foldl (fun r p => r.sub p.2.room) Room.full
  { r with slots := r.slots - cl.strands.length, tiles := r.tiles - cl.tilesLeft }

/-- How many blocks of a launch fit together in a room. -/
def Room.copies (need have' : Room) : Nat :=
  let q := fun n h => if n == 0 then 9 else h / n
  [q need.threads have'.threads, q need.regs have'.regs, q need.scratch have'.scratch, q need.bars have'.bars,
    q need.slots have'.slots, q need.tiles have'.tiles, q need.blocks have'.blocks].foldl min 9

/-- PART and rail of a cluster (R313). -/
def clusterPart (s : State) (c : Nat) : Nat := bitsOf (s.activeEntry c).toNat 9 8
def clusterRail (s : State) (c : Nat) : Nat := bitsOf (s.activeEntry c).toNat 1 0

/-- Clusters of the context's partition, starting one past the last placement (R288). Log 5 (DESIGN CHOICE). -/
def walkClusters (s : State) (part : Nat) : List Nat :=
  ((upto 384).map fun i => (s.lastPlaced + 1 + i) % 384).filter fun c => clusterPart s c == part

def ctxPart (s : State) (ctx : Nat) : Nat := match s.desc? ctx with | some d => d.part.toNat | none => 0

/-- R289: all blocks fit together with every cluster of the partition empty. -/
def coopFits (s : State) (l : Launch) (blocks : Nat) : Bool :=
  blocks ≤ (walkClusters s (ctxPart s l.ctx)).length * Room.copies l.need Room.full

/-! ### Acceptance (R285) -/

/-- The checks of R285 that do not depend on the dimensions read later, in order: the first failing status. `fmtsOk` is
R29. -/
def launchStatus (s : State) (qctx : Nat) (bs : List Byte) (fmtsOk : Bool) (dims : Option (Nat × Nat × Nat)) : Nat :=
  let l := parseLaunch bs
  let dimsBad := match dims with | some (gx, _, _) => 2 ^ 31 < gx | none => false
  let blocks := match dims with | some (gx, gy, gz) => gx * gy * gz | none => 0
  let block := if l.ind then l.grid.toNat else 0
  let psig := hubNat s l.ctx (block + 8) 8
  let bad := l.code % 4096 != 0 || l.argp % 8 != 0 || l.sigp % 8 != 0 || !recordReserved bs || l.ctx != qctx
    || (l.taskp != 0 && !rangeOk s qctx .load l.taskp (64 * l.roles.length))
    || (l.ind && !rangeOk s qctx .load block 24)
    || (l.ind && psig != 0 && !rangeOk s qctx .load psig 4)
    || (argOffsets s qctx l.code).any (fun o => !rangeOk s qctx .load (l.argp + o) 8)
    || (l.sigp != 0 && !rangeOk s qctx (.store false) l.sigp 8)
  if bad then 0x10
  else if l.bx == 0 || l.by' == 0 || l.bz == 0 || 4096 < l.n || dimsBad then 0x11
  else if !l.rolesOk then 0x12
  else if !fmtsOk then 0x13
  else if 3 * 2 ^ 20 < l.scratch || 256 < l.bars || l.tiles < 1 || 48 < l.tiles || 256 < l.regGranules then 0x14
  else if 10 < l.depth then 0x15
  else if l.coop && !coopFits s l blocks then 0x16
  else 0

/-- The step on a completion signal word (R286); false where no signal can be given. -/
def signalGrid (s : State) (ctx sigp status : Nat) : State × Bool :=
  if sigp == 0 then (s, true)
  else if sigp % 8 != 0 then (s, false)
  else match hubPa s ctx (.store false) sigp with
    | none => (s, false)
    | some pa =>
        let s := hubHolds s ctx sigp 8
        let w := seenNat s pa 8
        let lo := (bitsOf w 31 0 + 1) % 2 ^ 32
        let hi := max (bitsOf w 63 56) status
        (storeNat s pa 8 (joinFields [(32, lo), (24, bitsOf w 55 32), (8, hi)]), true)

/-- A LAUNCH record of the hub (R336). -/
def launchRecord (s : State) (kind ctx va depth status : Nat) : State :=
  record s hubUnit 0x0A ctx 0 0 (payload [(49, va / 256), (1, 0), (8, status), (4, depth), (2, kind)])

/-- Whether nothing of a grid remains to run: every block it will have has retired, and every child has completed. -/
def Grid.finished (g : Grid) : Bool :=
  match g.dims with
  | none => g.closed && g.placed == g.retired && g.children == 0
  | some (gx, gy, gz) => g.children == 0 && g.placed == g.retired && (g.closed || g.placed == gx * gy * gz)

/-- Completes a grid that is finished, and then its parent where that leaves it finished (R200, R286). `fuel` bounds the
chain, which is at most 10 deep (R95). -/
def settleGrid : Nat → State → Nat → State
  | 0, s, _ => s
  | fuel + 1, s, g =>
      match s.grids.get? g with
      | none => s
      | some gr =>
          if !gr.finished then s
          else
            let s := mergeCensus s gr.rec'.ctx
            let (s, ok) := signalGrid s gr.rec'.ctx gr.rec'.sigp gr.status
            let s := launchRecord s 2 gr.rec'.ctx gr.va gr.rec'.depth (if ok then gr.status else 0x23)
            let s := { s with grids := s.grids.del g }
            match gr.parent with
            | none => s
            | some p => settleGrid fuel (s.modGrid p fun x => { x with children := x.children - 1 }) p

def settle (s : State) (g : Nat) : State := settleGrid 12 s g

/-- A submission of `launch`, of the record at an address, counts as a completed child without a grid (R281, R286). -/
def refuseSubmission (s : State) (ctx va parent sigp status : Nat) : State :=
  let s := launchRecord s 1 ctx va (hubNat s ctx (va + 47) 1 % 16) status
  let (s, _) := signalGrid s ctx sigp status
  settle (s.modGrid parent fun x => { x with children := x.children - 1 }) parent

/-- A block retires once every strand of it has ended, the tracker holds no entry of it (R201), and the folds of its phases have
been made (27 R351). -/
def retireBlock (s : State) (c b : Nat) : State :=
  let cl := s.cluster c
  match cl.blocks.get? b with
  | none => s
  | some bl =>
      if (cl.strands.any fun p => p.2.block == b) || (cl.tracker.any fun t => t.block == b) || !bl.foldDue.isEmpty then s
      else
        let s := s.setCluster c { cl with blocks := cl.blocks.del b
                                          deliveries := cl.deliveries.filter fun d => d.block != b }
        settle (s.modGrid bl.grid fun g => { g with retired := g.retired + 1 }) bl.grid

end Sys2Proof.Machine
end

