-- ==== Sys2Proof/Machine/JobParts.lean ====
section
/-!
DEFINITION. A job in flight (11 R173-R182): its descriptors, the accesses that are due, and its records.
-/
namespace Sys2Proof.Machine

/-! ### Descriptors (R174) -/

/-- A signed number of `w` bits. -/
def sextNat (w n : Nat) : Int := (BitVec.ofNat w n).toInt

/-- A descriptor (R174). -/
structure JobDesc where
  scratch : Bool
  base : Nat
  x : Nat
  y : Nat
  z : Nat
  ys : Int
  zs : Int
  ok : Bool
  deriving DecidableEq, Repr

/-- The descriptor in 24 bytes, for an element size. -/
def jobDesc (bs : List Byte) (esz : Nat) : JobDesc :=
  let base := fieldAt bs 0 8
  let ys := sextNat 32 (fieldAt bs 16 4)
  let zs := sextNat 32 (fieldAt bs 20 4)
  let n : Int := 2 ^ esz
  { scratch := bitOf base 63, base := base % 2 ^ 57, x := fieldAt bs 8 2, y := fieldAt bs 10 2, z := fieldAt bs 12 2,
    ys := ys, zs := zs
    ok := bitsOf base 62 57 == 0 && fieldAt bs 14 2 == 0 && (base % 2 ^ 57) % 2 ^ esz == 0 && ys % n == 0 && zs % n == 0 }

/-- E of a descriptor. -/
def JobDesc.count (d : JobDesc) : Nat := d.x * d.y * d.z

/-- The address of an element by its linear index. -/
def JobDesc.addr (d : JobDesc) (esz j : Nat) : Nat :=
  let a : Int := d.base + (j % d.x * 2 ^ esz : Nat) + (j / d.x % d.y : Nat) * d.ys + (j / (d.x * d.y) : Nat) * d.zs
  (a % 2 ^ 64).toNat

/-! ### Elements (R176) -/

/-- A job's descriptors, as its start has read them. -/
def Job.sd (j : Job) : JobDesc := jobDesc j.src j.esz
def Job.dd (j : Job) : JobDesc := jobDesc j.dst j.esz

/-- The descriptors of a started job break R174, or the counts R176. -/
def Job.malformed (j : Job) : Bool :=
  !j.sd.ok || !j.dd.ok || (j.opc != 2 && j.opc != 3 && j.sd.count != j.dd.count)

/-- The elements a job goes through: those of the destination, and for a scatter those of the source (R176). -/
def Job.total (j : Job) : Nat := if j.opc == 3 then j.sd.count else j.dd.count

/-- The lowest key from `k` on that a map with keys from `k` on lacks. -/
def firstGap {α : Type} : Nat → SMap α → Nat
  | k, [] => k
  | k, (i, _) :: rest => if i == k then firstGap (k + 1) rest else k

/-- Every element has been written or skipped. -/
def Job.done (j : Job) : Bool := j.total ≤ firstGap 0 j.wrote

/-- The job makes no further read (R213): it has read every index, and every source element that one names or that it needs. -/
def Job.readsDone (j : Job) : Bool :=
  j.started && (j.done || !j.faults.isEmpty || j.malformed || match j.opc with
    | 2 | 3 => j.total ≤ j.ixs.length && j.ixs.all fun p =>
        (if j.opc == 2 then j.sd.count else j.dd.count) ≤ p.2 || (j.got.get? p.1).isSome
    | _ => j.sd.count ≤ j.got.length)

/-! ### Accesses (R176, R181, 14 R217) -/

/-- An access of a job: whether it writes, its space, its address there and its bytes. -/
structure JobAccess where
  write : Bool
  scratch : Bool
  addr : Nat
  bytes : Nat
  deriving DecidableEq, Repr

/-- The element number of a part. -/
def JobPart.element : JobPart → Nat
  | .index i | .source i | .write i => i

/-- Prefix sum modulo 2^32. -/
def sum32 (vs : List Nat) : Nat := vs.foldl (fun a v => (a + v) % 2 ^ 32) 0

/-- No earlier element of a scatter goes to the destination element of element i and is yet to be written (R176). -/
def Job.clearOf (j : Job) (i x : Nat) : Bool :=
  (upto i).all fun k => (j.wrote.get? k).isSome || (match j.ixs.get? k with | some y => y != x | none => false)

/-- The destination element that element i goes to and its value, once what it depends on has been read (R176). -/
def Job.value (j : Job) (i : Nat) : Option (Nat × Nat) :=
  let all := fun (f : List Nat → List Nat) =>
    if j.got.length == j.sd.count then (f (j.got.map Prod.snd))[i]?.map fun v => (i, v) else none
  match j.opc with
  | 1 => (j.got.get? i).map fun v => (i, v)
  | 2 => (j.ixs.get? i).bind fun x => if x < j.sd.count then (j.got.get? i).map fun v => (i, v) else some (i, 0)
  | 3 => (j.ixs.get? i).bind fun x =>
      if x < j.dd.count && j.clearOf i x then (j.got.get? i).map fun v => (x, v) else none
  | 4 => all (sortBy fun v => v)
  | 5 => all (sortBy fun v => v % 2 ^ 32)
  | _ => if (upto i).all fun k => (j.got.get? k).isSome then
      some (i, sum32 ((upto i).map fun k => (j.got.get? k).getD 0)) else none

/-- The access of a part of a started job, where the part is due: an index of a gather or scatter, a source element whose place is
known, or a destination element whose value is. -/
def Job.access (j : Job) : JobPart → Option JobAccess
  | .index i =>
      if (j.opc == 2 || j.opc == 3) && i < j.total && (j.ixs.get? i).isNone then
        some { write := false, scratch := true, addr := j.ixb + 4 * i, bytes := 4 }
      else none
  | .source i =>
      let src := fun (e : Nat) =>
        ({ write := false, scratch := j.sd.scratch, addr := j.sd.addr j.esz e, bytes := 2 ^ j.esz } : JobAccess)
      if (j.got.get? i).isSome then none
      else match j.opc with
        | 2 => (j.ixs.get? i).bind fun x => if x < j.sd.count then some (src x) else none
        | 3 => (j.ixs.get? i).bind fun x => if x < j.dd.count then some (src i) else none
        | _ => if i < j.sd.count then some (src i) else none
  | .write i =>
      if j.total ≤ i || (j.wrote.get? i).isSome then none
      else (j.value i).map fun q =>
        { write := true, scratch := j.dd.scratch, addr := j.dd.addr j.esz q.1, bytes := 2 ^ j.esz }

/-- The part that comes next where a job goes in the order of its elements. -/
def Job.next (j : Job) : Option JobPart :=
  let i := firstGap 0 j.wrote
  let g := firstGap 0 j.got
  if j.total ≤ i then none
  else match j.opc with
    | 1 => some (if (j.got.get? i).isNone then .source i else .write i)
    | 2 | 3 => match j.ixs.get? i with
      | none => some (.index i)
      | some x => some (if (j.got.get? i).isNone && (j.opc == 3 || x < j.sd.count) then .source i else .write i)
    | _ => some (if g < j.sd.count then .source g else .write i)

/-- The access lies in the job's footprint (R175, R181). -/
def Job.inside (j : Job) (a : JobAccess) : Bool :=
  (upto a.bytes).all fun i => (if a.write then j.writes else j.reads).any fun r =>
    r.scratch == a.scratch && r.base ≤ a.addr + i && a.addr + i < r.base + r.len

/-- A JOB record (26 R336). -/
def jobRecord (s : State) (c kind cause : Nat) (j : Job) : State :=
  record s c 0x06 j.ctx j.origin j.site
    (payload [(32, j.ticket), (8, 0), (8, cause), (8, j.opc), (3, 0),
      (3, match j.eng with | .copy => 0 | .gather => 1 | .sort => 2), (2, kind)])

end Sys2Proof.Machine
end

