-- ==== Sys2Proof/Machine/Containment.lean ====
section
/-!
DEFINITION. What a fatal fault ends: the freeze and the kill of a context (28 R359-R362), and ERRSUM (28 R366).
-/
namespace Sys2Proof.Machine

/-! ### ERRSUM (R366) -/

/-- Raises a saturating field of ERRSUM. -/
def bumpErr (s : State) (hi lo : Nat) : State :=
  let w := s.errsum.toNat
  let f := bitsOf w hi lo
  if f == maxW (hi + 1 - lo) then s else { s with errsum := BitVec.ofNat 64 (w + 2 ^ lo) }

def bumpKills (s : State) : State := bumpErr s 63 48
def bumpLost (s : State) : State := bumpErr s 47 40
def bumpUncor (s : State) : State := bumpErr s 39 32

/-- CORR wraps. -/
def bumpCorr (s : State) : State :=
  let w := s.errsum.toNat
  { s with errsum := BitVec.ofNat 64 (w / 2 ^ 32 * 2 ^ 32 + (w % 2 ^ 32 + 1) % 2 ^ 32) }

/-! ### Queues -/

/-- Deregisters a queue: HEAD and TAIL written back into the record, slot unmapped, doorbell unbound and its tail gone (R274,
R374, R280). A submission that its packet carried unresolved stays the context's (R281). -/
def closeQueue (s : State) (q : Nat) : State :=
  match s.queues.get? q with
  | none => s
  | some r =>
      let tail := (s.bells.get? r.door).getD 0
      let s : State := hubStore s r.ctx (r.va + 16) 8 r.head.toNat
      let s : State := hubStore s r.ctx (r.va + 24) 8 tail.toNat
      let s : State := { s with queues := s.queues.del q, bells := s.bells.del r.door }
      match r.packet.bind Packet.sub with
      | some sub => s.modCtx r.ctx fun x => { x with subs := x.subs.set r.head.toNat sub }
      | none => s

/-! ### Locks (R361 step 7) -/

/-- A lock after the requests of a context are removed and a lock it holds is passed on. -/
def Lock.purge (l : Lock) (ctx : Nat) : Lock :=
  let ws := l.waiters.filter fun h => h.ctx != ctx
  match l.holder with
  | some h =>
      if h.ctx == ctx then { l with holder := ws.head?, waiters := ws.tail } else { l with waiters := ws }
  | none => { l with waiters := ws }

/-- A LOCK record of the home slice's fabric vault (26 R336). -/
def lockRecord (s : State) (kind : Nat) (h : Holder) (pa va : Nat) : State :=
  record s (fabricUnit (homeDie pa)) 0x04 h.ctx h.slot 0 (payload [(57, va), (5, 0), (2, kind)])

/-- The records of the locks that a context held: handed over, or freed. -/
def purgeRecords (s : State) (ctx : Nat) : State :=
  s.locks.foldl (fun s p => match p.2.holder.filter fun h => h.ctx == ctx with
    | none => s
    | some h => match (p.2.purge ctx).holder with
      | some n => lockRecord s 2 n p.1 p.2.va
      | none => lockRecord s 3 h p.1 p.2.va) s

/-! ### The kill -/

/-- The current that the removed work of a context holds in a cluster. -/
def heldCurrent (cl : Cluster) (blocks : List Nat) : Nat :=
  let sum := fun (l : List Nat) => l.foldl (· + ·) 0
  sum ((cl.jobs.filter fun j => blocks.contains j.block).map Job.current)
    + sum ((cl.tileOps.filter fun t => blocks.contains t.block).map TileOp.current)
    + sum ((cl.bankOps.filter fun t => blocks.contains t.block).map BankOp.current)
    + sum ((cl.sweeps.filter fun t => blocks.contains t.block).map Sweep.current)

/-- Power without the tasks named that wait or have not issued. -/
def Power.without (p : Power) (task : Nat → Bool) : Power :=
  { p with
    infl := p.infl - ((p.admitted.filter fun a => task a.1).map Prod.snd).foldl (· + ·) 0
    admitted := p.admitted.filter fun a => !task a.1
    waiting := p.waiting.filter fun a => !task a.1 }

/-- The slot of the strand that a task is named by (`Power.waiting`). -/
def taskSlot (task : Nat) : Nat := if task < 16 then task % 8 else task - 16

/-- The cluster without anything of the given blocks, which are a context's. -/
def Cluster.without (cl : Cluster) (ctx : Nat) (blocks : List Nat) : Cluster :=
  let gone : Nat → Bool := fun b => blocks.contains b
  let slot : Nat → Bool := fun k => (cl.strands.get? k).any fun st => gone st.block
  let handlerGone : Bool := match cl.handler with
    | some k => (cl.strands.get? k).any fun st => gone st.block
    | none => false
  { cl with
    strands := cl.strands.filter fun p => !gone p.2.block
    blocks := cl.blocks.filter fun p => !gone p.1
    handler := if handlerGone then none else cl.handler
    hlatch := if handlerGone then none else cl.hlatch
    hstack := if handlerGone then { levels := [], base := 0, limit := 15 } else cl.hstack
    deliveries := cl.deliveries.filter fun d => !gone d.block
    landings := cl.landings.filter fun d => !gone d.block
    jobs := cl.jobs.filter fun j => !gone j.block
    tileOps := cl.tileOps.filter fun t => !gone t.block
    bankOps := cl.bankOps.filter fun t => !gone t.block
    sweeps := cl.sweeps.filter fun t => !gone t.block
    arrivals := cl.arrivals.filter fun a => !slot a.slot
    tracker := cl.tracker.filter fun t => !gone t.block
    counters := cl.counters.del ctx
    stopping := if cl.stopping == some ctx then none else cl.stopping
    power := Power.without { cl.power with infl := cl.power.infl - heldCurrent cl blocks } (fun t => slot (taskSlot t)) }

/-- The blocks of a context in a cluster. -/
def Cluster.blocksOf (cl : Cluster) (ctx : Nat) : List Nat :=
  (cl.blocks.filter fun p => p.2.ctx == ctx).map Prod.fst

/-- The accesses of a context to global memory that a cluster has sent and that are not performed. -/
def Cluster.outOf (cl : Cluster) (ctx : Nat) : List Access :=
  (((cl.orphans.filter fun o => o.ctx == ctx).map Orphan.access)
    ++ ((cl.strands.filter fun p => (cl.blocksOf ctx).contains p.2.block).map fun p => p.2.out).flatten).filter
    fun a => a.space.isNone

/-- Completes every grid of a context with a status, lowest number last, so that children go first (R361 step 5). -/
def endGrids (s : State) (ctx status : Nat) : State :=
  ((s.grids.filter fun p => p.2.rec'.ctx == ctx).reverse).foldl (fun s p =>
    let s : State := mergeCensus s ctx
    let (s, ok) := signalGrid s ctx p.2.rec'.sigp status
    let s : State := launchRecord s 2 ctx p.2.va p.2.rec'.depth (if ok then status else 0x23)
    { s with grids := s.grids.del p.1 }) s

/-- The writes of a context's jobs in flight whose values are known: they may have been sent (R362). -/
def jobStores (s : State) (cl : Cluster) (ctx : Nat) : List Access :=
  let made := (cl.jobs.filter fun j => j.ctx == ctx && j.started && j.faults.isEmpty && !j.malformed).flatMap fun j =>
    ((j.got.map Prod.fst ++ j.ixs.map Prod.fst).eraseDups).filterMap fun i =>
      ((j.access (.write i)).filter fun a => !a.scratch && j.inside a).bind fun a =>
        match checkDirect s ctx (.store false) a.addr with
        | .ok pa leaf => some (pa, leaf, leBytes a.bytes ((j.value i).getD (i, 0)).2)
        | _ => none
  (made.zip (upto made.length)).map fun q =>
    { id := cl.nextId + q.2, group := cl.nextId + q.2, space := none, pa := q.1.1, bytes := q.1.2.2.length
      act := .store (q.1.2.2.map some), dest := .none, acq := false, rel := false, scope := .sys, shared := leafShared q.1.2.1
      dropped := false, read := none }

/-- The accesses of a context that are not performed, by cluster. -/
def outOfContext (s : State) (ctx : Nat) : List (Nat × Access) :=
  (s.clusters.map fun (p : Nat × Cluster) => (p.2.outOf ctx ++ jobStores s p.2 ctx).map fun a => (p.1, a)).flatten
    ++ match s.ctx? ctx with
      | none => []
      | some x => (x.images.map fun i => (i.strands.map fun q => q.2.out.map fun a => (i.cluster, a)).flatten).flatten

/-- Accesses of a cluster will not be performed any more: nothing waits for them (R228). -/
def dropDebts (s : State) (c : Nat) (gone : Nat → Bool) : State :=
  if s.debts.isEmpty then s
  else
    let left := fun (d : Debt) => if d.cluster == c then d.overtaken.filter fun i => !gone i else d.overtaken
    { s with debts := (s.debts.map fun d => { d with overtaken := left d }).filter fun d => !d.overtaken.isEmpty }

/-- What a strand that ends has performed early goes on holding others back, under no strand's slot. -/
def passDebts (s : State) (c k : Nat) : State :=
  if s.debts.isEmpty then s
  else { s with debts := s.debts.map fun d => if d.cluster == c && d.slot == k then { d with slot := 8 } else d }

/-- The debts that rest on accesses of a context which the kill does not perform are gone. -/
def dropKilled (s : State) (ctx : Nat) (left : List (Nat × Access)) : State :=
  if s.debts.isEmpty then s
  else (s.clusters.map Prod.fst).foldl (fun s c =>
    let bs := (s.cluster c).blocksOf ctx
    let cl := s.cluster c
    let ids := ((cl.strands.filter fun p => bs.contains p.2.block).map fun p => p.2.out.map Access.id).flatten
      ++ ((cl.jobs.filter fun j => bs.contains j.block).map Job.id) ++ ((cl.landings.filter fun l => bs.contains l.block).map Landing.id)
      ++ ((cl.tileOps.filter fun t => bs.contains t.block).map TileOp.id) ++ ((cl.bankOps.filter fun t => bs.contains t.block).map BankOp.id)
    dropDebts s c fun i => ids.contains i && !(left.any fun q => q.1 == c && q.2.id == i)) s

/-- Something of a cluster waits for what a reply brings. -/
def Cluster.awaits (cl : Cluster) (t : Token) : Bool :=
  match t.dest with
  | .delivery i _ => cl.deliveries.any fun d => d.id == i
  | .landing i _ => cl.landings.any fun l => l.id == i
  | .scalar r => (cl.strands.get? t.slot).any fun st => (st.late.get? r.toNat).isSome
  | .none => true

/-- Replies that nothing waits for any more are discarded. -/
def dropReplies (s : State) : State :=
  if s.links.isEmpty then s
  else
    let keep := fun (t : Token) => !t.reply || (s.cluster t.cluster).awaits t
    { s with links := s.links.filter keep, cellar := s.cellar.filter keep }

/-- The records of the jobs of a context, which a kill for a cause stops (26 R336). Log 37 (DEDUCED). -/
def jobsStop (s : State) (ctx cause : Nat) : State :=
  s.clusters.foldl (fun s p => (p.2.jobs.filter fun j => j.ctx == ctx).foldl (fun s j =>
    jobRecord s p.1 3 (if cause < 0x80 then cause else 0) j) s) s

/-- Ends everything of a context at this tick, for a cause (R361). Its counters go with it: a fresh context of that number starts
at 0 (R240), and what it has sent is the kill's to perform. -/
def endContext (s : State) (ctx cause : Nat) : State :=
  let s : State := purgeRecords (jobsStop s ctx cause) ctx
  let s : State := { s with clusters := s.clusters.map fun (p : Nat × Cluster) =>
    (p.1, { p.2.without ctx (p.2.blocksOf ctx) with
      orphans := p.2.orphans.filter fun o => o.ctx != ctx
      nextId := p.2.nextId + (jobStores s p.2 ctx).length }) }
  let s : State := ((s.queues.filter fun (p : Nat × Queue) => p.2.ctx == ctx).map Prod.fst).foldl closeQueue s
  let s : State := endGrids s ctx 0x21
  let s : State := tlbDrop s ctx 0 (2 ^ 57)
  let s : State := { s with locks := s.locks.map fun (p : Nat × Lock) => (p.1, p.2.purge ctx) }
  let s : State := s.modCtx ctx fun x => { x with killed := true, images := [] }
  let s : State := bumpKills (dropReplies s)
  { s with cur := match s.cur with
      | some (c, k) => if (s.strand? c k).isSome then s.cur else none
      | none => none }

/-- Kills a context for a cause (R361). A context that is not defined, or already killed, is left. -/
def killContext (s : State) (ctx cause : Nat) : State :=
  if !s.ctxLive ctx then s
  else
    let out := outOfContext s ctx
    let s : State := endContext (dropKilled s ctx out) ctx cause
    { s with kills := s.kills ++ [{ ctx := ctx, cause := cause, at' := s.time, capno := s.capno, horizon := false, out := out }] }

/-- A fault handled by the hub: the unit freezes and the context is killed (R360). -/
def fatal (s : State) (unit cause ctx : Nat) (info : Word) : State :=
  killContext (startFreeze s unit cause (some ctx) info false) ctx cause

end Sys2Proof.Machine
end

