-- ==== Sys2Proof/Machine/Fetch.lean ====
section
/-!
DEFINITION. Program counters, fetch lines and their parity (03 R42-R45, R50, R63, R66).
-/
namespace Sys2Proof.Machine

/-- Line, slot and bits [5:3] of a PC (R45). -/
def pcSlot (pc : PC) : Nat := pc.toNat % 8
def pcLine (pc : PC) : Nat := pc.toNat / 64 * 64

/-- The sequential successor (R45). -/
def successor (pc : PC) : PC :=
  if pcSlot pc < 4 then pc + 1 else BitVec.ofNat 57 (pcLine pc + 64)

/-- The target of a direct transfer (R50). -/
def directTarget (pc : PC) (tslot : BitVec 3) (loff : BitVec 29) : PC :=
  BitVec.ofNat 57 (pcLine pc) + (loff.signExtend 57) * 64 + BitVec.ofNat 57 tslot.toNat

/-- Two PCs lie in one 4 KiB page. -/
def samePage (a b : PC) : Bool := a.toNat / 4096 == b.toNat / 4096

/-- The line word of the 64 bytes of a line (R42). -/
def lineWordOf (line : List Byte) : Nat := fieldAt line 60 4

/-- The 96 bits of slot `i` (R42). -/
def slotWordOf (line : List Byte) (i : Nat) : Nat := fieldAt line (12 * i) 12

/-- Ones among the low `w` bits. -/
def ones : Nat → Nat → Nat
  | 0, _ => 0
  | w + 1, n => n % 2 + ones w (n / 2)

/-- R44 for slot `i` and for the line word. -/
def parityOk (line : List Byte) (i : Nat) : Bool :=
  let lw := lineWordOf line
  (ones 96 (slotWordOf line i) + bit01 (bitOf lw (9 + i))) % 2 == 0 && ones 15 lw % 2 == 0

/-- TGT, PAIR of a slot (R43). -/
def tgtOf (line : List Byte) (i : Nat) : Bool := i ≤ 4 && bitOf (lineWordOf line) i
def pairOf (line : List Byte) (i : Nat) : Bool := i ≤ 3 && bitOf (lineWordOf line) (5 + i)

/-! ### Code objects (05 R80, 03 R60) -/

/-- The bases of a context's code objects: CODE of its launches, and what the driver has named. Log 6 (DESIGN CHOICE). -/
def codeBases (s : State) (ctx : Nat) : List Nat :=
  ((s.grids.filter fun p => p.2.rec'.ctx == ctx).map fun p => p.2.rec'.code)
    ++ (s.code.filter fun o => o.ctx == ctx).map CodeObject.base

/-- The base of the code object a PC lies in, the greatest that is not above it; the PC's page where none is known.
Log 6 (DESIGN CHOICE). -/
def codeBase (s : State) (ctx pc : Nat) : Nat :=
  match (codeBases s ctx).filter fun b => b ≤ pc with
  | [] => pc / 4096 * 4096
  | b :: rest => rest.foldl max b

/-- Slots of a line from slot 0 on that have STOP, among the first `n`. -/
def stopsIn (line : List Byte) (n : Nat) : Nat :=
  ((upto 5).filter fun i => i < n && bitOf (slotWordOf line i) 8).length

/-- The line at a virtual address of a context; no bytes where it has no page. -/
def codeLineAt (s : State) (ctx va : Nat) : List Byte :=
  match walk s ctx va with
  | none => []
  | some (base, leaf) => readBytes s.mem (pteFrame leaf + (va - base)) 64

/-- STOP slots in the `n` lines from an address on. -/
def stopsFrom (s : State) (ctx va : Nat) : Nat → Nat
  | 0 => 0
  | n + 1 => stopsIn (codeLineAt s ctx va) 5 + stopsFrom s ctx (va + 64) n

/-- The ordinal of a stop site in its code object (R60): the STOP slots before it in ascending address order, which are at most
131,072. Log 6 (DESIGN CHOICE). -/
def ordinalOf (s : State) (ctx pc : Nat) : Nat :=
  let line := pc / 64 * 64
  let base := codeBase s ctx pc
  (stopsFrom s ctx base ((line - base) / 64) + stopsIn (codeLineAt s ctx line) (pc % 8)) % 2 ^ 17

/-- What the fetch of a line finds. -/
inductive FetchLine where
  | line (pa : Nat) (bytes : List Byte)
  | trap (cause : Nat)
  /-- the line, or a table the walk reads, is poisoned, at this physical address (R359) -/
  | poisoned (pa : Nat)
  deriving DecidableEq, Repr

/-- A granule of pooled memory or weight store is poisoned (R358): a die-cache line of 128 bytes, a weight granule of
128 bytes. Log 36 (DEDUCED). -/
def poisonedAt (s : State) (pa : Nat) : Bool :=
  s.poison.any fun p => match p with
    | .dieCache a | .weightStore a => a / 128 == pa / 128
    | _ => false

/-- The first poisoned line that a range of physical memory meets (28 R359): its first byte there. -/
def poisonedIn (s : State) (pa n : Nat) : Option Nat :=
  if s.poison.isEmpty then none
  else ((upto ((pa + n - 1) / 128 - pa / 128 + 1)).map fun i => if i == 0 then pa else (pa / 128 + i) * 128).find? (poisonedAt s)

/-- The translation of a fetch: the TLBs, then a walk (R308). -/
def fetchEntry (s : State) (c ctx va : Nat) : Option TlbEntry :=
  (tlbFind s c ctx va).or ((walk s ctx va).map fun p => { ctx := ctx, base := p.1, leaf := p.2 })

/-- The line of a PC as a strand of a cluster fetches it: executable through its page, whose frame is approved (R63, R66). -/
def fetchLine (s : State) (c ctx : Nat) (pc : PC) : FetchLine :=
  let va := pcLine pc
  match fetchEntry s c ctx va with
  | none => .trap causePagefault
  | some e =>
      let pa := e.pa va
      if !pteX e.leaf || !s.isApproved pa then .trap causeAccess
      else if poisonedAt s pa then .poisoned pa
      else .line pa (readBytes s.mem pa 64)

/-- The check of a transfer's target (R66): bits [5:3] zero, slot at most 4 and TGT set. A target whose line cannot be
fetched passes: its own fetch takes the trap. -/
def targetOk (s : State) (c ctx : Nat) (pc : PC) : Bool :=
  pc.toNat / 8 % 8 == 0 && pcSlot pc ≤ 4 &&
    match fetchLine s c ctx pc with
    | .line _ bytes => tgtOf bytes (pcSlot pc)
    | _ => true

end Sys2Proof.Machine
end

