-- ==== Sys2Proof/Machine/Ops.lean ====
section
/-!
DEFINITION. The named operations on a strand: the current strand, its sets, taking a trap and returning from one (15
R241-R248), retiring an instruction (03 R45, R60), and the gate every instruction passes before it issues
(01 R9, R18, R19, 03 R57, 15 R239, R245).
-/
namespace Sys2Proof.Machine

/-! ### The current strand -/

/-- The strand that issues: its cluster and slot, itself, its block, and whether it runs the cluster's handler. -/
structure Me where
  c : Nat
  k : Nat
  st : Strand
  blk : Block
  inH : Bool
  deriving DecidableEq, Repr

/-- The view of a strand. Log 9 (DESIGN CHOICE). -/
def meAt (s : State) (c k : Nat) : Option Me :=
  match s.strand? c k with
  | none => none
  | some st =>
      match s.block? c st.block with
      | none => none
      | some b => some { c := c, k := k, st := st, blk := b, inH := (s.cluster c).handler == some k }

/-- The view of the current strand. Log 9 (DESIGN CHOICE). -/
def me? (s : State) : Option Me :=
  match s.cur with
  | none => none
  | some (c, k) => meAt s c k

def Me.ctx (m : Me) : Nat := m.blk.ctx

/-- The name of a tile task of the strand in its cluster's power domain: its slot, 8 more for its handler. -/
def Me.task (m : Me) : Nat := m.k + if m.inH then 8 else 0

/-- A tile task of the strand waits no more, and one that was admitted gives its current back: its instruction does not issue. -/
def Me.dropTask (m : Me) (s : State) : State :=
  let p := (s.cluster m.c).power
  if p.waiting.isEmpty && p.admitted.isEmpty then s
  else s.modCluster m.c fun cl => { cl with power := cl.power.without fun t => t == m.task }

/-! ### Scalars (03 R57, 01 R18) -/

/-- s0 reads 0. -/
def Regs.get (r : Regs) (n : SReg) : Word := if n = 0 then 0 else r.s[n.toNat]'n.isLt

/-- A write to s0 is discarded; a write clears a lost mark (R302). -/
def Regs.put (r : Regs) (n : SReg) (v : Word) : Regs :=
  if n = 0 then r
  else { r with s := r.s.set n.toNat v n.isLt, lost := r.lost &&& ~~~(BitVec.twoPow 64 n.toNat) }

/-- s0 is always full. -/
def Regs.isEmpty (r : Regs) (n : SReg) : Bool := n != 0 && r.empty.getLsbD n.toNat
def Regs.isLost (r : Regs) (n : SReg) : Bool := n != 0 && r.lost.getLsbD n.toNat

/-- Writes registers of the strand. -/
def Me.setRegs (m : Me) (s : State) (f : Regs → Regs) : State :=
  s.modStrand m.c m.k fun st => { st with regs := f st.regs }

/-! ### Sets (07 R102, R103, 06 R90, R91, 15 R246) -/

/-- TOP. -/
def Stack.top (k : Stack) : TSet := k.levels.headD 0
/-- The level below TOP. -/
def Stack.parent (k : Stack) : TSet := (k.levels.drop 1).headD 0
/-- DEPTH: levels above the base level (R103). -/
def Stack.depth (k : Stack) : Nat := k.levels.length - 1 - k.base
/-- The base level. -/
def Stack.baseLevel (k : Stack) : TSet := (k.levels.drop k.depth).headD 0

/-- The stack the strand's sets are formed on: the handler stack inside a handler (R246). -/
def Me.stack (m : Me) (s : State) : Stack := if m.inH then (s.cluster m.c).hstack else m.st.stack

/-- A set less the threads the strand has parked (R90). -/
def Me.unparked (m : Me) (x : TSet) : TSet := x &&& ~~~m.st.parked

/-- The number of members of a set, lowest member first. -/
def countSet (n : Nat) (x : TSet) : Nat := (members n x).length

/-- RFR of a set: its lowest index, 0xFFFF when it is empty (R12). -/
def firstOf (n : Nat) (x : TSet) : Nat := (members n x).headD 0xFFFF

/-- Writes RSC, RFR and Z for a set (R12). -/
def Regs.setCounts (r : Regs) (n : Nat) (x : TSet) : Regs :=
  { r with rsc := BitVec.ofNat 16 (countSet n x), rfr := BitVec.ofNat 16 (firstOf n x), z := countSet n x == 0 }

/-- SRAM word index of a thread register of a block, as the model numbers them; window 8 has the keys too, and the mark bits of the levels, 32 threads to a
word. Log 36 (DEDUCED). -/
def sramWord (block win name t : Nat) : Nat := ((block * 9 + win) * 320 + name) * 4096 + t

/-- The name in window 8 of a key, and of the mark bits of a level of a strand's stack, or with slot 8 of the handler stack. Log 36
(DEDUCED). -/
def keyName (k : Nat) : Nat := 64 + k
def markName (slot level : Nat) : Nat := 80 + 16 * slot + level

/-- Words of set bits in window 8 that are written whole are no longer poisoned (R359). -/
def clearBits (s : State) (c block name : Nat) (words : List Nat) : State :=
  if s.poison.isEmpty then s
  else { s with poison := s.poison.filter fun p => !(words.any fun w => p == .registers c (sramWord block 8 name w)) }

/-- The words that hold the bits of n threads. -/
def bitWords (n : Nat) : List Nat := upto ((n + 31) / 32)

/-- Where the levels of the strand's stack are kept: its slot, 8 for the handler stack. -/
def Me.stackSlot (m : Me) : Nat := if m.inH then 8 else m.k

/-- Writes the stack back where it lives; a TOP that no level was removed above is written whole (R359). -/
def Me.setStack (m : Me) (s : State) (k : Stack) : State :=
  let s := if k.levels.length < (m.stack s).levels.length then s
    else clearBits s m.c m.st.block (markName m.stackSlot (k.levels.length - 1)) (bitWords m.blk.n)
  if m.inH then s.modCluster m.c fun cl => { cl with hstack := k }
  else s.modStrand m.c m.k fun st => { st with stack := k }

/-- The acting set (R8, R114): TOP, or the base level with ALL = 1, less the parked threads. -/
def Me.act (m : Me) (s : State) (all : Bool) : TSet :=
  m.unparked (if all then (m.stack s).baseLevel else (m.stack s).top)

/-- The acting threads, ascending. -/
def Me.acting (m : Me) (s : State) (all : Bool) : List Nat := members m.blk.n (m.act s all)

/-! ### Records of a strand (26 R336) -/

/-- The ordinal of the strand's last retired stop site. -/
def Me.siteOrd (m : Me) (s : State) : Nat :=
  match m.st.site with
  | none => 0
  | some (pc, _) => ordinalOf s m.ctx pc.toNat

/-- Writes a record of the strand to its cluster's vault, with the last stop site. Log 37 (DEDUCED). -/
def Me.note (m : Me) (s : State) (ty : Nat) (pay : Word) : State :=
  record s m.c ty m.ctx m.k (m.siteOrd s) pay

/-! ### Traps (R242-R248) -/

/-- Causes at and below which a handler runs are under 0x40 (R242). -/
def causeBkpt : Nat := 0x01
def causeStep : Nat := 0x02
def causeBadTarget : Nat := 0x03
def causeFeEmpty : Nat := 0x04
def causeSetOvf : Nat := 0x05
def causeSetUnf : Nat := 0x06
def causeTailUse : Nat := 0x07
def causeNestDepth : Nat := 0x08
def causeIllSync : Nat := 0x09
def causeGangBroken : Nat := 0x0A
def causeQuota : Nat := 0x0B
def causeUserTrap : Nat := 0x0C
def causeAtomLost : Nat := 0x14
def causeFootprint : Nat := 0x15
def causeDesc : Nat := 0x16
def causeLostDef : Nat := 0x20
def causeSingular : Nat := 0x21
def causeFpExc : Nat := 0x22
def causeTimer : Nat := 0x30
def causeThrottle : Nat := 0x31
def causeEcc : Nat := 0x40
def causeStateLost : Nat := 0x41
def causeWatchdog : Nat := 0x42
def causeDouble : Nat := 0x7F
def causeNoHandler : Nat := 0x80

/-- The cause a handler handles: its TCAUSE, which the frame of its outermost inline callee keeps (R91, R242). -/
def Strand.handled (st : Strand) : Nat :=
  (match (st.frames.takeWhile Frame.inHandler).getLast? with
    | some f => f.regs.tcause
    | none => st.regs.tcause).toNat % 256

/-- DOUBLE in a handler (R242, R247): the cause the instruction would raise, the handled cause, and its OP. -/
def raiseDouble (s : State) (m : Me) (cause op : Nat) : State :=
  fatal s m.c causeDouble m.ctx (payload [(8, cause), (8, m.st.handled), (8, op)])

/-- TSTATE at a trap (R241). -/
def tstateOf (st : Strand) (t : Trap) : Word :=
  payload [(1, bit01 t.skip), (1, bit01 t.async), (1, bit01 t.pair), (1, bit01 t.bpinh), (4, 0), (4, st.stack.depth),
    (4, 0), (4, st.stack.limit)]

/-- The registers a trap writes (R243): the trap record, an empty latch, and RSC, RFR and Z for HL0; a throttle trap reports the
cluster's state to the strand (24 R316). -/
def Regs.trapped (r : Regs) (n : Nat) (hl0 : TSet) (tstate : Word) (t : Trap) : Regs :=
  { (r.setCounts n hl0) with
    trpc := t.pc.zeroExtend 64, tcause := BitVec.ofNat 64 t.cause, tinfo := t.info, tpi := r.pi, tstate := tstate,
    tnpc := t.next.zeroExtend 64, latch := none
    thrTold := if t.cause == causeThrottle then t.info.getLsbD 0 else r.thrTold }

/-- The strand's trap enters its handler (R243). With TVEC = 0 the context stops (R243, R339); a handler entry without a
legal target is DOUBLE (R66). Log 28 (DEDUCED). -/
def enterHandler (s : State) (c k : Nat) (t : Trap) : State :=
  match meAt s c k with
  | none => s
  | some m =>
      if m.st.regs.tvec = 0 then
        fatal s c causeNoHandler m.ctx (payload [(40, t.info.toNat), (8, t.cause)])
      else
        let pc : PC := m.st.regs.tvec.truncate 57
        let hl0 := m.st.stack.top
        let st := { m.st with
          regs := m.st.regs.trapped m.blk.n (m.unparked hl0) (tstateOf m.st t) t
          trap := none, wait := .none, pc := pc, stall := none, waited := 0, entering := false, resumed := false, pre := [] }
        let s := s.setStrand c k st
        let s := s.modCluster c fun cl =>
          { cl with handler := some k, hstack := Stack.init hl0 15, hlatch := m.st.regs.latch }
        if targetOk s c m.ctx pc then s
        else fatal s c causeDouble m.ctx (payload [(8, causeBadTarget), (8, t.cause), (8, 0)])

/-- The slot at the PC is the second of a pair that issued together (R59, R241). Log 28 (DEDUCED). -/
def Me.paired (m : Me) (s : State) : Bool :=
  1 ≤ pcSlot m.st.pc && m.st.alone != some m.st.pc && !(m.st.alone.any fun p => successor p == m.st.pc) &&
    match fetchLine s m.c m.ctx m.st.pc with
    | .line _ bytes => pairOf bytes (pcSlot m.st.pc - 1)
    | _ => false

/-- Opcodes of instructions that have a `bo` point in some form (R232). -/
def pointOp (op : Nat) : Bool :=
  (0x60 ≤ op && op < 0xC0) ||
    [0x31, 0x47, 0x48, 0x49, 0x4A, 0xC0, 0xC1, 0xC2, 0xC3, 0xC4, 0xC7, 0xC8, 0xC9,
      0xE0, 0xE4, 0xE5, 0xE6, 0xE9, 0xEB, 0xEC, 0xED].contains op

/-- The strand stands at the second slot of a pair whose first, a `spawn` or a `quota`, has had its `bo` point: no other instruction
has one before the second has (R235). -/
def Me.midPair (m : Me) (s : State) : Bool :=
  m.paired s && match fetchLine s m.c m.ctx m.st.pc with
    | .line _ bytes => [0x31, 0x47].contains (slotWordOf bytes (pcSlot m.st.pc - 1) % 256)
        && pointOp (slotWordOf bytes (pcSlot m.st.pc) % 256)
    | _ => false

/-- A strand of the cluster other than `k` stands between the two points of its pair. -/
def pairHeld (s : State) (c k : Nat) : Bool :=
  (s.cluster c).strands.any fun p => p.1 != k && (meAt s c p.1).any fun o => o.midPair s

/-- A stopped `fsolv` of a strand other than `k` holds the population (R17). -/
def Cluster.solving (cl : Cluster) (k : Nat) : Bool :=
  cl.strands.any fun p => p.1 != k && p.2.solve.isSome

/-- The next trap of a strand can enter its handler: none runs, and the population is free (R243), also of another strand's pair
(R235). -/
def State.entryFree (s : State) (c k : Nat) : Bool :=
  (s.cluster c).handler.isNone && !(s.cluster c).solving k && !pairHeld s c k

/-- A trap of a strand is raised: it enters its handler at once where none runs, none waits and the population is free, and
otherwise waits (R243, R244). A member of a gang whose trap waits is not at the rendezvous, though its arrival stands (R158). -/
def takeTrap (s : State) (c k : Nat) (t : Trap) : State :=
  let s := match meAt s c k with
    | some m => m.note s 0x08 (payload [(56, t.info.toNat), (8, t.cause)])
    | none => s
  let cl := s.cluster c
  if s.entryFree c k && !(cl.strands.any fun p => p.2.trap.isSome) then enterHandler s c k t
  else s.modStrand c k fun st => { st with trap := some t, trapAt := s.time, stall := some .trap, waited := 0,
                                               resumed := false, pre := [],
                                               wait := if st.wait == .gang then .none else st.wait }

/-- SKIP by cause (R242). -/
def skipOf (cause : Nat) : Bool :=
  cause == causeBkpt || cause == causeStep || cause == causeUserTrap || cause == causeLostDef

/-- An instruction of the strand raises a cause (R242): its handler, DOUBLE inside one, or the hub from 0x40 on.
Log 28 (DEDUCED). -/
def raise (s : State) (m : Me) (cause : Nat) (info : Word) (op : Nat) : State :=
  if 0x40 ≤ cause then fatal s m.c cause m.ctx info
  else if m.inH then raiseDouble s m cause op
  else takeTrap s m.c m.k
    { cause := cause, info := info, pc := m.st.pc, next := successor m.st.pc, skip := skipOf cause, async := false,
      pair := m.paired s, bpinh := false }

/-- The strand stands at an instruction boundary: job faults that came during the instruction before are due (R202). -/
def faultsDue (l : List JobFault) : List JobFault := l.map fun f => { f with mid := false }

/-- `tret` (R248); BPINH serves the re-issue with SKIP = 0 alone. Log 28 (DEDUCED). -/
def returnFromHandler (s : State) (m : Me) : State :=
  let r := m.st.regs
  let skip := r.tstate.getLsbD 0
  let r := { (r.setCounts m.blk.n (m.unparked m.st.stack.top)) with
    latch := (s.cluster m.c).hlatch, pi := if skip then 0 else r.tpi }
  let pc : PC := if skip then r.tnpc.truncate 57 else r.trpc.truncate 57
  let st := { m.st with
    regs := r, pc := pc, wait := .none, stall := none, waited := 0, bpinh := !skip && r.tstate.getLsbD 3,
    solve := if skip then none else m.st.solve, alone := some pc, jobFaults := (faultsDue m.st.jobFaults).map fun f => { f with later := false } }
  let s := s.setStrand m.c m.k st
  let s := if skip then { m with inH := false }.dropTask s else s
  s.modCluster m.c fun cl => { cl with handler := none, hlatch := none, hstack := { levels := [], base := 0, limit := 15 } }

/-! ### Retiring -/

/-- A STOPSITE record is due: the strand has written none for 64 cc (R336). -/
def Strand.siteDue (st : Strand) (time : Word) : Bool := match st.site with | none => true | some (_, t) => 128 ≤ (time - t).toNat

/-- The STOPSITE record of the slot at the strand's PC, where it is a stop site and a record is due (R336). -/
def noteSite (s : State) (m : Me) (stop : Bool) : State :=
  if stop && m.st.siteDue s.time then
    record s m.c 0x01 m.ctx m.k (ordinalOf s m.ctx m.st.pc.toNat) (payload [(45, codeBase s m.ctx m.st.pc.toNat / 4096)])
  else s

/-- The strand's last stop site and the TIME of its last STOPSITE record after the slot at its PC. -/
def Strand.siteAfter (st : Strand) (stop : Bool) (time : Word) : Option (PC × Word) :=
  if !stop then st.site
  else if st.siteDue time then some (st.pc, time) else some (st.pc, (st.site.map Prod.snd).getD time)

/-- A STEP trap (R251). -/
def stepTrap (pc next : PC) : Trap :=
  { cause := causeStep, info := 0, pc := pc, next := next, skip := true, async := false, pair := false, bpinh := false }

/-- The strand retires the instruction at its PC and continues at `next`: a stop site is recorded (R60, R336), and a STEP trap is
due where `step` says so. A strand that has ended is left. -/
def retireAt (s : State) (m : Me) (stop step : Bool) (next : PC) : State :=
  match s.strand? m.c m.k with
  | none => s
  | some st =>
      let s := s.setStrand m.c m.k
        { st with pc := next, wait := .none, stall := none, waited := 0, age := 0, bpinh := false, pre := [],
                  alone := if st.alone = some m.st.pc then st.alone else none, entering := false,
                  jobFaults := faultsDue st.jobFaults, site := m.st.siteAfter stop s.time
                  stepDue := if step then some (m.st.pc, next) else st.stepDue }
      noteSite (s.modCluster m.c fun cl => { cl with turn := m.k }) m stop

/-- The strand retires the instruction at its PC and continues at `next`; with stepping on a stop site traps STEP (R251). -/
def retire (s : State) (m : Me) (stop : Bool) (next : PC) : State :=
  let steps := match s.strand? m.c m.k with
    | none => false
    | some st => stop && !m.inH && st.regs.dbg.getLsbD 0
  let s := retireAt s m stop false next
  if steps then takeTrap s m.c m.k (stepTrap m.st.pc next) else s

/-- What an attempt to issue an instruction comes to. -/
inductive Eff where
  /-- it has its effect and the strand continues at the sequential successor -/
  | done (s : State)
  /-- it has its effect and the strand continues at a target -/
  | jump (s : State) (pc : PC)
  /-- it has its effect, and the strand does not continue in sequence: it has ended, or its PC is set -/
  | ended (s : State)
  /-- it does not issue, for this reason -/
  | stall (r : Stall) (s : State)
  /-- it raises a cause with TINFO, in a state where it has had no effect but what the trap itself records -/
  | trap (cause : Nat) (info : Word) (s : State)
  /-- inside a handler it is DOUBLE in every case (R247) -/
  | double (cause : Nat)
  /-- it retires and then traps FT_LOSTDEF (R167) -/
  | after (cause : Nat) (info : Word) (s : State)
  deriving DecidableEq, Repr

/-- The number of a stall reason (R239). -/
def Stall.code : Stall → Nat
  | .feWait => 0
  | .barrier => 1
  | .lock => 2
  | .rendezvous => 3
  | .range => 4
  | .engine => 5
  | .powerAdmit => 6
  | .droop => 7
  | .fetch => 8
  | .trap => 9
  | .extWait => 10
  | .sleep => 11

/-- A wait whose reason has a higher code than one that holds too is for that one (R239). -/
def Eff.orFor (e : Eff) (holds : Bool) (r : Stall) : Eff :=
  match e with
  | .stall q s => if holds && r.code < q.code then .stall r s else .stall q s
  | e => e

/-- The next state of an attempt (R17, R239, R242). An instruction that traps does not wait for admission. Log 40 (DEDUCED). -/
def finish (m : Me) (op : Nat) (stop : Bool) (s : State) : Eff → State
  | .done s' => retire s' m stop (successor m.st.pc)
  | .jump s' pc => retire s' m stop pc
  | .ended s' => s'
  | .stall r s' => s'.modStrand m.c m.k fun st => { st with stall := some r, waited := 0, pre := [] }
  | .trap cause info s' => raise (m.dropTask s') m cause info op
  | .double cause => raiseDouble s m cause op
  | .after cause info s' =>
      let s' := retireAt s' m stop (stop && !m.inH && m.st.regs.dbg.getLsbD 0) (successor m.st.pc)
      if m.inH then raiseDouble s' m cause op
      else takeTrap s' m.c m.k { cause := cause, info := info, pc := m.st.pc, next := successor m.st.pc, skip := true,
                                 async := false, pair := m.paired s, bpinh := false }

/-! ### The gate -/

/-- A thread-register operand of an instruction: its first name, how many names, and whether it is written (a read has the WF
bit `wf`). -/
structure NameUse where
  name : VName
  count : Nat
  write : Bool
  wf : Bool
  deriving DecidableEq, Repr

/-- What an instruction uses, for the gate. -/
structure Uses where
  /-- it has a `bo` point (R99, R232) -/
  bo : Bool := false
  /-- it is a broadcast, search or set instruction: TAILUSE once the strand has tailed (R93) -/
  sets : Bool := false
  /-- it has memory events, or a register event: it waits behind an outstanding acquire (R219, R220) -/
  ord : Bool := false
  /-- its only event is one memory access, which an acquire of a narrow scope holds back by itself (R228) -/
  mem : Bool := false
  src : List (SReg × Bool) := []
  dst : List SReg := []
  names : List NameUse := []
  all : Bool := false
  /-- it tests the level below TOP (R102) -/
  parent : Bool := false
  /-- the set whose registers it reads, where that is none of these -/
  only : Option TSet := none
  /-- the keys it reads -/
  keys : List Nat := []
  deriving DecidableEq, Repr

/-- The window a name lies in: the strand's role, 8 for the shared window, 9 for the specials (R57). -/
def windowOf (role : Nat) (name : Nat) : Nat := if name < 256 then role else if name < 320 then 8 else 9

/-- A name as its window numbers it. -/
def winName (name : Nat) : Nat := if name < 256 then name else name - 256

/-- The trap that naming a register raises, if any (R57): a name that no window and no special has is one of a group that leaves
its window (R152). -/
def nameTrap (blk : Block) (role name : Nat) : Option Nat :=
  if 320 ≤ name then (if 448 ≤ name && name < 456 then none else some causeAccess)
  else if 256 ≤ name then (if name - 256 < blk.shared then none else some causeAccess)
  else match blk.roles[role]? with
    | none => some causeAccess
    | some r => if r.freed then some causeTailUse else if name < r.window then none else some causeAccess

/-- A delivery covers a name of a window of a block (R19). -/
def Delivery.covers (d : Delivery) (block win name : Nat) : Bool :=
  !d.discard && d.block == block && d.window == win && d.name ≤ name && name < d.name + d.count

/-- Names of an operand. -/
def NameUse.list (u : NameUse) : List Nat := (upto u.count).map fun i => u.name.toNat + i

/-- The trap of a name of an operand: its own, or ACCESS where the group has left the window of its first name (R57, R152). -/
def useTrap (m : Me) (u : NameUse) (n : Nat) : Option Nat :=
  (nameTrap m.blk m.st.role n).or
    (if windowOf m.st.role n == windowOf m.st.role u.name.toNat then none else some causeAccess)

/-- The first trap among the names of an instruction. Log 27 (DEDUCED). -/
def namesTrap (m : Me) : List NameUse → Option (Nat × Nat)
  | [] => none
  | u :: us => (u.list.findSome? fun n => (useTrap m u n).map fun c => (c, n)).or (namesTrap m us)

/-- A name of the strand lies in a pending delivery of its block (R19). -/
def namePending (s : State) (m : Me) (n : Nat) : Bool :=
  n < 320 && (s.cluster m.c).deliveries.any fun d => d.covers m.st.block (windowOf m.st.role n) (winName n)

/-- A name of the strand is lost in a thread of a set (R302). -/
def nameLost (m : Me) (x : TSet) (n : Nat) : Bool :=
  n < 320 &&
    match m.blk.lostRegs.get? (windowOf m.st.role n * 320 + winName n) with
    | none => false
    | some lost => lost &&& x != 0

/-- A register the instruction reads is poisoned in a thread of a set (R359): the SRAM word index. Log 36 (DEDUCED). -/
def namePoison (s : State) (m : Me) (x : TSet) (n : Nat) : Option Nat :=
  if n < 320 && !s.poison.isEmpty then
    ((members m.blk.n x).find? fun t =>
      s.poison.contains (.registers m.c (sramWord m.st.block (windowOf m.st.role n) (winName n) t))).map
      fun t => sramWord m.st.block (windowOf m.st.role n) (winName n) t
  else none

/-- A poisoned word of set bits in window 8 of a block, among those of a name. -/
def bitsPoison (s : State) (c block name : Nat) (words : List Nat) : Option Nat :=
  (words.map (sramWord block 8 name)).find? fun w => s.poison.contains (.registers c w)

/-- The levels that an instruction reads: TOP, the one below it, or the base level. -/
def Me.levelsRead (m : Me) (s : State) (u : Uses) : List Nat :=
  let k := m.stack s
  if u.all then [k.base] else (k.levels.length - 1) :: if u.parent then [k.levels.length - 2] else []

/-- A poisoned word of the mark bits or of a key that an instruction reads (R358, R359). Log 36 (DEDUCED). -/
def setPoison (s : State) (m : Me) (u : Uses) (x : TSet) : Option Nat :=
  if s.poison.isEmpty then none
  else (if u.sets then (m.levelsRead s u).findSome? fun l =>
      bitsPoison s m.c m.st.block (markName m.stackSlot l) (bitWords m.blk.n) else none).or
    (u.keys.findSome? fun k => bitsPoison s m.c m.st.block (keyName k) (((members m.blk.n x).map fun t => t / 32).eraseDups))

/-- TINFO of FE_EMPTY and ATOMLOST for a scalar: the number with bit 9 set (R242). -/
def scalarInfo (n : SReg) : Word := payload [(9, n.toNat), (1, 1)]
def nameInfo (n : Nat) : Word := payload [(9, n)]

/-- Sources in order A, B, C: a lost one traps ATOMLOST, an empty one traps FE_EMPTY or blocks (R18, R302).
Log 27 (DEDUCED). -/
def gateScalars (s : State) (r : Regs) : List (SReg × Bool) → Option Eff
  | [] => none
  | (n, wf) :: rest =>
      if r.isLost n then some (.trap causeAtomLost (scalarInfo n) s)
      else if r.isEmpty n then some (if wf then .trap causeFeEmpty (scalarInfo n) s else .stall .feWait s)
      else gateScalars s r rest

/-- Pending deliveries, lost and poisoned registers among the names (R19, R302, R359). Log 27 (DEDUCED). -/
def gateNames (s : State) (m : Me) (x : TSet) : List NameUse → Option Eff
  | [] => none
  | u :: rest =>
      match u.list.find? (namePending s m) with
      | some n => some (if u.wf && !u.write then .trap causeFeEmpty (nameInfo n) s else .stall .feWait s)
      | none =>
          if u.write then gateNames s m x rest
          else match u.list.find? (nameLost m x) with
            | some n => some (.trap causeAtomLost (nameInfo n) s)
            | none =>
                match u.list.findSome? (namePoison s m x) with
                | some w => some (.trap causeEcc (storageLocation 0 m.c w) s)
                | none => gateNames s m x rest

/-- A scope that holds every agent of the package (R211). -/
def wideScope (x : Scope) : Bool := x == .pkg || x == .sys

/-- Jobs, tile-engine accesses and `bmv` of a strand are under way: agents of its `.strand` scope (R211). -/
def Cluster.enginesOf (cl : Cluster) (k block : Nat) : Bool :=
  (cl.jobs.any fun j => j.slot == k && j.block == block) || (cl.tileOps.any fun t => t.slot == k && (t.reads || t.writes))
    || cl.bankOps.any fun t => t.slot == k

/-- An acquire of the strand has been sent and is not performed (R219 case 3). One of a narrow scope holds back by itself the
accesses that follow it, and one at `.strand` orders what the strand does among its own jobs and operations alone (R211, R228). -/
def Me.acquiring (m : Me) (s : State) (mem : Bool) : Bool :=
  m.st.out.any fun a => a.acq && (a.scope != .strand || (s.cluster m.c).enginesOf m.k m.st.block) && (!mem || wideScope a.scope)

/-- No delivery to a block is outstanding whose entry a strand holds (R353). -/
def Cluster.foldReady (cl : Cluster) (block : Nat) : Bool := !(cl.deliveries.any fun d => d.block == block && !d.discard)

/-- A fold of a block of the cluster comes first: one that is ready goes ahead of every class, and one that waits for deliveries
holds its own block (R353). -/
def foldHeld (cl : Cluster) (block : Nat) : Bool :=
  cl.blocks.any fun p => !p.2.foldDue.isEmpty && (p.1 == block || cl.foldReady p.1)

/-- The population is not to be had at this edge, with the first reason in code order (R239): a fold, another strand's pair, the
halved rate after a droop, another strand's handler, a stopped `fsolv` of another strand, or a strand that a restore makes the
first to issue (R17, R235, R245, R299, R322, R353). -/
def boBlocked (s : State) (m : Me) : Option Stall :=
  let cl := s.cluster m.c
  if foldHeld cl m.st.block || pairHeld s m.c m.k then some .feWait
  else if cl.power.edges == 0 && 2 ≤ cl.power.halved && cl.power.halved % 2 == 0 then some .droop
  else if (match cl.handler with | some j => j != m.k | none => false) || cl.solving m.k
      || (cl.handler != some m.k && !m.st.resumed && cl.strands.any fun p => p.1 != m.k && p.2.resumed) then some .trap
  else none

/-- The set whose registers an instruction reads. -/
def Me.tested (m : Me) (s : State) (u : Uses) : TSet :=
  match u.only with
  | some x => x
  | none => if u.parent then m.unparked (m.stack s).parent else m.act s u.all

/-- The strand itself has tailed: its sets are gone. An inline callee that it starts afterwards has sets of its own (R91, R93). -/
def Strand.setsGone (st : Strand) : Bool := st.tailed && st.frames.isEmpty

/-- The checks before an instruction issues (R9, R18, R19, R57, R93, R199, R219): none where it passes. Log 27 (DEDUCED). -/
def gate (s : State) (m : Me) (u : Uses) : Option Eff :=
  if u.ord && m.acquiring s u.mem then some (.stall .feWait s)
  else if u.sets && m.st.setsGone then
    some (.trap causeTailUse (nameInfo ((u.names.head?.map fun x => x.name.toNat).getD 0)) s)
  else match namesTrap m u.names with
    | some (c, n) => some (.trap c (nameInfo n) s)
    | none =>
        match gateScalars s m.st.regs u.src with
        | some e => some e
        | none =>
            if u.dst.any m.st.regs.isEmpty then some (.stall .feWait s)
            else match setPoison s m u (m.tested s u) with
              | some w => some (.trap causeEcc (storageLocation 0 m.c w) s)
              | none => gateNames s m (m.tested s u) u.names

/-- The attempt has captured thread registers, or solved some elements, although the instruction waits on: it has had its `bo` point
(R157, R165, R168). -/
def captured (s : State) (m : Me) : Bool :=
  match s.strand? m.c m.k with
  | none => false
  | some st => (st.wait == .sweep && m.st.wait != .sweep) || (st.wait == .gang && m.st.wait != .gang)
      || (s.cap.isSome && st.solve.isSome)

/-- What an attempt comes to while the population is not to be had: a reason of the instruction's own that has a lower code stands,
with what it does before it issues, and else it waits for the population (R239). A strand that waits for the population alone is
as eligible as it was and keeps its wait (R234, R322). Log 26 (DEDUCED). -/
def holdBack (s : State) (m : Me) (op : Nat) (stop : Bool) (b : Stall) (e : Eff) : State :=
  let held := s.modStrand m.c m.k fun st => { st with stall := some b }
  match e with
  | .stall r s' =>
      if captured s' m then held else finish m op stop s (.stall (if r.code < b.code then r else b) s')
  | _ => held

/-- A broadcast has been issued: it took the opportunity, and is the first after a gang completed and after a restore
(R233, R299). -/
def tookTurn (s : State) (m : Me) : State :=
  let s := s.modCluster m.c fun cl => { cl with lastSlot := m.k }
  s.modStrand m.c m.k fun st => { st with gangDone := if st.gangDone == m.st.gangDone then 0 else st.gangDone, resumed := false }

/-- The state after an attempt: a broadcast that has had its `bo` point, or that traps when it is issued, took the opportunity. -/
def settleTurn (m : Me) (bo : Bool) (e : Eff) (s : State) : State :=
  if !bo then s
  else match e with
    | .stall _ s' => if captured s' m then tookTurn s m else s
    | _ => tookTurn s m

/-- The current strand attempts an instruction with opcode `op`; past the gate for what it uses its effect is `k`. -/
def issueBy (s : State) (op : Nat) (stop : Bool) (u : Me → Uses) (k : Me → Eff) : Host.Outcome State Fault Refusal :=
  match me? s with
  | none => .fault .noStrand
  | some m =>
      let e := (gate s m (u m)).getD (k m)
      match (if (u m).bo then boBlocked s m else none) with
      | some b => .next (holdBack s m op stop b e)
      | none => .next (settleTurn m (u m).bo e (finish m op stop s e))

/-- An attempt of an instruction that uses the same whatever the strand. -/
def issue (s : State) (op : Nat) (stop : Bool) (u : Uses) (k : Me → Eff) : Host.Outcome State Fault Refusal :=
  issueBy s op stop (fun _ => u) k

/-- An event of the machine, given its effect where its condition holds: named where it does not, it does not happen and nothing
changes. Log 17 (DESIGN CHOICE). -/
def happen (s : State) (e : Option State) : Host.Outcome State Fault Refusal := .next (e.getD s)

/-! ### Late results (R18, R19) -/

/-- A scalar result that arrives late: the register is empty until then. A result for s0 is discarded. -/
def lateScalar (s : State) (m : Me) (n : SReg) (v : Option Word) : State :=
  if n = 0 then s
  else
    let id := (s.cluster m.c).nextId
    (s.modCluster m.c fun cl => { cl with nextId := id + 1 }).modStrand m.c m.k fun st =>
      { st with
        regs := { st.regs with empty := st.regs.empty ||| BitVec.twoPow 64 n.toNat,
                               lost := st.regs.lost &&& ~~~(BitVec.twoPow 64 n.toNat) }
        late := st.late.set n.toNat (id, v) }

/-- The result of a late scalar is known (its access has been performed). -/
def lateKnown (s : State) (c k : Nat) (n : SReg) (v : Word) : State :=
  s.modStrand c k fun st => { st with late := st.late.modify n.toNat fun p => (p.1, some v) }

/-- Delivery entries a strand holds (R19). -/
def entriesOf (cl : Cluster) (k : Nat) : Nat := (cl.deliveries.filter fun d => d.slot == k && !d.discard).length

/-- Takes a pending-delivery entry for names of the strand (R19). Answers its number. -/
def takeEntry (s : State) (m : Me) (name count : Nat) (threads : List Nat) (data : SMap (List W32)) : State × Nat :=
  let cl := s.cluster m.c
  let d : Delivery := { id := cl.nextId, slot := m.k, block := m.st.block, window := windowOf m.st.role name,
                        name := winName name, count := count, threads := threads, data := data, discard := false }
  (s.setCluster m.c { cl with deliveries := cl.deliveries ++ [d], nextId := cl.nextId + 1 }, cl.nextId)

end Sys2Proof.Machine
end

