-- ==== Sys2Proof/Machine/Power.lean ====
section
/-!
DEFINITION. Task headers and the admission of tile tasks (11 R172, 24 R314, R317).
-/
namespace Sys2Proof.Machine

/-- Energy and current of a task-header entry (R172, 21 R283). Log 32 (DEDUCED). -/
def taskHeader (s : State) (b : Block) (role th : Nat) : Nat × Nat :=
  if b.taskp == 0 then (0, 0)
  else
    let w := hubNat s b.ctx (b.taskp + 4 * (16 * role + th)) 4
    (w % 65536, w / 65536)

/-- The line of a task header is held once it has been read (25 R330). -/
def headerRead (s : State) (b : Block) (role th : Nat) : State :=
  if b.taskp == 0 then s else hubHolds s b.ctx (b.taskp + 4 * (16 * role + th)) 4

/-- The header an instruction of the strand names. Log 32 (DEDUCED). -/
def Me.header (m : Me) (s : State) (th : BitVec 4) : Nat × Nat := taskHeader s m.blk m.st.role th.toNat

/-- Energy and current limits of a level (R314). -/
def energyBudget (l : Nat) : Nat := 2500 * (l + 1)
def currentLimit (l : Nat) : Nat := 200 * (l + 1)

/-- A task fits, and the cluster is not stretching (R317, R321). -/
def Power.fits (p : Power) (e i : Nat) : Bool :=
  p.edges == 0 && ((p.used + e ≤ energyBudget p.eff && p.infl + i ≤ currentLimit p.eff) || (p.used == 0 && p.infl == 0))

/-- A task is admitted (R317). -/
def Power.charge (p : Power) (e i : Nat) : Power :=
  { p with debt := p.used + e - energyBudget p.eff, used := p.used + e, infl := p.infl + i }

/-- The work of a task has ended: its current leaves INFL (R317). -/
def releaseCurrent (s : State) (c i : Nat) : State :=
  s.modCluster c fun cl => { cl with power := { cl.power with infl := cl.power.infl - i } }

/-- The header of a task: the one with which it began to wait, where it waits (R317). -/
def Power.header (p : Power) (task : Nat) (h : Nat × Nat) : Nat × Nat :=
  match p.waiting.find? fun w => w.1 == task with
  | some w => w.2
  | none => h

/-- A tile task of a cluster is admitted and continues with `k`, given the current it holds, or waits (R317): a task that does not
fit holds back those behind it, and an entry of (0, 0) is always admitted. A task that waits, or that has been admitted, keeps the
entry with which it began. The task is named as in `Power.waiting`. Log 32 (DEDUCED). -/
def admission (s : State) (c task : Nat) (h : Nat × Nat) (k : Nat → State → Eff) : Eff :=
  let cl := s.cluster c
  let p := cl.power
  match p.admitted.find? fun a => a.1 == task with
  | some a => k a.2 (s.setCluster c { cl with power := { p with admitted := p.admitted.filter fun a => a.1 != task } })
  | none =>
      let h := p.header task h
      if h == (0, 0) then k 0 s
      else
        let ws := p.waiting
        if (ws.head?.map Prod.fst).getD task == task && p.fits h.1 h.2 then
          k h.2 (s.setCluster c { cl with power := { p.charge h.1 h.2 with waiting := ws.filter fun w => w.1 != task } })
        else
          let ws := if ws.any fun w => w.1 == task then ws else ws ++ [(task, h.1, h.2)]
          .stall .powerAdmit (s.setCluster c { cl with power := { p with waiting := ws } })

/-- The strand's tile task is admitted and continues with `k`, or waits. -/
def Me.admission (m : Me) (s : State) (h : Nat × Nat) (k : Nat → State → Eff) : Eff := Machine.admission s m.c m.task h k

end Sys2Proof.Machine
end

