-- ==== Sys2Proof/Machine/Doorbell.lean ====
section
/-!
DEFINITION. Doorbell stores and the mapping of queue records into the 64 hardware slots (13 R210, 21 R276).
-/
namespace Sys2Proof.Machine

/-- The record bound to a doorbell word. -/
def queueOfBell (s : State) (pa : Nat) : Option (Nat × Queue) := s.queues.find? fun p => p.2.door == pa

/-- The tail of a queue (R276). -/
def Queue.tail (s : State) (q : Queue) : Word := (s.bells.get? q.door).getD 0

/-- The queue has packets waiting. -/
def Queue.waits (s : State) (q : Queue) : Bool := q.head.ult (q.tail s)

/-- A slot is idle when tail = HEAD and no packet is being interpreted (R276). -/
def Queue.idle (s : State) (q : Queue) : Bool := q.tail s == q.head && q.packet.isNone

/-- Hardware slots in use. -/
def usedSlots (s : State) : List Nat := s.queues.filterMap fun p => p.2.slot

def freeSlot (s : State) : Option Nat := (upto 64).find? fun i => !(usedSlots s).contains i

/-- The mapped idle queue used least recently. -/
def idleVictim (s : State) : Option (Nat × Queue) :=
  (s.queues.filter fun p => p.2.slot.isSome && p.2.idle s).foldl
    (fun best p => match best with
      | none => some p
      | some b => if p.2.used < b.2.used then some p else some b) none

/-- Unmaps an idle record, writing back HEAD and TAIL (R276). -/
def unmapQueue (s : State) (q : Nat) : State :=
  match s.queues.get? q with
  | none => s
  | some r =>
      let s := hubStore s r.ctx (r.va + 16) 8 r.head.toNat
      let s := hubStore s r.ctx (r.va + 24) 8 (r.tail s).toNat
      s.modQueue q fun r => { r with slot := none }

/-- Maps a record into a free slot, or into that of the least recently used idle record; left waiting where there is
neither (R276). -/
def mapQueue (s : State) (q : Nat) : State :=
  match freeSlot s with
  | some i => { s.modQueue q (fun r => { r with slot := some i, used := s.fresh }) with fresh := s.fresh + 1 }
  | none =>
      match idleVictim s with
      | none => s
      | some (v, r) =>
          let s := unmapQueue s v
          { s.modQueue q (fun x => { x with slot := r.slot, used := s.fresh }) with fresh := s.fresh + 1 }

/-- The waiting record that comes first by PRI and age (R276). -/
def nextUnmapped (s : State) : Option Nat :=
  ((s.queues.filter fun p => p.2.slot.isNone && !p.2.stopped && p.2.waits s).foldl
    (fun (best : Option (Nat × Queue)) p => match best with
      | none => some p
      | some b => if p.2.pri < b.2.pri || (p.2.pri == b.2.pri && p.2.since < b.2.since) then some p else some b) none).map Prod.fst

/-- Writes STAT: a status and an operation index, and one more ended packet whose status is not zero (R275, R280). -/
def writeStat (s : State) (q status index : Nat) : State :=
  match s.queues.get? q with
  | none => s
  | some r =>
      let count := (bitsOf r.stat.toNat 63 32 + bit01 (status != 0)) % 2 ^ 32
      let stat := payload [(8, status), (16, index), (8, 0), (32, count)]
      hubStore (s.modQueue q fun r => { r with stat := stat }) r.ctx (r.va + 56) 8 stat.toNat

/-- A queue whose tail has run ahead of its ring stops (R276); while no packet is being interpreted STAT says so at once. -/
def checkOverrun (s : State) (q : Nat) : State :=
  match s.queues.get? q with
  | none => s
  | some r =>
      if r.stopped || (r.tail s).toNat - r.head.toNat ≤ 2 ^ r.rlog then s
      else
        let s := s.modQueue q fun r => { r with stopped := true }
        if r.packet.isNone then writeStat s q 0x04 0 else s

/-- A doorbell store: tail := max(tail, value), and the record bound to the word is mapped where tail > HEAD and no other record
waits before it (R210, R276). A word that no record is bound to has no tail (R274). Log 53 (DEDUCED). -/
def ringBell (s : State) (pa value : Nat) : State :=
  let word := pa / 8 * 8
  match queueOfBell s word with
  | none => s
  | some (q, r) =>
      let old := ((s.bells.get? word).getD 0).toNat
      let s := { s with bells := s.bells.set word (BitVec.ofNat 64 (max old value)) }
      if !r.waits s then s
      else
        let s := if old ≤ r.head.toNat then
            { s.modQueue q (fun r => { r with since := s.fresh }) with fresh := s.fresh + 1 }
          else s
        let s := if r.slot.isSome || (nextUnmapped s).any (fun k => k != q) then s else mapQueue s q
        checkOverrun s q

end Sys2Proof.Machine
end

