-- ==== Sys2Proof/Machine/Operands.lean ====
section
/-!
DEFINITION. The operand forms: the scalar B operand (06 R83), thread registers and the read-only specials (03 R57, R58),
the B operand of the V layout (03 R52), and what each layout uses at the gate.
-/
namespace Sys2Proof.Machine

/-! ### S layout -/

/-- B is s[SB], or the sign-extended immediate (R83). -/
def sOpB (o : SOps) (r : Regs) : Word := if o.imm then o.imm32.signExtend 64 else r.get o.sb

/-- Sources and destination of an S-layout instruction. -/
def sUses (o : SOps) (d a b c : Bool) : Uses :=
  { src := (if a then [(o.sa, o.hdr.wfa)] else []) ++ (if b && !o.imm then [(o.sb, o.hdr.wfb)] else [])
      ++ (if c then [(o.sd, o.hdr.wfc)] else [])
    dst := if d then [o.sd] else [] }

/-! ### Thread registers -/

/-- Key of a name of a window in a block's registers. -/
def colKey (win name : Nat) : Nat := win * 320 + name

/-- A register of a block by window, name in the window and thread: what was written, the free value of a name that a
`quota` left open (R191), or 0 (R195). Log 8 (DESIGN CHOICE). -/
def Block.reg (b : Block) (win name t : Nat) : W32 :=
  match (b.regs.get? (colKey win name)).bind fun col => col.get? t with
  | some v => v
  | none =>
      match b.open'.find? fun p => p.1 == win && p.2.1 ≤ name && name < p.2.1 + p.2.2.1 with
      | some (_, _, _, some n) => Config.freeRegister n (colKey win name * 4096 + t)
      | _ => 0

/-- The read-only specials (R58). -/
def Block.special (b : Block) (name t : Nat) : W32 :=
  BitVec.ofNat 32 (match name with
    | 448 => t
    | 449 => t % b.bx
    | 450 => t / b.bx % b.by'
    | 451 => t / (b.bx * b.by')
    | 452 => b.granules.getD (t / 64) 0 * 64 + t % 64
    | 453 => b.index
    | 454 => 0
    | _ => 0xFFFFFFFF)

/-- v[t][name] as the strand's role names it. -/
def vreg (b : Block) (role name t : Nat) : W32 :=
  if 320 ≤ name then b.special name t else b.reg (windowOf role name) (winName name) t

def Me.v (m : Me) (name t : Nat) : W32 := vreg m.blk m.st.role name t

/-- Writes a register in some threads; a write clears lost marks (R302). -/
def Block.putReg (b : Block) (win name : Nat) (vals : List (Nat × W32)) : Block :=
  let k := colKey win name
  let col := vals.foldl (fun col p => col.set p.1 p.2) ((b.regs.get? k).getD [])
  { b with
    regs := if vals.isEmpty then b.regs else b.regs.set k col
    lostRegs := b.lostRegs.modify k fun x => x &&& ~~~(setOf (vals.map Prod.fst)) }

/-- A write of a whole granule clears its poison (R359). Log 36 (DEDUCED). -/
def clearRegPoison (s : State) (c block win name : Nat) (ts : List Nat) : State :=
  if s.poison.isEmpty then s
  else { s with poison := s.poison.filter fun p => !(ts.any fun t => p == .registers c (sramWord block win name t)) }

/-- Writes a thread register of the strand. -/
def Me.putV (m : Me) (s : State) (name : Nat) (vals : List (Nat × W32)) : State :=
  let win := windowOf m.st.role name
  let s := s.modBlock m.c m.st.block fun b => b.putReg win (winName name) vals
  clearRegPoison s m.c m.st.block win (winName name) (vals.map Prod.fst)

/-- Key k[t][n]. -/
def Block.key (b : Block) (n : Nat) (t : Nat) : Bool := (b.keys[n]?.getD 0).getLsbD t

/-- Writes key n in the threads of `who` to their membership of `val`. -/
def Block.putKey (b : Block) (n : Nat) (who val : TSet) : Block :=
  { b with keys := b.keys.setIfInBounds n (((b.keys[n]?.getD 0) &&& ~~~who) ||| (val &&& who)) }

/-- Writes a key of the strand's block; a word all of whose threads are written is no longer poisoned (R359). -/
def Me.putKey (m : Me) (s : State) (n : Nat) (who val : TSet) : State :=
  clearBits (s.modBlock m.c m.st.block fun b => b.putKey n who val) m.c m.st.block (keyName n)
    ((bitWords m.blk.n).filter fun w => (upto 32).all fun i => m.blk.n ≤ 32 * w + i || who.getLsbD (32 * w + i))

/-! ### V layout -/

/-- The scalar a field names (R52, R131). -/
def scalarOf (n : VName) : SReg := n.truncate 6

/-- B of thread t (R52). -/
def vOpB (o : VOps) (m : Me) (t : Nat) : W32 :=
  match o.bsrc with
  | .thread => m.v o.vb.toNat t
  | .scalar => (m.st.regs.get (scalarOf o.vb)).truncate 32
  | .imm => o.imm32

/-- Source and destination names of a V-layout instruction: `d`, `a`, `b`, `c` say which are thread registers it uses. -/
def vUses (o : VOps) (d a b c : Bool) : Uses :=
  { bo := true, sets := true, ord := true, all := o.all
    src := if b && o.bsrc == .scalar then [(scalarOf o.vb, o.hdr.wfb)] else []
    names := (if a then [{ name := o.va, count := 1, write := false, wf := o.hdr.wfa }] else [])
      ++ (if b && o.bsrc == .thread then [{ name := o.vb, count := 1, write := false, wf := o.hdr.wfb }] else [])
      ++ (if c then [{ name := o.vc, count := 1, write := false, wf := o.hdr.wfc }] else [])
      ++ (if d then [{ name := o.vd, count := 1, write := true, wf := false }] else []) }

end Sys2Proof.Machine
end

