-- ==== Sys2Proof/Machine/Flags.lean ====
section
/-!
DEFINITION. FPFLAGS and FPTRAP (02 R26, R27): what a float instruction's raised flags do.
-/
namespace Sys2Proof.Machine

/-- FPFLAGS after flags are raised. -/
def Regs.raiseFlags (r : Regs) (fl : BitVec 5) : Regs := { r with fpflags := r.fpflags ||| fl }

/-- A raised flag is enabled in FPTRAP, which a handler ignores (R27, 15 R246). -/
def Me.fpTraps (m : Me) (fl : BitVec 5) : Bool := !m.inH && (fl &&& m.st.regs.fptrap) != 0

/-- The flags of several lanes or threads together. -/
def orFlags (l : List (BitVec 5)) : BitVec 5 := l.foldl (· ||| ·) 0

/-- A float instruction with these raised flags and this effect on its destinations (R27): its flags are set; with one of
them enabled it traps FPEXC and writes nothing else. -/
def withFlags (m : Me) (s : State) (fl : BitVec 5) (effect : State → State) : Eff :=
  let s := m.setRegs s fun r => r.raiseFlags fl
  if m.fpTraps fl then .trap causeFpExc (fl.zeroExtend 64) s else .done (effect s)

end Sys2Proof.Machine
end

