-- ==== Sys2Proof/Machine/Scalar.lean ====
section
/-!
DEFINITION. Scalar integer and scalar float instructions (06 R83-R85, 02 R22-R24).
-/
namespace Sys2Proof.Machine

/-- A scalar instruction whose result is a function of A, B and the previous SD; it retires at once. -/
def scalarOp (s : State) (op : Nat) (o : SOps) (d a b c : Bool) (f : Word → Word → Word → Word) :
    Host.Outcome State Fault Refusal :=
  issue s op o.hdr.stop (sUses o d a b c) fun m =>
    let r := m.st.regs
    .done (m.setRegs s fun r' => r'.put o.sd (f (r.get o.sa) (sOpB o r) (r.get o.sd)))

/-- An operation of width w on A and B: under W32 on bits [31:0], its result sign-extended (R83). -/
def widthOp (o : SOps) (f : (w : Nat) → BitVec w → BitVec w → BitVec w) (a b : Word) : Word :=
  if o.w32 then (f 32 (a.truncate 32) (b.truncate 32)).signExtend 64 else f 64 a b

/-! ### Integer operations of width w (R22, R84) -/

def aluDiv (w : Nat) (a b : BitVec w) : BitVec w := if b = 0 then BitVec.allOnes w else a.sdiv b
def aluDivu (w : Nat) (a b : BitVec w) : BitVec w := if b = 0 then BitVec.allOnes w else a.udiv b
def aluRem (w : Nat) (a b : BitVec w) : BitVec w := if b = 0 then a else a.srem b
def aluRemu (w : Nat) (a b : BitVec w) : BitVec w := if b = 0 then a else a.umod b
def aluShl (w : Nat) (a b : BitVec w) : BitVec w := a <<< (b.toNat % w)
def aluShr (w : Nat) (a b : BitVec w) : BitVec w := a >>> (b.toNat % w)
def aluSra (w : Nat) (a b : BitVec w) : BitVec w := a.sshiftRight (b.toNat % w)
def aluRol (w : Nat) (a b : BitVec w) : BitVec w := a.rotateLeft (b.toNat % w)
def aluMin (w : Nat) (a b : BitVec w) : BitVec w := if a.slt b then a else b
def aluMax (w : Nat) (a b : BitVec w) : BitVec w := if a.slt b then b else a
def aluMinu (w : Nat) (a b : BitVec w) : BitVec w := if a.ult b then a else b
def aluMaxu (w : Nat) (a b : BitVec w) : BitVec w := if a.ult b then b else a

/-- Trailing zeros of the low `w` bits; w where there is no one. -/
def trailing : Nat → Nat → Nat
  | 0, _ => 0
  | w + 1, n => if n % 2 == 1 then 0 else 1 + trailing w (n / 2)

def aluClz (w : Nat) (a _b : BitVec w) : BitVec w := BitVec.ofNat w (w - bitLen a.toNat)
def aluCtz (w : Nat) (a _b : BitVec w) : BitVec w := BitVec.ofNat w (trailing w a.toNat)
def aluPopc (w : Nat) (a _b : BitVec w) : BitVec w := BitVec.ofNat w (ones w a.toNat)

/-- Bits [2w−1:w] of the signed and of the unsigned product. -/
def aluMulh (w : Nat) (a b : BitVec w) : BitVec w := BitVec.ofInt w (a.toInt * b.toInt / 2 ^ w)
def aluMulhu (w : Nat) (a b : BitVec w) : BitVec w := BitVec.ofNat w (a.toNat * b.toNat / 2 ^ w)

/-- pos and len of `bfx` and `bfi` (R84). -/
def fieldPos (b : Word) : Nat := bitsOf b.toNat 5 0
def fieldLen (b : Word) : Nat := min (bitsOf b.toNat 14 8) (64 - fieldPos b)

/-- A mask of `len` ones at `pos`. -/
def fieldMask (pos len : Nat) : Word := BitVec.ofNat 64 ((2 ^ len - 1) * 2 ^ pos)

def aluBfx (a b : Word) : Word := (a >>> fieldPos b) &&& fieldMask 0 (fieldLen b)
def aluBfi (a b d : Word) : Word :=
  let k := fieldMask (fieldPos b) (fieldLen b)
  (d &&& ~~~k) ||| ((a <<< fieldPos b) &&& k)

def boolWord (b : Bool) : Word := if b then 1 else 0

def execAdd (o : SOps) (s : State) : Host.Outcome State Fault Refusal :=
  scalarOp s 0x00 o true true true false fun a b _ => widthOp o (fun _ x y => x + y) a b
def execSub (o : SOps) (s : State) : Host.Outcome State Fault Refusal :=
  scalarOp s 0x01 o true true true false fun a b _ => widthOp o (fun _ x y => x - y) a b
def execMul (o : SOps) (s : State) : Host.Outcome State Fault Refusal :=
  scalarOp s 0x02 o true true true false fun a b _ => widthOp o (fun _ x y => x * y) a b
def execMulh (o : SOps) (s : State) : Host.Outcome State Fault Refusal :=
  scalarOp s 0x03 o true true true false fun a b _ => aluMulh 64 a b
def execMulhu (o : SOps) (s : State) : Host.Outcome State Fault Refusal :=
  scalarOp s 0x04 o true true true false fun a b _ => aluMulhu 64 a b
def execDiv (o : SOps) (s : State) : Host.Outcome State Fault Refusal :=
  scalarOp s 0x05 o true true true false fun a b _ => aluDiv 64 a b
def execDivu (o : SOps) (s : State) : Host.Outcome State Fault Refusal :=
  scalarOp s 0x06 o true true true false fun a b _ => aluDivu 64 a b
def execRem (o : SOps) (s : State) : Host.Outcome State Fault Refusal :=
  scalarOp s 0x07 o true true true false fun a b _ => aluRem 64 a b
def execRemu (o : SOps) (s : State) : Host.Outcome State Fault Refusal :=
  scalarOp s 0x08 o true true true false fun a b _ => aluRemu 64 a b
def execAndI (o : SOps) (s : State) : Host.Outcome State Fault Refusal :=
  scalarOp s 0x09 o true true true false fun a b _ => widthOp o (fun _ x y => x &&& y) a b
def execOrI (o : SOps) (s : State) : Host.Outcome State Fault Refusal :=
  scalarOp s 0x0A o true true true false fun a b _ => widthOp o (fun _ x y => x ||| y) a b
def execXorI (o : SOps) (s : State) : Host.Outcome State Fault Refusal :=
  scalarOp s 0x0B o true true true false fun a b _ => widthOp o (fun _ x y => x ^^^ y) a b
def execAndn (o : SOps) (s : State) : Host.Outcome State Fault Refusal :=
  scalarOp s 0x0C o true true true false fun a b _ => a &&& ~~~b
def execShl (o : SOps) (s : State) : Host.Outcome State Fault Refusal :=
  scalarOp s 0x0D o true true true false fun a b _ => widthOp o aluShl a b
def execShr (o : SOps) (s : State) : Host.Outcome State Fault Refusal :=
  scalarOp s 0x0E o true true true false fun a b _ => widthOp o aluShr a b
def execSra (o : SOps) (s : State) : Host.Outcome State Fault Refusal :=
  scalarOp s 0x0F o true true true false fun a b _ => widthOp o aluSra a b
def execRol (o : SOps) (s : State) : Host.Outcome State Fault Refusal :=
  scalarOp s 0x10 o true true true false fun a b _ => widthOp o aluRol a b
def execMinI (o : SOps) (s : State) : Host.Outcome State Fault Refusal :=
  scalarOp s 0x11 o true true true false fun a b _ => widthOp o aluMin a b
def execMaxI (o : SOps) (s : State) : Host.Outcome State Fault Refusal :=
  scalarOp s 0x12 o true true true false fun a b _ => widthOp o aluMax a b
def execMinu (o : SOps) (s : State) : Host.Outcome State Fault Refusal :=
  scalarOp s 0x13 o true true true false fun a b _ => widthOp o aluMinu a b
def execMaxu (o : SOps) (s : State) : Host.Outcome State Fault Refusal :=
  scalarOp s 0x14 o true true true false fun a b _ => widthOp o aluMaxu a b
def execClz (o : SOps) (s : State) : Host.Outcome State Fault Refusal :=
  scalarOp s 0x15 o true true false false fun a b _ => widthOp o aluClz a b
def execCtz (o : SOps) (s : State) : Host.Outcome State Fault Refusal :=
  scalarOp s 0x16 o true true false false fun a b _ => widthOp o aluCtz a b
def execPopc (o : SOps) (s : State) : Host.Outcome State Fault Refusal :=
  scalarOp s 0x17 o true true false false fun a b _ => widthOp o aluPopc a b
def execBfx (o : SOps) (s : State) : Host.Outcome State Fault Refusal :=
  scalarOp s 0x18 o true true true false fun a b _ => aluBfx a b
def execBfi (o : SOps) (s : State) : Host.Outcome State Fault Refusal :=
  scalarOp s 0x19 o true true true true fun a b d => aluBfi a b d
def execSel (o : SOps) (s : State) : Host.Outcome State Fault Refusal :=
  scalarOp s 0x1A o true true true true fun a b d => if d ≠ 0 then a else b
def execSeqI (o : SOps) (s : State) : Host.Outcome State Fault Refusal :=
  scalarOp s 0x1B o true true true false fun a b _ => boolWord (a == b)
def execSlt (o : SOps) (s : State) : Host.Outcome State Fault Refusal :=
  scalarOp s 0x1C o true true true false fun a b _ => boolWord (a.slt b)
def execSltu (o : SOps) (s : State) : Host.Outcome State Fault Refusal :=
  scalarOp s 0x1D o true true true false fun a b _ => boolWord (a.ult b)
def execLiI (o : SOps) (s : State) : Host.Outcome State Fault Refusal :=
  scalarOp s 0x1E o true false false false fun _ _ _ => o.imm32.signExtend 64
def execLiHi (o : SOps) (s : State) : Host.Outcome State Fault Refusal :=
  scalarOp s 0x1E o true false false true fun _ _ d => o.imm32 ++ d.truncate 32
def execMov (o : SOps) (s : State) : Host.Outcome State Fault Refusal :=
  scalarOp s 0x1F o true true false false fun a _ _ => a

/-! ### Scalar float (R85) -/

/-- FP32 value of bits [31:0] of a register. -/
def f32Of (w : Word) : FVal := f32.read false (w.toNat % 2 ^ 32)

/-- B as FP32: SB, or IMM32 read as a bit pattern (R85). -/
def sOpF (o : SOps) (r : Regs) : Word := if o.imm then o.imm32.zeroExtend 64 else r.get o.sb

/-- A scalar float instruction: its result, zero-extended, and its flags (R85, R27). -/
def scalarFloat (s : State) (op : Nat) (o : SOps) (b c : Bool) (f : Word → Word → Word → Word × BitVec 5) :
    Host.Outcome State Fault Refusal :=
  issue s op o.hdr.stop (sUses o true true b c) fun m =>
    let r := m.st.regs
    let x := f (r.get o.sa) (sOpF o r) (r.get o.sd)
    withFlags m s x.2 fun s => m.setRegs s fun r' => r'.put o.sd x.1

/-- A result as a scalar. -/
def FRes.word (x : FRes) : Word × BitVec 5 := (BitVec.ofNat 64 x.bits, x.flags)

def execFadd (o : SOps) (s : State) : Host.Outcome State Fault Refusal :=
  scalarFloat s 0x20 o true false fun a b _ => (f32.add .rne false (f32Of a) (f32Of b)).word
def execFsub (o : SOps) (s : State) : Host.Outcome State Fault Refusal :=
  scalarFloat s 0x21 o true false fun a b _ => (f32.sub .rne false (f32Of a) (f32Of b)).word
def execFmul (o : SOps) (s : State) : Host.Outcome State Fault Refusal :=
  scalarFloat s 0x22 o true false fun a b _ => (f32.mul .rne false (f32Of a) (f32Of b)).word
def execFfma (o : SOps) (s : State) : Host.Outcome State Fault Refusal :=
  scalarFloat s 0x23 o true true fun a b d => (f32.fma .rne false (f32Of a) (f32Of b) (f32Of d)).word
def execFdiv (o : SOps) (s : State) : Host.Outcome State Fault Refusal :=
  scalarFloat s 0x24 o true false fun a b _ => (f32.div .rne false (f32Of a) (f32Of b)).word
def execFsqrt (o : SOps) (s : State) : Host.Outcome State Fault Refusal :=
  scalarFloat s 0x25 o false false fun a _ _ => (f32.sqrt .rne false (f32Of a)).word
def execFmin (o : SOps) (s : State) : Host.Outcome State Fault Refusal :=
  scalarFloat s 0x26 o true false fun a b _ =>
    (f32.minMax false false (a.toNat % 2 ^ 32) (b.toNat % 2 ^ 32)).word
def execFmax (o : SOps) (s : State) : Host.Outcome State Fault Refusal :=
  scalarFloat s 0x27 o true false fun a b _ =>
    (f32.minMax true false (a.toNat % 2 ^ 32) (b.toNat % 2 ^ 32)).word

/-- Whether a relation holds, and NV: on any NaN for `.lt` and `.le`, on a signalling one for `.eq` and `.un` (R85). -/
def fRelation (r : FRel) (a b : FVal) : Bool × BitVec 5 :=
  let anyNan := a.isNan || b.isNan
  let snan := a.isSnan || b.isSnan
  match r with
  | .eq => (a.eq b, if snan then flNv else 0)
  | .lt => (a.lt b, if anyNan then flNv else 0)
  | .le => (a.lt b || a.eq b, if anyNan then flNv else 0)
  | .un => (anyNan, if snan then flNv else 0)

def execFcmp (r : FRel) (o : SOps) (s : State) : Host.Outcome State Fault Refusal :=
  scalarFloat s 0x28 o true false fun a b _ =>
    let x := fRelation r (f32Of a) (f32Of b)
    (boolWord x.1, x.2)

/-- The conversions of `fcvt` (R85). -/
def fConvert (k : FCvt) (a : Word) : Word × BitVec 5 :=
  match k with
  | .f32I64 => (f32.ofInt .rne a.toInt).word
  | .f32U64 => (f32.ofInt .rne a.toNat).word
  | .i64F32 => let x := toInt .rne (-2 ^ 63) (2 ^ 63 - 1) (f32Of a); (BitVec.ofInt 64 x.1, x.2)
  | .u64F32 => let x := toInt .rne 0 (2 ^ 64 - 1) (f32Of a); (BitVec.ofInt 64 x.1, x.2)

def execFcvt (k : FCvt) (o : SOps) (s : State) : Host.Outcome State Fault Refusal :=
  scalarFloat s 0x29 o false false fun a _ _ => fConvert k a

end Sys2Proof.Machine
end

