-- ==== Sys2Proof/Machine/Scratch.lean ====
section
/-!
DEFINITION. The scratchpad of a block as a strand reaches it: the range scoreboard (13 R214, R215), poison (28 R359), reads and
writes.
-/
namespace Sys2Proof.Machine

/-- TINFO of an address trap of a form without progress points (R133). -/
def addrInfo (thread addr : Nat) : Word := payload [(32, addr), (16, thread)]

/-- A range of the strand's scratchpad meets an entry of the range scoreboard: a scratchpad write region of a job of its block
in flight (R214, R215). -/
def rangeBusy (s : State) (m : Me) (a n : Nat) : Bool :=
  (s.cluster m.c).jobs.any fun j => j.block == m.st.block && j.writes.any fun r => r.scratch && overlaps r.base r.len a n

/-- A poisoned granule of a block's scratchpad in a range (R359). -/
def scratchPoison (s : State) (c block a n : Nat) : Option Nat :=
  if s.poison.isEmpty then none
  else s.poison.findSome? fun p => match p with
    | .scratchpad c' b w => if c' == c && b == block && overlaps (8 * w) 8 a n then some w else none
    | _ => none

/-- Jobs of a strand in flight. -/
def ownJobs (cl : Cluster) (k block : Nat) : List Job := cl.jobs.filter fun j => j.slot == k && j.block == block

/-- Everything the strand has sent is performed, its deliveries have come, its `ldsc` bytes have landed, its tile-engine accesses are
done and its jobs have retired: a release may be performed (R219 case 4, R220). After `tail` this is what it has still outstanding too. -/
def Me.quiet (m : Me) (s : State) : Bool :=
  let cl := s.cluster m.c
  m.st.out.isEmpty && !(cl.deliveries.any fun d => d.slot == m.k && !d.discard) && (ownJobs cl m.k m.st.block).isEmpty && !(cl.landings.any fun l => l.slot == m.k)
    && !(cl.tileOps.any fun t => t.slot == m.k && (t.reads || t.writes))

/-- The agent, of this block and cluster, lies in the scope whose order an event has overtaken (R228). Log 23 (DEDUCED). -/
def Debt.holds (d : Debt) (c k block : Nat) : Bool :=
  !(d.cluster == c && d.slot == k) && match d.scope with
    | .strand => false
    | .block => d.cluster == c && d.block == block
    | .cluster => d.cluster == c
    | .die => dieOf d.cluster == dieOf c
    | .pkg | .sys => true

/-- Bytes of a scratchpad of cluster `c`, or of memory, are among those of a span of cluster `d`. -/
def Span.meets (x : Span) (d c : Nat) (space : Option Nat) (a n : Nat) : Bool :=
  (space.isNone || d == c) && x.space == space && overlaps x.pa x.bytes a n

/-- An agent may not reach bytes yet (R228): those that were overtaken, once an agent of the scope has met the event. -/
def owedSoft (s : State) (c k block : Nat) (space : Option Nat) (a n : Nat) : Bool :=
  s.debts.any fun d => d.holds c k block && d.live && d.bars.any fun x => x.meets d.cluster c space a n

/-- The agent meets the bytes of an event that went ahead. -/
def Debt.met (d : Debt) (c k block : Nat) (space : Option Nat) (a n : Nat) : Bool :=
  d.holds c k block && d.mark.any fun x => x.meets d.cluster c space a n

/-- The same for an access that takes place at once: it does not meet an event that went ahead either. -/
def owed (s : State) (c k block : Nat) (space : Option Nat) (a n : Nat) : Bool :=
  owedSoft s c k block space a n || s.debts.any fun d => d.met c k block space a n

/-- An agent reaches bytes: of the events that went ahead it has met those that lie there. -/
def touch (s : State) (c k block : Nat) (space : Option Nat) (a n : Nat) : State :=
  if s.debts.isEmpty then s
  else { s with debts := s.debts.map fun d => if d.met c k block space a n then { d with live := true } else d }

/-- The strand has sent a fence that orders what precedes it before an access of this class, 0 a read and 1 a write (R219 case 5). -/
def Strand.fenced (st : Strand) (bit : Nat) : Bool := st.out.any fun a => match a.act with
  | .fence _ succ => bitOf succ bit
  | _ => false

/-- An access to the scratchpad that takes place at once meets bytes of an access of the strand that is not performed
(R219 case 1). -/
def Me.sentOver (m : Me) (a n : Nat) : Bool := m.st.out.any fun x => x.space == some m.st.block && overlaps x.pa x.bytes a n

/-- It meets those, or bytes that are owed to another's order. -/
def sentBusy (s : State) (m : Me) (a n : Nat) : Bool := m.sentOver a n || owed s m.c m.k m.st.block (some m.st.block) a n

/-- The same for physical memory. -/
def sentMeets (s : State) (m : Me) (pa n : Nat) : Bool :=
  (m.st.out.any fun x => x.space.isNone && overlaps x.pa x.bytes pa n) || owed s m.c m.k m.st.block none pa n

/-- An access of the strand to its scratchpad meets bytes that an `ldsc` of its own has not landed (R219 case 1). -/
def landBusy (s : State) (m : Me) (a n : Nat) : Bool :=
  (s.cluster m.c).landings.any fun l => l.slot == m.k && l.threads.any fun t =>
    match l.dests.get? t with
    | some d => overlaps d l.bytes a n
    | none => false

/-- An access of the strand to its scratchpad meets bytes that an outstanding tile-engine access of its own touches (R153), or
that an `ldsc` of its own has not landed. -/
def ownBusy (s : State) (m : Me) (a n : Nat) : Bool :=
  ((s.cluster m.c).tileOps.any fun t =>
    t.slot == m.k && (t.reads || t.writes) && t.regions.any fun r => r.scratch && overlaps r.base r.len a n) || landBusy s m a n

/-- An access of the strand to physical memory meets bytes that an outstanding tile-engine access of its own touches (R153). -/
def tileMeets (s : State) (m : Me) (pa n : Nat) : Bool :=
  (s.cluster m.c).tileOps.any fun t => t.slot == m.k && (t.reads || t.writes)
    && t.regions.any fun r => !r.scratch && overlaps r.base r.len pa n

/-- An access to a range of the scratchpad waits (R215, R153). -/
def scratchBusy (s : State) (m : Me) (a n : Nat) : Bool := rangeBusy s m a n || ownBusy s m a n

/-- The effect of an access that takes place at once and whose checks have passed, or what holds it back: RANGE, or poison in what
it reads. -/
def scratchGate (s : State) (m : Me) (a n : Nat) (reads : Bool) (k : Unit → Eff) : Eff :=
  if scratchBusy s m a n || sentBusy s m a n || m.st.fenced (bit01 !reads) then .stall .range s
  else match (if reads then scratchPoison s m.c m.st.block a n else none) with
    | some w => .trap causeEcc (storageLocation 1 m.c w) s
    | none => k ()

/-- Writes bytes of a block's scratchpad; a granule written whole is no longer poisoned (R359). -/
def scratchWrite (s : State) (c block a : Nat) (bs : List Byte) : State :=
  let s := s.modBlock c block fun b => { b with scratch := writeBytes b.scratch a bs }
  if s.poison.isEmpty then s
  else { s with poison := s.poison.filter fun p => match p with
    | .scratchpad c' b w => !(c' == c && b == block && a ≤ 8 * w && 8 * w + 8 ≤ a + bs.length)
    | _ => true }

/-- The range lies in the block's scratchpad. -/
def Block.holds (b : Block) (a n : Nat) : Bool := a + n ≤ b.scratchLen

end Sys2Proof.Machine
end

