-- ==== Sys2Proof/Machine/Control.lean ====
section
/-!
DEFINITION. Branches, calls, spawn and join, the end of a strand, launch, traps and waits (06 R87-R98, 12 R200-R202).
-/
namespace Sys2Proof.Machine

/-- `nop` (R87). -/
def execNop (o : SOps) (s : State) : Host.Outcome State Fault Refusal :=
  issue s 0x34 o.hdr.stop {} fun _ => .done s

/-! ### Transfers (R88, R66) -/

/-- A taken transfer to a target, with the register effect it has: one to another page checks the target, before any effect
(R66). -/
def transfer (s : State) (m : Me) (always : Bool) (target : PC) (effect : State → State) : Eff :=
  if (always || !samePage m.st.pc target) && !targetOk s m.c m.ctx target then
    .trap causeBadTarget (target.zeroExtend 64) s
  else .jump (effect s) target

def bTarget (m : Me) (o : BOps) : PC := directTarget m.st.pc o.tslot o.loff

/-- Sources of a B-layout instruction. -/
def bUses (o : BOps) (a b : Bool) : Uses :=
  { src := (if a then [(o.sa, o.hdr.wfa)] else []) ++ (if b then [(o.sb, o.hdr.wfb)] else []) }

/-- The relation of `b` (R73). -/
def bcondHolds (c : BCond) (a b : Word) : Bool :=
  match c with
  | .eq => a == b
  | .ne => a != b
  | .lt => a.slt b
  | .ge => !a.slt b
  | .ltu => a.ult b
  | .geu => !a.ult b

def execBranch (c : BCond) (o : BOps) (s : State) : Host.Outcome State Fault Refusal :=
  issue s 0x40 o.hdr.stop (bUses o true true) fun m =>
    if bcondHolds c (m.st.regs.get o.sa) (m.st.regs.get o.sb) then transfer s m false (bTarget m o) id else .done s

/-- The test of `bcnt` on RSC (R88). -/
def cntHolds (c : CntCond) (rsc : BitVec 16) (a : Word) : Bool :=
  match c with
  | .z => rsc == 0
  | .nz => rsc != 0
  | .one => rsc == 1
  | .ge => a.toNat ≤ rsc.toNat

def execBcnt (c : CntCond) (o : BOps) (s : State) : Host.Outcome State Fault Refusal :=
  issue s 0x41 o.hdr.stop (bUses o (c == .ge) false) fun m =>
    if cntHolds c m.st.regs.rsc (m.st.regs.get o.sa) then transfer s m false (bTarget m o) id else .done s

def execJmp (o : BOps) (s : State) : Host.Outcome State Fault Refusal :=
  issue s 0x42 o.hdr.stop {} fun m => transfer s m false (bTarget m o) id

/-- `jmpr` (R88): a PC has 57 bits, and bits [63:57] of s[SA] are dropped. Log 28 (DEDUCED). -/
def execJmpr (o : SOps) (s : State) : Host.Outcome State Fault Refusal :=
  issue s 0x43 o.hdr.stop (sUses o false true false false) fun m =>
    transfer s m true ((m.st.regs.get o.sa).truncate 57) id

/-- `call`: s63 := successor, CDEPTH one more, saturating (R88). -/
def execCall (o : BOps) (s : State) : Host.Outcome State Fault Refusal :=
  issue s 0x44 o.hdr.stop { dst := [63] } fun m =>
    transfer s m false (bTarget m o) fun s => m.setRegs s fun r =>
      { r.put 63 ((successor m.st.pc).zeroExtend 64) with
        cdepth := if r.cdepth = 0xFFFF then r.cdepth else r.cdepth + 1 }

/-- `loop`: SD one less, taken while it is not 0 (R88). -/
def execLoopI (o : BOps) (s : State) : Host.Outcome State Fault Refusal :=
  issue s 0x46 o.hdr.stop { src := [(o.sd, o.hdr.wfc)], dst := [o.sd] } fun m =>
    let v := m.st.regs.get o.sd - 1
    let effect := fun s => m.setRegs s fun r => r.put o.sd v
    if v ≠ 0 then transfer s m false (bTarget m o) effect else .done (effect s)

/-! ### Strands (R89-R94) -/

/-- Registers of a new strand or callee (R86, R89, R195): scalars as given, every other register at its reset value, RSC, RFR
and Z describing L0. -/
def newRegs (scalars : Vector Word 64) (tvec : Word) (n : Nat) (l0 : TSet) : Regs :=
  ({ s := scalars, empty := 0, lost := 0, fpflags := 0, fptrap := 0, pi := 0, rsc := 0, rfr := 0, z := true, cdepth := 0,
     children := 0, tvec := tvec, trpc := 0, tcause := 0, tinfo := 0, tstate := 0, tpi := 0, tnpc := 0, dbg := 0,
     tmcmp := 0, tmctl := 0, gang := 0, latch := none, watch := none, thrArmed := false, thrDue := none
     thrTold := false } : Regs).setCounts
    n l0

/-- A strand at its first instruction, with its number. -/
def newStrand (pc : PC) (regs : Regs) (l0 : TSet) (limit block role : Nat) (parent : Option (Nat × Nat))
    (time : Word) (num : Nat) : Strand :=
  { pc := pc, regs := regs, stack := Stack.init l0 limit, parked := 0, frames := [], block := block, role := role,
    parent := parent, tailed := false, wait := .none, trap := none, trapAt := 0, stall := none, waited := 0, yielded := false,
    gangDone := 0, bpinh := false, alone := none, entering := true, code := .none, stepDue := none, resumed := false,
    late := [], out := [], spans := [], num := num, jobFaults := [], site := none, started := time, age := 0, solve := none, pre := [] }

/-- The role's handler of the strand's role. -/
def Me.roleHandler (m : Me) : Word := match m.blk.roles[m.st.role]? with | some r => r.handler | none => 0

/-- A callee's registers: s1-s62 are the parent's, s63 is 0 (R89, R91); a mark that a scalar is lost is not copied.
Log 28 (DEDUCED). -/
def Me.calleeRegs (m : Me) (l0 : TSet) : Regs := newRegs (m.st.regs.s.set 63 0) m.roleHandler m.blk.n l0

/-- Children of the strand's current callee or of the strand that have not ended. -/
def liveChildren (cl : Cluster) (k depth : Nat) : Nat :=
  (cl.strands.filter fun p => p.2.parent == some (k, depth)).length

/-- Payload of a SPAWN record (R336). -/
def spawnPay (kind slot : Nat) : Word := payload [(3, slot), (59, 0), (2, kind)]

/-- A free strand slot (R197). -/
def freeStrandSlot (cl : Cluster) : Option Nat := (upto 8).find? fun i => (cl.strands.get? i).isNone

/-- A child strand starts (R89). -/
def startChild (s : State) (m : Me) (slot : Nat) (target : PC) : State :=
  let stk := m.stack s
  let l0 := m.unparked stk.top
  let child := newStrand target (m.calleeRegs l0) l0 (stk.limit - stk.depth) m.st.block m.st.role
    (some (m.k, m.st.frames.length)) s.time s.fresh
  let s := { s with fresh := s.fresh + 1 }
  let s := s.modStrand m.c m.k fun st =>
    { st with parked := st.parked ||| l0
              regs := { st.regs.setCounts m.blk.n 0 with children := st.regs.children + 1 } }
  let s := s.setStrand m.c slot child
  m.note s 0x0B (spawnPay 0 slot)

/-- The callee runs inline (R91). A parent that steps traps STEP at a `spawn` that is a stop site once the callee has ended, as it
traps beside a child. Log 28 (DEDUCED). -/
def startInline (s : State) (m : Me) (stop : Bool) : State :=
  let stk := m.stack s
  let l0 := m.unparked stk.top
  let fr : Frame := { regs := m.st.regs, base := stk.base, limit := stk.limit, parked := m.st.parked,
                      resume := successor m.st.pc, inHandler := m.inH,
                      first := (s.cluster m.c).nextId, spans := m.st.spans, jobFaults := m.st.jobFaults
                      step := if stop && !m.inH && m.st.regs.dbg.getLsbD 0 then some m.st.pc else none }
  let s := m.setStack s { stk with base := stk.levels.length - 1, limit := stk.limit - stk.depth }
  let s := s.modStrand m.c m.k fun st => { st with regs := m.calleeRegs l0, frames := fr :: st.frames, spans := [], jobFaults := [] }
  m.note s 0x0B (spawnPay 1 0)

/-- After an inline start the target is the callee's entry, whose TGT bit its first fetch checks (03 R66). -/
def inlineEff (s : State) (m : Me) (stop : Bool) (target : PC) : Eff :=
  if 4 ≤ m.st.frames.length then .trap causeNestDepth 1 s
  else .ended ((retireAt (startInline s m stop) m stop false target).modStrand m.c m.k fun st => { st with entering := true })

def execSpawn (o : BOps) (s : State) : Host.Outcome State Fault Refusal :=
  issue s 0x47 o.hdr.stop { bo := true, ord := true } fun m =>
    if !m.st.late.isEmpty then .stall .feWait s
    else if 15 ≤ m.st.regs.children then .trap causeNestDepth 2 s
    else if m.inH || m.st.wait == .noSlot then inlineEff s m o.hdr.stop (bTarget m o)
    else match freeStrandSlot (s.cluster m.c) with
      | some slot => .done (startChild s m slot (bTarget m o))
      | none =>
          .stall .sleep (if m.st.wait == .none then
            s.modStrand m.c m.k fun st => { st with wait := .search 64 } else s)

/-- Threads parked before the current callee began (R90, R91). -/
def Strand.parkedBelow (st : Strand) : TSet := match st.frames with | [] => 0 | f :: _ => f.parked

/-- A number lies in one of a list of ranges. -/
def inSpans (l : List (Nat × Nat)) (id : Nat) : Bool := l.any fun r => r.1 ≤ id && id < r.2

/-- Accesses, jobs, landings and engine accesses of a strand's ended inline callees are under way. -/
def spansOpen (cl : Cluster) (m : Me) : Bool :=
  let of := fun (slot id : Nat) => slot == m.k && inSpans m.st.spans id
  (m.st.out.any fun a => inSpans m.st.spans a.id) || (cl.jobs.any fun j => of j.slot j.id) || (cl.landings.any fun l => of l.slot l.id)
    || (cl.tileOps.any fun t => of t.slot t.id) || cl.bankOps.any fun t => of t.slot t.id

/-- Every child of the strand's current callee or of the strand has ended with all it sent and began, in its own slot or inline
(R92, R222). Log 23 (DEDUCED). -/
def childrenDone (s : State) (m : Me) : Bool :=
  let cl := s.cluster m.c
  let me := (m.k, m.st.frames.length)
  liveChildren cl me.1 me.2 == 0 && !(cl.tracker.any fun t => t.block == m.st.block && t.parent == some me) && !spansOpen cl m

/-- `join`, once no child is left (R92): unparks, and writes RSC, RFR and Z for TOP. -/
def joined (s : State) (m : Me) : State :=
  let top := (m.stack s).top &&& ~~~m.st.parkedBelow
  let s := s.modStrand m.c m.k fun st =>
    { st with parked := st.parkedBelow, spans := [], regs := { st.regs.setCounts m.blk.n top with children := 0 } }
  m.note s 0x0B (spawnPay 2 0)

def execJoinI (o : SOps) (s : State) : Host.Outcome State Fault Refusal :=
  issue s 0x48 o.hdr.stop { bo := true, ord := true } fun m =>
    if m.inH then .double 0
    else if !childrenDone s m then .stall .sleep s
    else .done (joined s m)

/-- The fault of the lowest ticket. Log 33 (DEDUCED). -/
def lowestFault : List JobFault → Option JobFault
  | [] => none
  | f :: rest => match lowestFault rest with
    | some g => some (if g.ticket < f.ticket then g else f)
    | none => some f

/-- TINFO of a job fault (R181). -/
def JobFault.tinfo (f : JobFault) : Word := payload [(32, f.ticket), (32, f.info)]

/-- The strand without a fault that is taken; the others wait for its `tret`. -/
def dropFault (s : State) (m : Me) (f : JobFault) : State :=
  s.modStrand m.c m.k fun st =>
    { st with jobFaults := (st.jobFaults.filter fun g => g != f).map fun g => { g with later := true } }

/-- The job faults that the strand meets (R181): in a handler not those of which another was taken before it. Log 33 (DEDUCED). -/
def Me.faultsMet (m : Me) : List JobFault := m.st.jobFaults.filter fun f => !(m.inH && f.later)

/-- A job fault that waits for the strand is taken before the instruction has any effect (R181): the lowest ticket first, and the
others after `tret`. -/
def jobFault? (s : State) (m : Me) : Option Eff :=
  (lowestFault m.faultsMet).map fun f => .trap f.cause f.tinfo (dropFault s m f)

/-- An access that a tracker entry stands for: a store, an atomic, or a read whose bytes an `ldsc` counts (R201). -/
def Access.tracked (a : Access) : Bool :=
  match a.act, a.dest with
  | .load, .landing _ _ => true
  | .load, _ => false
  | .fence _ _, _ => false
  | _, _ => true

/-- An access that goes on when its strand ends (R201): one that is tracked, or what orders those (R219). -/
def Access.kept (a : Access) : Bool := a.tracked || match a.act with | .fence _ _ => true | _ => false

/-- What a strand has outstanding that a tracker entry must stand for and that none stands for yet (R201). -/
def trackedOf (s : State) (m : Me) : Tracked :=
  let cl := s.cluster m.c
  let mine := cl.tracker.filter fun t => t.strand == m.st.num
  let left := fun (f : Tracked → List Nat) (ids : List Nat) => ids.filter fun i => !(mine.any fun t => (f t).contains i)
  { id := cl.nextId, block := m.st.block, strand := m.st.num, parent := m.st.parent
    ids := left Tracked.ids ((m.st.out.filter Access.tracked).map Access.id)
    jobs := left Tracked.jobs ((ownJobs cl m.k m.st.block).map Job.id)
    landings := left Tracked.landings ((cl.landings.filter fun l => l.slot == m.k).map Landing.id)
    tiles := left Tracked.tiles ((cl.tileOps.filter fun t => t.slot == m.k && (t.reads || t.writes)).map TileOp.id)
    banks := left Tracked.banks ((cl.bankOps.filter fun t => t.slot == m.k).map BankOp.id) }

def Tracked.empty (t : Tracked) : Bool :=
  t.ids.isEmpty && t.jobs.isEmpty && t.landings.isEmpty && t.tiles.isEmpty && t.banks.isEmpty

/-- Other strands of the role that have neither tailed nor ended (R93). -/
def roleRemains (cl : Cluster) (k block role : Nat) : Bool :=
  cl.strands.any fun p => p.1 != k && p.2.block == block && p.2.role == role && !p.2.tailed

/-- A role with its window freed (R93). -/
def freeRole (b : Block) (role : Nat) : Block :=
  { b with roles := (b.roles.zip (upto b.roles.length)).map fun p => if p.2 == role then { p.1 with freed := true } else p.1 }

/-- The tile task of a gang, as the power domain names it: 16 and its lowest member (R172). -/
def gangTask (gang : Nat) : Nat := 16 + ((upto 8).filter fun i => bitOf gang i).headD 0

/-- The members of a gang that is broken which wait in it trap GANGBROKEN, the lowest slot first, with the slot at fault (R158,
R244). No arrival stands any more, and the gang's task no longer waits. -/
def breakArrivals (s : State) (c : Nat) (hit : Arrival → Bool) (cause slot : Nat) : State :=
  let broken := sortBy Arrival.slot ((s.cluster c).arrivals.filter hit)
  let s := s.modCluster c fun cl =>
    { cl with arrivals := cl.arrivals.filter fun a => !hit a
              power := cl.power.without (fun t => broken.any fun a => t == gangTask a.gang) }
  broken.foldl (fun s a =>
    match meAt s c a.slot with
    | none => s
    | some m =>
        if m.st.wait != .gang then s
        else raise (s.modStrand c a.slot fun st => { st with wait := .none }) m causeGangBroken (payload [(8, cause), (8, slot)]) 0xE0) s

/-- A member that ends breaks every gang of its block that waits for it (R158 cause 2). -/
def breakGangs (s : State) (c k block : Nat) : State :=
  let cl := s.cluster c
  breakArrivals s c (fun a => bitOf a.gang k && (cl.strands.get? a.slot).any fun st => st.block == block) 2 k

/-- `tail` (R93, R194), once it may proceed: the latch, the levels and the mark bits go, deliveries are discarded, a tracker entry
stands for what is outstanding, and the last strand of a role frees its window. -/
def doTail (s : State) (m : Me) : State :=
  let t := trackedOf s m
  let s := s.modCluster m.c fun cl =>
    { cl with
      tracker := if t.empty then cl.tracker else cl.tracker ++ [t]
      nextId := cl.nextId + 1
      deliveries := cl.deliveries.map fun d => if d.slot == m.k then { d with discard := true, slot := 8 } else d }
  let s := s.modStrand m.c m.k fun st =>
    { st with tailed := true, regs := { st.regs with latch := none }, stack := { st.stack with levels := [0], base := 0 } }
  let s := if roleRemains (s.cluster m.c) m.k m.st.block m.st.role then s
    else s.modBlock m.c m.st.block fun b => freeRole b m.st.role
  breakGangs s m.c m.k m.st.block

/-- The tracker has room for what the strand has outstanding (R93 step 1). -/
def trackerRoom (s : State) (m : Me) : Bool := (trackedOf s m).empty || (s.cluster m.c).tracker.length < 16

/-- The strand runs a spawned callee (R91). -/
def Strand.isCallee (st : Strand) : Bool := st.parent.isSome || !st.frames.isEmpty

def execTail (o : SOps) (s : State) : Host.Outcome State Fault Refusal :=
  issue s 0x49 o.hdr.stop { bo := true, ord := true } fun m =>
    if m.inH then .double 0
    else match jobFault? s m with
      | some e => e
      | none =>
          if m.st.isCallee then .trap causeAccess 0 s
          else if !trackerRoom s m then .stall .engine s
          else .done (doTail s m)

/-- The access without the callee's destination: late scalars of the callee go nowhere (R91, R93). -/
def Access.forget (a : Access) : Access :=
  match a.dest with
  | .scalar _ => { a with dest := .none }
  | _ => a

/-- The cluster's handler is over: the population is free again (R94, R248). -/
def Cluster.release (cl : Cluster) : Cluster :=
  { cl with handler := none, hlatch := none, hstack := { levels := [], base := 0, limit := 15 } }

/-- The stack without the levels of the callee that a frame ends. -/
def Stack.unwind (k : Stack) (f : Frame) : Stack := { levels := k.levels.drop k.depth, base := f.base, limit := f.limit }

/-- The lowest-slot strand of a block that has not tailed. -/
def heir (cl : Cluster) (block : Nat) : Option Nat :=
  ((cl.strands.filter fun p => p.2.block == block && !p.2.tailed).map Prod.fst).head?

/-- A job fault goes to the strand or to the inline callee that issued the job, by the job's number (R91, R181). -/
def Strand.takeFault (st : Strand) (id : Nat) (f : JobFault) : Strand :=
  let n := (st.frames.takeWhile fun fr => id < fr.first).length
  if n = 0 then { st with jobFaults := st.jobFaults ++ [f] }
  else { st with frames := st.frames.modify (n - 1) fun fr => { fr with jobFaults := fr.jobFaults ++ [f] } }

/-- The inline callee of the strand that issued a job has ended. -/
def Strand.faultOrphan (st : Strand) (id : Nat) : Bool :=
  inSpans (((st.frames.takeWhile fun fr => id < fr.first).getLast?.map Frame.spans).getD st.spans) id

/-- A job fault whose issuer has tailed or ended passes to the strand of the block that takes it in its place, or, with none left,
to the grid's completion status (R202). -/
def orphanFault (s : State) (c block grid : Nat) (f : JobFault) : State :=
  match heir (s.cluster c) block with
  | some k => s.modStrand c k fun st => { st with jobFaults := st.jobFaults ++ [{ f with orphan := true, mid := st.stall.isSome }] }
  | none => s.modGrid grid fun g => { g with status := max g.status 0x20 }

/-- The end of an inline run: deliveries and late scalars of the callee are discarded and its job faults pass on as at the end of a
child, the frame is restored and the parent continues (R91). Where the handler of a trap of the callee executes the `halt`, the
handler is over too. A STEP trap of the parent at its `spawn` is due (R251). Log 28 (DEDUCED). -/
def endInline (s : State) (m : Me) (f : Frame) (rest : List Frame) : State :=
  let s := if m.inH == f.inHandler then m.setStack s ((m.stack s).unwind f)
    else (s.modStrand m.c m.k fun st => { st with stack := st.stack.unwind f }).modCluster m.c Cluster.release
  let s := s.modCluster m.c fun cl =>
    { cl with deliveries := cl.deliveries.map fun d =>
        if d.slot == m.k && f.first ≤ d.id then { d with discard := true, slot := 8 } else d }
  let s := dropReplies (s.modStrand m.c m.k fun st =>
    { st with regs := f.regs, frames := rest, parked := f.parked, late := [], out := st.out.map Access.forget
              spans := f.spans ++ [(f.first, (s.cluster m.c).nextId)]
              jobFaults := f.jobFaults ++ m.st.jobFaults.filter JobFault.orphan
              stepDue := f.step.map fun pc => (pc, f.resume) })
  (m.st.jobFaults.filter fun g => !g.orphan).foldl (fun s g => orphanFault s m.c m.st.block m.blk.grid g) s

/-- The strands of a grid in the clusters and in saved images. -/
def gridStrands (s : State) (g : Nat) : List Strand :=
  let pick := fun (bs : SMap Block) (ss : SMap Strand) =>
    (ss.filter fun q => match bs.get? q.2.block with | some b => b.grid == g | none => false).map Prod.snd
  (s.clusters.map fun p => pick p.2.blocks p.2.strands).flatten
    ++ (s.ctxs.map fun p => (p.2.images.map fun i => pick i.blocks i.strands).flatten).flatten

/-- A round of `gbar` is complete when every block has been placed and every strand that has not ended waits in it (R143). -/
def settleGbar (s : State) (g : Nat) : State :=
  match s.grids.get? g with
  | none => s
  | some gr =>
      let all := match gr.dims with | some (x, y, z) => gr.placed == x * y * z | none => false
      let sts := gridStrands s g
      if all && !sts.isEmpty && sts.all fun st => st.wait == .gbar gr.round then
        s.modGrid g fun gr => { gr with round := gr.round + 1 }
      else s

/-- What a strand that ends leaves behind (R201): its stores, atomics and counted reads go on as orphans in the order they have,
other reads are not made, and nothing in flight bears its slot any more. -/
def Cluster.abandon (cl : Cluster) (m : Me) (out : List Access) : Cluster :=
  let dead := out.filter fun a => !a.kept
  let feeds := fun (d : Delivery) (a : Access) => match a.dest with | .delivery id _ => id == d.id | _ => false
  { cl with
    orphans := cl.orphans ++ (out.filter Access.kept).map (fun a =>
      { strand := m.st.num, block := m.st.block, ctx := m.ctx, access := a.forget })
    deliveries := cl.deliveries.filter fun d => !(d.discard && dead.any (feeds d))
    landings := cl.landings.map fun l => if l.slot == m.k then { l with slot := 8 } else l
    jobs := cl.jobs.map fun j => if j.slot == m.k && j.block == m.st.block then { j with slot := 8 } else j
    tileOps := cl.tileOps.map fun x => if x.slot == m.k then { x with slot := 8 } else x
    bankOps := cl.bankOps.map fun x => if x.slot == m.k then { x with slot := 8 } else x }

/-- The strand ends: its slot is free, a handler it ran releases the freeze, its tasks wait no more, its job faults pass on, and
its block may retire (R94, R201, R202). -/
def endStrand (s : State) (m : Me) : State :=
  let out := match s.strand? m.c m.k with | some st => st.out | none => []
  let s := passDebts (dropDebts s m.c fun i => out.any fun a => a.id == i && !a.kept) m.c m.k
  let s := s.modCluster m.c fun cl =>
    let cl := cl.abandon m out
    let cl := if m.inH then cl.release else cl
    { cl with
      strands := cl.strands.del m.k
      power := cl.power.without (fun t => t < 16 && t % 8 == m.k)
      turn := m.k }
  let s := m.st.jobFaults.foldl (fun s f => orphanFault s m.c m.st.block m.blk.grid f) (dropReplies s)
  let s := settleGbar s m.blk.grid
  retireBlock s m.c m.st.block

/-- `halt` (R94), and `ret` at CDEPTH 0 of a spawned callee (R88): an implicit join, then the end of an inline callee (R91), or
`tail` and the end of the strand. A tracker entry stands for what a strand that had tailed has sent since too.
Log 28 (DEDUCED). -/
def haltEff (s : State) (m : Me) (stop : Bool) : Eff :=
  match jobFault? s m with
  | some e => e
  | none =>
      if !childrenDone s m then .stall .sleep s
      else match m.st.frames with
        | f :: rest => .ended (retireAt (endInline s m f rest) m stop false f.resume)
        | [] =>
            if !trackerRoom s m then .stall .engine s
            else .ended (endStrand (noteSite (doTail s m) m stop) m)

def execHalt (o : SOps) (s : State) : Host.Outcome State Fault Refusal :=
  issue s 0x4A o.hdr.stop { bo := true, ord := true } fun m => haltEff s m o.hdr.stop

/-- `ret` (R88). -/
def execRet (o : SOps) (s : State) : Host.Outcome State Fault Refusal :=
  match me? s with
  | none => .fault .noStrand
  | some m =>
      if m.st.isCallee && m.st.regs.cdepth == 0 then
        issue s 0x45 o.hdr.stop { bo := true, ord := true } fun m => haltEff s m o.hdr.stop
      else
        issue s 0x45 o.hdr.stop { src := [(63, false)] } fun m =>
          transfer s m true ((m.st.regs.get 63).truncate 57) fun s =>
            m.setRegs s fun r => { r with cdepth := r.cdepth - (if r.cdepth = 0 then 0 else 1) }

/-! ### Launch, traps, waits (R95-R98) -/

/-- The context's device launch queue (R281). -/
def deviceQueue (s : State) (ctx : Nat) : Option (Nat × Queue) :=
  s.queues.find? fun p => p.2.ctx == ctx && p.2.dev

/-- The record is copied into the queue, or nothing is submitted (R281): SD. -/
def submitLaunch (s : State) (m : Me) (va : Nat) (bs : List Byte) : State × Nat :=
  match deviceQueue s m.ctx with
  | none => (s, 1)
  | some (_, r) =>
      let tail := (r.tail s).toNat
      let entry := r.rbase + 256 * (tail % 2 ^ r.rlog)
      if tail - r.head.toNat == 2 ^ r.rlog || (hubPa s m.ctx (.store false) entry).isNone then (s, 1)
      else
        let bs := bs.take 47 ++ [BitVec.ofNat 8 (m.blk.depth + 1)] ++ bs.drop 48
        let s := hubStore s m.ctx entry 256 (leNat bs)
        let s := s.modCtx m.ctx fun x => { x with subs := x.subs.set tail (m.blk.grid, fieldAt bs 24 8) }
        let s := s.modGrid m.blk.grid fun g => { g with children := g.children + 1 }
        let s := ringBell s r.door (tail + 1)
        (record s m.c 0x0A m.ctx m.k m.blk.index
          (payload [(49, va / 256), (1, 0), (8, 0), (4, m.blk.depth + 1), (2, 3)]), 0)

/-- The memory ports of the record and of the ring entry that it is to be copied into are ready (29 R371). -/
def launchPorts (s : State) (m : Me) (va : Nat) : Bool :=
  hubReady s m.ctx va 256 && match deviceQueue s m.ctx with
    | none => true
    | some (_, r) => hubReady s m.ctx (r.rbase + 256 * ((r.tail s).toNat % 2 ^ r.rlog)) 256

def execLaunchI (o : SOps) (s : State) : Host.Outcome State Fault Refusal :=
  issue s 0x4B o.hdr.stop { sUses o true true false false with ord := true } fun m =>
    let va := (m.st.regs.get o.sa).toNat
    if va % 256 != 0 then .trap causeMisalign (addrInfo 0 va) s
    else match checkDirect s m.ctx .load va with
      | .trap c => .trap c (addrInfo 0 va) s
      | .miss _ => .stall .engine s
      | .ok pa _ =>
          if !launchPorts s m va then .stall .engine s
          else if poisonedAt s pa || poisonedAt s (pa + 128) then .trap causeEcc (physLocation pa) s
          else if 10 < m.blk.depth + 1 then .trap causeNestDepth 0 s
          else if !m.quiet s || owed s m.c m.k m.st.block none pa 256 then .stall .engine s
          else
            let (s, v) := submitLaunch (hubHolds s m.ctx va 256) m va (seenBytes s pa 256)
            .done (lateScalar s m o.sd (some (BitVec.ofNat 64 v)))

def execTrapI (o : SOps) (s : State) : Host.Outcome State Fault Refusal :=
  issue s 0x4C o.hdr.stop {} fun _ => .trap causeUserTrap (o.imm32.zeroExtend 64 &&& 0xFFFF) s

/-- `bkpt` (R96): a breakpoint takes effect only at a stop site (R60, R250), and in a handler it is DOUBLE in every case (R247).
Log 28 (DEDUCED). -/
def execBkpt (o : SOps) (s : State) : Host.Outcome State Fault Refusal :=
  issue s 0x4E o.hdr.stop {} fun m => if !o.hdr.stop && !m.inH then .done s else .trap causeBkpt (o.imm32.zeroExtend 64 &&& 0xFFFF) s

/-- `tret` (R96, R248). In an inline callee of a handler it returns with the callee's TRPC and TSTATE, and the frame stays.
Log 28 (DEDUCED). -/
def execTret (o : SOps) (s : State) : Host.Outcome State Fault Refusal :=
  issue s 0x4D o.hdr.stop {} fun m =>
    if !m.inH then .trap causeAccess 0 s
    else
      let s := retireAt s m o.hdr.stop false (successor m.st.pc)
      match meAt s m.c m.k with
      | none => .ended s
      | some m => .ended (returnFromHandler s m)

/-- `wait` (R97): 0 with no watch armed, 1 when it has fired, 2 when the timeout has passed, and else it sleeps. -/
def waitEff (s : State) (m : Me) (o : SOps) (ext : Bool) : Eff :=
  let write := fun (v : Word) (keep : Bool) => Eff.done (m.setRegs s fun r =>
    { r.put o.sd v with watch := if keep then r.watch else none })
  match m.st.regs.watch with
  | none => write 0 true
  | some w =>
      if w.fired then write 1 false
      else match m.st.wait with
        | .timedOut => write 2 true
        | .asleep e l => .stall (if e then .extWait else .sleep)
            (s.modStrand m.c m.k fun st => { st with wait := .asleep e l })
        | _ =>
            let n := (m.st.regs.get o.sa).toNat
            .stall (if ext then .extWait else .sleep)
              (s.modStrand m.c m.k fun st => { st with wait := .asleep ext (if n == 0 then none else some n) })

def execWaitInt (o : SOps) (s : State) : Host.Outcome State Fault Refusal :=
  issue s 0x4F o.hdr.stop (sUses o true true false false) fun m => waitEff s m o false

def execWaitExt (o : SOps) (s : State) : Host.Outcome State Fault Refusal :=
  issue s 0x4F o.hdr.stop (sUses o true true false false) fun m => waitEff s m o true

/-- `yield` (R98): passed over for one opportunity. -/
def execYield (o : SOps) (s : State) : Host.Outcome State Fault Refusal :=
  issue s 0x50 o.hdr.stop {} fun m => .done (s.modStrand m.c m.k fun st => { st with yielded := true })

end Sys2Proof.Machine
end

