-- ==== Sys2Proof/Machine/Search.lean ====
section
/-!
DEFINITION. Searches and responder sets (07 R100-R113).
-/
namespace Sys2Proof.Machine

/-! ### The compare (R101) -/

/-- A w-bit number read as two's complement. -/
def signedOf (w x : Nat) : Int := if bitOf x (w - 1) then (x : Int) - 2 ^ w else x

/-- The CMP predicate on w-bit values. -/
def cmpHolds (c : Cmp) (w x y : Nat) : Bool :=
  match c with
  | .eq => x == y
  | .ne => x != y
  | .ltu => x < y
  | .leu => x ≤ y
  | .gtu => y < x
  | .geu => y ≤ x
  | .lts => signedOf w x < signedOf w y
  | .les => signedOf w x ≤ signedOf w y
  | .gts => signedOf w y < signedOf w x
  | .ges => signedOf w y ≤ signedOf w x
  | .bitset => x &&& y == y
  | .bitclr => x &&& y == 0
  | .mask => x &&& y != 0

/-! ### What a set operation leaves -/

/-- Members of a set for which a test holds. -/
def filterSet (n : Nat) (x : TSet) (p : Nat → Bool) : TSet := setOf ((members n x).filter p)

/-- TINFO of SETOVF and SETUNF: the OP (R103). -/
def opInfo (op : Nat) : Word := BitVec.ofNat 64 op

/-- A SETEV record (26 R336). -/
def setEvent (m : Me) (s : State) (op depth : Nat) (overflow : Bool) : State :=
  m.note s 0x07 (payload [(48, 0), (1, bit01 overflow), (3, 0), (4, depth), (8, op)])

def setOverflow (m : Me) (s : State) (op : Nat) : Eff :=
  .trap causeSetOvf (opInfo op) (setEvent m s op (m.stack s).depth true)

def setUnderflow (s : State) (op : Nat) : Eff := .trap causeSetUnf (opInfo op) s

/-- Writes RSC, RFR and Z for a set, and the late copies SDC and SDF (R102, R110). -/
def Me.count (m : Me) (s : State) (o : QOps) (x : TSet) : State :=
  let s := m.setRegs s fun r => r.setCounts m.blk.n x
  let s := lateScalar s m o.sdc (some (BitVec.ofNat 64 (countSet m.blk.n x)))
  lateScalar s m o.sdf (some (BitVec.ofNat 64 (firstOf m.blk.n x)))

/-- The strand's stack becomes `k`, and the counts describe its TOP without parked threads. -/
def Me.restack (m : Me) (s : State) (o : QOps) (k : Stack) : State := m.count (m.setStack s k) o (m.unparked k.top)

/-- A level pushed; an empty one is recorded (R336). -/
def Me.push (m : Me) (s : State) (o : QOps) (op : Nat) (x : TSet) : Eff :=
  let k := m.stack s
  if k.depth == k.limit then setOverflow m s op
  else
    let s := m.restack s o { k with levels := x :: k.levels }
    .done (if x = 0 then setEvent m s op (k.depth + 1) false else s)

/-- TOP replaced in place. -/
def Stack.replaceTop (k : Stack) (x : TSet) : Stack := { k with levels := x :: k.levels.drop 1 }

/-- The parked members of a set. -/
def Me.kept (m : Me) (x : TSet) : TSet := x &&& m.st.parked

/-- A search with a match for each thread (R102). -/
def searchEff (m : Me) (s : State) (o : QOps) (op : Nat) (p : Nat → Bool) : Eff :=
  let k := m.stack s
  let t := filterSet m.blk.n (m.unparked k.top) p
  let q := filterSet m.blk.n (m.unparked k.parent) p
  match o.sop with
  | .push => m.push s o op t
  | .peek => .done (m.count s o t)
  | .and => if k.depth == 0 then setUnderflow s op else .done (m.restack s o (k.replaceTop (t ||| m.kept k.top)))
  | .or => if k.depth == 0 then setUnderflow s op else .done (m.restack s o (k.replaceTop (k.top ||| q)))
  | .rep => if k.depth == 0 then setUnderflow s op else .done (m.restack s o (k.replaceTop (q ||| m.kept k.top)))

/-- What a Q-layout instruction uses. -/
def qUses (o : QOps) (names : List NameUse) (sc : Bool) : Uses :=
  { bo := true, sets := true, ord := true, parent := o.sop == .or || o.sop == .rep
    src := if sc then [(o.sc, o.hdr.wfb)] else []
    dst := [o.sdc, o.sdf], names := names }

def qName (n : VName) (wf : Bool) : NameUse := { name := n, count := 1, write := false, wf := wf }

/-- Width of the tested range. -/
def qWidth (o : QOps) : Nat := o.hi.toNat + 1 - o.lo.toNat

/-- The operand of `srch` and `srchk` (R101). -/
def qOperand (o : QOps) (r : Regs) : Nat := if o.opd == .scalar then (r.get o.sc).toNat else o.imm32.toNat

/-- The tested field of a register. -/
def qField (o : QOps) (v : W32) : Nat := bitsOf v.toNat o.hi.toNat o.lo.toNat

def execSrch (o : QOps) (s : State) : Host.Outcome State Fault Refusal :=
  issue s 0x60 o.hdr.stop (qUses o [qName o.va o.hdr.wfa] (o.opd == .scalar)) fun m =>
    let y := qOperand o m.st.regs % 2 ^ qWidth o
    searchEff m s o 0x60 fun t => cmpHolds o.cmp (qWidth o) (qField o (m.v o.va.toNat t)) y

def execSrchk (o : QOps) (s : State) : Host.Outcome State Fault Refusal :=
  issue s 0x61 o.hdr.stop { qUses o [] (o.opd == .scalar) with keys := [o.va.toNat % 8] } fun m =>
    let y := qOperand o m.st.regs % 2
    searchEff m s o 0x61 fun t => cmpHolds o.cmp 1 (bit01 (m.blk.key (o.va.toNat % 8) t)) y

/-- VB of `srchv` (R51). -/
def qVb (o : QOps) : VName := o.imm32.truncate 9

def execSrchv (o : QOps) (s : State) : Host.Outcome State Fault Refusal :=
  issue s 0x62 o.hdr.stop (qUses o [qName o.va o.hdr.wfa, qName (qVb o) o.hdr.wfb] false) fun m =>
    searchEff m s o 0x62 fun t =>
      cmpHolds o.cmp (qWidth o) (qField o (m.v o.va.toNat t)) (qField o (m.v (qVb o).toNat t))

/-! ### Set instructions (R104, R69) -/

/-- What a set instruction without a tested register uses. -/
def setUses (o : QOps) : Uses := { bo := true, sets := true, ord := true, dst := [o.sdc, o.sdf] }

/-- What one uses that reads the level below TOP too. -/
def belowUses (o : QOps) : Uses := { setUses o with parent := true }

def execPushAll (o : QOps) (s : State) : Host.Outcome State Fault Refusal :=
  issue s 0x63 o.hdr.stop (setUses o) fun m => m.push s o 0x63 (m.stack s).top

/-- Removes the top `n` levels, all above the base level. -/
def popEff (m : Me) (s : State) (o : QOps) (op n : Nat) : Eff :=
  let k := m.stack s
  if k.depth < n then setUnderflow s op else .done (m.restack s o { k with levels := k.levels.drop n })

def execPop (o : QOps) (s : State) : Host.Outcome State Fault Refusal :=
  issue s 0x64 o.hdr.stop (setUses o) fun m => popEff m s o 0x64 1

def execPopn (o : QOps) (s : State) : Host.Outcome State Fault Refusal :=
  issue s 0x65 o.hdr.stop (setUses o) fun m => popEff m s o 0x65 (o.imm32.toNat % 16)

def execElseSet (o : QOps) (s : State) : Host.Outcome State Fault Refusal :=
  issue s 0x66 o.hdr.stop (belowUses o) fun m =>
    let k := m.stack s
    if k.depth == 0 then setUnderflow s 0x66
    else .done (m.restack s o (k.replaceTop ((m.unparked k.parent &&& ~~~k.top) ||| m.kept k.top)))

def execFold (o : QOps) (s : State) : Host.Outcome State Fault Refusal :=
  issue s 0x67 o.hdr.stop (setUses o) fun m =>
    let k := m.stack s
    if k.depth < 2 then setUnderflow s 0x67
    else .done (m.restack s o { k with levels := k.top :: k.levels.drop 2 })

/-- The set of the first member of a set, or the empty set. -/
def firstSet (n : Nat) (x : TSet) : TSet :=
  match members n x with
  | [] => 0
  | t :: _ => setOf [t]

def execFirstSet (o : QOps) (s : State) : Host.Outcome State Fault Refusal :=
  issue s 0x68 o.hdr.stop (setUses o) fun m => m.push s o 0x68 (firstSet m.blk.n (m.unparked (m.stack s).top))

/-- `next` (R69, R104): it removes the lowest unparked member of TOP, which RFR of TOP names, whatever a `.peek` has left in the
register RFR. Log 51 (DEDUCED). -/
def execNextSet (o : QOps) (s : State) : Host.Outcome State Fault Refusal :=
  issue s 0x69 o.hdr.stop (setUses o) fun m =>
    let k := m.stack s
    let x := firstSet m.blk.n (m.unparked k.top)
    if x = 0 then .done (m.count s o 0)
    else if k.depth == 0 then setUnderflow s 0x69
    else .done (m.restack s o (k.replaceTop (k.top &&& ~~~x)))

/-! ### Keys, counts and maps (R105-R108) -/

def execMark (o : QOps) (s : State) : Host.Outcome State Fault Refusal :=
  issue s 0x6D o.hdr.stop (setUses o) fun m =>
    let k := m.stack s
    let s := m.putKey s (o.va.toNat % 8) (m.unparked k.baseLevel) k.top
    .done (m.count s o (m.unparked k.top))

/-- The address of `gcnt`, `rdset` and `wrset`, modulo 2^64 as R132 has addresses. Log 51 (DEDUCED). -/
def mapAddr (o : QOps) (r : Regs) : Nat := (r.get o.sc + o.imm32.signExtend 64).toNat

/-- The checks of the scratchpad address of `gcnt`, `rdset` and `wrset` (R106, R107), then the range scoreboard (R215). -/
def mapGate (m : Me) (s : State) (a n align : Nat) (reads : Bool) (k : Unit → Eff) : Eff :=
  if a % align != 0 then .trap causeMisalign (addrInfo 0 a) s
  else if !m.blk.holds a n then .trap causeAccess (addrInfo 0 a) s
  else scratchGate s m a n reads k

/-- The count of each group value, as little-endian halfwords (R106). -/
def groupCounts (vals : List Nat) : List Byte :=
  ((upto 64).map fun g => leBytes 2 (vals.count g)).flatten

def execGcnt (o : QOps) (s : State) : Host.Outcome State Fault Refusal :=
  issue s 0x6A o.hdr.stop { setUses o with src := [(o.sc, o.hdr.wfb)], names := [qName o.va o.hdr.wfa] } fun m =>
    let a := mapAddr o m.st.regs
    mapGate m s a 128 2 false fun _ =>
      let vals := (m.acting s false).map fun t => (m.v o.va.toNat t).toNat % 64
      .done (m.count (scratchWrite s m.c m.st.block a (groupCounts vals)) o (m.act s false))

/-- The 512 bytes of a map (R107). -/
def mapBytes (n : Nat) (x : TSet) : List Byte := leBytes 512 (setOf (members n x)).toNat

def execRdset (o : QOps) (s : State) : Host.Outcome State Fault Refusal :=
  issue s 0x6B o.hdr.stop { setUses o with src := [(o.sc, o.hdr.wfb)] } fun m =>
    let a := mapAddr o m.st.regs
    mapGate m s a 512 8 false fun _ =>
      .done (m.count (scratchWrite s m.c m.st.block a (mapBytes m.blk.n (m.act s false))) o (m.act s false))

/-- `wrset` (R107): at the base level SETUNF comes before the checks of its address. Log 51 (DEDUCED). -/
def execWrset (o : QOps) (s : State) : Host.Outcome State Fault Refusal :=
  issue s 0x6C o.hdr.stop { belowUses o with src := [(o.sc, o.hdr.wfb)] } fun m =>
    let k := m.stack s
    let a := mapAddr o m.st.regs
    if k.depth == 0 then setUnderflow s 0x6C
    else mapGate m s a 512 8 true fun _ =>
      let map : TSet := BitVec.ofNat 4096 (readNat m.blk.scratch a 512)
      let top := (m.unparked k.parent &&& map) ||| m.kept k.top
      let s := m.restack s o (k.replaceTop top)
      .done (if top = 0 then setEvent m s 0x6C k.depth false else s)

end Sys2Proof.Machine
end

