-- ==== Sys2Proof/Machine/Access.lean ====
section
/-!
DEFINITION. Addresses of memory instructions and their checks (09 R132, R133), sending an access and performing it
(09 R134-R139, 14 R217-R219), and the test of a barrier word (09 R142).
-/
namespace Sys2Proof.Machine

/-! ### Fields of the M layout -/

/-- Bytes of WID. -/
def widBytes (w : Wid) : Nat :=
  match w with
  | .b8 => 1
  | .b16 => 2
  | .b32 => 4
  | .b64 => 8
  | .b128 => 16

/-- Names an operand of a width occupies (R132). -/
def widNames (w : Wid) : Nat := max 1 (widBytes w / 4)

def scopeCode (x : Scope) : Nat :=
  match x with
  | .strand => 0
  | .block => 1
  | .cluster => 2
  | .die => 3
  | .pkg => 4
  | .sys => 5

def aopCode (a : AOp) : Nat :=
  match a with
  | .add => 0
  | .fadd => 1
  | .min => 2
  | .max => 3
  | .minu => 4
  | .maxu => 5
  | .and => 6
  | .or => 7
  | .xor => 8
  | .xchg => 9
  | .cas => 10

/-- Log 23 (DEDUCED). -/
def isAcq (o : Ord4) : Bool := o == .acq || o == .ar
/-- Log 23 (DEDUCED). -/
def isRel (o : Ord4) : Bool := o == .rel || o == .ar

/-- `s[SB] + w·zext(v[t][VX]) + off` of each acting thread (R132). -/
def threadAddrs (m : Me) (s : State) (base : Word) (vx : VName) (w : Nat) (off : Word) : List (Nat × Nat) :=
  (m.acting s false).map fun t => (t, (base + BitVec.ofNat 64 (w * (m.v vx.toNat t).toNat) + off).toNat)

/-- The address of a scalar form (R131). -/
def scalarAddr (o : MOps) (r : Regs) : Nat := (r.get o.sb + o.off32.signExtend 64).toNat

/-- A thread's operand of several names as one number (R132). -/
def threadData (m : Me) (name : VName) (w : Wid) (t : Nat) : Nat :=
  joinFields ((upto (widNames w)).map fun i => (32, (m.v (name.toNat + i) t).toNat)) % 2 ^ (8 * widBytes w)

/-- A loaded number as the names of its destination. -/
def regWords (w : Wid) (v : Nat) : List W32 := (upto (widNames w)).map fun i => BitVec.ofNat 32 (v / 2 ^ (32 * i))

/-- The same for a number of bytes. -/
def wordsOf (bytes v : Nat) : List W32 := (upto (max 1 (bytes / 4))).map fun i => BitVec.ofNat 32 (v / 2 ^ (32 * i))

/-! ### Tokens (25 R323-R325) -/

/-- A fence of a narrow scope, which stands among the accesses of its strand (R140, R228). -/
def Access.isFence (a : Access) : Bool := match a.act with | .fence _ _ => true | _ => false

/-- The die that serves an access: that of the weight store, of the home slice, or for a doorbell the hub, die 4. -/
def servingDie (pa : Nat) : Nat := if isBell pa then 4 else if isWeight pa then pa / 2 ^ 32 % 16 else homeDie pa

/-- The unit of a die, 4 the hub. -/
def dieUnit (d : Nat) : Nat := if d < 4 then fabricUnit d else hubUnit

/-- An access of a cluster crosses a die link. -/
def crosses (c pa : Nat) : Bool := servingDie pa != dieOf c

/-- The access is a request to another die. -/
def Access.remote (c : Nat) (a : Access) : Bool := a.space.isNone && !a.isFence && crosses c a.pa

/-- Two tokens are of one sender, receiver and class. -/
def Token.sameWay (a b : Token) : Bool := a.sender == b.sender && a.receiver == b.receiver && a.reply == b.reply

/-- A notice is for the tokens of a way. -/
def Notice.of (n : Notice) (t : Token) : Bool := n.sender == t.sender && n.receiver == t.receiver && n.reply == t.reply

/-- The notice of a way counts one token more: it has a slot of its own on the control channel (R325). -/
def postNotice (l : List Notice) (t : Token) : List Notice :=
  if l.any fun n => n.of t then l.map fun n => if n.of t then { n with count := n.count + 1 } else n
  else l ++ [{ sender := t.sender, receiver := t.receiver, reply := t.reply, count := 1 }]

/-- A token is pulled: the notice of its way counts one fewer. -/
def takeNotice (l : List Notice) (t : Token) : List Notice :=
  (l.map fun n => if n.of t then { n with count := n.count - 1 } else n).filter fun n => n.count != 0

/-- A token is written into its entry of a cellar, with a notice to the receiver, and its sender records it (26 R336). -/
def spill (s : State) (t : Token) : State :=
  record { s with cellar := s.cellar ++ [t], notices := postNotice s.notices t } (dieUnit t.sender) 0x33 0 0 0
    (payload [(32, 1), (23, 0), (3, t.receiver), (4, 0), (2, bit01 t.reply)])

/-- A token is sent: while others of its way lie in the cellar it is spilled behind them (R325). -/
def sendToken (s : State) (t : Token) : State :=
  let s := { s with links := s.links ++ [t] }
  if s.cellar.any t.sameWay then spill s t else s

/-- Tokens that have arrived, and those of their way that were sent before them (R323), leave the links. -/
def arrived (p : Token → Bool) : List Token → List Token
  | [] => []
  | t :: rest => if p t || rest.any (fun u => p u && u.sameWay t) then arrived p rest else t :: arrived p rest

def Access.atomic (a : Access) : Bool := match a.act with | .rmw _ _ => true | _ => false

/-- The token of an access that a strand of a cluster sends to another die. -/
def requestToken (c slot : Nat) (a : Access) : Token :=
  { sender := dieOf c, receiver := servingDie a.pa, reply := false, cluster := c, slot := slot, id := a.id, dest := a.dest
    atomic := a.atomic }

/-- The token of the reply of such an access. -/
def replyToken (c slot : Nat) (a : Access) : Token :=
  { sender := servingDie a.pa, receiver := dieOf c, reply := true, cluster := c, slot := slot, id := a.id, dest := a.dest
    atomic := a.atomic }

/-- The requests of new accesses of a strand. -/
def sendRequests (s : State) (c slot : Nat) (l : List Access) : State :=
  (l.filter (Access.remote c)).foldl (fun s a => sendToken s (requestToken c slot a)) s

/-- The request of an access that is performed has arrived, and its reply is on its way: of a store, that it is performed. -/
def sendReply (s : State) (c slot : Nat) (a : Access) : State :=
  if !a.remote c then s
  else sendToken { s with links := arrived (fun t => !t.reply && t.cluster == c && t.id == a.id) s.links } (replyToken c slot a)

/-- A reply brings a part of what a destination waits for. -/
def Token.feeds (t : Token) (c slot : Nat) (d : Dest) : Bool :=
  t.reply && t.cluster == c && match t.dest, d with
    | .delivery i _, .delivery j _ => i == j
    | .landing i _, .landing j _ => i == j
    | .scalar r, .scalar q => r == q && t.slot == slot
    | _, _ => false

/-- A reply that a destination waits for lies in a cellar. -/
def replyHeld (s : State) (c slot : Nat) (d : Dest) : Bool := s.cellar.any fun t => t.feeds c slot d

/-- The replies that a destination waited for have arrived. -/
def repliesCome (s : State) (c slot : Nat) (d : Dest) : State :=
  if s.links.isEmpty then s else { s with links := arrived (fun t => t.feeds c slot d) s.links }

/-- Requests of a die that are outstanding (R324): what its strands, and those that have ended, have sent to other dies, and the
replies that have not arrived. Log 50 (DEDUCED). -/
def dieRequestsOut (s : State) (die : Nat) : Nat :=
  let asks := fun (c : Nat) (l : List Access) => (l.filter (Access.remote c)).length
  (s.clusters.map fun p => if dieOf p.1 == die then
      (p.2.strands.map fun q => asks p.1 q.2.out).foldl (· + ·) (asks p.1 (p.2.orphans.map Orphan.access))
    else 0).foldl (· + ·) (s.links.filter fun t => t.reply && t.receiver == die).length

/-- So many more requests of a cluster would exceed what its die may have outstanding (R324). -/
def requestsFull (s : State) (c n : Nat) : Bool := n != 0 && Config.dieRequests < dieRequestsOut s (dieOf c) + n

/-- An access of a cluster to memory that is answered at once finds its way: another die takes a request more, and no token of
either way lies in a cellar, for it would be spilled behind it (R323-R325). -/
def linkFree (s : State) (c pa : Nat) : Bool :=
  (!requestsFull s c 1 && !s.cellar.any fun t =>
    (!t.reply && t.sender == dieOf c && t.receiver == servingDie pa) || (t.reply && t.receiver == dieOf c && t.sender == servingDie pa))
    || !crosses c pa

/-! ### Translating the addresses of an instruction (R133) -/

/-- What the checks of an instruction's addresses come to. -/
inductive Trans where
  /-- thread, physical address and leaf of each -/
  | ok (l : List (Nat × Nat × Nat))
  | trap (thread va cause : Nat)
  | walk (thread page : Nat)
  deriving DecidableEq, Repr

/-- The page the strand's walk has found absent. -/
def Strand.absent (st : Strand) : Option Nat := match st.wait with | .walkFault p => some p | _ => none

/-- The checks of each thread in ascending index (R133): the first that fails, or needs a walk, decides. `also` is a further
check of a thread, the scratchpad destination of `ldsc` (R137). -/
def translateAll (s : State) (m : Me) (need : Need) (bytes : Nat) (also : Nat → Option Nat) :
    List (Nat × Nat) → Trans
  | [] => .ok []
  | (t, va) :: rest =>
      match checkGlobal s m.c m.ctx need bytes m.st.absent va with
      | .trap c => .trap t va c
      | .miss v => .walk t (v / 4096)
      | .ok pa leaf =>
          match also t with
          | some c => .trap t va c
          | none =>
              match translateAll s m need bytes also rest with
              | .ok l => .ok ((t, pa, leaf) :: l)
              | e => e


/-- PI cleared: a long instruction has completed (R375). -/
def Me.clearPi (m : Me) (s : State) : State := m.setRegs s fun r => { r with pi := 0 }

/-- PI of an instruction stopped at an index (R16). -/
def piOf (kind index : Nat) : W32 := BitVec.ofNat 32 (2 ^ 31 + kind * 2 ^ 16 + index)

/-- The strand waits for the walk of a page; a long instruction stands at a progress point, with PI.INDEX at the lowest thread whose
page is not translated (R16, R309). -/
def waitWalk (s : State) (m : Me) (long : Bool) (thread page : Nat) : Eff :=
  .stall .engine (s.modStrand m.c m.k fun st =>
    { st with wait := .walk page, regs := if long then { st.regs with pi := piOf 1 thread } else st.regs })

/-- The trap of a failed check: a long instruction sets PI and TINFO to the address, other forms give the thread and the low
half of it (R133). -/
def addrTrap (s : State) (m : Me) (long : Bool) (t va cause : Nat) : Eff :=
  if long then .trap cause (BitVec.ofNat 64 va) (m.setRegs s fun r => { r with pi := piOf 1 t })
  else .trap cause (addrInfo t va) s

/-- The distinct physical addresses of translated threads, in order of first use, each with its threads. -/
def byLocation : List (Nat × Nat × Nat) → List (Nat × List Nat)
  | [] => []
  | (t, pa, _) :: rest =>
      let more := byLocation rest
      match more.find? fun p => p.1 == pa with
      | some p => (pa, t :: p.2) :: more.filter fun q => q.1 != pa
      | none => (pa, [t]) :: more

/-- The requests that an instruction sends to other dies: one for each location (R217, R324). -/
def newRequests (c : Nat) (l : List (Nat × Nat × Nat)) : Nat := ((byLocation l).filter fun p => crosses c p.1).length

/-- The effect of a global memory instruction once every address has passed (R133); poison in what it reads ends the context
(28 R359). -/
def withTrans (s : State) (m : Me) (need : Need) (bytes : Nat) (long : Bool) (addrs : List (Nat × Nat))
    (also : Nat → Option Nat) (k : List (Nat × Nat × Nat) → Eff) : Eff :=
  match translateAll s m need bytes also addrs with
  | .trap t va c => addrTrap s m long t va c
  | .walk t p => waitWalk s m long t p
  | .ok l =>
      if l.any fun q => tileMeets s m q.2.1 bytes then .stall .range s
      else if requestsFull s m.c (newRequests m.c l) then .stall .engine s
      else match (if need == .load || need == .atomic then l.find? fun q => poisonedAt s q.2.1 else none) with
      | some q => .trap causeEcc (physLocation q.2.1) s
      | none => k l

/-! ### Sending (R217) -/

/-- An access that is yet to be numbered: its place, bytes and act, where its result goes, and its order and scope. -/
def newAccess (space : Option Nat) (pa bytes : Nat) (act : Act) (dest : Dest) (acq rel : Bool) (scope : Scope)
    (shared : Bool) : Access :=
  { id := 0, group := 0, space := space, pa := pa, bytes := bytes, act := act, dest := dest, acq := acq, rel := rel, scope := scope,
    shared := shared, dropped := false, read := none }

/-- Accesses of one instruction numbered in a row. -/
def numbered (first n : Nat) : List Access → List Access
  | [] => []
  | a :: rest => { a with id := n, group := first } :: numbered first (n + 1) rest

/-- Sends the accesses of an instruction of the strand (R217). Log 24 (DEDUCED). -/
def sendAll (s : State) (m : Me) (l : List Access) : State :=
  let cl := s.cluster m.c
  let l := numbered cl.nextId cl.nextId l
  let s := s.setCluster m.c { cl with nextId := cl.nextId + l.length }
  sendRequests (s.modStrand m.c m.k fun st => { st with out := st.out ++ l }) m.c m.k l

/-- The accesses of an instruction to global memory, one for each location (R217): the act at a location and its threads. -/
def globalAccesses (l : List (Nat × Nat × Nat)) (bytes : Nat) (act : Nat → List Nat → Act) (dest : List Nat → Dest) (acq : Bool)
    (rel : Nat → Bool) (scope : Nat → Scope) : List Access :=
  (byLocation l).map fun p =>
    newAccess none p.1 bytes (act p.1 p.2) (dest p.2) acq (rel p.1) (scope p.1)
      ((l.find? fun q => q.2.1 == p.1).any fun q => leafShared q.2.2)

/-- The same in the strand's scratchpad. -/
def scratchAccesses (m : Me) (addrs : List (Nat × Nat)) (bytes : Nat) (act : Nat → List Nat → Act) (dest : List Nat → Dest)
    (acq rel : Bool) (scope : Scope) : List Access :=
  (byLocation (addrs.map fun q => (q.1, q.2, 0))).map fun p =>
    newAccess (some m.st.block) p.1 bytes (act p.1 p.2) (dest p.2) acq rel scope false

/-- A BMEM record (26 R336). -/
def bmemRecord (s : State) (m : Me) (kind : Nat) (scope : Scope) (addrs : List (Nat × Nat)) : State :=
  match addrs with
  | [] => s
  | first :: _ =>
      m.note s 0x02 (payload [(45, first.2 / 4096), (13, ((addrs.map fun (a : Nat × Nat) => a.2 / 4096).eraseDups).length),
        (3, scopeCode scope), (3, kind)])

/-! ### Barrier words (R141, R142) -/

def barExp (w : Nat) : Nat := bitsOf w 15 0
def barArr (w : Nat) : Nat := bitsOf w 31 16
def barPhase (w : Nat) : Bool := bitOf w 32
def barPend (w : Nat) : Nat := bitsOf w 63 33
def barWord (exp arr : Nat) (phase : Bool) (pend : Nat) : Nat :=
  joinFields [(16, exp), (16, arr), (1, bit01 phase), (31, pend)]

/-- The test after a step on a barrier word: the phase completes where ARR = EXP and PEND = 0 (R142), with its record
(26 R336) and, in a context with POL.VALID, its fold (27 R351). -/
def barTest (s : State) (c block addr : Nat) : State :=
  match s.block? c block with
  | none => s
  | some b =>
      let a := addr / 8 * 8
      if b.bars ≤ a / 8 then s
      else
        let w := readNat b.scratch a 8
        if barArr w == barExp w && barPend w == 0 then
          let ph := !barPhase w
          let s := scratchWrite s c block a (leBytes 8 (barWord (barExp w) 0 ph 0))
          let s := if s.ctxValid b.ctx then s.modBlock c block fun b => { b with foldDue := b.foldDue ++ [(a / 8, ph)] } else s
          record s c 0x05 b.ctx 0 b.index (payload [(16, barExp w), (16, 0), (1, bit01 ph), (8, a / 8)])
        else s

/-- A step that adds arrivals and bytes to a barrier word, and its test. -/
def barStep (s : State) (c block addr arrive : Nat) (pend : Int) : State :=
  match s.block? c block with
  | none => s
  | some b =>
      let w := readNat b.scratch addr 8
      let v := barWord (barExp w) (barArr w + arrive) (barPhase w) ((barPend w : Int) + pend).toNat
      barTest (scratchWrite s c block addr (leBytes 8 v)) c block addr

/-! ### Read-modify-write (R138) -/

/-- One operation on w-byte values. -/
def aopApply (op : AOp) (bytes p d cmp : Nat) : Nat :=
  let w := 8 * bytes
  let x := BitVec.ofNat w p
  let y := BitVec.ofNat w d
  match op with
  | .add => (x + y).toNat
  | .fadd => (f32.add .rne false (f32.read false p) (f32.read false d)).bits
  | .min => (aluMin w x y).toNat
  | .max => (aluMax w x y).toNat
  | .minu => (aluMinu w x y).toNat
  | .maxu => (aluMaxu w x y).toNat
  | .and => (x &&& y).toNat
  | .or => (x ||| y).toNat
  | .xor => (x ^^^ y).toNat
  | .xchg => d
  | .cas => if p == cmp then d else p

/-- The group of one address in ascending threads: old values, and the value left (R138). -/
def rmwRun (op : AOp) (bytes : Nat) : Nat → List (Nat × Nat × Nat) → List (Nat × Nat) × Nat
  | p, [] => ([], p)
  | p, (t, d, cmp) :: rest =>
      let (olds, last) := rmwRun op bytes (aopApply op bytes p d cmp) rest
      ((t, p) :: olds, last)

/-- FP32 addition rounded RNE. -/
def addF32 (a b : Nat) : Nat := (f32.add .rne false (f32.read false a) (f32.read false b)).bits

/-- The float group (R138, R40): the operands are summed in ascending threads, and the sum is added to memory. -/
def faddRun (m : Nat) : Option Nat → List (Nat × Nat × Nat) → List (Nat × Nat) × Nat
  | q, [] => ([], match q with | none => m | some q => addF32 m q)
  | q, (t, d, _) :: rest =>
      let old := match q with | none => m | some q => addF32 m q
      let q' := match q with | none => d | some q => addF32 q d
      let (olds, last) := faddRun m (some q') rest
      ((t, old) :: olds, last)

/-- A read-modify-write of the value `m`. -/
def rmwOf (op : AOp) (bytes m : Nat) (members : List (Nat × Nat × Nat)) : List (Nat × Nat) × Nat :=
  if op == .fadd then faddRun m none members else rmwRun op bytes m members

/-! ### Performing (R134, R138, R144, R210, R219) -/

/-- A read poisoned between being sent and being performed gives its agent nothing (28 R359). -/
def Access.reads (a : Access) : Bool := match a.act with | .load | .rmw _ _ => true | _ => false
def Access.writes (a : Access) : Bool := match a.act with | .store _ | .rmw _ _ | .bell _ => true | _ => false

/-- Two accesses touch a common byte. -/
def Access.meets (a b : Access) : Bool := a.space == b.space && overlaps a.pa a.bytes b.pa b.bytes

/-- The access lies in one of the classes R and W of a set (R140). -/
def Access.classIn (a : Access) (set : Nat) : Bool := (bitOf set 0 && a.reads) || (bitOf set 1 && a.writes)

/-- A scope that leaves agents of the package out and yet holds two: `.strand` does where jobs or operations of the strand are
under way (R211). -/
def narrowScope (own : Bool) (x : Scope) : Bool := x == .block || x == .cluster || x == .die || (own && x == .strand)

/-- An access waits for an earlier one of its strand, which another instruction sent, whatever the scopes: the same bytes, or an
acquire or a release of a scope that holds the package (R219 cases 1, 3, 4). Log 23 (DEDUCED). -/
def holdsBack (b a : Access) : Bool :=
  b.group != a.group && (b.meets a || (b.acq && wideScope b.scope) || (a.rel && wideScope a.scope))

/-- An access waits for an earlier one through an acquire, a release or a fence of a narrow scope (R219 cases 3 to 5). -/
def holdsNarrow (own : Bool) (b a : Access) : Bool :=
  b.group != a.group && ((b.acq && narrowScope own b.scope) || (a.rel && narrowScope own a.scope)
    || (match b.act with | .fence _ succ => a.classIn succ | _ => false)
    || match a.act with | .fence pred _ => b.classIn pred | _ => false)

/-- The accesses sent before one. -/
def sentEarlier (out : List Access) (a : Access) : List Access := out.takeWhile fun b => b.id != a.id

/-- What an access waits for among the strand's earlier ones has been performed (R219). -/
def orderedIn (own : Bool) (out : List Access) (a : Access) : Bool :=
  !((sentEarlier out a).any fun b => holdsBack b a || holdsNarrow own b a)

/-- The earlier accesses that only a narrow scope orders before one, where nothing else does (R228). -/
def overtakes (own : Bool) (out : List Access) (a : Access) : List Access :=
  if (sentEarlier out a).any fun b => holdsBack b a then []
  else (sentEarlier out a).filter fun b => holdsNarrow own b a

/-- Values by thread that an access brings back. -/
def giveBack (s : State) (c slot : Nat) (bytes : Nat) (dest : Dest) (vals : List (Nat × Nat)) : State :=
  match dest with
  | .none => s
  | .delivery id _ =>
      s.modCluster c fun cl => { cl with deliveries := cl.deliveries.map fun d =>
        if d.id == id then { d with data := vals.foldl (fun m p => m.set p.1 (wordsOf bytes p.2)) d.data } else d }
  | .landing id _ =>
      s.modCluster c fun cl => { cl with landings := cl.landings.map fun l =>
        if l.id == id then { l with data := vals.foldl (fun m p => m.set p.1 p.2) l.data } else l }
  | .scalar r => lateKnown s c slot r (BitVec.ofNat 64 ((vals.map Prod.snd).headD 0))

/-- The threads a destination serves. -/
def Dest.threads (d : Dest) : List Nat :=
  match d with
  | .delivery _ ts | .landing _ ts => ts
  | _ => [0]

/-- One read-modify-write of a block's scratchpad, with the test of a barrier word (R142): old values. What it reads may have been
read before (R226). -/
def scratchRmw (s : State) (c block : Nat) (op : AOp) (w a : Nat) (read : Option Nat) (members : List (Nat × Nat × Nat)) :
    State × List (Nat × Nat) :=
  match s.block? c block with
  | none => (s, [])
  | some b =>
      let (olds, v) := rmwOf op w (read.getD (readNat b.scratch a w)) members
      (barTest (scratchWrite s c block a (leBytes w v)) c block a, olds)

/-- An access takes place in the scratchpad of a block. -/
def performScratch (s : State) (c slot block : Nat) (a : Access) : State :=
  match a.act with
  | .load =>
      let v := match s.block? c block with | some b => readNat b.scratch a.pa a.bytes | none => 0
      giveBack s c slot a.bytes a.dest (a.dest.threads.map fun t => (t, v))
  | .store bs => scratchWrite s c block a.pa (bs.map fun b => b.getD 0)
  | .rmw op members =>
      let (s, olds) := scratchRmw s c block op a.bytes a.pa a.read members
      giveBack s c slot a.bytes a.dest olds
  | .bell _ | .fence _ _ => s

/-- The access takes place at its location in memory. The reply of one that was dropped goes nowhere (23 R302).
Log 24 (DEDUCED). -/
def performGlobal (s : State) (c slot : Nat) (a : Access) : State :=
  let dest : Dest := if a.dropped then .none else a.dest
  match a.act with
  | .fence _ _ => s
  | .load => giveBack s c slot a.bytes dest (dest.threads.map fun t => (t, seenNat s a.pa a.bytes))
  | .store bs => storeBytes s a.pa bs
  | .bell v => ringBell s a.pa v
  | .rmw op members =>
      let m := a.read.getD (seenNat s a.pa a.bytes)
      if (lockServes s a.pa).isSome then giveBack s c slot a.bytes dest (members.map fun q => (q.1, m))
      else
        let (olds, v) := rmwOf op a.bytes m members
        giveBack (storeNat s a.pa a.bytes v) c slot a.bytes dest olds

/-- The access takes place. -/
def performAct (s : State) (c slot : Nat) (a : Access) : State :=
  match a.space with
  | some b => performScratch s c slot b a
  | none => sendReply (performGlobal (shareLine s a.shared a.pa) c slot a) c slot (if a.dropped then { a with dest := .none } else a)

end Sys2Proof.Machine
end

