-- ==== Sys2Proof/Machine/MemInstr.lean ====
section
/-!
DEFINITION. Loads, stores, counted loads and atomics (09 R131-R139).
-/
namespace Sys2Proof.Machine

/-- What a broadcast memory instruction uses: SB, VX and names. -/
def mUses (o : MOps) (names : List NameUse) (extra : List (SReg × Bool)) : Uses :=
  { bo := true, sets := true, ord := true
    src := (o.sb, o.hdr.wfb) :: extra
    names := { name := o.vx, count := 1, write := false, wf := o.hdr.wfa } :: names }

/-- What a scalar memory form uses. -/
def smUses (o : MOps) (src : List (SReg × Bool)) (dst : List SReg) : Uses :=
  { ord := true, src := (o.sb, o.hdr.wfb) :: src, dst := dst }

/-- What a scalar load, store or atomic uses: its only event is one access. -/
def accUses (o : MOps) (src : List (SReg × Bool)) (dst : List SReg) : Uses := { smUses o src dst with mem := true }

/-- The scalar VD[5:0] names. -/
def mReg (o : MOps) : SReg := scalarOf o.vd

def destNames (o : MOps) : NameUse := { name := o.vd, count := widNames o.wid, write := true, wf := false }
def dataNames (o : MOps) (n : VName) : NameUse := { name := n, count := widNames o.wid, write := false, wf := o.hdr.wfc }

/-- Addresses of the acting threads. -/
def mAddrs (o : MOps) (m : Me) (s : State) : List (Nat × Nat) :=
  threadAddrs m s (m.st.regs.get o.sb) o.vx (widBytes o.wid) (o.off32.signExtend 64)

/-- No entry is free (R19). -/
def noEntry (s : State) (m : Me) : Bool := Config.deliveryEntries ≤ entriesOf (s.cluster m.c) m.k

def noAlso : Nat → Option Nat := fun _ => none

/-! ### Global loads and stores (R134, R136) -/

/-- `ld` (R134). An instruction whose set is empty has no delivery: it takes no entry and waits for none. Log 27 (DEDUCED). -/
def execLd (o : MOps) (s : State) : Host.Outcome State Fault Refusal :=
  issue s 0xC0 o.hdr.stop (mUses o [destNames o] []) fun m =>
    let addrs := mAddrs o m s
    let w := widBytes o.wid
    if addrs.isEmpty then .done (m.clearPi s)
    else if noEntry s m then .stall .feWait s
    else withTrans s m .load w true addrs noAlso fun l =>
      let (s, id) := takeEntry s m o.vd.toNat (widNames o.wid) (addrs.map Prod.fst) []
      let s := sendAll s m (globalAccesses l w (fun _ _ => .load) (.delivery id) (isAcq o.ord) (fun _ => false) fun _ => o.scope)
      .done (bmemRecord (m.clearPi s) m 0 o.scope addrs)

/-- What one location receives from the values stored to it in ascending threads: the last one's bytes, or for a doorbell the
largest (R134). -/
def storeAct (o : MOps) (vals : List Nat) (bell : Bool) : Act :=
  if bell then .bell (vals.foldl max 0) else .store ((leBytes (widBytes o.wid) (vals.getLastD 0)).map some)

/-- The values of the threads that store. -/
def storeVals (o : MOps) (m : Me) (ts : List Nat) : List Nat := ts.map fun t => threadData m o.vd o.wid t

/-- A store is a release where ORD says so, or to a doorbell, and there its scope holds the package (R210). -/
def storeRel (o : MOps) (pa : Nat) : Bool := isRel o.ord || isBell pa
def storeScope (o : MOps) (pa : Nat) : Scope := if isBell pa && !wideScope o.scope then .pkg else o.scope

def execSt (o : MOps) (s : State) : Host.Outcome State Fault Refusal :=
  issue s 0xC1 o.hdr.stop (mUses o [dataNames o o.vd] []) fun m =>
    let addrs := mAddrs o m s
    let w := widBytes o.wid
    if addrs.isEmpty then .done (m.clearPi s)
    else withTrans s m (.store (w == 8)) w true addrs noAlso fun l =>
      let s := sendAll s m (globalAccesses l w (fun pa ts => storeAct o (storeVals o m ts) (isBell pa)) (fun _ => .none) false
        (storeRel o) (storeScope o))
      .done (bmemRecord (m.clearPi s) m 1 o.scope addrs)

/-- The first thread index that a memory instruction of the strand has not translated (R16, R309). -/
def Regs.memIndex (r : Regs) : Nat := if r.pi.toNat / 2 ^ 16 == 0x8001 then r.pi.toNat % 2 ^ 16 else 0

/-- The first thread of a `pref` from the strand's progress point on whose page is to be walked, and the page. -/
def prefWalk (s : State) (m : Me) (bytes : Nat) (addrs : List (Nat × Nat)) : Option (Nat × Nat) :=
  (addrs.filter fun q => m.st.regs.memIndex ≤ q.1).findSome? fun q =>
    match checkGlobal s m.c m.ctx .load bytes m.st.absent q.2 with
    | .miss v => some (q.1, v / 4096)
    | _ => none

/-- `pref` (R131, R133, R309): its addresses are translated, and a thread that fails a check is dropped; it has no other effect. -/
def execPref (o : MOps) (s : State) : Host.Outcome State Fault Refusal :=
  issue s 0xC7 o.hdr.stop (mUses o [] []) fun m =>
    let addrs := mAddrs o m s
    match prefWalk s m (widBytes o.wid) addrs with
    | some (t, page) => waitWalk s m true t page
    | none => .done (bmemRecord (m.clearPi s) m 4 o.scope addrs)

/-! ### Scratchpad checks (R133 steps 2 and 7, R135, R215) -/

/-- The effect of a scratchpad instruction once every thread's address has passed. -/
def withScratch (s : State) (m : Me) (bytes : Nat) (reads : Bool) (addrs : List (Nat × Nat)) (k : Unit → Eff) : Eff :=
  match addrs.find? fun q => q.2 % bytes != 0 || !m.blk.holds q.2 bytes with
  | some q => .trap (if q.2 % bytes != 0 then causeMisalign else causeAccess) (addrInfo q.1 q.2) s
  | none =>
      if addrs.any fun q => scratchBusy s m q.2 bytes then .stall .range s
      else match (if reads then addrs.findSome? fun q => scratchPoison s m.c m.st.block q.2 bytes else none) with
        | some x => .trap causeEcc (storageLocation 1 m.c x) s
        | none => k ()

/-- Log 24 (DEDUCED). -/
def execLds (o : MOps) (s : State) : Host.Outcome State Fault Refusal :=
  issue s 0xC2 o.hdr.stop (mUses o [destNames o] []) fun m =>
    let addrs := mAddrs o m s
    let w := widBytes o.wid
    if addrs.isEmpty then .done s
    else if noEntry s m then .stall .feWait s
    else withScratch s m w true addrs fun _ =>
      let (s, id) := takeEntry s m o.vd.toNat (widNames o.wid) (addrs.map Prod.fst) []
      .done (sendAll s m (scratchAccesses m addrs w (fun _ _ => .load) (.delivery id) (isAcq o.ord) false o.scope))

/-- Log 24 (DEDUCED). -/
def execSts (o : MOps) (s : State) : Host.Outcome State Fault Refusal :=
  issue s 0xC3 o.hdr.stop (mUses o [dataNames o o.vd] []) fun m =>
    let addrs := mAddrs o m s
    let w := widBytes o.wid
    if addrs.isEmpty then .done s
    else withScratch s m w false addrs fun _ =>
      .done (sendAll s m (scratchAccesses m addrs w (fun _ ts => storeAct o (storeVals o m ts) false) (fun _ => .none) false
        (isRel o.ord) o.scope))

/-! ### Scalar loads and stores (R136) -/

def execSld (o : MOps) (s : State) : Host.Outcome State Fault Refusal :=
  issue s 0xC5 o.hdr.stop (accUses o [] [mReg o]) fun m =>
    let a := scalarAddr o m.st.regs
    let w := widBytes o.wid
    let dest : List Nat → Dest := fun _ => .scalar (mReg o)
    if o.dst then withScratch s m w true [(0, a)] fun _ =>
      .done (lateScalar (sendAll s m (scratchAccesses m [(0, a)] w (fun _ _ => .load) dest (isAcq o.ord) false o.scope))
        m (mReg o) none)
    else withTrans s m .load w false [(0, a)] noAlso fun l =>
      .done (lateScalar (sendAll s m (globalAccesses l w (fun _ _ => .load) dest (isAcq o.ord) (fun _ => false) fun _ => o.scope))
        m (mReg o) none)

def execSst (o : MOps) (s : State) : Host.Outcome State Fault Refusal :=
  issue s 0xC6 o.hdr.stop (accUses o [(mReg o, o.hdr.wfc)] []) fun m =>
    let a := scalarAddr o m.st.regs
    let w := widBytes o.wid
    let v := (m.st.regs.get (mReg o)).toNat % 2 ^ (8 * w)
    if o.dst then withScratch s m w false [(0, a)] fun _ =>
      .done (sendAll s m (scratchAccesses m [(0, a)] w (fun _ _ => storeAct o [v] false) (fun _ => .none) false (isRel o.ord)
        o.scope))
    else withTrans s m (.store (w == 8)) w false [(0, a)] noAlso fun l =>
      .done (sendAll s m (globalAccesses l w (fun pa _ => storeAct o [v] (isBell pa)) (fun _ => .none) false (storeRel o)
        (storeScope o)))

/-! ### Counted loads (R137) -/

/-- The scratchpad destination of each thread of `ldsc.sp`. -/
def landAddrs (o : MOps) (m : Me) (s : State) : List (Nat × Nat) :=
  threadAddrs m s (m.st.regs.get (mReg o)) o.vx (widBytes o.wid) 0

/-- The check of a thread's destination, which lies in the block's scratchpad (R137). -/
def landAlso (o : MOps) (m : Me) (s : State) (t : Nat) : Option Nat :=
  match (if o.dst then landAddrs o m s else []).find? fun q => q.1 == t with
  | some q => if m.blk.holds q.2 (widBytes o.wid) then none else some causeAccess
  | none => none

/-- What `ldsc` uses. -/
def ldscUses (o : MOps) : Uses :=
  mUses o (if o.dst then [] else [destNames o]) ((o.sx, o.hdr.wfc) :: if o.dst then [(mReg o, o.hdr.wfc)] else [])

/-- A barrier word's address is 8-aligned and in the block's barrier region (R141). -/
def barrierAt (b : Block) (a : Nat) : Bool := a % 8 == 0 && a + 8 ≤ 8 * b.bars

def execLdsc (o : MOps) (s : State) : Host.Outcome State Fault Refusal :=
  issue s 0xC4 o.hdr.stop (ldscUses o) fun m =>
    let addrs := mAddrs o m s
    let lands := if o.dst then landAddrs o m s else []
    let w := widBytes o.wid
    let b := (m.st.regs.get o.sx).toNat
    let bytes := w * addrs.length
    if addrs.isEmpty then .done (m.clearPi s)
    else if !barrierAt m.blk b then .trap causeAccess (addrInfo 0 b) s
    else if !o.dst && noEntry s m then .stall .feWait s
    else
      let ranged := rangeBusy s m b 8 || sentBusy s m b 8 || m.st.fenced 1
        || lands.any fun q => rangeBusy s m q.2 w || sentBusy s m q.2 w
      Eff.orFor (holds := ranged) (r := .range) <| withTrans s m .load w true addrs (landAlso o m s) fun l =>
      if ranged then .stall .range s
      else if 2 ^ 31 ≤ barPend (readNat m.blk.scratch b 8) + bytes then .trap causeIllSync (opInfo 0xC4) s
      else
        let ts := addrs.map Prod.fst
        let (s, entry) := if o.dst then (s, none) else
          let r := takeEntry s m o.vd.toNat (widNames o.wid) ts []
          (r.1, some r.2)
        let cl := s.cluster m.c
        let land : Landing := { id := cl.nextId, slot := m.k, block := m.st.block, word := b, bytes := w, dests := lands,
                                threads := ts, data := [], delivery := entry }
        let s := s.setCluster m.c { cl with landings := cl.landings ++ [land], nextId := cl.nextId + 1 }
        let s := barStep s m.c m.st.block b 0 bytes
        let s := sendAll s m (globalAccesses l w (fun _ _ => .load) (.landing land.id) false (fun _ => false) fun _ => o.scope)
        .done (bmemRecord (m.clearPi s) m 2 o.scope addrs)

/-! ### Atomics (R138, R139) -/

/-- VC and the 16-bit offset of `atom` and `atoms` (R131). -/
def atomVc (o : MOps) : VName := o.off32.truncate 9
def atomOff (o : MOps) : Word := ((o.off32 >>> 16).truncate 16 : BitVec 16).signExtend 64

def atomAddrs (o : MOps) (m : Me) (s : State) : List (Nat × Nat) :=
  threadAddrs m s (m.st.regs.get o.sb) o.vx (widBytes o.wid) (atomOff o)

def atomNames (o : MOps) : List NameUse :=
  [dataNames o (atomVc o)] ++ (if o.aop == .cas then [dataNames o o.vd] else []) ++ [destNames o]

/-- A thread's data and compare value. -/
def atomMember (o : MOps) (m : Me) (t : Nat) : Nat × Nat × Nat :=
  (t, threadData m (atomVc o) o.wid t, if o.aop == .cas then threadData m o.vd o.wid t else 0)

def execAtom (o : MOps) (s : State) : Host.Outcome State Fault Refusal :=
  issue s 0xC8 o.hdr.stop (mUses o (atomNames o) []) fun m =>
    let addrs := atomAddrs o m s
    let w := widBytes o.wid
    if addrs.isEmpty then .done (m.clearPi s)
    else if noEntry s m then .stall .feWait s
    else withTrans s m .atomic w true addrs noAlso fun l =>
      let (s, id) := takeEntry s m o.vd.toNat (widNames o.wid) (addrs.map Prod.fst) []
      let s := sendAll s m (globalAccesses l w (fun _ ts => .rmw o.aop (ts.map (atomMember o m))) (.delivery id) (isAcq o.ord)
        (fun _ => isRel o.ord) fun _ => o.scope)
      .done (bmemRecord (m.clearPi s) m 3 o.scope addrs)

def execAtoms (o : MOps) (s : State) : Host.Outcome State Fault Refusal :=
  issue s 0xC9 o.hdr.stop (mUses o (atomNames o) []) fun m =>
    let addrs := atomAddrs o m s
    let w := widBytes o.wid
    if addrs.isEmpty then .done s
    else if noEntry s m then .stall .feWait s
    else withScratch s m w true addrs fun _ =>
      let (s, id) := takeEntry s m o.vd.toNat (widNames o.wid) (addrs.map Prod.fst) []
      .done (sendAll s m (scratchAccesses m addrs w (fun _ ts => .rmw o.aop (ts.map (atomMember o m))) (.delivery id) (isAcq o.ord)
        (isRel o.ord) o.scope))

/-- Log 24 (DEDUCED), 37 (DEDUCED). -/
def execSatom (o : MOps) (s : State) : Host.Outcome State Fault Refusal :=
  issue s 0xCA o.hdr.stop
    (accUses o ((o.sx, o.hdr.wfc) :: if o.aop == .cas then [(mReg o, o.hdr.wfc)] else []) [mReg o]) fun m =>
    let a := scalarAddr o m.st.regs
    let w := widBytes o.wid
    let r := m.st.regs
    let member := (0, (r.get o.sx).toNat % 2 ^ (8 * w), if o.aop == .cas then (r.get (mReg o)).toNat % 2 ^ (8 * w) else 0)
    let noted := fun (s : State) => m.note s 0x03 (payload [(57, a), (3, scopeCode o.scope), (4, aopCode o.aop)])
    let act : Nat → List Nat → Act := fun _ _ => .rmw o.aop [member]
    let dest : List Nat → Dest := fun _ => .scalar (mReg o)
    if o.dst then withScratch s m w true [(0, a)] fun _ =>
      .done (noted (lateScalar (sendAll s m (scratchAccesses m [(0, a)] w act dest (isAcq o.ord) (isRel o.ord) o.scope))
        m (mReg o) none))
    else withTrans s m .atomic w false [(0, a)] noAlso fun l =>
      .done (noted (lateScalar (sendAll s m (globalAccesses l w act dest (isAcq o.ord) (fun _ => isRel o.ord) fun _ => o.scope))
        m (mReg o) none))

end Sys2Proof.Machine
end

