-- ==== Sys2Proof/Machine/Sync.lean ====
section
/-!
DEFINITION. Fences, barrier words, `gbar`, locks and watches (09 R140-R145).
-/
namespace Sys2Proof.Machine

/-! ### Fences (R140) -/

/-- A class of the predecessor set has an access of the strand that is not performed; class R holds the card reads that a job makes
at its start, and CR ends with a job's last read (R213). -/
def classPending (cl : Cluster) (m : Me) (bit : Nat) : Bool :=
  match bit with
  | 0 => m.st.out.any Access.reads || (ownJobs cl m.k m.st.block).any fun j => !j.started
  | 1 => m.st.out.any Access.writes || cl.landings.any fun l => l.slot == m.k
  | 2 => (ownJobs cl m.k m.st.block).any fun j => !j.readsDone
  | 3 => !(ownJobs cl m.k m.st.block).isEmpty
  | 4 => cl.tileOps.any fun t => t.slot == m.k && t.reads
  | 5 => cl.tileOps.any fun t => t.slot == m.k && t.writes
  | _ => cl.bankOps.any fun t => t.slot == m.k

/-- Bytes of an access. -/
def Access.span (a : Access) : Span := { space := a.space, pa := a.pa, bytes := a.bytes }

/-- What the strand has under way that is of a set of classes, with the bytes of each: its accesses, `ldsc` bytes, tile-engine
accesses, `bmv`, and jobs whose regions lie in the scratchpad; none where a job reaches memory. -/
def underWay (s : State) (m : Me) (set : Nat) : Option (List (Nat × List Span)) :=
  let cl := s.cluster m.c
  let here := fun (a n : Nat) => ({ space := some m.st.block, pa := a, bytes := n } : Span)
  let spans := fun (rs : List Region) => rs.map fun r => ({ here r.base r.len with space := if r.scratch then some m.st.block else none } : Span)
  let jobs := (ownJobs cl m.k m.st.block).filter fun j => set / 4 % 4 != 0 || (bitOf set 0 && !j.started)
  if jobs.any fun j => (j.reads ++ j.writes).any fun r => !r.scratch then none
  else some (((m.st.out.filter fun a => a.classIn set).map fun a => (a.id, [a.span]))
    ++ ((cl.landings.filter fun l => l.slot == m.k && bitOf set 1).map fun l => (l.id, l.dests.map fun d => here d.2 l.bytes))
    ++ (jobs.map fun j => (j.id, here j.card 64 :: spans (j.reads ++ j.writes)))
    ++ ((cl.tileOps.filter fun t => t.slot == m.k && ((t.reads && bitOf set 4) || (t.writes && bitOf set 5))).map fun t =>
      (t.id, spans t.regions))
    ++ ((cl.bankOps.filter fun t => t.slot == m.k && set / 64 != 0).map fun t => (t.id, [here 0 m.blk.scratchLen])))

/-- Nothing that the strand has under way is barred to it: an event of the strand may go ahead, and two agents never wait for each
other. Log 23 (DEDUCED). -/
def unbarred (s : State) (c k block : Nat) (l : List Span) : Bool :=
  s.debts.all fun d => !d.holds c k block || (!d.engine && d.bars.all fun x => l.all fun y => !x.meets d.cluster c y.space y.pa y.bytes)

/-- An event of the strand with bytes `mark` goes ahead of what it has under way of a set of classes, which a scope orders before it:
the debt that it leaves (R228). -/
def aheadOf (s : State) (m : Me) (set : Nat) (scope : Scope) (mark : Option Span) : Option State :=
  if !s.ahead then none
  else (underWay s m set).bind fun l =>
    let spans := l.flatMap Prod.snd
    if !unbarred s m.c m.k m.st.block (m.st.out.map Access.span ++ spans) then none
    else some { s with debts := s.debts ++ [{ cluster := m.c, slot := m.k, block := m.st.block, scope := scope, mark := mark, bars := spans
                                              live := mark.isNone, overtaken := l.map Prod.fst
                                              engine := l.any fun p => !(m.st.out.any fun a => a.id == p.1) }] }

/-- `fence` (R140). One of a scope that holds the package stalls until the accesses of PRED are performed. One of a narrow scope with
the classes R and W alone stands among the strand's accesses and lets agents outside its scope see them in another order; with a
class of an engine it stalls too, or goes ahead of them where the agenda says so (R228). At `.strand` it orders what the strand
does among its own jobs and operations. Log 23 (DEDUCED). -/
def fenceEff (s : State) (m : Me) (pred succ : Nat) (scope : Scope) : Eff :=
  let plain := pred / 4 == 0 && succ / 4 == 0
  let pending := (upto 8).any fun i => bitOf pred i && classPending (s.cluster m.c) m i
  let behind := ((upto 2).any fun i => bitOf pred i && classPending (s.cluster m.c) { m with st := { m.st with out := [] } } i)
  if pred == 0 || succ == 0 || !pending || (plain && scope == .strand && !(s.cluster m.c).enginesOf m.k m.st.block) then .done s
  else if wideScope scope then .stall .engine s
  else if plain && !behind then .done (sendAll s m [newAccess none 0 0 (.fence pred succ) .none false false scope false])
  else if scope == .strand then .stall .engine s
  else match aheadOf s m pred scope none with
    | some s' => .done s'
    | none => .stall .engine s

def execFence (o : MOps) (s : State) : Host.Outcome State Fault Refusal :=
  issue s 0xCB o.hdr.stop { ord := true, mem := true } fun m =>
    fenceEff s m (bitsOf o.off32.toNat 7 0) (bitsOf o.off32.toNat 15 8) o.scope

/-! ### Barrier words (R141, R142) -/

/-- The strand reaches its barrier word at once: nothing it has sent, no fence of its own and no order of another's stands before it
(R219, R228). -/
def wordFree (s : State) (m : Me) (a : Nat) : Bool :=
  !m.sentOver a 8 && !m.st.fenced 0 && !owedSoft s m.c m.k m.st.block (some m.st.block) a 8

/-- The effect of a barrier instruction at its word, once the address has passed and no job writes there. -/
def withBarrier (s : State) (m : Me) (o : MOps) (k : Nat → Nat → Eff) : Eff :=
  let a := scalarAddr o m.st.regs
  if !barrierAt m.blk a then .trap causeAccess (addrInfo 0 a) s
  else if scratchBusy s m a 8 || !wordFree s m a then .stall .range s
  else match scratchPoison s m.c m.st.block a 8 with
    | some x => .trap causeEcc (storageLocation 1 m.c x) s
    | none => k a (readNat m.blk.scratch a 8)

/-- The strand's deliveries have come: its register events before a release (R220). -/
def Me.delivered (m : Me) (s : State) : Bool :=
  !(s.cluster m.c).deliveries.any fun d => d.slot == m.k && !d.discard
    && !(s.cluster m.c).landings.any fun l => l.delivery == some d.id

/-- An arrival is a release at `.block` for the strand's deliveries, its R and W accesses and the card reads of its jobs; the word
itself counts the bytes of an `ldsc` that names it (R142, R216, R220). -/
def Me.mayArrive (m : Me) (s : State) (word : Nat) : Bool :=
  let others := ((s.cluster m.c).landings.filter fun l => l.slot == m.k && l.word != word).map Landing.id
  others.isEmpty && (m.st.out.all fun a => match a.dest with | .landing _ _ => true | _ => false) && m.delivered s
    && (ownJobs (s.cluster m.c) m.k m.st.block).all Job.started

/-- The strand's barrier word. -/
def Me.word (m : Me) (a : Nat) : Span := { space := some m.st.block, pa := a, bytes := 8 }

/-- The strand meets what others have done ahead at its barrier word. -/
def Me.touchWord (m : Me) (s : State) (a : Nat) : State := touch s m.c m.k m.st.block (some m.st.block) a 8

/-- One arrival, after which the strand's attempt continues with `k`. It waits for what it releases, or goes ahead of it where the
agenda says so (R228). -/
def arrive (s : State) (m : Me) (a w op : Nat) (k : State → Eff) : Eff :=
  let on := fun (s : State) => k (barStep (m.touchWord s a) m.c m.st.block a 1 0)
  if barExp w < barArr w + 1 then .trap causeIllSync (opInfo op) s
  else if m.mayArrive s a then on s
  else match (if m.delivered s then aheadOf s m 3 .block (some (m.word a)) else none) with
    | some s => on s
    | none => .stall .engine s

def execBara (o : MOps) (s : State) : Host.Outcome State Fault Refusal :=
  issue s 0xCC o.hdr.stop (smUses o [] []) fun m =>
    withBarrier s m o fun a w => arrive s m a w 0xCC .done

def execBarw (o : MOps) (s : State) : Host.Outcome State Fault Refusal :=
  issue s 0xCD o.hdr.stop (smUses o [(o.sx, o.hdr.wfc)] []) fun m =>
    withBarrier s m o fun a w =>
      if barPhase w != (m.st.regs.get o.sx).getLsbD 0 then .done (m.touchWord s a) else .stall .barrier s

/-- The strand waits on the phase it arrived in, or goes on (R142). -/
def awaitPhase (s : State) (m : Me) (a : Nat) (phase : Bool) : Eff :=
  match s.block? m.c m.st.block with
  | none => .done s
  | some b =>
      if barPhase (readNat b.scratch a 8) != phase then .done (m.touchWord s a)
      else .stall .barrier (s.modStrand m.c m.k fun st => { st with wait := .arrived a phase })

def execBaraw (o : MOps) (s : State) : Host.Outcome State Fault Refusal :=
  issue s 0xCE o.hdr.stop (smUses o [] []) fun m =>
    match m.st.wait with
    | .arrived a phase => awaitPhase s m a phase
    | _ => withBarrier s m o fun a w => arrive s m a w 0xCE fun s => awaitPhase s m a (barPhase w)

/-! ### Grid barrier (R143) -/

/-- The round of the grid's `gbar`. -/
def gridRound (s : State) (g : Nat) : Nat := match s.grids.get? g with | some gr => gr.round | none => 0

/-- The strand arrives and continues once the round is complete. -/
def gbarEff (s : State) (m : Me) : Eff :=
  match m.st.wait with
  | .gbar r => if r < gridRound s m.blk.grid then .done s else .stall .barrier s
  | _ =>
      if !m.quiet s then .stall .engine s
      else
        let r := gridRound s m.blk.grid
        let s := s.modStrand m.c m.k fun st => { st with wait := .gbar r }
        let s := settleGbar s m.blk.grid
        if r < gridRound s m.blk.grid then .done s else .stall .barrier s

def gridCoop (s : State) (g : Nat) : Bool := match s.grids.get? g with | some gr => gr.rec'.coop | none => false

def execGbar (o : MOps) (s : State) : Host.Outcome State Fault Refusal :=
  issue s 0xCF o.hdr.stop { ord := true } fun m =>
    if !gridCoop s m.blk.grid then .trap causeIllSync (opInfo 0xCF) s
    else if m.inH then .double 0
    else gbarEff s m

/-! ### Locks (R144) -/

/-- The strand as a lock's holder or waiter. -/
def Me.asHolder (m : Me) : Holder := { ctx := m.ctx, cluster := m.c, slot := m.k, strand := m.st.num }

def State.lockAt (s : State) (pa : Nat) : Lock := (s.locks.get? pa).getD { holder := none, waiters := [], va := 0 }

def Lock.free (l : Lock) : Bool := l.holder.isNone && l.waiters.isEmpty

/-- An access of the strand to memory that takes place at once is held back: by what it has sent there, a fence of its own before an
access of this class, or another's order (R219, R228), by the memory port (R371), or on its way (R323-R325). -/
def reachHeld (s : State) (m : Me) (bit pa n : Nat) : Bool :=
  sentMeets s m pa n || m.st.fenced bit || !portReady s pa || !linkFree s m.c pa

/-- The effect of a lock instruction at its word: its physical and virtual addresses and the lock's state. -/
def withLock (s : State) (m : Me) (o : MOps) (k : Nat → Nat → Lock → Eff) : Eff :=
  let a := scalarAddr o m.st.regs
  withTrans s m .lock 8 false [(0, a)] noAlso fun l =>
    let pa := (l.map fun q => q.2.1).headD 0
    if reachHeld s m 0 pa 8 || m.st.fenced 1 then .stall .engine s else k pa a (s.lockAt pa)

/-- Requests that wait in the queue of a home slice (R144). Log 15 (DESIGN CHOICE). -/
def sliceWaiters (s : State) (pa : Nat) : Nat :=
  ((s.locks.filter fun l => Config.homeSlice (l.1 / 128) % 128 == Config.homeSlice (pa / 128) % 128).map fun l =>
    l.2.waiters.length).foldl (· + ·) 0

/-- The queue of the word's home slice is full. -/
def sliceFull (s : State) (pa : Nat) : Bool :=
  4096 ≤ (s.locks.map fun l => l.2.waiters.length).foldl (· + ·) 0 && 4096 ≤ sliceWaiters s pa

/-- The lock is taken by the strand. -/
def takeLock (s : State) (m : Me) (pa va : Nat) : State :=
  lockRecord { s with locks := s.locks.set pa { holder := some m.asHolder, waiters := [], va := va } } 0 m.asHolder pa va

def execLockW (o : MOps) (s : State) : Host.Outcome State Fault Refusal :=
  issue s 0xD0 o.hdr.stop (smUses o [] []) fun m =>
    match m.st.wait with
    | .queued pa => if (s.lockAt pa).holder == some m.asHolder then .done s else .stall .lock s
    | _ => withLock s m o fun pa va l =>
        if l.holder == some m.asHolder then .trap causeIllSync (opInfo 0xD0) s
        else if l.free then .done (takeLock s m pa va)
        else if sliceFull s pa then .stall .lock s
        else
          let s := { s with locks := s.locks.set pa { l with waiters := l.waiters ++ [m.asHolder] } }
          .stall .lock (lockRecord (s.modStrand m.c m.k fun st => { st with wait := .queued pa }) 1 m.asHolder pa va)

/-- The lock passes to its oldest waiter, or is free; a lock nobody holds or waits for reads 0 (R144). -/
def passLock (s : State) (m : Me) (pa va : Nat) (l : Lock) : State :=
  match l.waiters with
  | h :: rest => lockRecord { s with locks := s.locks.set pa { l with holder := some h, waiters := rest } } 2 h pa va
  | [] => lockRecord { s with locks := s.locks.del pa, mem := writeNat s.mem pa 8 0 } 3 m.asHolder pa va

def execUnlockW (o : MOps) (s : State) : Host.Outcome State Fault Refusal :=
  issue s 0xD1 o.hdr.stop (smUses o [] []) fun m =>
    withLock s m o fun pa va l =>
      if l.holder != some m.asHolder then .trap causeIllSync (opInfo 0xD1) s
      else if !m.quiet s then .stall .engine s
      else .done (passLock s m pa va l)

def execTrylock (o : MOps) (s : State) : Host.Outcome State Fault Refusal :=
  issue s 0xD2 o.hdr.stop (smUses o [] [mReg o]) fun m =>
    withLock s m o fun pa va l =>
      if l.holder == some m.asHolder then .trap causeIllSync (opInfo 0xD2) s
      else if l.free then .done (lateScalar (takeLock s m pa va) m (mReg o) (some 1))
      else .done (lateScalar s m (mReg o) (some 0))

/-! ### Watches (R145) -/

/-- What a watch sees: a word of the block's scratchpad, or of memory. -/
def watchSees (s : State) (b : Block) (w : Watch) : Nat :=
  if w.scratch then readNat b.scratch w.addr w.bytes else seenNat s w.addr w.bytes

/-- Arms the strand's watch; it has fired where the word differs already. -/
def armWatch (s : State) (m : Me) (w : Watch) : Eff :=
  .done (m.setRegs s fun r => { r with watch := some { w with fired := watchSees s m.blk w != w.value } })

def execWaitv (o : MOps) (s : State) : Host.Outcome State Fault Refusal :=
  issue s 0xD3 o.hdr.stop (smUses o [(o.sx, o.hdr.wfc)] []) fun m =>
    let a := scalarAddr o m.st.regs
    let w := widBytes o.wid
    let v := (m.st.regs.get o.sx).toNat % 2 ^ (8 * w)
    if o.dst then withScratch s m w true [(0, a)] fun _ =>
      if sentBusy s m a w || m.st.fenced 0 then .stall .range s else armWatch s m
        { scratch := true, addr := a, bytes := w, value := v, seen := false, fired := false }
    else withTrans s m .load w false [(0, a)] noAlso fun l =>
      let pa := (l.map fun q => q.2.1).headD 0
      if reachHeld s m 0 pa w then .stall .engine s
      else armWatch (shareLine s (l.any fun q => leafShared q.2.2) pa) m
        { scratch := false, addr := pa, bytes := w, value := v, seen := false, fired := false }

end Sys2Proof.Machine
end

