-- ==== Sys2Proof/Machine/Tiles.lean ====
section
/-!
DEFINITION. Accumulator names and their tiles, and the instructions on plain tiles (10 R147-R162).
-/
namespace Sys2Proof.Machine

/-! ### Tiles (R147, R148) -/

/-- Element (i, c) of a tile. -/
def tileAt (t : TileData) (i c : Nat) : W32 := (((t[i]?).getD [])[c]?).getD 0

/-- W of a mode (R147). -/
def TileMode.width (x : TileMode) : Nat := match x with | .plain w => w | .factor _ => 64

/-- A plain tile of a width, all its elements +0. -/
def zeroTile (w : Nat) : AccName := { mode := .plain w, tile := [], status := 0, k := 0, last := .none }

/-- Columns of SHPN. -/
def shpWidth (n : ShpN) : Nat :=
  match n with
  | .n16 => 16
  | .n32 => 32
  | .n64 => 64

/-- The name AT. -/
def tName (o : TOps) : Nat := o.at5.toNat

/-- A tile-reason trap (R151). -/
def tileTrap (s : State) (at5 : BitVec 5) (reason : Nat) : Eff :=
  .trap causeAccess (payload [(5, at5.toNat), (43, 0), (8, reason)]) s

/-- Tiles of a block that drain (R148). -/
def drainingTiles (cl : Cluster) (block : Nat) : Nat :=
  ((cl.tileOps.filterMap fun (t : TileOp) => if t.block == block && t.drains != 0 then some t.drains else none).eraseDups).length

/-- Tiles of a block that are bound, shadows, or the working tile of a sweep. -/
def heldTiles (cl : Cluster) (b : Block) (block : Nat) : Nat :=
  b.acc.length + b.shadows.length + (cl.sweeps.filter fun w => w.block == block).length

/-- The effect of an instruction that takes `n` fresh tiles (R148): it waits while one drains, or traps. -/
def withFresh (s : State) (m : Me) (at5 : BitVec 5) (n : Nat) (k : Unit → Eff) : Eff :=
  let cl := s.cluster m.c
  let d := drainingTiles cl m.st.block
  let held := heldTiles cl m.blk m.st.block
  if held + d + n ≤ m.blk.tiles then k ()
  else if d != 0 then .stall .engine s
  else tileTrap s at5 0x09

/-- Another strand's sweep of the name is under way, or its `fsolv` stands between two elements: an instruction that names it waits
in the name order (R149, R170). Log 27 (DEDUCED). -/
def sweeping (s : State) (m : Me) (name : Nat) : Bool :=
  ((s.cluster m.c).sweeps.any fun w => w.block == m.st.block && w.name == name)
    || (s.cluster m.c).strands.any fun p => p.1 != m.k && p.2.block == m.st.block && p.2.solve == some name

/-- The effect of an instruction on a name, once its tile reasons are found not to hold: the lowest that holds traps (R151).
Log 31 (DEDUCED). -/
def withReasons (s : State) (m : Me) (at5 : BitVec 5) (reason : Option Nat) (k : Unit → Eff) : Eff :=
  if sweeping s m at5.toNat then .stall .engine s
  else match reason with
    | some r => tileTrap s at5 r
    | none => k ()

/-- The tile of a name of a block, 16 more for its shadow, is poisoned: its word index (28 R358). -/
def tilePoison (s : State) (c block key : Nat) : Option Nat :=
  s.poison.findSome? fun p => match p with
    | .tile c' b w => if c' == c && b == block && w / 4096 == key then some w else none
    | _ => none

/-- Poison of a tile goes, or moves to another name with its tile. -/
def moveTilePoison (s : State) (c block key : Nat) (dst : Option Nat) : State :=
  if s.poison.isEmpty then s
  else { s with poison := s.poison.filterMap fun p => match p with
    | .tile c' b w =>
        if c' == c && b == block && w / 4096 == key then dst.map fun d => .tile c b (4096 * d + w % 4096) else some p
    | _ => some p }

/-- The effect of an instruction that reads a tile, which must not be poisoned (28 R359). -/
def withTile (s : State) (m : Me) (key : Option Nat) (k : Unit → Eff) : Eff :=
  match key.bind (tilePoison s m.c m.st.block) with
  | some w => .trap causeEcc (storageLocation 0 m.c w) s
  | none => k ()

/-- The key of a tile that is read in the rows of a set, which is none where the set is empty (R9). -/
def tileKey (key : Nat) (rows : Bool) : Option Nat := if rows then some key else none

/-- The tile of a name begins to drain: what still uses it goes on until it ends (R148). -/
def drainName (s : State) (c block name : Nat) : State :=
  s.modCluster c fun cl =>
    { cl with
      tileOps := cl.tileOps.map fun t =>
        if t.block == block && t.name == name && t.drains == 0 then { t with drains := cl.nextId + 1 } else t
      nextId := cl.nextId + 1 }

/-- Binds a name to a fresh tile, with FSTAT. -/
def bindWith (s : State) (c block name : Nat) (a : AccName) : State :=
  (moveTilePoison (drainName s c block name) c block name none).modBlock c block fun b => { b with acc := b.acc.set name a }

/-- A name that was bound keeps the STATUS, K and LAST it has: only `finit`, `fupd` and `fdwn` set FSTAT (R147). -/
def AccName.keeping (a : AccName) (old : Option AccName) : AccName :=
  match old with
  | some o => { a with status := o.status, k := o.k, last := o.last }
  | none => a

/-- Binds a name to a fresh tile; FSTAT is kept (R147). -/
def bindTile (s : State) (c block name : Nat) (a : AccName) : State :=
  bindWith s c block name (a.keeping ((s.block? c block).bind fun b => b.acc.get? name))

/-- Writes the tile a name binds, in place. -/
def putTile (s : State) (c block name : Nat) (t : TileData) : State :=
  s.modBlock c block fun b => { b with acc := b.acc.modify name fun a => { a with tile := t } }

/-- A run or access of the tile engine begins (R153, R155). -/
def addTileOp (s : State) (m : Me) (name : Nat) (regions : List Region) (reads writes : Bool) (current : Nat) : State :=
  s.modCluster m.c fun cl =>
    { cl with
      tileOps := cl.tileOps ++ [{ id := cl.nextId, slot := m.k, block := m.st.block, name := name, regions := regions,
                                  reads := reads, writes := writes, drains := 0, current := current }]
      nextId := cl.nextId + 1 }

/-- The members of ACT that take part: r_0 to r_63 (R151). -/
def Me.responders (m : Me) (s : State) : List Nat := (m.acting s false).take 64

/-- A thread-register operand of a tile instruction. -/
def tileUses (m : Me) (s : State) (name : VName) (count : Nat) (write wf : Bool) : Uses :=
  { bo := true, sets := true, ord := true, names := [{ name := name, count := count, write := write, wf := wf }]
    only := some (setOf (m.responders s)) }

/-! ### Census (R41, 27 R355) -/

/-- The census site of an instruction of the strand: the code object and the ordinal of the stop site it is or last retired
(R60). -/
def Me.siteKey (m : Me) (s : State) (stop : Bool) : Nat :=
  let at' := fun (pc : PC) => censusKey m.ctx (codeBase s m.ctx pc.toNat) (ordinalOf s m.ctx pc.toNat)
  if stop then at' m.st.pc
  else match m.st.site with
    | some (pc, _) => at' pc
    | none => censusKey m.ctx (codeBase s m.ctx m.st.pc.toNat) 0

/-- Counts of a context at a site of a cluster. Log 30 (DEDUCED). -/
def countCensus (s : State) (c ctx : Nat) (sites : List (Nat × List Nat)) : State :=
  s.modCluster c fun cl => { cl with census := sites.foldl (fun t q => censusAdd t ctx q.1 q.2) cl.census }

/-! ### Operands of a matrix instruction (R152, R153) -/

/-- The descriptor of a format slot. -/
def Block.fmt (b : Block) (f : BitVec 3) : W32 := (b.fmts[f.toNat]?).getD 0

/-- Bits an element occupies. -/
def Block.elemBits (b : Block) (ty : MatTy) (f : BitVec 3) : Nat :=
  match ty with
  | .slot => containerBits (b.fmt f)
  | _ => 16

/-- The value of an element, before its scale, from a number that holds it at bit `p`. -/
def Block.elem (b : Block) (ty : MatTy) (f : BitVec 3) (n p : Nat) : FVal :=
  match ty with
  | .slot => slotValue (b.fmt f) (n / 2 ^ p % 2 ^ slotWidth (b.fmt f))
  | .fp16 => f16.read false (n / 2 ^ p % 65536)
  | .bf16 => bf16.read false (n / 2 ^ p % 65536)

/-- Bytes of an entry of the scale array of an operand; 0 without an array. -/
def Block.scaleBytes (b : Block) (ty : MatTy) (f : BitVec 3) : Nat :=
  match ty with
  | .slot => (match slotScale (b.fmt f) with | 2 => 1 | 3 => 4 | _ => 0)
  | _ => 0

/-- A value times the scale of its row or column, entry `i` of the array held in `n` (R32). -/
def Block.scaled (b : Block) (ty : MatTy) (f : BitVec 3) (n i : Nat) (v : FVal) : FVal :=
  match ty with
  | .slot =>
      if slotScale (b.fmt f) == 0 then v
      else
        let e := 8 * b.scaleBytes ty f
        v.mul (slotFactor (b.fmt f) ((b.scales[f.toNat]?).getD 0) (BitVec.ofNat 32 (n / 2 ^ (e * i) % 2 ^ e)))
  | _ => v

/-- K of SHPK (R54). -/
def matDepth (ty : MatTy) (k : BitVec 2) : Nat := (if ty == .slot then 16 else 4) * (k.toNat + 1)

/-- Products of a group (R38). -/
def matGroup (ty : MatTy) : Nat := if ty == .slot then 16 else 4

/-- Registers of a row of A (R152). -/
def matRegs (b : Block) (ty : MatTy) (o : TOps) : Nat := matDepth ty o.shpk * b.elemBits ty o.fsa / 32

/-- A row of A as values, natural order, from its registers. -/
def matRow (b : Block) (ty : MatTy) (o : TOps) (scales i : Nat) (words : List W32) : List FVal :=
  let n := joinFields (words.map fun w => (32, w.toNat))
  (upto (matDepth ty o.shpk)).map fun k => b.scaled ty o.fsa scales i (b.elem ty o.fsa n (b.elemBits ty o.fsa * k))

/-- Bit position of element `j` of B: by PACK for a slot, natural order otherwise (R153). -/
def matPos (b : Block) (ty : MatTy) (f : BitVec 3) (j : Nat) : Nat :=
  match ty with
  | .slot => elementBit (b.fmt f) j
  | _ => 16 * j

/-- Column `c` of B as values, from the number that holds the matrix. -/
def matCol (b : Block) (ty : MatTy) (o : TOps) (n scales c : Nat) : List FVal :=
  let k := matDepth ty o.shpk
  (upto k).map fun i => b.scaled ty o.fsb scales c (b.elem ty o.fsb n (matPos b ty o.fsb (c * k + i)))

/-- Bytes of a packed B: its sequence is padded to a whole group of 128 bytes (02 R34). Log 55 (DEDUCED). -/
def matBytes (b : Block) (ty : MatTy) (f : BitVec 3) (count : Nat) : Nat :=
  match ty with
  | .slot =>
      let n := count * b.elemBits ty f / 8
      if slotPack (b.fmt f) == 1 then ceilDiv n 128 * 128 else n
  | _ => 2 * count

/-- An array of the scratchpad that an instruction reads: address, bytes, alignment. -/
structure MemArray where
  addr : Nat
  len : Nat
  align : Nat
  deriving DecidableEq, Repr

/-- B, A's scales and B's scales (R153). -/
def matArrays (b : Block) (ty : MatTy) (o : TOps) (p q : Nat) : MemArray × MemArray × MemArray :=
  let n := shpWidth o.shpn
  let ea := b.scaleBytes ty o.fsa
  ({ addr := p, len := matBytes b ty o.fsb (matDepth ty o.shpk * n), align := 128 },
    { addr := q, len := 64 * ea, align := 4 },
    { addr := (q + 64 * ea) % 2 ^ 64, len := n * b.scaleBytes ty o.fsb, align := if ea == 0 then 4 else 1 })

/-- An array of the scratchpad is aligned and lies in it. -/
def MemArray.fits (a : MemArray) (b : Block) : Bool := a.addr % a.align == 0 && b.holds a.addr a.len

/-- Arrays that pass their checks are held up, by a job's writes or what the strand has sent (R215, R219 case 1). -/
def arraysBusy (s : State) (m : Me) (arrs : List MemArray) : Bool :=
  (arrs.all fun a => a.len == 0 || a.fits m.blk) && arrs.any fun a =>
    a.len != 0 && (rangeBusy s m a.addr a.len || sentBusy s m a.addr a.len || landBusy s m a.addr a.len)

/-- The effect of an instruction that reads or writes arrays of the scratchpad: their addresses are checked in ascending order,
then the range scoreboard and poison (R151, R153, R215, 28 R359). -/
def withArrays (s : State) (m : Me) (reads : Bool) (arrs : List MemArray) (k : Unit → Eff) : Eff :=
  let arrs := (arrs.filter fun a => a.len != 0) |> sortBy MemArray.addr
  match arrs.find? fun a => a.addr % a.align != 0 || !m.blk.holds a.addr a.len with
  | some a => .trap (if a.addr % a.align != 0 then causeMisalign else causeAccess) (addrInfo 0 a.addr) s
  | none =>
      if arrs.any fun a => rangeBusy s m a.addr a.len || sentBusy s m a.addr a.len || landBusy s m a.addr a.len then .stall .range s
      else match (if reads then arrs.findSome? fun a => scratchPoison s m.c m.st.block a.addr a.len else none) with
        | some w => .trap causeEcc (storageLocation 1 m.c w) s
        | none => k ()

def MemArray.read (a : MemArray) (b : Block) : Nat := leNat (readBytes b.scratch a.addr a.len)

/-- The strand's block as the tile engine sees its scratchpad: some bytes it has read already (R217). -/
def Me.seen (m : Me) : Block :=
  if m.st.pre.isEmpty then m.blk
  else { m.blk with scratch := m.st.pre.foldl (fun c p => writeByte c p.1 p.2) m.blk.scratch }

/-! ### `mma` (R154, R155, R159) -/

/-- The key an instruction's A is latched under (R20). -/
def latchKey (ty : MatTy) (o : TOps) : LatchKey := { va := o.va, shpn := o.shpn, shpk := o.shpk, fsa := o.fsa, ty := ty }

/-- The latch serves the instruction. -/
def Me.latched (m : Me) (ty : MatTy) (o : TOps) : Option Latch := m.st.regs.latch.filter fun l => l.key == latchKey ty o

/-- What `mma` and `mmag` use. A latch hit reads no register and has no `bo` point (R155). -/
def mmaUses (s : State) (ty : MatTy) (o : TOps) (m : Me) : Uses :=
  let scales := m.blk.scaleBytes ty o.fsa != 0 || m.blk.scaleBytes ty o.fsb != 0
  let src := (o.sb, o.hdr.wfb) :: if scales then [(o.sx, o.hdr.wfc)] else []
  if (m.latched ty o).isSome then { sets := true, ord := true, src := src }
  else { tileUses m s o.va (matRegs m.blk ty o) false o.hdr.wfa with src := src }

/-- A of the instruction: the latch, or the registers of the responders (R152). -/
def Me.matA (m : Me) (s : State) (ty : MatTy) (o : TOps) : Latch :=
  match m.latched ty o with
  | some l => l
  | none =>
      { key := latchKey ty o
        rows := (m.responders s).map fun t => (upto (matRegs m.blk ty o)).map fun i => m.v (o.va.toNat + i) t }

/-- The tile reason of `mma` and `mmag` (R151), less those of tiles to be had. -/
def mmaReason (b : Block) (o : TOps) : Option Nat :=
  let w := shpWidth o.shpn
  let shadow := b.shadows.get? (tName o)
  match b.acc.get? (tName o) with
  | none => if !o.za || o.sp then some 0x01 else if shadow.isSome then some 0x04 else none
  | some a =>
      let factor := match a.mode with | .factor _ => true | _ => false
      let width := match shadow with | some x => if o.sp then x.width else a.mode.width | none => a.mode.width
      if factor && (o.sp || !o.za) then some 0x02
      else if !o.za && width != w then some 0x03
      else if !o.sp && shadow.isSome then some 0x04
      else none

/-- The tiles the instruction takes are to be had (R148, R159). Log 31 (DEDUCED). -/
def withMmaTile (s : State) (m : Me) (o : TOps) (k : Unit → Eff) : Eff :=
  if o.sp then
    (if (m.blk.shadows.get? (tName o)).isSome then k ()
    else
      let all := (s.cluster m.c).blocks.foldl (fun n p => n + p.2.shadows.length) 0
      if Config.shadowTiles ≤ all then
        (if all == m.blk.shadows.length then tileTrap s o.at5 0x05 else .stall .engine s)
      else withFresh s m o.at5 1 k)
  else if o.za then withFresh s m o.at5 1 k
  else k ()

/-- The tile a product reads, as poison names it; none where it has no row (R9). -/
def mmaReads (b : Block) (o : TOps) (a : Latch) : Option Nat :=
  if o.za || a.rows.isEmpty then none
  else if o.sp && (b.shadows.get? (tName o)).isSome then some (tName o + 16) else some (tName o)

/-- The tile a product is added to, and its width (R154, R159). -/
def mmaBase (b : Block) (o : TOps) : TileData :=
  if o.za then []
  else match (if o.sp then (b.shadows.get? (tName o)).map Shadow.tile else none) with
    | some t => t
    | none => match b.acc.get? (tName o) with | some a => a.tile | none => []

/-- C of R154: the rows with a responder, and the elements written. -/
def matProduct (sat : Bool) (grp : Nat) (rows cols : List (List FVal)) (base : TileData) : TileData × List (List Rounded) :=
  let out := (rows.zip (upto rows.length)).map fun r =>
    (cols.zip (upto cols.length)).map fun c => elementSum sat grp (tileAt base r.2 c.2).toNat (products r.1 c.1)
  (out.map (fun r => r.map fun x => BitVec.ofNat 32 x.bits) ++ base.drop rows.length, out)

/-- The effect on the name: the tile or the shadow, and the census (R154, R159, R41). -/
def putProduct (s : State) (m : Me) (o : TOps) (stop : Bool) (tile : TileData) (written : List Rounded) : State :=
  let site := (m.siteKey s stop, siteCounts written)
  if o.sp then
    s.modBlock m.c m.st.block fun b =>
      let held := match b.shadows.get? (tName o) with | some x => x.counts | none => []
      { b with shadows := b.shadows.set (tName o) { width := shpWidth o.shpn, tile := tile, counts := held ++ [site] } }
  else
    let s := if o.za then bindTile s m.c m.st.block (tName o) { zeroTile (shpWidth o.shpn) with tile := tile }
      else putTile s m.c m.st.block (tName o) tile
    countCensus s m.c m.ctx [site]

/-- The scratchpad bytes a run reads. -/
def arrayRegions (arrs : List MemArray) : List Region :=
  (arrs.filter fun a => a.len != 0).map fun a => { scratch := true, base := a.addr, len := a.len }

/-- The strand's latch after the instruction (R20). -/
def Me.setLatch (m : Me) (s : State) (o : TOps) (a : Latch) : State :=
  m.setRegs s fun r => { r with latch := if o.ru then some a else none }

/-- The product of an instruction with the B and scales at its addresses, applied to its name (R154), and the engine run
(R155). With no row nothing is read and no run begins. -/
def applyMat (s : State) (m : Me) (sat : Bool) (ty : MatTy) (o : TOps) (p q : Nat) (a : Latch) (current : Nat) : State :=
  let (ab, aa, as') := matArrays m.blk ty o p q
  if a.rows.isEmpty then releaseCurrent (putProduct s m o o.hdr.stop (mmaBase m.blk o) []) m.c current
  else
    let sa := aa.read m.seen
    let sb := as'.read m.seen
    let bn := ab.read m.seen
    let rows := (a.rows.zip (upto a.rows.length)).map fun r => matRow m.blk ty o sa r.2 r.1
    let cols := (upto (shpWidth o.shpn)).map fun c => matCol m.blk ty o bn sb c
    let (tile, written) := matProduct sat (matGroup ty) rows cols (mmaBase m.blk o)
    let s := putProduct s m o o.hdr.stop tile written.flatten
    addTileOp s m ((tName o) + if o.sp then 16 else 0) (arrayRegions [ab, aa, as']) true false current

/-- The arrays an instruction reads; none with ACT empty (R154). -/
def matReads (m : Me) (ty : MatTy) (o : TOps) (p q : Nat) (a : Latch) : List MemArray :=
  if a.rows.isEmpty then [] else
    let (x, y, z) := matArrays m.blk ty o p q
    [x, y, z]

def execMma (sat : Bool) (ty : MatTy) (o : TOps) (s : State) : Host.Outcome State Fault Refusal :=
  issueBy s 0xE0 o.hdr.stop (mmaUses s ty o) fun m =>
    let p := (m.st.regs.get o.sb).toNat
    let q := (m.st.regs.get o.sx).toNat
    let a := m.matA s ty o
    Eff.orFor (holds := arraysBusy s m (matReads m ty o p q a)) (r := .range) <|
    withReasons s m o.at5 (mmaReason m.blk o) fun _ => withTile s m (mmaReads m.blk o a) fun _ => withMmaTile s m o fun _ =>
      withArrays s m true (matReads m ty o p q a) fun _ =>
        m.admission (headerRead s m.blk m.st.role o.th.toNat) (m.header s o.th) fun i s =>
          .done (m.setLatch (applyMat s m sat ty o p q a i) o a)

/-! ### `mmag` (R156-R158) -/

/-- The slots of a gang. -/
def gangSlots (g : Nat) : List Nat := (upto 8).filter fun i => bitOf g i

/-- MEMB is no gang of the issuer's (R158 cause 1). -/
def gangBad (cl : Cluster) (m : Me) (g : Nat) : Bool :=
  let n := (gangSlots g).length
  !bitOf g m.k || n < 2 || 6 < n
    || (gangSlots g).any fun i => !(cl.strands.get? i).any fun st => st.block == m.st.block

/-- The fields all members have in common (R157). -/
def Arrival.common (a : Arrival) : Bool × MatTy × BitVec 2 × ShpN × BitVec 3 × BitVec 3 × Nat × Nat :=
  (a.sat, a.ty, a.ops.shpk, a.ops.shpn, a.ops.fsa, a.ops.fsb, a.sb, a.sx)

/-- The arrivals of a gang when all its members have arrived and wait, in ascending slot. Log 31 (DEDUCED). -/
def gangComplete (cl : Cluster) (g : Nat) : Option (List Arrival) :=
  let as' := (gangSlots g).filterMap fun i =>
    if (cl.strands.get? i).any fun st => st.wait == .gang then cl.arrivals.find? fun a => a.slot == i && a.gang == g else none
  if as'.length == (gangSlots g).length then some as' else none

/-- One member's part of a completed gang, which holds a current: its tile, its latch, and its retirement, with the number of the
completion (R157, R233). -/
def gangMember (s : State) (c number current : Nat) (a : Arrival) : State :=
  match meAt s c a.slot with
  | none => s
  | some m =>
      let s := applyMat s m a.sat a.ty a.ops a.sb a.sx a.latch current
      let s := m.setLatch s a.ops a.latch
      let s := s.modStrand c a.slot fun st => { st with gangDone := number }
      retire s m a.ops.hdr.stop (successor m.st.pc)

/-- The header of a gang: the sum of its members' (R157). -/
def gangHeader (s : State) (c : Nat) (as' : List Arrival) : Nat × Nat :=
  as'.foldl (fun h a => match meAt s c a.slot with
    | some m => let x := m.header s a.ops.th; (h.1 + x.1, h.2 + x.2)
    | none => h) (0, 0)

/-- The member of a gang that finds no tile where `room` are to be had, in ascending slot order. -/
def gangLacks (as' : List Arrival) (room : Nat) : Option Arrival := ((as'.filter fun a => a.ops.za)[room]?)

/-- A member traps for want of a tile: its arrival stands (R148, R158). Log 31 (DEDUCED). -/
def gangTrap (s : State) (c : Nat) (a : Arrival) : State :=
  match meAt s c a.slot with
  | none => s
  | some m => raise s m causeAccess (payload [(5, a.ops.at5.toNat), (43, 0), (8, 0x09)]) 0xE0

/-- The members of a gang with their shares of its current: each its header's, and the last one what is left. -/
def gangShares (s : State) (c : Nat) : List Arrival → Nat → List (Arrival × Nat)
  | [], _ => []
  | [a], left => [(a, left)]
  | a :: rest, left =>
      let own := match meAt s c a.slot with | some m => min left (m.header s a.ops.th).2 | none => 0
      (a, own) :: gangShares s c rest (left - own)

/-- The gang's effect, once it is admitted with a current: the arrivals go, and each member's part takes place in ascending slot. -/
def completeGang (s : State) (c g : Nat) (as' : List Arrival) (current : Nat) : State :=
  let number := (s.cluster c).nextId + 1
  let shares := gangShares s c as' current
  let s := s.modCluster c fun cl =>
    { cl with arrivals := cl.arrivals.filter fun a => a.gang != g || !as'.contains a, nextId := number }
  shares.foldl (fun s a => gangMember s c number a.2 a.1) s

/-- A member waits at the rendezvous; the gang completes once all have arrived, its tiles are to be had and it is admitted, once for
all of them (R157, R172). Where no tile is to be had and none drains, the member that lacks one traps (R148). Log 31 (DEDUCED). -/
def awaitGang (s : State) (m : Me) (g : Nat) : Eff :=
  match gangComplete (s.cluster m.c) g with
  | none => .stall .rendezvous s
  | some as' =>
      let arrays := match as' with | [] => [] | a :: _ => matReads m a.ty a.ops a.sb a.sx a.latch
      Eff.orFor (holds := arraysBusy s m arrays) (r := .range) <|
      if as'.any fun a => sweeping s m (tName a.ops) then .stall .engine s
      else
        let drains := drainingTiles (s.cluster m.c) m.st.block
        match gangLacks as' (m.blk.tiles - (heldTiles (s.cluster m.c) m.blk m.st.block + drains)) with
        | some a => if drains != 0 then .stall .engine s else .ended (gangTrap s m.c a)
        | none => withArrays s m true arrays fun _ =>
            admission s m.c (gangTask g) (gangHeader s m.c as') fun i s => .ended (completeGang s m.c g as' i)

/-- The arrival of a member (R157, R158). -/
def arriveGang (s : State) (m : Me) (a : Arrival) : Eff :=
  let cl := s.cluster m.c
  let meets := fun (b : Arrival) => bitOf b.gang m.k || bitOf a.gang b.slot
  let waits := fun (s : State) => s.modStrand m.c m.k fun st => { st with wait := .gang }
  let await := fun (s : State) => match meAt s m.c m.k with
    | none => .ended s
    | some m => awaitGang s m a.gang
  if cl.arrivals.any fun b => b.slot == m.k && b.gang == a.gang then await (waits s)
  else if gangBad cl m a.gang then .trap causeGangBroken (payload [(8, 1), (8, m.k)]) s
  else if cl.arrivals.any fun b => meets b && (b.gang != a.gang || b.common != a.common) then
    .trap causeGangBroken (payload [(8, 3), (8, m.k)]) (breakArrivals s m.c meets 3 m.k)
  else await (waits (s.setCluster m.c { cl with arrivals := cl.arrivals ++ [a] }))

def execMmag (sat : Bool) (ty : MatTy) (o : TOps) (s : State) : Host.Outcome State Fault Refusal :=
  match me? s with
  | none => .fault .noStrand
  | some m =>
      if m.st.wait == .gang then
        .next (finish m 0xE0 o.hdr.stop s (awaitGang s m (m.st.regs.gang.toNat % 256)))
      else issueBy s 0xE0 o.hdr.stop (mmaUses s ty o) fun m =>
        let p := (m.st.regs.get o.sb).toNat
        let q := (m.st.regs.get o.sx).toNat
        let a := m.matA s ty o
        if m.inH then .double 0
        else Eff.orFor (holds := arraysBusy s m (matReads m ty o p q a)) (r := .range) <|
          withReasons s m o.at5 (mmaReason m.blk o) fun _ => withTile s m (mmaReads m.blk o a) fun _ => withMmaTile s m o fun _ =>
          withArrays s m true (matReads m ty o p q a) fun _ =>
            arriveGang s m { slot := m.k, gang := m.st.regs.gang.toNat % 256, sat := sat, ty := ty, ops := o, sb := p,
                             sx := q, latch := a }

/-! ### `tzero`, `tld`, `tst` (R160) -/

/-- The reason for an instruction that binds a name: it has a shadow (R151). -/
def bindReason (b : Block) (name : Nat) : Option Nat := if (b.shadows.get? name).isSome then some 0x04 else none

def execTzero (o : TOps) (s : State) : Host.Outcome State Fault Refusal :=
  issue s 0xE1 o.hdr.stop {} fun m =>
    withReasons s m o.at5 (bindReason m.blk (tName o)) fun _ => withFresh s m o.at5 1 fun _ =>
      .done (bindTile s m.c m.st.block (tName o) (zeroTile (shpWidth o.shpn)))

/-- The address of row `r` and whether rows lie in the scratchpad. -/
def rowAddr (o : TOps) (r : Regs) (i : Nat) : Nat :=
  (r.get o.sb + o.off32.signExtend 64 + BitVec.ofNat 64 (i * ((r.get o.sx).toNat % 2 ^ 32))).toNat
def rowsLocal (o : TOps) (r : Regs) : Bool := (r.get o.sx).getLsbD 32

/-- The pieces of a row of `n` bytes, one for each page it meets: address and length. -/
def rowPieces (a n : Nat) : List (Nat × Nat) :=
  let first := min n (4096 - a % 4096)
  if first == n then [(a, n)] else [(a, first), ((a + first) % 2 ^ 64, n - first)]

/-- The rows in ascending address order (R151), each with its pieces. -/
def rowList (o : TOps) (r : Regs) (n : Nat) : List (Nat × Nat) :=
  (sortBy id ((upto 64).map fun i => rowAddr o r i)).flatMap fun a => rowPieces a n

/-- Pieces of rows with the physical address and the leaf of each: the lines of shared pages that they reach are held
(25 R330). -/
def shareRows (s : State) (l : List ((Nat × Nat) × (Nat × Nat))) : State :=
  l.foldl (fun s q => shareRange s (leafShared q.2.2) q.2.1 q.1.2) s

/-- The rows of `tld` and `tst` in the scratchpad. -/
def rowArrays (o : TOps) (r : Regs) : List MemArray :=
  if rowsLocal o r then (upto 64).map fun i => { addr := rowAddr o r i, len := 4 * shpWidth o.shpn, align := 16 } else []

/-- The effect of `tld` and `tst` once every row has passed its checks (R160, R133), where p_0 and d are multiples of 16 just when
every row's address is: physical addresses by virtual address for rows in global memory. -/
def withRows (s : State) (m : Me) (o : TOps) (need : Need) (k : State → List (Nat × Nat × Nat) → Eff) : Eff :=
  let r := m.st.regs
  let n := 4 * shpWidth o.shpn
  if rowsLocal o r then withArrays s m (need == .load) (rowArrays o r) fun _ => k s []
  else
    let pieces := rowList o r n
    match translateAll s m need 16 noAlso ((upto pieces.length).zip (pieces.map Prod.fst)) with
    | .trap _ va c => .trap c (addrInfo 0 va) s
    | .walk t p => waitWalk s m false t p
    | .ok l =>
        let at' := pieces.zip (l.map fun q => q.2)
        let phys := at'.map fun q => (q.1.1, q.1.2, q.2.1)
        if phys.any fun q => sentMeets s m q.2.2 q.2.1 || !portReady s q.2.2 || !linkFree s m.c q.2.2 then .stall .engine s
        else match (if need == .load then phys.findSome? fun q => poisonedIn s q.2.2 q.2.1 else none) with
          | some pa => .trap causeEcc (physLocation pa) s
          | none => k (shareRows s at') phys

/-- The bytes of a row, from the scratchpad or from the pieces that hold it. -/
def rowBytes (s : State) (b : Block) (o : TOps) (r : Regs) (phys : List (Nat × Nat × Nat)) (i : Nat) : List Byte :=
  let n := 4 * shpWidth o.shpn
  let a := rowAddr o r i
  if rowsLocal o r then readBytes b.scratch a n
  else (rowPieces a n).flatMap fun p =>
    match phys.find? fun q => q.1 == p.1 && q.2.1 == p.2 with
    | some q => seenBytes s q.2.2 p.2
    | none => []

/-- The words of a row's bytes. -/
def rowWords (w : Nat) (bs : List Byte) : List W32 := (upto w).map fun c => BitVec.ofNat 32 (fieldAt bs (4 * c) 4)

/-- The regions `tld` and `tst` touch. -/
def rowRegions (o : TOps) (r : Regs) (phys : List (Nat × Nat × Nat)) : List Region :=
  if rowsLocal o r then (upto 64).map fun i => { scratch := true, base := rowAddr o r i, len := 4 * shpWidth o.shpn }
  else phys.map fun q => { scratch := false, base := q.2.2, len := q.2.1 }

/-- What `tld` and `tst` use. -/
def rowUses (o : TOps) : Uses := { ord := true, src := [(o.sb, o.hdr.wfb), (o.sx, o.hdr.wfc)] }

def execTld (o : TOps) (s : State) : Host.Outcome State Fault Refusal :=
  issue s 0xE2 o.hdr.stop (rowUses o) fun m =>
    Eff.orFor (holds := arraysBusy s m (rowArrays o m.st.regs)) (r := .range) <|
    withReasons s m o.at5 (bindReason m.blk (tName o)) fun _ => withFresh s m o.at5 1 fun _ =>
      withRows s m o .load fun s phys =>
        let w := shpWidth o.shpn
        let tile := (upto 64).map fun i => rowWords w (rowBytes s m.seen o m.st.regs phys i)
        let s := bindTile s m.c m.st.block (tName o) { zeroTile w with tile := tile }
        .done (addTileOp s m (tName o) (rowRegions o m.st.regs phys) true false 0)

/-- Writes bytes of a row in its pieces. -/
def storeRow (s : State) (m : Me) (o : TOps) (phys : List (Nat × Nat × Nat)) (i : Nat) (bs : List Byte) : State :=
  let a := rowAddr o m.st.regs i
  if rowsLocal o m.st.regs then scratchWrite s m.c m.st.block a bs
  else ((rowPieces a bs.length).foldl (fun (acc : State × List Byte) p =>
    (match phys.find? fun q => q.1 == p.1 && q.2.1 == p.2 with
      | some q => healLines (storeBytes acc.1 q.2.2 ((acc.2.take p.2).map some)) q.2.2 p.2
      | none => acc.1, acc.2.drop p.2)) (s, bs)).1

/-- The reason of `tst`: unbound, or a width that is not W (R151, R160). -/
def tstReason (b : Block) (o : TOps) : Option Nat :=
  match b.acc.get? (tName o) with
  | none => some 0x01
  | some a => if a.mode.width != shpWidth o.shpn then some 0x03 else none

def execTst (o : TOps) (s : State) : Host.Outcome State Fault Refusal :=
  issue s 0xE3 o.hdr.stop (rowUses o) fun m =>
    Eff.orFor (holds := arraysBusy s m (rowArrays o m.st.regs)) (r := .range) <|
    withReasons s m o.at5 (tstReason m.blk o) fun _ => withTile s m (some (tName o)) fun _ => withRows s m o (.store false) fun s phys =>
      let tile := match m.blk.acc.get? (tName o) with | some a => a.tile | none => []
      let s := (upto 64).foldl (fun s i => storeRow s m o phys i
        ((upto (shpWidth o.shpn)).flatMap fun c => leBytes 4 (tileAt tile i c).toNat)) s
      .done (addTileOp s m (tName o) (rowRegions o m.st.regs phys) false true 0)

/-! ### `tmov`, `trow`, `tscale` (R161, R162) -/

/-- The reason for a reader of a name. -/
def readReason (b : Block) (name : Nat) : Option Nat := if (b.acc.get? name).isNone then some 0x01 else none

/-- The tile and the width of a bound name. -/
def boundTile (b : Block) (name : Nat) : TileData × Nat :=
  match b.acc.get? name with
  | some a => (a.tile, a.mode.width)
  | none => ([], 1)

/-- A result delivered to the responders, by row, which reads the tile until the tile engine is done (R148, R161). -/
def deliverRows (s : State) (m : Me) (o : TOps) (count : Nat) (f : Nat → List W32) : Eff :=
  let ts := m.responders s
  if ts.isEmpty then .done s
  else if noEntry s m then .stall .feWait s
  else
    let (s, _) := takeEntry s m o.va.toNat count ts ((ts.zip (upto ts.length)).map fun q => (q.1, f q.2))
    .done (addTileOp s m (tName o) [] false false 0)

/-- The set that an instruction on rows acts on is not empty. -/
def Me.hasRows (m : Me) (s : State) : Bool := !(m.responders s).isEmpty

def execTmov (o : TOps) (s : State) : Host.Outcome State Fault Refusal :=
  issueBy s 0xE4 o.hdr.stop (fun m => tileUses m s o.va (boundTile m.blk (tName o)).2 true false) fun m =>
    withReasons s m o.at5 (readReason m.blk (tName o)) fun _ => withTile s m (tileKey (tName o) (m.hasRows s)) fun _ =>
      let (t, w) := boundTile m.blk (tName o)
      deliverRows s m o w fun i => (upto w).map fun c => tileAt t i c

/-- The reduction of a row (R161). -/
def rowReduce (sum : Bool) (row : List W32) : W32 :=
  match row with
  | [] => 0
  | x :: rest => rest.foldl (fun acc y =>
      BitVec.ofNat 32 (if sum then addF32 acc.toNat y.toNat else (f32.minMax true false acc.toNat y.toNat).bits)) x

def execTrow (sum : Bool) (o : TOps) (s : State) : Host.Outcome State Fault Refusal :=
  issueBy s 0xE6 o.hdr.stop (fun m => tileUses m s o.va 1 true false) fun m =>
    withReasons s m o.at5 (readReason m.blk (tName o)) fun _ => withTile s m (tileKey (tName o) (m.hasRows s)) fun _ =>
      let (t, w) := boundTile m.blk (tName o)
      deliverRows s m o 1 fun i => [rowReduce sum ((upto w).map fun c => tileAt t i c)]

/-- The reason of a writer of a plain tile in place. -/
def plainReason (b : Block) (name : Nat) : Option Nat :=
  match b.acc.get? name with
  | none => some 0x01
  | some a =>
      match a.mode with
      | .factor _ => some 0x02
      | .plain _ => if (b.shadows.get? name).isSome then some 0x04 else none

def execTscale (o : TOps) (s : State) : Host.Outcome State Fault Refusal :=
  issueBy s 0xE5 o.hdr.stop (fun m => tileUses m s o.va 1 false o.hdr.wfa) fun m =>
    withReasons s m o.at5 (plainReason m.blk (tName o)) fun _ => withTile s m (tileKey (tName o) (m.hasRows s)) fun _ =>
      let (t, w) := boundTile m.blk (tName o)
      let ts := m.responders s
      let rows := (ts.zip (upto ts.length)).map fun q =>
        let f := f32.read false (m.v o.va.toNat q.1).toNat
        (upto w).map fun c => BitVec.ofNat 32 (f32.mul .rne false (f32.read false (tileAt t q.2 c).toNat) f).bits
      .done (if ts.isEmpty then s else putTile s m.c m.st.block (tName o) (rows ++ t.drop ts.length))

/-! ### `tcommit`, `tdiscard` (R159) -/

/-- Tile-engine runs on a shadow go on under another name or drain. -/
def renameOps (s : State) (c block name dst : Nat) : State :=
  s.modCluster c fun cl => { cl with tileOps := cl.tileOps.map fun t =>
    if t.block == block && t.name == name && t.drains == 0 then { t with name := dst } else t }

/-- The shadow becomes the architectural tile, with its census counts. Log 30 (DEDUCED). -/
def commitShadow (s : State) (m : Me) (name : Nat) (x : Shadow) : State :=
  let s := bindTile s m.c m.st.block name { zeroTile x.width with tile := x.tile }
  let s := moveTilePoison s m.c m.st.block (name + 16) (some name)
  let s := renameOps s m.c m.st.block (name + 16) name
  let s := s.modBlock m.c m.st.block fun b => { b with shadows := b.shadows.del name }
  countCensus s m.c m.ctx x.counts

/-- Log 31 (DEDUCED). -/
def execTcommit (o : TOps) (s : State) : Host.Outcome State Fault Refusal :=
  issue s 0xE7 o.hdr.stop { dst := [o.sx] } fun m =>
    withReasons s m o.at5 none fun _ =>
      match m.blk.shadows.get? (tName o) with
      | some x => .done (lateScalar (commitShadow s m (tName o) x) m o.sx (some 1))
      | none => .done (lateScalar s m o.sx (some 0))

/-- Log 31 (DEDUCED). -/
def execTdiscard (o : TOps) (s : State) : Host.Outcome State Fault Refusal :=
  issue s 0xE8 o.hdr.stop {} fun m =>
    let s := moveTilePoison (drainName s m.c m.st.block (tName o + 16)) m.c m.st.block (tName o + 16) none
    .done (s.modBlock m.c m.st.block fun b =>
      { b with shadows := b.shadows.del (tName o) })

end Sys2Proof.Machine
end

