-- ==== Sys2Proof/Machine/Factor.lean ====
section
/-!
DEFINITION. The factor tile: binding, rank-one sweeps, triangular solves and the status word (10 R163-R170).
-/
namespace Sys2Proof.Machine

/-! ### Exact dyadic numbers -/

/-- m·2^e. -/
abbrev Dyad : Type := Int × Int

/-- The value of a finite FP32 code. -/
def dyOf (x : W32) : Dyad :=
  match f32.read false x.toNat with
  | .fin n m e => (if n then -(m : Int) else m, e)
  | _ => (0, 0)

def dyMul (a b : Dyad) : Dyad := (a.1 * b.1, a.2 + b.2)
def dyAdd (a b : Dyad) : Dyad :=
  let lo := min a.2 b.2
  (a.1 * 2 ^ (a.2 - lo).toNat + b.1 * 2 ^ (b.2 - lo).toNat, lo)
def dyNeg (a : Dyad) : Dyad := (-a.1, a.2)
def dyLe (a b : Dyad) : Bool := (dyAdd b (dyNeg a)).1 ≥ 0

/-- One rounding, RNE, of an exact value. Log 35 (DEDUCED). -/
def dyRound (a : Dyad) : W32 := BitVec.ofNat 32 (f32.roundSum .rne false a.1 a.2).bits

/-- One rounding of the square root of a positive exact value. -/
def dySqrt (a : Dyad) : W32 :=
  let (q, x, st) := sqrtMag a.1.natAbs a.2
  BitVec.ofNat 32 (f32.round .rne false false q x st).bits

/-- RNE(a / b). -/
def divF32 (a b : W32) : W32 := BitVec.ofNat 32 (f32.div .rne false (f32.read false a.toNat) (f32.read false b.toNat)).bits

/-- An infinity or a NaN. -/
def nonFinite (x : W32) : Bool := x.toNat / 2 ^ 23 % 256 == 255

/-! ### Sweeps (R165, R166) -/

/-- How a sweep ends: it aborts with a row and a status, or commits its working tile. -/
inductive SweepEnd where
  | abort (k st : Nat)
  | commit (w : TileData)
  deriving DecidableEq, Repr

/-- ρ of a row, or the status it aborts with. -/
def sweepRho (down : Bool) (tau : W32) (a b : W32) : W32 ⊕ Nat :=
  let x := dyOf a
  let y := dyOf b
  if down then
    let d := dyRound (dyMul (dyAdd x (dyNeg y)) (dyAdd x y))
    if nonFinite d then .inr (if d.getLsbD 31 then 0x01 else 0x02)
    else if dyLe (dyOf d) (dyMul (dyOf tau) (dyMul x x)) then .inr 0x01
    else .inl (dySqrt (dyOf d))
  else
    let r := dySqrt (dyAdd (dyMul x x) (dyMul y y))
    if nonFinite r then .inr 0x02 else .inl r

/-- Row k of the sweep: the new row and the new x, or the status it aborts with. Log 35 (DEDUCED). -/
def sweepRow (down : Bool) (tau : W32) (k : Nat) (row x : List W32) : (List W32 × List W32) ⊕ Nat :=
  let a := (row[k]?).getD 0
  let b := (x[k]?).getD 0
  if b.toNat % 2 ^ 31 == 0 then .inl (row, x)
  else match sweepRho down tau a b with
    | .inr st => .inr st
    | .inl r =>
        let c := dyOf (divF32 a r)
        let sn := dyOf (divF32 b r)
        let both := (upto x.length).map fun j =>
          let w := dyOf ((row[j]?).getD 0)
          let y := dyOf ((x[j]?).getD 0)
          (dyRound (dyAdd (dyMul c w) (dyMul (if down then dyNeg sn else sn) y)), dyRound (dyAdd (dyNeg (dyMul sn w)) (dyMul c y)))
        let after := both.drop (k + 1)
        if after.any fun p => nonFinite p.1 || nonFinite p.2 then .inr 0x02
        else .inl ((upto k).map (fun j => (row[j]?).getD 0) ++ [r] ++ after.map Prod.fst,
          x.take (k + 1) ++ after.map Prod.snd)

/-- The rows from k on. -/
def sweepRows (down : Bool) (tau : W32) : Nat → List (List W32) → List W32 → SweepEnd
  | _, [], _ => .commit []
  | k, row :: rest, x =>
      match sweepRow down tau k row x with
      | .inr st => .abort k st
      | .inl (row, x) =>
          match sweepRows down tau (k + 1) rest x with
          | .abort k st => .abort k st
          | .commit w => .commit (row :: w)

/-- Rows of a working tile of dimension n. -/
def workRows (n : Nat) (t : TileData) : List (List W32) := (upto n).map fun i => (upto n).map fun j => tileAt t i j

/-- The sweep of a working tile of dimension n by x, from a row on. Log 24 (DEDUCED). -/
def sweep (down : Bool) (tau : W32) (n : Nat) (t : TileData) (x : List W32) (index : Nat) : SweepEnd :=
  if x.any nonFinite then .abort 0 0x02
  else match sweepRows down tau index ((workRows n t).drop index) x with
    | .abort k st => .abort k st
    | .commit w => .commit ((workRows n t).take index ++ w)

/-- A sweep after up to `rows` more rows; it stops before a row that would abort, and before its last (R170). -/
def Sweep.advance (tau : W32) (n : Nat) (w : Sweep) : Nat → Sweep
  | 0 => w
  | rows + 1 =>
      if n ≤ w.index + 1 || w.x.any nonFinite then w
      else match sweepRow w.down tau w.index ((workRows n w.work)[w.index]?.getD []) w.x with
        | .inr _ => w
        | .inl (row, x) =>
            ({ w with work := (workRows n w.work).set w.index row, x := x, index := w.index + 1 } : Sweep).advance tau n rows

/-! ### Instructions -/

def fName (o : FOps) : Nat := o.at5.toNat

/-- `finit` (R163). -/
def execFinit (o : FOps) (s : State) : Host.Outcome State Fault Refusal :=
  issue s 0xEA o.hdr.stop { src := [(o.sn, o.hdr.wfb)] } fun m =>
    let n := (m.st.regs.get o.sn).toNat
    let reason := match bindReason m.blk (fName o) with
      | some r => some r
      | none => if n < 1 || 64 < n then some 0x08 else none
    withReasons s m o.at5 reason fun _ => withFresh s m o.at5 1 fun _ =>
      .done (bindWith s m.c m.st.block (fName o)
        { mode := .factor n, tile := [], status := 0, k := 0, last := .none })

/-- The reason of an instruction on a factor tile; a writer also meets a shadow. -/
def factorReason (b : Block) (name : Nat) (writer : Bool) : Option Nat :=
  match b.acc.get? name with
  | none => some 0x01
  | some a =>
      match a.mode with
      | .plain _ => some 0x02
      | .factor _ => if writer && (b.shadows.get? name).isSome then some 0x04 else none

/-- n and the tile of a factor name. -/
def factorTile (b : Block) (name : Nat) : Nat × TileData :=
  match b.acc.get? name with
  | some a => (match a.mode with | .factor n => n | .plain _ => 0, a.tile)
  | none => (0, [])

/-- The responders whose VX a factor instruction reads: r_i for i below n (R165, R166, R168). -/
def Me.rowsIn (m : Me) (s : State) (n : Nat) : List Nat := (m.responders s).take n

/-- What a factor instruction on VX uses. -/
def vxUses (m : Me) (s : State) (o : FOps) (write : Bool) : Uses :=
  { tileUses m s o.vx 1 false o.hdr.wfa with
    only := some (setOf (m.rowsIn s (factorTile m.blk (fName o)).1))
    names := { name := o.vx, count := 1, write := false, wf := o.hdr.wfa }
      :: if write then [{ name := o.vx, count := 1, write := true, wf := false }] else [] }

/-- `fupd` and `fdwn`: the capture, then the wait for the sweep (R165-R167, R170). With no responder there is no sweep (R9): the task is
admitted and over. -/
def sweepEff (down : Bool) (s : State) (m : Me) (o : FOps) : Eff :=
  withReasons s m o.at5 (factorReason m.blk (fName o) true) fun _ =>
    let ts := m.responders s
    withTile s m (tileKey (fName o) (m.hasRows s)) fun _ => withFresh s m o.at5 1 fun _ =>
      m.admission (headerRead s m.blk m.st.role o.th.toNat) (m.header s o.th) fun i s =>
        if ts.isEmpty then .done (m.clearPi (releaseCurrent s m.c i)) else
        let (n, t) := factorTile m.blk (fName o)
        let x := (upto n).map fun i => match ts[i]? with
          | some t => m.v o.vx.toNat t
          | none => 0
        let w : Sweep := { slot := m.k, block := m.st.block, name := fName o, down := down, trl := o.trl, x := x,
                           work := t, index := 0, current := i }
        let s := s.modCluster m.c fun cl => { cl with sweeps := cl.sweeps ++ [w] }
        .stall .engine ((m.clearPi s).modStrand m.c m.k fun st => { st with wait := .sweep })

/-- An attempt of `fupd` or `fdwn`: it waits for its sweep, and after it retires, with FT_LOSTDEF where that is due. -/
def sweepIssue (down : Bool) (op : Nat) (o : FOps) (s : State) : Host.Outcome State Fault Refusal :=
  match me? s with
  | none => .fault .noStrand
  | some m =>
      match m.st.wait with
      | .sweep => .next (finish m op o.hdr.stop s (.stall .engine s))
      | .swept none => .next (finish m op o.hdr.stop s (.done (m.clearPi s)))
      | .swept (some info) =>
          .next (finish m op o.hdr.stop s (.after causeLostDef (BitVec.ofNat 64 info) (m.clearPi s)))
      | _ => issueBy s op o.hdr.stop (fun m => vxUses m s o false) fun m => sweepEff down s m o

def execFupd (o : FOps) (s : State) : Host.Outcome State Fault Refusal := sweepIssue false 0xEB o s
def execFdwn (o : FOps) (s : State) : Host.Outcome State Fault Refusal := sweepIssue true 0xEC o s

/-- FACTOR_SWEEP_RETIRE (R165-R167, R170): the sweep commits or aborts, its current is released, and its strand goes on. In a
stopped cluster a sweep stands at a row (23 R297). -/
def sweepRetires (c slot : Nat) (s : State) : Option State :=
  let cl := s.cluster c
  if cl.stopping.isSome then none
  else match cl.sweeps.find? fun w => w.slot == slot with
    | none => none
    | some w => (cl.blocks.get? w.block).map fun b =>
        let (n, _) := factorTile b w.name
        let last := if w.down then Last.fdwn else .fupd
        let s := s.setCluster c { cl with sweeps := cl.sweeps.filter fun x => x.slot != slot }
        let s := releaseCurrent s c w.current
        let (s, lost) := match sweep w.down b.tol n w.work w.x w.index with
          | .commit t => (bindWith s c w.block w.name { mode := .factor n, tile := t, status := 0, k := n, last := last }, none)
          | .abort k st =>
              (s.modBlock c w.block fun b =>
                { b with acc := b.acc.modify w.name fun a => { a with status := st, k := k, last := last } },
              if w.trl then some (joinFields [(8, k), (8, st), (1, bit01 w.down)]) else none)
        s.modStrand c slot fun st => { st with wait := .swept lost }

def execFactorSweepRetire (c slot : Nat) (s : State) : Host.Outcome State Fault Refusal := happen s (sweepRetires c slot s)

/-! ### `fsolv` (R168) -/

/-- Where a solve has got to: the elements so far, and the index of the element whose diagonal is zero. Log 35 (DEDUCED). -/
def solveFrom (back : Bool) (n : Nat) (t : TileData) : List Nat → List W32 → List W32 × Option Nat
  | [], e => (e, none)
  | m :: rest, e =>
      let i := if back then n - 1 - m else m
      if (tileAt t i i).toNat % 2 ^ 31 == 0 then (e, some m)
      else
        let js := if back then (upto n).drop (i + 1) else upto i
        let acc := js.foldl (fun acc j =>
          let x := if back then tileAt t i j else tileAt t j i
          (f32.fma .rne false (f32.read false x.toNat).neg (f32.read false ((e[j]?).getD 0).toNat) (f32.read false acc)).bits)
          ((e[i]?).getD 0).toNat
        solveFrom back n t rest (e.set i (divF32 (BitVec.ofNat 32 acc) (tileAt t i i)))

/-- INDEX an `fsolv` resumes from (R16, R168). -/
def solveIndex (m : Me) : Nat := if !m.inH && m.st.regs.pi.toNat / 2 ^ 16 == 0x8004 then m.st.regs.pi.toNat % 2 ^ 16 else 0

/-- The strand's `fsolv` stands before an element of the solution: PI holds it, and the population and the tile are held
(R16, R17, R170). -/
def stopSolve (s : State) (m : Me) (o : FOps) (k : Nat) : State :=
  s.modStrand m.c m.k fun st => { st with regs := { st.regs with pi := piOf 4 k }, solve := some (fName o) }

/-- `fsolv` is over: PI is clear, and nothing is held. -/
def endSolve (s : State) (m : Me) : State := s.modStrand m.c m.k fun st => { st with regs := { st.regs with pi := 0 }, solve := none }

/-- A task whose effect takes place at once is admitted and over, and one that goes on after a stop has been admitted (R317). -/
def admitOnce (s : State) (m : Me) (o : FOps) (k : State → Eff) : Eff :=
  if m.st.solve.isSome && !m.inH then k s
  else m.admission (headerRead s m.blk m.st.role o.th.toNat) (m.header s o.th) fun i s => k (releaseCurrent s m.c i)

/-- `fsolv`: its elements are written up to a zero diagonal, or as many as the agenda gives the attempt, after which it stands at a
progress point (R168, R170). Log 24 (DEDUCED). -/
def fsolvEff (s : State) (m : Me) (o : FOps) : Eff :=
  withReasons s m o.at5 (factorReason m.blk (fName o) false) fun _ =>
    let ts := m.responders s
    withTile s m (tileKey (fName o) (m.hasRows s)) fun _ =>
      admitOnce s m o fun s =>
        if ts.isEmpty then .done (endSolve s m) else
        let (n, t) := factorTile m.blk (fName o)
        let e := (upto n).map fun i => match ts[i]? with
          | some t => m.v o.vx.toNat t
          | none => 0
        let rows := (upto n).drop (solveIndex m)
        let now := match s.cap with | some q => rows.take q | none => rows
        let (e, stop) := solveFrom o.dir n t now e
        let s := m.putV s o.vx.toNat (ts.zip e)
        match stop, rows.drop now.length with
        | some k, _ =>
            .trap causeSingular (BitVec.ofNat 64 (if o.dir then n - 1 - k else k)) (stopSolve s m o k)
        | none, k :: _ => .stall .engine (stopSolve s m o k)
        | none, [] => .done (endSolve s m)

def execFsolv (o : FOps) (s : State) : Host.Outcome State Fault Refusal :=
  issueBy s 0xED o.hdr.stop (fun m => vxUses m s o true) fun m => fsolvEff s m o

/-! ### `fstat` (R169) -/

/-- The status word of a name. -/
def statusWord (a : Option AccName) : Word :=
  match a with
  | none => 0
  | some a =>
      let (n, mode) := match a.mode with | .plain _ => (0, 1) | .factor n => (n, 2)
      let last := match a.last with | .none => 0 | .fupd => 1 | .fdwn => 2
      payload [(4, 0), (2, last), (2, mode), (8, n), (8, a.k), (8, a.status)]

def execFstat (o : FOps) (s : State) : Host.Outcome State Fault Refusal :=
  issue s 0xEE o.hdr.stop { dst := [o.sn] } fun m =>
    withReasons s m o.at5 none fun _ => .done (lateScalar s m o.sn (some (statusWord (m.blk.acc.get? (fName o)))))

end Sys2Proof.Machine
end

