-- ==== Sys2Proof/Machine/System.lean ====
section
/-!
DEFINITION. System registers (06 R86, 15 R237-R241, 23 R300, 10 R156, R164, 13 R209, 24 R318-R319) and the opcodes of
class 001 for time, power, the recorder, quota, gang and the checksum (11 R188-R193).
-/
namespace Sys2Proof.Machine

/-! ### Reading -/

/-- Serial mode: a resident context asks for it (R237). -/
def serialMode (s : State) (c : Nat) : Bool :=
  (s.cluster c).blocks.any fun p => match s.desc? p.2.ctx with | some d => d.serial | none => false

/-- SETST (R86). -/
def setst (m : Me) (s : State) : Word :=
  let k := m.stack s
  payload [(1, bit01 m.st.regs.z), (7, 0), (4, k.depth), (4, 0), (4, k.limit)]

/-- WS_REFCAL of a die (R209). -/
def refcal (s : State) (die : Nat) : Word :=
  payload [(20, s.phases[die]?.getD 0), (20, 0x12C00), (4, 0), (12, 0x4B0), (8, 0x60)]

/-- PWR_LVL (R318). -/
def Power.level (p : Power) : Word :=
  payload [(3, p.req), (1, 0), (3, p.eff), (1, 0), (1, bit01 p.thr), (1, bit01 (0 < p.edges)),
    (1, bit01 (p.edges == 0 && 2 ≤ p.halved))]

/-- PWR_USE (R318). -/
def Power.usage (p : Power) : Word := payload [(32, p.used), (16, p.infl)]

/-- DROOP_TH (R319). -/
def Power.droopTh (p : Power) : Word := payload [(16, p.th), (1, bit01 p.en), (15, 0), (17, p.cnt)]

/-- A per-strand register (R86, R241, R300). CHILDREN[11:8] reads 0: a strand whose inline frame is in use runs its callee, whose
own count is at its reset value (R91). Log 28 (DEDUCED). -/
def strandReg (m : Me) (s : State) (num : Nat) : Option Word :=
  let r := m.st.regs
  match num with
  | 0x000 => some (r.fpflags.zeroExtend 64)
  | 0x001 => some (r.fptrap.zeroExtend 64)
  | 0x008 => some (r.pi.zeroExtend 64)
  | 0x009 => some (r.rsc.zeroExtend 64)
  | 0x00A => some (r.rfr.zeroExtend 64)
  | 0x00B => some (setst m s)
  | 0x00C => some (r.cdepth.zeroExtend 64)
  | 0x00D => some (payload [(4, r.children)])
  | 0x010 => some r.tvec
  | 0x011 => some r.trpc
  | 0x012 => some r.tcause
  | 0x013 => some r.tinfo
  | 0x014 => some r.tstate
  | 0x015 => some (r.tpi.zeroExtend 64)
  | 0x016 => some r.dbg
  | 0x017 => some r.tnpc
  | 0x018 => some r.tmcmp
  | 0x019 => some r.tmctl
  | 0x020 => some r.gang
  | 0x021 => some (payload [(3, m.k), (5, 0), (3, m.st.role), (5, 0), (4, m.blk.depth)])
  | _ => none

/-- A register of the cluster, die or package (R86). -/
def clusterReg (m : Me) (s : State) (num : Nat) : Option Word :=
  let p := (s.cluster m.c).power
  let k := s.counters m.c m.ctx
  if num == 0x100 then some (m.blk.tol.zeroExtend 64)
  else if num == 0x101 then some (boolWord (serialMode s m.c))
  else if 0x110 ≤ num && num ≤ 0x113 then some (refcal s (num - 0x110))
  else if num == 0x114 then some (refcal s (dieOf m.c))
  else if 0x120 ≤ num && num ≤ 0x128 then k.elig[num - 0x120]?
  else if 0x130 ≤ num && num ≤ 0x13B then k.stalls[num - 0x130]?
  else if num == 0x140 then some p.level
  else if num == 0x141 then some p.usage
  else if num == 0x142 then some p.droopTh
  else none

/-- The register a number names, if a chapter defines it (R86). -/
def sysRead (m : Me) (s : State) (num : Nat) : Option Word :=
  if num < 0x100 then strandReg m s num else clusterReg m s num

/-- The number an instruction names. -/
def sysNum (o : SOps) : Nat := o.imm32.toNat % 4096

/-- `sysr` (R86). -/
def execSysr (o : SOps) (s : State) : Host.Outcome State Fault Refusal :=
  issue s 0x2A o.hdr.stop (sUses o true false false false) fun m =>
    match sysRead m s (sysNum o) with
    | none => .trap causeAccess (BitVec.ofNat 64 (sysNum o)) s
    | some v => .done (m.setRegs s fun r => r.put o.sd v)

/-! ### Writing -/

/-- A value FT_TOL takes: not a NaN, an infinity or a negative nonzero number (R164). -/
def tolOk (v : W32) : Bool :=
  v.toNat / 2 ^ 23 % 256 != 255 && (!v.getLsbD 31 || v.toNat % 2 ^ 31 == 0)

/-- A write of a per-strand register; none for one that is read-only or not defined (R86). Fields that are RO or reserved
keep 0 or what the device set (R241). -/
def Regs.sysWrite (r : Regs) (num : Nat) (v : Word) : Option Regs :=
  match num with
  | 0x000 => some { r with fpflags := v.truncate 5 }
  | 0x001 => some { r with fptrap := v.truncate 5 }
  | 0x010 => some { r with tvec := v }
  | 0x014 => some { r with tstate := (r.tstate &&& ~~~1) ||| (v &&& 1) }
  | 0x016 => some { r with dbg := v &&& 1 }
  | 0x018 => some { r with tmcmp := v }
  | 0x019 => some { r with tmctl := v &&& 3 }
  | 0x020 => some { r with gang := v &&& 0xFF }
  | _ => none

/-- `sysw` (R86, R164). -/
def execSysw (o : SOps) (s : State) : Host.Outcome State Fault Refusal :=
  issue s 0x2B o.hdr.stop (sUses o false true false false) fun m =>
    let num := sysNum o
    let v := m.st.regs.get o.sa
    if num == 0x100 then
      (if tolOk (v.truncate 32) then .done (s.modBlock m.c m.st.block fun b => { b with tol := v.truncate 32 })
      else .trap causeAccess (BitVec.ofNat 64 num) s)
    else match m.st.regs.sysWrite num v with
      | none => .trap causeAccess (BitVec.ofNat 64 num) s
      | some r => .done (m.setRegs s fun _ => r)

/-! ### Time, power, recorder (R188-R190) -/

/-- `time` (R188). -/
def execTimeI (o : SOps) (s : State) : Host.Outcome State Fault Refusal :=
  issue s 0x2C o.hdr.stop (sUses o true false false false) fun m => .done (m.setRegs s fun r => r.put o.sd s.time)

/-- `cyc` (R188). -/
def execCyc (o : SOps) (s : State) : Host.Outcome State Fault Refusal :=
  issue s 0x2D o.hdr.stop (sUses o true false false false) fun m =>
    .done (m.setRegs s fun r => r.put o.sd (s.counters m.c m.ctx).cyc)

/-- Changes the counters of the strand's context in its cluster. -/
def Me.setCounters (m : Me) (s : State) (f : Counters → Counters) : State :=
  s.modCluster m.c fun cl =>
    { cl with counters := cl.counters.set m.ctx (f ((cl.counters.get? m.ctx).getD Counters.reset)) }

/-- PCAP of a context (R295). -/
def pcapOf (s : State) (ctx : Nat) : Nat := match s.desc? ctx with | some d => d.pcap.toNat | none => 7

/-- `perf` (R189): the context's request becomes the clipped level, which SD receives. -/
def execPerf (o : SOps) (s : State) : Host.Outcome State Fault Refusal :=
  issue s 0x2E o.hdr.stop (sUses o true true false false) fun m =>
    let l := min (min (bitsOf (m.st.regs.get o.sa).toNat 7 0) 7) (pcapOf s m.ctx)
    let s := m.setCounters s fun k => { k with perf := some l }
    .done (m.setRegs s fun r => r.put o.sd (BitVec.ofNat 64 l))

/-- `thra` (R190). Disarming drops a trap that is due; a strand that arms knows the cluster's state (R316). Log 52 (DEDUCED). -/
def execThra (o : SOps) (s : State) : Host.Outcome State Fault Refusal :=
  issue s 0x2F o.hdr.stop (sUses o false true false false) fun m =>
    let arm := (m.st.regs.get o.sa).getLsbD 0
    .done (m.setRegs s fun r => { r with thrArmed := arm, thrDue := if arm then r.thrDue else none
                                         thrTold := if r.thrArmed then r.thrTold else (s.cluster m.c).power.thr })

/-- `ermark` (R188). -/
def execErmark (o : SOps) (s : State) : Host.Outcome State Fault Refusal :=
  issue s 0x30 o.hdr.stop (sUses o false true false false) fun m => .done (m.note s 0x0C (m.st.regs.get o.sa))

/-! ### Quota (R191) -/

/-- FROM, TO and N. -/
def quotaArgs (o : SOps) : Nat × Nat × Nat :=
  (bitsOf o.imm32.toNat 2 0, bitsOf o.imm32.toNat 6 4, bitsOf o.imm32.toNat 11 8)

/-- The reason `quota` traps for, in the order 1, 4, 2, 3. -/
def quotaReason (b : Block) (src dst n : Nat) : Option Nat :=
  match b.roles[src]?, b.roles[dst]? with
  | some f, some t =>
      if src == dst then some 1
      else if f.freed then some 4
      else if n == 0 || f.window < 32 * n then some 2
      else if !t.freed && 256 < t.window + 32 * n then some 3
      else none
  | _, _ => some 1

/-- The names that move are in a pending delivery of the block. -/
def quotaPending (s : State) (m : Me) (src dst n : Nat) : Bool :=
  let hit := fun (win lo : Nat) => (s.cluster m.c).deliveries.any fun d =>
    (upto (32 * n)).any fun i => d.covers m.st.block win (lo + i)
  match m.blk.roles[src]?, m.blk.roles[dst]? with
  | some f, some t => hit src (f.window - 32 * n) || (!t.freed && hit dst t.window)
  | _, _ => false

/-- The block after the move: the names leave FROM and join TO with open contents, or with 0 (R353), and no lost mark (R191,
R302); nothing joins a TO that was freed (R198). Log 8 (DESIGN CHOICE). -/
def Block.quota (b : Block) (src dst n : Nat) (number : Option Nat) : Block :=
  match b.roles[src]?, b.roles[dst]? with
  | some f, some t =>
      let drop := fun {α : Type} (m : SMap α) (win lo : Nat) => (upto (32 * n)).foldl (fun m i => m.del (colKey win (lo + i))) m
      let roles := b.roles.set src { f with window := f.window - 32 * n }
      if t.freed then
        { b with roles := roles, regs := drop b.regs src (f.window - 32 * n)
                 lostRegs := drop b.lostRegs src (f.window - 32 * n) }
      else { b with
        roles := roles.set dst { t with window := t.window + 32 * n }
        regs := drop (drop b.regs src (f.window - 32 * n)) dst t.window
        lostRegs := drop (drop b.lostRegs src (f.window - 32 * n)) dst t.window
        open' := (dst, t.window, 32 * n, number) :: b.open' }
  | _, _ => b

/-- The names that joined TO were written whole with 0: they are no longer poisoned (R353, 28 R359). -/
def Me.quotaHeals (m : Me) (s : State) (dst n : Nat) : State :=
  match m.blk.roles[dst]? with
  | some t => if t.freed then s else
      (upto (32 * n)).foldl (fun s i => clearRegPoison s m.c m.st.block dst (t.window + i) (upto m.blk.n)) s
  | none => s

/-- `quota` (R191). Log 8 (DESIGN CHOICE). -/
def execQuota (o : SOps) (s : State) : Host.Outcome State Fault Refusal :=
  issue s 0x31 o.hdr.stop { bo := true, ord := true } fun m =>
    let (src, dst, n) := quotaArgs o
    match quotaReason m.blk src dst n with
    | some r => .trap causeQuota (BitVec.ofNat 64 r) s
    | none =>
        if quotaPending s m src dst n then .stall .feWait s
        else if s.ctxValid m.ctx then .done (m.quotaHeals (s.modBlock m.c m.st.block fun b => b.quota src dst n none) dst n)
        else .done { s.modBlock m.c m.st.block (fun b => b.quota src dst n (some s.freeCount)) with
                     freeCount := s.freeCount + 1 }

/-! ### Gang (R192) -/

/-- The slots that hold a strand of a block. -/
def slotsOf (cl : Cluster) (block : Nat) : Nat :=
  (cl.strands.filter fun p => p.2.block == block).foldl (fun n p => n + 2 ^ p.1) 0

/-- `gang` (R192). -/
def execGang (o : SOps) (s : State) : Host.Outcome State Fault Refusal :=
  issue s 0x32 o.hdr.stop (sUses o true true false false) fun m =>
    let memb := m.st.regs.get o.sa &&& 0xFF
    .done (m.setRegs s fun r =>
      { r.put o.sd (memb &&& BitVec.ofNat 64 (slotsOf (s.cluster m.c) m.st.block)) with gang := memb })

/-! ### Checksum (R193) -/

/-- One bit of the CRC-64/ECMA-182 register. -/
def crcBit (r : BitVec 64) (b : Bool) : BitVec 64 :=
  if r.getLsbD 63 != b then (r <<< 1) ^^^ 0x42F0E1EBA9EA3693 else r <<< 1

/-- A byte, most significant bit first. -/
def crcByte (r : BitVec 64) (b : Byte) : BitVec 64 :=
  [7, 6, 5, 4, 3, 2, 1, 0].foldl (fun r i => crcBit r (b.getLsbD i)) r

/-- CRC-64/ECMA-182 of bytes. -/
def crc64 (bs : List Byte) : BitVec 64 := bs.foldl crcByte 0

/-- `cksum` (R193). -/
def execCksum (o : SOps) (s : State) : Host.Outcome State Fault Refusal :=
  issue s 0x33 o.hdr.stop { sUses o true true true false with ord := true } fun m =>
    let a := (m.st.regs.get o.sa).toNat
    let n := (m.st.regs.get o.sb).toNat
    if 0 < n && m.blk.scratchLen < a + n then .trap causeAccess (addrInfo 0 a) s
    else scratchGate s m a n true fun _ => .done (lateScalar s m o.sd (some (crc64 (readBytes m.blk.scratch a n))))

end Sys2Proof.Machine
end

