-- ==== Sys2Proof/Machine/Engines.lean ====
section
/-!
DEFINITION. Jobs of the copy, gather and sort engines (11 R172-R182) and the events of a job and of the tile engine.
-/
namespace Sys2Proof.Machine

/-! ### Job cards (R173-R176) -/

/-- A region word (R175): none where it breaks the rule, `some none` where it declares nothing. -/
def regionWord (w : Nat) : Option (Option Region) :=
  if !bitOf w 63 then (if w == 0 then some none else none)
  else
    let l := bitsOf w 61 56
    let base := bitsOf w 50 0 * 64
    if 6 ≤ l && l ≤ 57 && bitsOf w 55 51 == 0 && base % 2 ^ l == 0 then
      some (some { scratch := bitOf w 62, base := base, len := 2 ^ l })
    else none

/-- Read and write regions of a footprint block. -/
def footprint (bs : List Byte) : Option (List Region × List Region) :=
  let ws := (upto 8).map fun i => regionWord (fieldAt bs (8 * i) 8)
  if ws.any Option.isNone then none
  else some (((ws.take 4).filterMap Option.join), ((ws.drop 4).filterMap Option.join))

def Region.meets (a b : Region) : Bool := a.scratch == b.scratch && overlaps a.base a.len b.base b.len

/-- Regions of two jobs that are compared and overlap (R179). -/
def regionsMeet (sameCtx sameBlock : Bool) (a b : List Region) : Bool :=
  a.any fun x => b.any fun y => x.meets y && (if x.scratch then sameBlock else sameCtx)

/-- Element sizes an operation of an engine takes; none where the engine has no such operation (R176). -/
def jobSizes (e : Eng) (opc : Nat) : Option (List Nat) :=
  match e, opc with
  | .copy, 1 => some [0, 1, 2, 3, 4]
  | .gather, 2 | .gather, 3 => some [0, 1, 2, 3, 4]
  | .sort, 4 | .sort, 6 => some [2]
  | .sort, 5 => some [3]
  | _, _ => none

/-- The reason a card is refused for, the lowest that holds (R178), or its footprint. -/
def cardReason (b : Block) (e : Eng) (th : Nat) (card fp : List Byte) : Nat ⊕ (List Region × List Region) :=
  let opc := fieldAt card 0 1
  let esz := fieldAt card 1 1
  let cmpl := fieldAt card 2 1
  let cth := fieldAt card 3 1
  let ixb := fieldAt card 6 2
  let cpl := fieldAt card 8 8
  match jobSizes e opc with
  | none => .inl 0x10
  | some sizes =>
      if !sizes.contains esz || 16 ≤ cth then .inl 0x11
      else if 2 < cmpl || (cmpl == 1 && !barrierAt b cpl) || (cmpl == 2 && cpl % 8 != 0)
          || (opc == 2 || opc == 3) != (ixb != 0) then .inl 0x12
      else match footprint fp with
        | none => .inl 0x13
        | some (r, w) =>
            if cth != th then .inl 0x14
            else if regionsMeet true true r w then .inl 0x15
            else .inr (r, w)

/-! ### `job`, `jwait`, `jpoll` (R177-R180) -/

/-- Scratchpad bytes an instruction reads as a strand does, once they lie in the block's scratchpad. -/
def withReads (s : State) (m : Me) (rs : List (Nat × Nat)) (k : Unit → Eff) : Eff :=
  if m.st.fenced 0 || rs.any fun r => scratchBusy s m r.1 r.2 || sentBusy s m r.1 r.2 then .stall .range s
  else match rs.findSome? fun r => scratchPoison s m.c m.st.block r.1 r.2 with
    | some w => .trap causeEcc (storageLocation 1 m.c w) s
    | none => k ()

/-- The jobs in flight that a new job waits for (R179). Log 33 (DEDUCED). -/
def jobEdges (cl : Cluster) (ctx block : Nat) (r w : List Region) : List Nat :=
  (cl.jobs.filter fun j =>
    let meet := regionsMeet (j.ctx == ctx) (j.block == block)
    meet r j.writes || meet w j.reads || meet w j.writes).map Job.id

/-- The job is issued: its entry, its ticket, its record. -/
def addJob (s : State) (m : Me) (o : EOps) (card : Nat) (bs : List Byte) (r w : List Region) (current : Nat) : State :=
  let cl := s.cluster m.c
  let t := m.blk.tickets + 1
  let j : Job :=
    { id := cl.nextId, block := m.st.block, ctx := m.ctx, ticket := t, slot := m.k, eng := o.eng, card := card,
      opc := fieldAt bs 0 1, esz := fieldAt bs 1 1, cmpl := fieldAt bs 2 1, ixb := 64 * fieldAt bs 6 2,
      cpl := fieldAt bs 8 8, reads := r, writes := w, origin := m.k, site := m.siteOrd s,
      edges := jobEdges cl m.ctx m.st.block r w, started := false, src := [], dst := [], ixs := [], got := [],
      wrote := [], faults := [], current := current, th := o.th.toNat }
  let s := s.setCluster m.c { cl with jobs := cl.jobs ++ [j], nextId := cl.nextId + 1 }
  let s := s.modBlock m.c m.st.block fun b => { b with tickets := t }
  let s := m.setRegs s fun regs => regs.put o.sd (BitVec.ofNat 64 t)
  jobRecord s m.c 0 0 j

/-- `job` once its card has passed (R178): room is wanted in the range scoreboard first, in code order (15 R239). -/
def issueJob (s : State) (m : Me) (o : EOps) (card : Nat) (bs : List Byte) (r w : List Region) : Eff :=
  let cl := s.cluster m.c
  let used := (cl.jobs.map fun j => (j.writes.filter Region.scratch).length).foldl (· + ·) 0
  if Config.rangeEntries < used + (w.filter Region.scratch).length then .stall .range s
  else if Config.schedulerJobs ≤ cl.jobs.length then .stall .engine s
  else
    let esz := fieldAt bs 1 1
    let n := fieldAt bs 48 2 * fieldAt bs 50 2 * fieldAt bs 52 2 * 2 ^ esz
    let h := if n < 65536 then (0, 0) else m.header s o.th
    m.admission (if n < 65536 then s else headerRead s m.blk m.st.role o.th.toNat) h fun i s => .done (addJob s m o card bs r w i)

/-- The effect of `job` (R178): job faults first (R181), then the card, whose bytes stand before the footprint block is known. -/
def jobEff (s : State) (m : Me) (o : EOps) : Eff :=
  match jobFault? s m with
  | some e => e
  | none =>
      let c := (m.st.regs.get o.sc).toNat
      if c % 64 != 0 then .trap causeMisalign (addrInfo 0 c) s
      else if !m.blk.holds c 64 then .trap causeAccess (addrInfo 0 c) s
      else withReads s m [(c, 16), (c + 48, 6)] fun _ =>
        let bs := readBytes m.blk.scratch c 64
        let f := 64 * fieldAt bs 4 2
        if !m.blk.holds f 64 then .trap causeAccess (addrInfo 0 f) s
        else withReads s m [(f, 64)] fun _ =>
          match cardReason m.blk o.eng o.th.toNat bs (readBytes m.blk.scratch f 64) with
          | .inl r => .trap causeAccess (payload [(48, 0), (8, r)]) s
          | .inr (r, w) => issueJob s m o c bs r w

def execJob (o : EOps) (s : State) : Host.Outcome State Fault Refusal :=
  issue s 0xEF o.hdr.stop { ord := true, src := [(o.sc, o.hdr.wfa)], dst := [o.sd] } fun m => jobEff s m o

/-- A ticket of the block is in flight. -/
def inFlight (s : State) (m : Me) (t : Nat) : Bool := (s.cluster m.c).jobs.any fun j => j.block == m.st.block && j.ticket == t

/-- The effect of an instruction on a ticket (R180, R181). -/
def withTicket (s : State) (m : Me) (o : EOps) (op : Nat) (k : Nat → Eff) : Eff :=
  match jobFault? s m with
  | some e => e
  | none =>
      let t := (m.st.regs.get o.sc).toNat
      if m.blk.tickets < t then .trap causeIllSync (opInfo op) s else k t

def execJwait (o : EOps) (s : State) : Host.Outcome State Fault Refusal :=
  issue s 0xF0 o.hdr.stop { ord := true, src := [(o.sc, o.hdr.wfa)] } fun m =>
    withTicket s m o 0xF0 fun t => if inFlight s m t then .stall .engine s else .done s

def execJpoll (o : EOps) (s : State) : Host.Outcome State Fault Refusal :=
  issue s 0xF1 o.hdr.stop { ord := true, src := [(o.sc, o.hdr.wfa)], dst := [o.sd] } fun m =>
    withTicket s m o 0xF1 fun t => .done (m.setRegs s fun r => r.put o.sd (boolWord !(inFlight s m t)))

/-! ### Jobs in flight (R176, R179, R181, R182) -/

/-- The tracker's entries after a piece of work is done. -/
def untrack (s : State) (c : Nat) (f : Tracked → Tracked) : State :=
  s.modCluster c fun cl => { cl with tracker := cl.tracker.map f }

/-- A job of a cluster by block and ticket. -/
def jobAt (s : State) (c b ticket : Nat) : Option Job :=
  (s.cluster c).jobs.find? fun j => j.block == b && j.ticket == ticket

def setJob (s : State) (c : Nat) (j : Job) : State :=
  s.modCluster c fun cl => { cl with jobs := cl.jobs.map fun x => if x.id == j.id then j else x }

/-! #### Jobs in a stopped cluster (R182, 23 R297) -/

/-- Elements of a 4 KiB chunk of the destination. -/
def Job.perChunk (j : Job) : Nat := 4096 / 2 ^ j.esz

/-- The chunk of an element has been begun. -/
def Job.begun (j : Job) (i : Nat) : Bool := j.wrote.any fun p => p.1 / j.perChunk == i / j.perChunk

/-- A chunk has been begun and is not whole: the job has not reached the point at which it stops. -/
def Job.partial' (j : Job) : Bool :=
  j.started && j.faults.isEmpty && j.wrote.any fun p =>
    let k := p.1 / j.perChunk
    (j.wrote.filter fun q => q.1 / j.perChunk == k).length < min j.perChunk (j.total - k * j.perChunk)

/-- The jobs that a stopped cluster carries on with: those that a tracker entry of the stopped context waits for (12 R194), and
those that these wait for in turn. Log 38 (DEDUCED). -/
def drainingJobs (s : State) (c ctx : Nat) : List Nat :=
  let cl := s.cluster c
  let bs := cl.blocksOf ctx
  let tracked := ((cl.tracker.filter fun t => bs.contains t.block).map Tracked.jobs).flatten
  cl.jobs.reverse.foldl (fun need j =>
    if need.contains j.id || (serialMode s c && need.any fun i => j.id < i) then need ++ j.id :: j.edges else need) tracked

/-- The job starts, runs on and retires, although its cluster may have been stopped. -/
def jobMayRun (s : State) (c : Nat) (j : Job) : Bool :=
  match (s.cluster c).stopping with
  | none => true
  | some ctx => (drainingJobs s c ctx).contains j.id

/-! #### The start (R179) -/

/-- What the issuing strand sent before the job is not all performed (R180). Once the strand has ended its tracker entry names it
and what it sent. -/
def sentBefore (cl : Cluster) (j : Job) : Bool :=
  let strand := match cl.strands.get? j.slot with
    | some st => st.block == j.block && st.out.any fun a => a.id < j.id
    | none => false
  let mine := (cl.tracker.filter fun t => t.jobs.contains j.id).map Tracked.strand
  let entries := cl.tracker.filter fun t => mine.contains t.strand
  strand || (cl.orphans.any fun o => mine.contains o.strand && o.access.id < j.id)
    || (cl.landings.any fun l => l.block == j.block && l.id < j.id
      && (l.slot == j.slot && j.slot != 8 || entries.any fun t => t.landings.contains l.id))
    || (cl.tileOps.any fun t => t.block == j.block && (t.reads || t.writes) && t.id < j.id
      && (t.slot == j.slot && j.slot != 8 || entries.any fun e => e.tiles.contains t.id))

/-- The job as an agent whose accesses the early ones of others may hold back (14 R228). -/
def jobOwed (s : State) (c : Nat) (j : Job) (space : Option Nat) (a n : Nat) : Bool := owedSoft s c 9 j.block space a n

/-- The job reaches bytes. -/
def jobTouch (s : State) (c : Nat) (j : Job) (space : Option Nat) (a n : Nat) : State := touch s c 9 j.block space a n

/-- JOB_START (R179): the job reads its descriptors. Log 33 (DEDUCED). -/
def jobStarts (c b ticket : Nat) (s : State) : Option State :=
  match jobAt s c b ticket, s.block? c b with
  | some j, some blk =>
      if j.started || !j.edges.isEmpty || sentBefore (s.cluster c) j || !jobMayRun s c j
          || jobOwed s c j (some b) (j.card + 16) 48 then none
      else match scratchPoison s c b (j.card + 16) 48 with
        | some w => some (fatal s c causeEcc j.ctx (storageLocation 1 c w))
        | none =>
            let j := { j with started := true, src := readBytes blk.scratch (j.card + 16) 24,
                              dst := readBytes blk.scratch (j.card + 40) 24 }
            some (jobRecord (setJob (jobTouch s c j (some b) (j.card + 16) 48) c j) c 1 0 j)
  | _, _ => none

def execJobStart (c b ticket : Nat) (s : State) : Host.Outcome State Fault Refusal := happen s (jobStarts c b ticket s)

/-! #### One access (R176, R181, 14 R217) -/

/-- The physical address or scratchpad offset of an access, with whether it reaches a line that caches hold (25 R330), or the cause
and address of the fault it takes (R181); poison that it would read gives ECC with its location (28 R359). -/
def jobPlace (s : State) (c : Nat) (b : Block) (j : Job) (a : JobAccess) : (Nat × Bool) ⊕ (Nat × Nat) :=
  if !j.inside a then .inr (causeFootprint, a.addr % 2 ^ 32)
  else if a.scratch then
    if !b.holds a.addr a.bytes then .inr (causeAccess, a.addr % 2 ^ 32)
    else match (if a.write then none else scratchPoison s c j.block a.addr a.bytes) with
      | some w => .inr (causeEcc, (storageLocation 1 c w).toNat)
      | none => .inl (a.addr, false)
  else match checkDirect s j.ctx (if a.write then .store false else .load) a.addr with
    | .ok pa leaf =>
        if !a.write && poisonedAt s pa then .inr (causeEcc, (physLocation pa).toNat) else .inl (pa, leafShared leaf)
    | .trap f => .inr (f, a.addr % 2 ^ 32)
    | .miss _ => .inr (causePagefault, a.addr % 2 ^ 32)

/-- A write to the scratchpad waits for what strands sent there before the job was issued (13 R215). -/
def olderMeets (cl : Cluster) (j : Job) (p n : Nat) : Bool :=
  let meets := fun (a : Access) => a.id < j.id && a.space == some j.block && overlaps a.pa a.bytes p n
  (cl.strands.any fun q => q.2.out.any meets) || cl.orphans.any fun o => meets o.access

/-- An access whose place is known waits: for another agent's order, for older accesses of strands, or for its memory port. -/
def jobWaits (s : State) (c : Nat) (j : Job) (a : JobAccess) (p : Nat) : Bool :=
  if a.scratch then jobOwed s c j (some j.block) p a.bytes || (a.write && olderMeets (s.cluster c) j p a.bytes)
  else jobOwed s c j none p a.bytes || !portReady s p || !linkFree s c p

/-- The job after a part that read a number, or wrote its element. An index that a scatter skips is done (R176). -/
def Job.after (j : Job) (p : JobPart) (v : Nat) : Job :=
  match p with
  | .index i => { j with ixs := j.ixs.set i v, wrote := if j.opc == 3 && j.dd.count ≤ v then j.wrote.set i v else j.wrote }
  | .source i => { j with got := j.got.set i v }
  | .write i => { j with wrote := j.wrote.set i ((j.value i).getD (i, 0)).1 }

/-- The job stops with a fault: cause and TINFO[63:32] (R181); poison ends its context. -/
def stopJob (s : State) (c : Nat) (j : Job) (f : Nat × Nat) : State :=
  if f.1 == causeEcc then fatal s c causeEcc j.ctx (BitVec.ofNat 64 f.2)
  else
    let j := { j with faults := j.faults ++ [f] }
    jobRecord (setJob s c j) c 3 f.1 j

/-- An access of a job takes place. -/
def jobAccessDone (s : State) (c : Nat) (b : Block) (j : Job) (p : JobPart) (a : JobAccess) (pa : Nat) (shared : Bool) : State :=
  let s := jobTouch (if a.scratch then s else shareLine s shared pa) c j (if a.scratch then some j.block else none) pa a.bytes
  if a.write then
    let v := ((j.value p.element).getD (0, 0)).2
    setJob (if a.scratch then scratchWrite s c j.block pa (leBytes a.bytes v) else storeNat s pa a.bytes v) c (j.after p 0)
  else setJob s c (j.after p (if a.scratch then readNat b.scratch pa a.bytes else seenNat s pa a.bytes))

/-- A job in flight makes one of the accesses that are due, or stops at it. In a stopped cluster it goes on within the chunks
that it has begun (R182). Log 24 (DEDUCED), 33 (DEDUCED). -/
def jobPart (c b ticket : Nat) (p : JobPart) (s : State) : Option State :=
  match jobAt s c b ticket, s.block? c b with
  | some j, some blk =>
      if !j.started || !j.faults.isEmpty || j.malformed || !(jobMayRun s c j || j.begun p.element) then none
      else (j.access p).bind fun a =>
        match jobPlace s c blk j a with
        | .inr f => some (stopJob s c j f)
        | .inl (pa, shared) => if jobWaits s c j a pa then none else some (jobAccessDone s c blk j p a pa shared)
  | _, _ => none

/-- JOB_FAULT (R181): a started job breaks R174 or the counts of R176, or the access that comes next takes a fault. The elements it
has written are new and the others old. Log 33 (DEDUCED). -/
def jobFaults (c b ticket : Nat) (s : State) : Option State :=
  match jobAt s c b ticket, s.block? c b with
  | some j, some blk =>
      if !j.started || !j.faults.isEmpty then none
      else if j.malformed then some (stopJob s c j (causeDesc, j.card))
      else j.next.bind fun p => (j.access p).bind fun a =>
        match jobPlace s c blk j a with
        | .inr _ => jobPart c b ticket p s
        | .inl _ => none
  | _, _ => none

def execJobFault (c b ticket : Nat) (s : State) : Host.Outcome State Fault Refusal := happen s (jobFaults c b ticket s)

/-! #### Retirement (R179-R181) -/

/-- The completion object is signalled; a completion that cannot be made is a fault (R180, R181). Log 33 (DEDUCED). -/
def jobComplete (s : State) (c : Nat) (b : Block) (j : Job) : State × Option (Nat × Nat) :=
  match j.cmpl with
  | 1 =>
      let w := readNat b.scratch j.cpl 8
      if barExp w < barArr w + 1 then (s, some (causeIllSync, j.cpl % 2 ^ 32))
      else (barStep (jobTouch s c j (some j.block) j.cpl 8) c j.block j.cpl 1 0, none)
  | 2 => match checkDirect s j.ctx (.store false) j.cpl with
      | .ok pa leaf =>
          let s := jobTouch s c j none pa 8
          (shareLine (storeNat s pa 8 ((seenNat s pa 8 + 1) % 2 ^ 64)) (leafShared leaf) pa, none)
      | .trap f => (s, some (if f == causePagefault then f else causeAccess, j.cpl % 2 ^ 32))
      | .miss _ => (s, some (causePagefault, j.cpl % 2 ^ 32))
  | _ => (s, none)

/-- The completion object may be reached: no agent's order and no memory port keeps the job from it. -/
def completionReady (s : State) (c : Nat) (j : Job) : Bool :=
  match j.cmpl with
  | 1 => !jobOwed s c j (some j.block) j.cpl 8
  | 2 => match checkDirect s j.ctx (.store false) j.cpl with
    | .ok pa _ => !jobOwed s c j none pa 8 && portReady s pa && linkFree s c pa
    | _ => true
  | _ => true

/-- Poison in a completion object that is added to ends the context (28 R359). -/
def completionPoison (s : State) (c : Nat) (j : Job) : Option Word :=
  match j.cmpl with
  | 1 => (scratchPoison s c j.block j.cpl 8).map (storageLocation 1 c)
  | 2 => match checkDirect s j.ctx (.store false) j.cpl with
    | .ok pa _ => if poisonedAt s pa then some (physLocation pa) else none
    | _ => none
  | _ => none

/-- A fault of a job reaches its issuer, which may be an inline callee of its strand, or where that has tailed or ended the strand of the block that takes it in its place, or,
with none left, the grid's completion status (R181, 12 R202). -/
def deliverFault (s : State) (c : Nat) (b : Block) (j : Job) (f : Nat × Nat) : State :=
  let fault : JobFault := { ticket := j.ticket, cause := f.1, info := f.2, orphan := false, mid := false, later := false }
  match (s.strand? c j.slot).filter fun st => st.block == j.block && !st.tailed && !st.faultOrphan j.id with
  | some _ => s.modStrand c j.slot fun st => st.takeFault j.id fault
  | none => orphanFault s c j.block b.grid fault

/-- In serial mode jobs of a cluster complete in order (15 R238). -/
def serialFirst (s : State) (c : Nat) (j : Job) : Bool :=
  !serialMode s c || ((s.cluster c).jobs.head?.map Job.id) == some j.id

/-- The job is over: its entries are free, jobs that waited for it do not, and its faults reach a strand. A fault of the
completion is recorded where it is found (26 R336). -/
def releaseJob (s : State) (c : Nat) (b : Block) (j : Job) (late : Option (Nat × Nat)) : State :=
  let s := match late with
    | some f => jobRecord s c 3 f.1 j
    | none => s
  let s := (j.faults ++ late.toList).foldl (fun s f => deliverFault s c b j f) s
  let s := s.modCluster c fun cl =>
    { cl with jobs := (cl.jobs.filter fun x => x.id != j.id).map fun x => { x with edges := x.edges.filter fun e => e != j.id } }
  let s := untrack s c fun t => { t with jobs := t.jobs.filter fun i => i != j.id }
  jobRecord (releaseCurrent (dropDebts s c fun i => i == j.id) c j.current) c 2 0 j

/-- JOB_RETIRE (R179-R181): every element has been written, or the job has stopped; it completes and is released.
Log 33 (DEDUCED). -/
def jobRetires (c b ticket : Nat) (s : State) : Option State :=
  match jobAt s c b ticket, s.block? c b with
  | some j, some blk =>
      if !j.started || !jobMayRun s c j || !serialFirst s c j || !completionReady s c j
          || (j.faults.isEmpty && (j.malformed || !j.done)) then none
      else match completionPoison s c j with
        | some loc => some (fatal s c causeEcc j.ctx loc)
        | none =>
            let (s, late) := jobComplete s c blk j
            some (releaseJob s c blk j late)
  | _, _ => none

def execJobRetire (c b ticket : Nat) (s : State) : Host.Outcome State Fault Refusal := happen s (jobRetires c b ticket s)

/-! ### The tile engine (R155) -/

/-- TILE_ENGINE_DONE (R155): the run or access is over; in serial mode the oldest ends first (15 R238). -/
def tileEngineDone (c id : Nat) (s : State) : Option State :=
  ((s.cluster c).tileOps.find? fun t => t.id == id).bind fun t =>
    if serialMode s c && (s.cluster c).tileOps.any fun x => x.id < id then none
    else
      let s := s.modCluster c fun cl => { cl with tileOps := cl.tileOps.filter fun x => x.id != id }
      let s := untrack s c fun x => { x with tiles := x.tiles.filter fun i => i != id }
      some (releaseCurrent (dropDebts s c fun i => i == id) c t.current)

def execTileEngineDone (c id : Nat) (s : State) : Host.Outcome State Fault Refusal := happen s (tileEngineDone c id s)

end Sys2Proof.Machine
end

