-- ==== Sys2Proof/Machine/Bank.lean ====
section
/-!
DEFINITION. `bmv`: the bank descriptor, its checks, the product and its end (11 R183-R187).
-/
namespace Sys2Proof.Machine

/-! ### The descriptor (R184) -/

/-- A bank descriptor, read. -/
structure BankDesc where
  wbase : Nat
  xadr : Nat
  yadr : Nat
  rows : Nat
  cols : Nat
  sadr : Nat
  wfs : BitVec 3
  reg : Bool
  acc : Bool
  reserved : Bool
  deriving DecidableEq, Repr

/-- The descriptor in 32 bytes. -/
def bankDesc (bs : List Byte) : BankDesc :=
  let f := fieldAt bs 28 1
  let mode := fieldAt bs 29 1
  { wbase := fieldAt bs 0 8, xadr := fieldAt bs 8 4, yadr := fieldAt bs 12 4, rows := fieldAt bs 16 4,
    cols := fieldAt bs 20 4, sadr := fieldAt bs 24 4, wfs := BitVec.ofNat 3 f, reg := bitOf mode 0, acc := bitOf mode 1,
    reserved := f / 8 != 0 || mode / 4 != 0 || fieldAt bs 30 2 != 0 }

/-- The descriptor an instruction names. -/
def Me.bankDesc (m : Me) (o : TOps) : BankDesc :=
  Sys2Proof.Machine.bankDesc (readBytes m.blk.scratch (m.st.regs.get o.sb).toNat 32)

/-- Width of a weight, bits. -/
def bankWidth (b : Block) (d : BankDesc) : Nat := slotWidth (b.fmt d.wfs)

/-- Bytes of an element of x. -/
def bankXBytes (ty : MatTy) : Nat := if ty == .slot then 1 else 2

/-- Scale entries of the weights: bytes, and entries in a row (R186). -/
def bankScale (b : Block) (d : BankDesc) : Nat × Nat :=
  match slotScale (b.fmt d.wfs) with
  | 2 => (1, d.cols / 64)
  | 3 => (4, 1)
  | _ => (0, 0)

/-- Reason 0x22: ROWS, COLS or reserved bits; reason 0x21: the slots (R185). Log 34 (DEDUCED). -/
def bankReason (b : Block) (ty : MatTy) (o : TOps) (d : BankDesc) : Option Nat :=
  let w := bankWidth b d
  let x := b.fmt o.fsa
  if d.rows < 1 || 65536 < d.rows || d.cols < 1 || 65536 < d.cols || d.reserved then some 0x22
  else if w != 4 && w != 8 then some 0x21
  else if ty == .slot && (slotWidth x != 8 || 1 < slotScale x) then some 0x21
  else if d.cols % (if w == 4 then 256 else 128) != 0 then some 0x22
  else none

/-- Bytes of the weights. -/
def bankBytes (b : Block) (d : BankDesc) : Nat := d.rows * (d.cols * bankWidth b d / 8)

/-- The pages the weights meet: an address in each. -/
def bankPages (b : Block) (d : BankDesc) : List Nat :=
  let n := (d.wbase + bankBytes b d - 1) / 4096 - d.wbase / 4096 + 1
  (upto n).map fun i => if i == 0 then d.wbase else (d.wbase / 4096 + i) * 4096

/-- The scratchpad arrays: x, the scales, and y in scratchpad mode. -/
def bankArrays (b : Block) (ty : MatTy) (d : BankDesc) : List MemArray :=
  let (e, per) := bankScale b d
  [{ addr := d.xadr, len := d.cols * bankXBytes ty, align := bankXBytes ty },
    { addr := d.sadr, len := d.rows * per * e, align := max 1 e },
    { addr := d.yadr, len := if d.reg then 0 else 4 * d.rows, align := 4 }]

/-- A page of the weights that is no weight-store page of the right layout (R185 reason 0x20). -/
def bankPageBad (b : Block) (d : BankDesc) (pa leaf : Nat) : Bool :=
  !isWeight pa || pteWl leaf != (if bankWidth b d == 4 then 2 else 3)

/-! ### Issue (R185) -/

/-- A descriptor-fault trap. -/
def bankTrap (s : State) (r : Nat) : Eff := .trap causeAccess (payload [(48, 0), (8, r)]) s

/-- The threads whose registers take part in register mode. -/
def Me.bankThreads (m : Me) (s : State) (d : BankDesc) : List Nat := if d.reg then (m.acting s false).take d.rows else []

/-- Register mode with ACT empty: past its descriptor the instruction accesses no memory (R9, R186). -/
def Me.bankBare (m : Me) (s : State) (d : BankDesc) : Bool := d.reg && (m.bankThreads s d).isEmpty

/-- The checks of the arrays, in ascending address order, and the range scoreboard: the strand's own accesses do not hold them up
(R185, R187, 14 R221). -/
def withRanges (s : State) (m : Me) (arrs : List MemArray) (k : Unit → Eff) : Eff :=
  let arrs := (arrs.filter fun a => a.len != 0) |> sortBy MemArray.addr
  match arrs.find? fun a => !a.fits m.blk with
  | some a => .trap (if a.addr % a.align != 0 then causeMisalign else causeAccess) (addrInfo 0 a.addr) s
  | none => if arrs.any fun a => rangeBusy s m a.addr a.len then .stall .range s else k ()

/-- The effect of `bmv` once its descriptor has been read and checked: physical addresses of the pages of its weights.
Log 34 (DEDUCED). -/
def withBank (s : State) (m : Me) (ty : MatTy) (o : TOps) (k : BankDesc → List Nat → Eff) : Eff :=
  let p := (m.st.regs.get o.sb).toNat
  let d := m.bankDesc o
  if p % 8 != 0 then .trap causeMisalign (addrInfo 0 p) s
  else if !m.blk.holds p 32 then .trap causeAccess (addrInfo 0 p) s
  else withReads s m [(p, 32)] fun _ =>
    if !m.bankBare s d && 2 ^ 57 ≤ d.wbase then .trap causeAccess (addrInfo 0 d.wbase) s
    else if !m.bankBare s d && d.wbase % 128 != 0 then .trap causeMisalign (addrInfo 0 d.wbase) s
    else match bankReason m.blk ty o d with
      | some r => bankTrap s r
      | none =>
          if m.bankBare s d then k d []
          else withRanges s m (bankArrays m.blk ty d) fun _ =>
            let pages := bankPages m.blk d
            match translateAll s m .load 1 noAlso ((upto pages.length).zip pages) with
            | .trap _ va c => .trap c (addrInfo 0 va) s
            | .walk t page => waitWalk s m false t page
            | .ok l =>
                match l.find? fun q => bankPageBad m.blk d q.2.1 q.2.2 with
                | some _ => bankTrap s 0x20
                | none => k d (l.map fun q => q.2.1 / 4096 * 4096)

/-- The descriptor is read and has passed its own checks, so that its MODE counts (R185). -/
def Me.bankRead (m : Me) (s : State) (ty : MatTy) (o : TOps) : Bool :=
  let p := (m.st.regs.get o.sb).toNat
  let d := m.bankDesc o
  p % 8 == 0 && m.blk.holds p 32 && !m.st.fenced 0 && !scratchBusy s m p 32 && !sentBusy s m p 32
    && (scratchPoison s m.c m.st.block p 32).isNone
    && (m.bankBare s d || (d.wbase < 2 ^ 57 && d.wbase % 128 == 0)) && (bankReason m.blk ty o d).isNone

/-- What `bmv` uses: VA, and the population, in register mode alone (R183), which a descriptor that has passed its checks gives. -/
def bankUses (s : State) (ty : MatTy) (o : TOps) (m : Me) : Uses :=
  let d := m.bankDesc o
  let src := [(o.sb, o.hdr.wfb)]
  if d.reg && !m.st.regs.isEmpty o.sb && m.bankRead s ty o then
    { bo := true, sets := true, ord := true, src := src
      names := (if d.acc then [{ name := o.va, count := 1, write := false, wf := o.hdr.wfa }] else [])
        ++ [{ name := o.va, count := 1, write := true, wf := false }]
      only := some (setOf (m.bankThreads s d)) }
  else { ord := true, src := src }

/-- `bmv` begins: in register mode with its entry and the previous y. Log 34 (DEDUCED). -/
def beginBank (s : State) (m : Me) (sat : Bool) (ty : MatTy) (o : TOps) (d : BankDesc) (pages : List Nat) (current : Nat) :
    State :=
  let ts := m.bankThreads s d
  let (s, entry) := if d.reg then
      (let r := takeEntry s m o.va.toNat 1 ts []
       (r.1, some r.2))
    else (s, none)
  s.modCluster m.c fun cl =>
    { cl with
      bankOps := cl.bankOps ++ [{
        id := cl.nextId, slot := m.k, block := m.st.block, reg := d.reg, rows := if d.reg then ts.length else d.rows,
        desc := readBytes m.blk.scratch (m.st.regs.get o.sb).toNat 32, pages := pages, site := m.siteKey s o.hdr.stop,
        ops := o, sat := sat, ty := ty, threads := ts, delivery := entry, xs := [], scs := []
        olds := if d.reg then (upto ts.length).zip (ts.map fun t => (m.v o.va.toNat t).toNat) else []
        ys := [], current := current }]
      nextId := cl.nextId + 1 }

/-- Register mode has no entry for its delivery (R19), which is the first of the reasons to wait (15 R239). -/
def bankWaits (s : State) (m : Me) (o : TOps) : Bool :=
  let d := m.bankDesc o
  d.reg && !m.bankBare s d && noEntry s m

/-- `bmv` is admitted and begins; with ACT empty it is over, and the census has counted it. Log 34 (DEDUCED). -/
def execBmv (sat : Bool) (ty : MatTy) (o : TOps) (s : State) : Host.Outcome State Fault Refusal :=
  issueBy s 0xE9 o.hdr.stop (bankUses s ty o) fun m =>
    Eff.orFor (holds := m.bankRead s ty o && bankWaits s m o) (r := .feWait) <|
    withBank s m ty o fun d pages =>
      if bankWaits s m o then .stall .feWait s
      else m.admission (headerRead s m.blk m.st.role o.th.toNat) (m.header s o.th) fun i s =>
        if m.bankBare s d then
          .done (releaseCurrent (countCensus s m.c m.ctx [(m.siteKey s o.hdr.stop, siteCounts [])]) m.c i)
        else .done (beginBank s m sat ty o d pages i)

/-! ### The product (R186) -/

/-- Bit position of weight `j` of a row: natural order for 8 bits, consumption order for 4 (R184, 02 R34). -/
def weightBit (w j : Nat) : Nat :=
  if w == 8 then 8 * j else 1024 * (j / 256) + 4 * (16 * (j % 16) + j % 256 / 16)

/-- Row `i` of the weights as a number. -/
def weightRow (s : State) (d : BankDesc) (pages : List Nat) (w i : Nat) : Nat :=
  let n := d.cols * w / 8
  leNat ((upto n).map fun k =>
    let a := d.wbase + i * n + k
    readByte s.mem ((pages[a / 4096 - d.wbase / 4096]?).getD 0 + a % 4096))

/-- The value of weight k of row i with its scale, from the scale entries that have been read. -/
def weightValue (b : Block) (d : BankDesc) (scs : SMap Nat) (row i k : Nat) : FVal :=
  let f := b.fmt d.wfs
  let v := slotValue f (row / 2 ^ weightBit (slotWidth f) k % 2 ^ slotWidth f)
  let (e, per) := bankScale b d
  if slotScale f == 0 then v
  else v.mul (slotFactor f ((b.scales[d.wfs.toNat]?).getD 0)
    (BitVec.ofNat 32 ((scs.get? (i * per + if e == 1 then k / 64 else 0)).getD 0)))

/-- x as values, from the elements that have been read. -/
def bankX (b : Block) (op : BankOp) (d : BankDesc) : List FVal :=
  (upto d.cols).map fun k => b.scaled op.ty op.ops.fsa 0 0 (b.elem op.ty op.ops.fsa ((op.xs.get? k).getD 0) 0)

/-- y of a row (R186). -/
def bankRow (s : State) (b : Block) (op : BankOp) (i : Nat) : Rounded :=
  let d := bankDesc op.desc
  let row := weightRow s d op.pages (bankWidth b d) i
  let ws := (upto d.cols).map fun k => weightValue b d op.scs row i k
  elementSum op.sat (matGroup op.ty) (if d.acc then (op.olds.get? i).getD 0 else 0) (products ws (bankX b op d))

/-! ### The accesses of a run (R186, R187, 14 R217) -/

/-- Everything a row depends on has been read. -/
def BankOp.rowReady (op : BankOp) (b : Block) (d : BankDesc) (i : Nat) : Bool :=
  let per := (bankScale b d).2
  (op.xs.length == d.cols) && (upto per).all (fun k => (op.scs.get? (i * per + k)).isSome)
    && (!d.acc || (op.olds.get? i).isSome)

/-- The strand of a `bmv`: its number, or none for one that has ended. -/
def bankOwner (cl : Cluster) (op : BankOp) : Option Nat :=
  if op.slot == 8 then (cl.tracker.find? fun t => t.banks.contains op.id).map Tracked.strand
  else (cl.strands.get? op.slot).map Strand.num

/-- An older `bmv` of the strand that writes an overlapping y is under way (R187, 14 R221). -/
def bankBehind (cl : Cluster) (op : BankOp) : Bool :=
  let d := bankDesc op.desc
  !op.reg && cl.bankOps.any fun o =>
    let e := bankDesc o.desc
    o.block == op.block && o.id < op.id && !o.reg && overlaps e.yadr (4 * e.rows) d.yadr (4 * d.rows)
      && bankOwner cl o == bankOwner cl op

/-- The bytes of the scratchpad that a part touches: address and count. -/
def BankOp.touches (op : BankOp) (b : Block) : BankPart → Nat × Nat
  | .x k => ((bankDesc op.desc).xadr + bankXBytes op.ty * k, bankXBytes op.ty)
  | .scale k =>
      let e := (bankScale b (bankDesc op.desc)).1
      ((bankDesc op.desc).sadr + e * k, e)
  | .old i => ((bankDesc op.desc).yadr + 4 * i, 4)
  | .row i => ((bankDesc op.desc).yadr + 4 * i, if op.reg then 0 else 4)

/-- The part is to be done yet, and what it depends on has been. -/
def BankOp.open' (op : BankOp) (b : Block) (p : BankPart) : Bool :=
  let d := bankDesc op.desc
  match p with
  | .x k => k < d.cols && (op.xs.get? k).isNone
  | .scale k => k < op.rows * (bankScale b d).2 && (op.scs.get? k).isNone
  | .old i => d.acc && i < op.rows && (op.olds.get? i).isNone
  | .row i => i < op.rows && (op.ys.get? i).isNone && op.rowReady b d i

/-- A poisoned granule or line that a part reads (28 R359). -/
def bankPoison (s : State) (c : Nat) (b : Block) (op : BankOp) (p : BankPart) : Option Word :=
  if s.poison.isEmpty then none
  else match p with
    | .row i =>
        let d := bankDesc op.desc
        let n := d.cols * bankWidth b d / 8
        ((upto n).findSome? fun k =>
          let a := d.wbase + i * n + k
          let pa := (op.pages[a / 4096 - d.wbase / 4096]?).getD 0 + a % 4096
          if poisonedAt s pa then some pa else none).map physLocation
    | _ =>
        let t := op.touches b p
        (scratchPoison s c op.block t.1 t.2).map (storageLocation 1 c)

/-- The run after a part. -/
def bankDo (s : State) (c : Nat) (b : Block) (op : BankOp) (p : BankPart) : State :=
  let t := op.touches b p
  let put := fun (s : State) (op : BankOp) =>
    s.modCluster c fun cl => { cl with bankOps := cl.bankOps.map fun o => if o.id == op.id then op else o }
  match p with
  | .x k => put s { op with xs := op.xs.set k (readNat b.scratch t.1 t.2) }
  | .scale k => put s { op with scs := op.scs.set k (readNat b.scratch t.1 t.2) }
  | .old i => put s { op with olds := op.olds.set i (readNat b.scratch t.1 t.2) }
  | .row i =>
      let y := bankRow s b op i
      let s := if op.reg then s else scratchWrite s c op.block t.1 (leBytes 4 y.bits)
      put s { op with ys := op.ys.set i (y.bits, bit01 y.sat + 2 * bit01 y.uf) }

/-- A part waits: for an older `bmv`, for another agent's order (14 R228), or for the way to the weights. -/
def bankHeld (s : State) (c : Nat) (b : Block) (op : BankOp) (p : BankPart) : Bool :=
  let t := op.touches b p
  bankBehind (s.cluster c) op || owedSoft s c 9 op.block (some op.block) t.1 t.2
    || match p with | .row _ => op.pages.any (fun pa => !linkFree s c pa) | _ => false

/-- A `bmv` under way makes one of its accesses. Log 24 (DEDUCED), 34 (DEDUCED). -/
def bankPart (c id : Nat) (p : BankPart) (s : State) : Option State :=
  ((s.cluster c).bankOps.find? fun o => o.id == id).bind fun op => (s.block? c op.block).bind fun b =>
    let t := op.touches b p
    if !op.open' b p || bankHeld s c b op p then none
    else match bankPoison s c b op p with
      | some loc => some (fatal s c causeEcc b.ctx loc)
      | none => some (bankDo (touch s c 9 op.block (some op.block) t.1 t.2) c b op p)

/-- The parts of a run in order. -/
def BankOp.parts (op : BankOp) (b : Block) : List BankPart :=
  let d := bankDesc op.desc
  (upto d.cols).map BankPart.x ++ (upto (op.rows * (bankScale b d).2)).map BankPart.scale
    ++ ((upto op.rows).map fun i => [BankPart.old i, .row i]).flatten

/-- The rows a run has made. -/
def BankOp.results (op : BankOp) : List Rounded :=
  op.ys.map fun p => { bits := p.2.1, sat := p.2.2 % 2 == 1, uf := p.2.2 / 2 == 1 }

/-- The run is over: registers get y through its entry, the census counts, and the current is released (R186, R187). -/
def bankFinish (s : State) (c : Nat) (b : Block) (op : BankOp) : State :=
  let s := dropDebts (s.modCluster c fun cl => { cl with bankOps := cl.bankOps.filter fun o => o.id != op.id }) c fun i => i == op.id
  let s := match op.delivery with
    | some e => giveBack s c op.slot 4 (.delivery e op.threads) (op.threads.zip (op.results.map Rounded.bits))
    | none => s
  let s := countCensus s c b.ctx [(op.site, siteCounts op.results)]
  let s := untrack s c fun t => { t with banks := t.banks.filter fun i => i != op.id }
  releaseCurrent s c op.current

/-- BANK_COMPUTE_DONE (R186, R187): the accesses that have not been made are made, and the run is over. In serial mode the oldest
ends first (15 R238). Log 24 (DEDUCED), 34 (DEDUCED). -/
def bankComputeDone (c id : Nat) (s : State) : Option State :=
  ((s.cluster c).bankOps.find? fun o => o.id == id).bind fun op => (s.block? c op.block).bind fun b =>
    if serialMode s c && (s.cluster c).bankOps.any fun o => o.id < id then none
    else
      let s := (op.parts b).foldl (fun s p => (bankPart c id p s).getD s) s
      match (s.cluster c).bankOps.find? fun o => o.id == id with
      | none => some s
      | some op => if op.ys.length == op.rows then some (bankFinish s c b op) else none

def execBankComputeDone (c id : Nat) (s : State) : Host.Outcome State Fault Refusal := happen s (bankComputeDone c id s)

end Sys2Proof.Machine
end

