-- ==== Sys2Proof/Machine/Replies.lean ====
section
/-!
DEFINITION. What comes back to a strand: deliveries, late scalars, counted bytes, performed accesses, walks, watches, timeouts,
timers and trap entry, and what the retirement tracker frees (01 R18, R19, 09 R137, R145, 12 R201, 15 R243, R244, 23 R301,
R302, R308).
-/
namespace Sys2Proof.Machine

/-! ### Deliveries and late scalars (R18, R19) -/

/-- The data of a delivery: its own, or what the `ldsc` that feeds it has received. -/
def Delivery.values (cl : Cluster) (d : Delivery) : SMap (List W32) :=
  match cl.landings.find? fun l => l.delivery == some d.id with
  | some l => l.data.map fun p => (p.1, wordsOf l.bytes p.2)
  | none => d.data

/-- In serial mode fills and replies to a cluster complete in the order of their requests (15 R238). -/
def replyTurn (s : State) (c id : Nat) : Bool :=
  let cl := s.cluster c
  !serialMode s c || ((cl.deliveries.all fun d => id ≤ d.id) && (cl.landings.all fun l => l.delivery.isSome || id ≤ l.id)
    && cl.strands.all fun p => p.2.late.all fun q => id ≤ q.2.1)

/-- The registers of a delivery written in every acting thread. -/
def writeDelivery (s : State) (c : Nat) (d : Delivery) (vals : SMap (List W32)) : State :=
  if d.discard then s
  else (upto d.count).foldl (fun s i =>
    let s := s.modBlock c d.block fun b =>
      b.putReg d.window (d.name + i) (d.threads.map fun t => (t, (((vals.get? t).getD [])[i]?).getD 0))
    clearRegPoison s c d.block d.window (d.name + i) d.threads) s

/-- Bytes of an `ldsc` leave PEND of its barrier word (R137); a poisoned word ends the context (28 R359). -/
def landedBytes (s : State) (c : Nat) (l : Landing) (bytes : Nat) : State :=
  match scratchPoison s c l.block l.word 8 with
  | some w => fatal s c causeEcc ((s.block? c l.block).elim 0 Block.ctx) (storageLocation 1 c w)
  | none => barStep (touch s c l.slot l.block (some l.block) l.word 8) c l.block l.word 0 (-(bytes : Int))

/-- The bytes of an `ldsc` into registers leave PEND (R137). -/
def landDelivery (s : State) (c : Nat) (d : Delivery) : State :=
  match (s.cluster c).landings.find? fun l => l.delivery == some d.id with
  | none => s
  | some l =>
      let s := dropDebts s c fun i => i == l.id
      let s := s.modCluster c fun cl => { cl with landings := cl.landings.filter fun x => x.id != l.id }
      let s := untrack s c fun t => { t with landings := t.landings.filter fun i => i != l.id }
      landedBytes s c l (l.bytes * l.threads.length)

/-- A reply for a delivery, or for the `ldsc` that feeds it, lies in a cellar (25 R325). -/
def deliveryHeld (s : State) (c : Nat) (d : Delivery) : Bool :=
  replyHeld s c 0 (.delivery d.id []) || (s.cluster c).landings.any fun l =>
    l.delivery == some d.id && replyHeld s c 0 (.landing l.id [])

/-- PENDING_DELIVERY (R19): every acting thread is written and the entry is free. -/
def deliveryArrives (c id : Nat) (s : State) : Option State :=
  ((s.cluster c).deliveries.find? fun d => d.id == id).bind fun d =>
    let vals := d.values (s.cluster c)
    if !(d.threads.all fun t => (vals.get? t).isSome) || !replyTurn s c id || deliveryHeld s c d then none
    else
      let s := landDelivery (writeDelivery s c d vals) c d
      some (dropReplies (s.modCluster c fun cl => { cl with deliveries := cl.deliveries.filter fun x => x.id != id }))

def execPendingDelivery (c id : Nat) (s : State) : Host.Outcome State Fault Refusal := happen s (deliveryArrives c id s)

/-- The result of a late scalar arrives: the register is full (R18). -/
def fillScalar (st : Strand) (reg : SReg) (v : Word) : Strand :=
  { st with
    regs := { st.regs.put reg v with empty := st.regs.empty &&& ~~~(BitVec.twoPow 64 reg.toNat) }
    late := st.late.del reg.toNat }

/-- LATE_SCALAR_RESULT (R18). -/
def scalarArrives (c slot : Nat) (reg : SReg) (s : State) : Option State :=
  (s.strand? c slot).bind fun st =>
    match st.late.get? reg.toNat with
    | some (id, some v) =>
        if !replyTurn s c id || replyHeld s c slot (.scalar reg) then none
        else some (repliesCome (s.setStrand c slot (fillScalar st reg v)) c slot (.scalar reg))
    | _ => none

def execLateScalarResult (c slot : Nat) (reg : SReg) (s : State) : Host.Outcome State Fault Refusal :=
  happen s (scalarArrives c slot reg s)

/-- An older `ldsc` of the same strand is yet to land on bytes that this one lands on (R219 case 1). -/
def landsBehind (cl : Cluster) (l : Landing) (t : Nat) : Bool :=
  let mine := (cl.tracker.filter fun e => e.landings.contains l.id).map Tracked.strand
  let same := fun (o : Landing) => if l.slot == 8 then
      cl.tracker.any fun e => mine.contains e.strand && e.landings.contains o.id
    else o.slot == l.slot
  cl.landings.any fun o => o.id < l.id && o.block == l.block && same o && o.threads.any fun u =>
    match o.dests.get? u, l.dests.get? t with
    | some a, some b => overlaps a o.bytes b l.bytes
    | _, _ => false

/-- The bytes of a thread may land: they have come, and neither an older `ldsc` nor another agent's order stands before them. -/
def landable (s : State) (c : Nat) (l : Landing) (t : Nat) : Bool :=
  l.threads.contains t && (l.data.get? t).isSome && !landsBehind (s.cluster c) l t
    && !owedSoft s c l.slot l.block (some l.block) (l.dests.getD 0 t) l.bytes

/-- The bytes of a thread land in the scratchpad and leave PEND. -/
def landOn (s : State) (c : Nat) (l : Landing) (t : Nat) : State :=
  let a := l.dests.getD 0 t
  let s := scratchWrite (touch s c l.slot l.block (some l.block) a l.bytes) c l.block a (leBytes l.bytes (l.data.getD 0 t))
  let rest := l.threads.filter fun x => x != t
  let s := s.modCluster c fun cl =>
    { cl with landings := if rest.isEmpty then cl.landings.filter fun x => x.id != l.id
        else cl.landings.map fun x => if x.id == l.id then { x with threads := rest } else x }
  let s := if rest.isEmpty then
      dropReplies (untrack (dropDebts s c fun i => i == l.id) c fun x => { x with landings := x.landings.filter fun i => i != l.id })
    else s
  landedBytes s c l l.bytes

/-- The bytes of an `ldsc` that has a thread whose bytes may land, as `pick` finds it. -/
def landWith (c id : Nat) (pick : Landing → Option Nat) (s : State) : Option State :=
  ((s.cluster c).landings.find? fun l => l.id == id && l.delivery.isNone).bind fun l =>
    if !replyTurn s c id || replyHeld s c 0 (.landing id []) then none else (pick l).map (landOn s c l)

/-- LDSC_BYTE_LANDING (R137): the bytes of the lowest thread that has them land. -/
def bytesLand (c id : Nat) (s : State) : Option State :=
  landWith c id (fun l => l.threads.find? (landable s c l)) s

/-- The bytes of this thread land: those of one `ldsc` land in any order (R217). -/
def landThread (c id thread : Nat) (s : State) : Option State :=
  landWith c id (fun l => if landable s c l thread then some thread else none) s

def execLdscByteLanding (c id : Nat) (s : State) : Host.Outcome State Fault Refusal := happen s (bytesLand c id s)

/-! ### Accesses (R140, R217-R219) -/

/-- Who sent an access: a strand, one that has ended, a saved strand, or a killed context. Log 44 (DEDUCED). -/
inductive Sender where
  | strand (st : Strand)
  | orphan (o : Orphan)
  | saved (ctx : Nat) (st : Strand)
  | killed (k : Kill)
  deriving DecidableEq, Repr

/-- A strand has an access outstanding. -/
def Strand.sent (st : Strand) (id : Nat) : Bool := st.out.any fun a => a.id == id

/-- The strand of a saved image of a cluster that has an access outstanding, with its context. -/
def savedStrand (s : State) (c slot id : Nat) : Option (Nat × Strand) :=
  s.ctxs.findSome? fun p => p.2.images.findSome? fun i =>
    if i.cluster == c then ((i.strands.get? slot).filter fun st => st.sent id).map fun st => (p.1, st) else none

/-- Who sent an access and has it outstanding; what has no strand any more is named with slot 8. Log 37 (DEDUCED). -/
def senderOf (s : State) (c slot id : Nat) : Option Sender :=
  match (s.strand? c slot).filter fun st => st.sent id with
  | some st => some (.strand st)
  | none =>
      if slot == 8 then
        match (s.cluster c).orphans.find? fun o => o.access.id == id with
        | some o => some (.orphan o)
        | none => (s.kills.find? fun k => !k.horizon && k.out.any fun q => q.1 == c && q.2.id == id).map .killed
      else (savedStrand s c slot id).map fun q => .saved q.1 q.2

/-- The accesses of a sender. -/
def Sender.out (cl : Cluster) (c : Nat) : Sender → List Access
  | .strand st => st.out
  | .orphan o => (cl.orphans.filter fun x => x.strand == o.strand).map Orphan.access
  | .saved _ st => st.out
  | .killed k => (k.out.filter fun q => q.1 == c).map Prod.snd

/-- The context of a sender. -/
def Sender.ctx (s : State) (c : Nat) : Sender → Nat
  | .strand st => match s.block? c st.block with | some b => b.ctx | none => 0
  | .orphan o => o.ctx
  | .saved x _ => x
  | .killed k => k.ctx

/-- The block of a sender in its cluster; one that has left the cluster is of no block there. -/
def Sender.block : Sender → Nat
  | .strand st => st.block
  | .orphan o => o.block
  | .saved _ _ | .killed _ => 2 ^ 32

/-- A release waits also for the jobs, `ldsc` bytes and tile-engine accesses that came before it, and one that another agent can
observe for the deliveries (R219 case 4, R220). Log 23 (DEDUCED). -/
def releaseReady (cl : Cluster) (slot : Nat) (a : Access) : Sender → Bool
  | .strand st =>
      !(cl.jobs.any fun j => j.slot == slot && j.block == st.block && j.id < a.id)
        && !(cl.landings.any fun l => l.slot == slot && l.id < a.id)
        && !(cl.tileOps.any fun t => t.slot == slot && (t.reads || t.writes) && t.id < a.id)
        && (a.scope == .strand || !(cl.deliveries.any fun d => d.slot == slot && !d.discard && d.id < a.id))
  | .orphan o => (cl.tracker.filter fun t => t.strand == o.strand).all fun t =>
      t.jobs.all (fun i => a.id < i) && t.landings.all (fun i => a.id < i) && t.tiles.all fun i => a.id < i
  | .saved _ _ => true
  | .killed _ => true

/-- In serial mode accesses of a cluster are performed in the order in which they were sent (15 R238). -/
def accessTurn (s : State) (c : Nat) (a : Access) : Bool :=
  !serialMode s c || ((s.cluster c).strands.all fun p => p.2.out.all fun b => a.id ≤ b.id)
    && (s.cluster c).orphans.all fun o => a.id ≤ o.access.id

/-- The way of an access is free: the port of its memory, and its token does not lie in a cellar (23 R371, 25 R325). -/
def wayFree (s : State) (c : Nat) (a : Access) : Bool :=
  a.isFence || a.space.isSome || (portReady s a.pa && !s.cellar.any fun t => !t.reply && t.cluster == c && t.id == a.id)

/-- Jobs and operations of the sender are under way: agents of its `.strand` scope (R211). -/
def Sender.own (cl : Cluster) (slot : Nat) : Sender → Bool
  | .strand st => cl.enginesOf slot st.block
  | .orphan o => cl.tracker.any fun t => t.strand == o.strand && !(t.jobs.isEmpty && t.tiles.isEmpty && t.banks.isEmpty)
  | .saved _ _ | .killed _ => false

/-- What an access waits for beside the order among its strand's accesses: its release, another agent's order, its way, and its turn
in serial mode (R219 case 4, R228, 15 R238). -/
def accessReady (s : State) (c slot : Nat) (who : Sender) (a : Access) : Bool :=
  (!a.rel || releaseReady (s.cluster c) slot a who) && accessTurn s c a && wayFree s c a
    && (a.isFence || !owedSoft s c slot who.block a.space a.pa a.bytes)

/-- The sender's list without an access that has been performed, and what waited for it (R201, R228). -/
def removeAccess (s : State) (c slot id : Nat) (who : Sender) : State :=
  let s := dropDebts s c fun i => i == id
  let done := fun (s : State) => untrack s c fun t => { t with ids := t.ids.filter fun i => i != id }
  match who with
  | .strand _ => done (s.modStrand c slot fun st => { st with out := st.out.filter fun a => a.id != id })
  | .orphan _ => done (s.modCluster c fun cl => { cl with orphans := cl.orphans.filter fun o => o.access.id != id })
  | .saved ctx _ => s.modCtx ctx fun x => { x with images := x.images.map fun i =>
      if i.cluster == c && (i.strands.get? slot).any fun st => st.sent id then
        { i with strands := i.strands.modify slot fun st => { st with out := st.out.filter fun a => a.id != id } }
      else i }
  | .killed _ => { s with kills := s.kills.map fun k => { k with out := k.out.filter fun q => !(q.1 == c && q.2.id == id) } }

/-- Poison that an access reads (28 R359): the location, or none. -/
def accessPoison (s : State) (c : Nat) (a : Access) : Option Word :=
  if !a.reads then none
  else match a.space with
    | some b => (scratchPoison s c b a.pa a.bytes).map (storageLocation 1 c)
    | none => if poisonedAt s a.pa then some (physLocation a.pa) else none

/-- An access of a killed context is performed: its result goes nowhere, and a read that meets poison adds a secondary fault to the
freeze in progress and changes nothing (28 R359, R360). -/
def performKilled (s : State) (c : Nat) (a : Access) : State :=
  match accessPoison s c a with
  | some _ => { s with
      links := arrived (fun t => !t.reply && t.cluster == c && t.id == a.id) s.links
      freeze := s.freeze.map fun f => f.second { cause := causeEcc, unit := c, tlo := s.time.toNat % 2 ^ 32 } }
  | none => performAct s c 8 { a with dest := .none }

/-- An access takes place and leaves its sender's list. A read that meets poison ends its context (28 R359). -/
def performFrom (s : State) (c slot : Nat) (who : Sender) (a : Access) : State :=
  let s' := touch (removeAccess s c slot a.id who) c slot who.block a.space a.pa a.bytes
  match who, accessPoison s c a with
  | .killed _, _ => performKilled s' c a
  | _, some loc => fatal s' c causeEcc (who.ctx s c) loc
  | _, none => performAct s' c slot a

/-- The last tick at which an access of a killed context may be performed: before the horizon, 24,000 ticks after the kill (R362). -/
def Kill.inTime (k : Kill) (time : Word) : Bool := (time - k.at').toNat ≤ 24000

/-- ACCESS_PERFORMED (R140, R217-R219). Those of a killed context have no order among them, and none is performed after the horizon
(28 R362). -/
def accessPerforms (c slot id : Nat) (s : State) : Option State :=
  (senderOf s c slot id).bind fun who =>
    let out := who.out (s.cluster c) c
    (out.find? fun a => a.id == id).bind fun a =>
      let may := match who with
        | .killed k => k.inTime s.time && wayFree s c a
        | _ => orderedIn (who.own (s.cluster c) slot) out a && accessReady s c slot who a
      if may then some (performFrom s c slot who a) else none

def execAccessPerformed (c slot id : Nat) (s : State) : Host.Outcome State Fault Refusal := happen s (accessPerforms c slot id s)

/-! ### Accesses performed early (R228) -/

/-- The scopes by which an earlier access is ordered before a later one, numbered (R140). -/
def orderCodes (b a : Access) : List Nat :=
  let of := fun (on : Bool) (x : Scope) => if on then [scopeCode x] else []
  of b.acq b.scope ++ of a.rel a.scope
    ++ of (match b.act with | .fence _ succ => a.classIn succ | _ => false) b.scope
    ++ of (match a.act with | .fence pred _ => b.classIn pred | _ => false) a.scope

/-- The widest of the narrow scopes among those numbers; none where they are `.strand` alone. -/
def widestNarrow (l : List Nat) : Option Scope :=
  match (l.filter fun n => n ≤ 3).foldl max 0 with
  | 1 => some .block
  | 2 => some .cluster
  | 3 => some .die
  | _ => none

/-- What an access overtakes when it goes ahead: the earlier ones that only a narrow scope orders before it, and what a fence among
them waits for. -/
def overtaken (own : Bool) (out : List Access) (a : Access) : List Access :=
  let first := overtakes own out a
  (sentEarlier out a).filter fun b =>
    first.contains b || first.any fun f => f.isFence && b.id < f.id && holdsNarrow own b f

/-- An access of a strand is performed ahead of accesses that only a narrow scope orders before it. Agents outside the scope see the
two in the other order; once an agent inside it has met the access, none of the scope reaches the bytes of the others until those
have been performed. Log 23 (DEDUCED). -/
def accessEarly (c slot id : Nat) (s : State) : Option State :=
  (s.strand? c slot).bind fun st => (st.out.find? fun a => a.id == id).bind fun a =>
    let own := (s.cluster c).enginesOf slot st.block
    let passed := overtaken own st.out a
    if passed.isEmpty || a.isFence || !accessReady s c slot (.strand st) a
        || !unbarred s c slot st.block (st.out.map Access.span) then none
    else (widestNarrow (passed.flatMap fun b => orderCodes b a)).map fun scope =>
      let d : Debt := { cluster := c, slot := slot, block := st.block, scope := scope, mark := some a.span,
                        bars := passed.map Access.span, live := false, overtaken := passed.map Access.id, engine := false }
      performFrom { s with debts := s.debts ++ [d] } c slot (.strand st) a

/-- A read-modify-write of a narrow scope makes its read; its write follows when it is performed. Agents of the scope do not write
between the two, and others may (R226). Log 23 (DEDUCED). -/
def accessSplits (c slot id : Nat) (s : State) : Option State :=
  (s.strand? c slot).bind fun st => (st.out.find? fun a => a.id == id).bind fun a =>
    if !a.atomic || wideScope a.scope || a.read.isSome || !orderedIn ((s.cluster c).enginesOf slot st.block) st.out a
        || !accessReady s c slot (.strand st) a || (accessPoison s c a).isSome || (a.space.isNone && (lockServes s a.pa).isSome)
        || !unbarred s c slot st.block (st.out.map Access.span) then none
    else
      let old := match a.space with
        | some b => ((s.block? c b).map fun b => readNat b.scratch a.pa a.bytes).getD 0
        | none => seenNat s a.pa a.bytes
      let d : Debt := { cluster := c, slot := slot, block := st.block, scope := a.scope, mark := none, bars := [a.span], live := true,
                        overtaken := [a.id], engine := false }
      let s := { touch s c slot st.block a.space a.pa a.bytes with debts := s.debts ++ [d] }
      some (s.modStrand c slot fun st =>
        { st with out := st.out.map fun b => if b.id == id then { b with read := some old } else b })

/-! ### Tokens (25 R323) -/

/-- The oldest token of a sender, receiver and class arrives, unless it lies in a cellar. -/
def tokenArrives (sender receiver : Nat) (reply : Bool) (s : State) : Option State :=
  (s.links.find? fun t => t.sender == sender && t.receiver == receiver && t.reply == reply).bind fun t =>
    if s.cellar.contains t then none else some { s with links := s.links.erase t }

/-! ### Walks (R308) -/

/-- The table lines that a walk of a context reads. -/
def tableLines (s : State) (ctx va : Nat) : List Nat :=
  match s.desc? ctx with
  | none => []
  | some d => walkLines s.mem s.poolsz va d.ptroot.toNat walkLevels

/-- A poisoned line among the tables of a walk (28 R359). -/
def walkPoison (s : State) (ctx va : Nat) : Option Nat :=
  if s.poison.isEmpty then none else (tableLines s ctx va).find? fun a => poisonedAt s a

/-- A walk for a strand ends: a poisoned table ends the context, a leaf enters the TLBs, and else the page is absent. -/
def walkEnds (s : State) (m : Me) (page : Nat) (found absent : Strand → Strand) : State :=
  let va := page * 4096
  match walkPoison s m.ctx va with
  | some pa => fatal s m.c causeEcc m.ctx (physLocation pa)
  | none =>
      match walk s m.ctx va with
      | some (base, leaf) => (tlbFill s m.c { ctx := m.ctx, base := base, leaf := leaf }).modStrand m.c m.k found
      | none => s.modStrand m.c m.k absent

/-- PAGE_WALK_DONE (R308): of the page that a memory instruction waits for, or of the strand's code page; the ports of the tables
must be ready (R371). -/
def walkDone (c slot : Nat) (s : State) : Option State :=
  (meAt s c slot).bind fun m =>
    let ready := fun (page : Nat) => (tableLines s m.ctx (page * 4096)).all fun a => portReady s a && linkFree s c a
    match m.st.wait, m.st.code with
    | .walk page, _ =>
        if ready page then some (walkEnds s m page (fun st => { st with wait := .none }) fun st => { st with wait := .walkFault page })
        else none
    | _, .walking page =>
        if ready page then some (walkEnds s m page (fun st => { st with code := .none }) fun st => { st with code := .absent page })
        else none
    | _, _ => none

def execPageWalkDone (c slot : Nat) (s : State) : Host.Outcome State Fault Refusal := happen s (walkDone c slot s)

/-! ### Watches and timeouts (R145, R97, R89) -/

/-- WATCH_FIRE (R145): the word differs from the compare value, or has differed since the watch was armed. -/
def watchFires (c slot : Nat) (s : State) : Option State :=
  (meAt s c slot).bind fun m => m.st.regs.watch.bind fun w =>
    if w.fired || !(w.seen || watchSees s m.blk w != w.value) then none
    else some (m.setRegs s fun r => { r with watch := some { w with fired := true } })

def execWatchFire (c slot : Nat) (s : State) : Host.Outcome State Fault Refusal := happen s (watchFires c slot s)

/-- WAIT_TIMEOUT (R97). -/
def waitTimesOut (c slot : Nat) (s : State) : Option State :=
  (s.strand? c slot).bind fun st => match st.wait with
    | .asleep _ (some 0) => some (s.setStrand c slot { st with wait := .timedOut })
    | _ => none

def execWaitTimeout (c slot : Nat) (s : State) : Host.Outcome State Fault Refusal := happen s (waitTimesOut c slot s)

/-- SPAWN_SLOT_TIMEOUT (R89). -/
def searchEnds (c slot : Nat) (s : State) : Option State :=
  (s.strand? c slot).bind fun st => match st.wait with
    | .search 0 => some (s.setStrand c slot { st with wait := .noSlot })
    | _ => none

def execSpawnSlotTimeout (c slot : Nat) (s : State) : Host.Outcome State Fault Refusal := happen s (searchEnds c slot s)

/-! ### Timers and trap entry (R301, R243, R244) -/

/-- The strand stands at an instruction boundary at which an asynchronous trap can be taken. -/
def atBoundary (s : State) (m : Me) : Bool :=
  (s.cluster m.c).handler.isNone && m.st.trap.isNone && !m.st.entering && (s.cluster m.c).stopping.isNone
    && !((s.cluster m.c).power.admitted.any fun a => a.1 == m.task)
    && match m.st.wait with
      | .none | .walk _ | .walkFault _ | .search _ | .noSlot => true
      | _ => false

/-- The fault of a job whose issuer had tailed, due at the strand's next instruction boundary (12 R202, 19 R269). -/
def boundaryFault (m : Me) : Option JobFault := lowestFault (m.st.jobFaults.filter fun f => f.orphan && !f.mid)

/-- The timer's condition (R301). -/
def timerDue (s : State) (m : Me) : Bool :=
  let r := m.st.regs
  r.tmctl.getLsbD 0
    && if r.tmctl.getLsbD 1 then r.tmcmp.ule s.time else r.tmcmp.ule (s.counters m.c m.ctx).cyc

/-- An asynchronous trap at the strand's next instruction (R241, R242). -/
def asyncTrap (m : Me) (cause : Nat) (info : Word) : Trap :=
  { cause := cause, info := info, pc := m.st.pc, next := successor m.st.pc, skip := false, async := true, pair := false,
    bpinh := m.st.bpinh }

/-- TIMER (R301): EN is cleared and the strand traps. -/
def timerFires (c slot : Nat) (s : State) : Option State :=
  (meAt s c slot).bind fun m =>
    if !timerDue s m || !atBoundary s m then none
    else
      let info : Word := if m.st.regs.tmctl.getLsbD 1 then 1 else 0
      some (takeTrap (m.setRegs s fun r => { r with tmctl := r.tmctl &&& ~~~1 }) c slot (asyncTrap m causeTimer info))

def execTimerFire (c slot : Nat) (s : State) : Host.Outcome State Fault Refusal := happen s (timerFires c slot s)

/-- TINFO of a throttle trap (R190). -/
def Throttle.info (t : Throttle) : Word := payload [(1, bit01 t.begins), (7, 0), (3, t.level)]

/-- A throttle trap that is due is taken (R190, R316). -/
def throttleTrap (s : State) (m : Me) (t : Throttle) : State :=
  takeTrap (m.setRegs s fun r => { r with thrDue := none }) m.c m.k (asyncTrap m causeThrottle t.info)

/-- The order in which traps that wait enter their handlers: by time, synchronous causes first, STEP among them last, then TIMER
before THROTTLE, and by slot (R244). -/
def trapKey (p : Nat × Strand) : Nat :=
  let kind := match p.2.trap with
    | some t => if !t.async then 0 else if t.cause == causeTimer then 1 else 2
    | none => 0
  p.2.trapAt.toNat * 32 + kind * 8 + p.1

/-- The strand whose trap is next to enter its handler (R243, R244): the first of those that the population is free for. -/
def nextTrap (s : State) (c : Nat) : Option Nat :=
  ((sortBy trapKey ((s.cluster c).strands.filter fun p => p.2.trap.isSome && s.entryFree c p.1)).head?).map Prod.fst

/-- TRAP_ENTRY (R243, R244). -/
def trapEnters (c slot : Nat) (s : State) : Option State :=
  ((s.strand? c slot).bind Strand.trap).bind fun t =>
    if (s.cluster c).stopping.isSome || nextTrap s c != some slot then none else some (enterHandler s c slot t)

def execTrapEntry (c slot : Nat) (s : State) : Host.Outcome State Fault Refusal := happen s (trapEnters c slot s)

/-! ### The tracker (R201) -/

/-- TRACKER_ENTRY_FREE (R201). -/
def trackerFrees (c id : Nat) (s : State) : Option State :=
  ((s.cluster c).tracker.find? fun t => t.id == id).bind fun t =>
    if !t.empty then none
    else some (retireBlock (s.modCluster c fun cl => { cl with tracker := cl.tracker.filter fun x => x.id != id }) c t.block)

def execTrackerEntryFree (c id : Nat) (s : State) : Host.Outcome State Fault Refusal := happen s (trackerFrees c id s)

/-! ### Lost replies (R302) -/

/-- Names of a delivery are lost in its threads. -/
def loseDelivery (s : State) (c : Nat) (d : Delivery) : State :=
  let s := s.modCluster c fun cl => { cl with deliveries := cl.deliveries.filter fun x => x.id != d.id }
  if d.discard then s
  else s.modBlock c d.block fun b =>
    { b with lostRegs := (upto d.count).foldl (fun m i =>
        let k := colKey d.window (d.name + i)
        m.set k (((m.get? k).getD 0) ||| setOf d.threads)) b.lostRegs }

/-- A scalar is lost. -/
def loseScalar (st : Strand) (r : SReg) : Strand :=
  { st with
    regs := { st.regs with lost := st.regs.lost ||| BitVec.twoPow 64 r.toNat,
                           empty := st.regs.empty &&& ~~~(BitVec.twoPow 64 r.toNat) }
    late := st.late.del r.toNat }

/-- Two accesses bring their results to one place. -/
def sameDest (a b : Access) : Bool :=
  match a.dest, b.dest with
  | .scalar r, .scalar q => r == q
  | .delivery i _, .delivery j _ => i == j
  | _, _ => a.id == b.id

/-- The accesses of an atomic whose reply is given up: they are performed, and no tracker entry waits for them (R302, 12 R194). -/
def giveUp (s : State) (c slot : Nat) (a : Access) : State :=
  let drop := fun (b : Access) => if sameDest b a then { b with dropped := true } else b
  let ids := ((s.strand? c slot).toList.map fun st => (st.out.filter fun b => sameDest b a).map Access.id).flatten
  let s := if slot == 8 then s.modCluster c fun cl => { cl with orphans := cl.orphans.map fun o =>
      if o.access.id == a.id then { o with access := { o.access with dropped := true } } else o }
    else s.modStrand c slot fun st => { st with out := st.out.map drop }
  untrack s c fun t => { t with ids := t.ids.filter fun i => i != a.id && !ids.contains i }

/-- An access that a strand in a slot has sent, or with slot 8 one of a strand that has ended. -/
def sentAt (s : State) (c slot id : Nat) : Option Access :=
  if slot == 8 then ((s.cluster c).orphans.find? fun o => o.access.id == id).map Orphan.access
  else (s.strand? c slot).bind fun st => st.out.find? fun a => a.id == id

/-- The destination of an atomic is marked lost, and what comes for it is discarded. -/
def loseDest (s : State) (c slot : Nat) (d : Dest) : State :=
  dropReplies (match d with
    | .scalar r => s.modStrand c slot fun st => loseScalar st r
    | .delivery i _ =>
        match (s.cluster c).deliveries.find? fun x => x.id == i with
        | some d => loseDelivery s c d
        | none => s
    | _ => s)

/-- The reply of an atomic of a strand in a slot that has been performed is under way. -/
def replyOut (s : State) (c slot id : Nat) : Option Token :=
  s.links.find? fun t => t.reply && t.atomic && t.cluster == c && t.slot == slot && t.id == id

/-- ATOMIC_REPLY_TIMEOUT (R302): 12,000 cc after the stop the destination of an atomic is marked lost, whether or not it has been
performed. -/
def replyTimesOut (c slot id : Nat) (s : State) : Option State :=
  let cl := s.cluster c
  if cl.stopping.isNone || (s.time - cl.stopAt).toNat < 24000 then none
  else match (sentAt s c slot id).filter fun a => a.space.isNone && a.atomic && !a.dropped with
    | some a => some (loseDest (giveUp s c slot a) c slot a.dest)
    | none => ((replyOut s c slot id).filter fun t => cl.awaits t).map fun t => loseDest s c slot t.dest

def execAtomicReplyTimeout (c slot id : Nat) (s : State) : Host.Outcome State Fault Refusal := happen s (replyTimesOut c slot id s)

end Sys2Proof.Machine
end

