-- ==== Sys2Proof/Machine/PowerEvents.lean ====
section
/-!
DEFINITION. The control-interval boundary, the admission of waiting tasks, and droop (24 R315-R322).
-/
namespace Sys2Proof.Machine

/-- TIME ticks of a control interval (R317). -/
def intervalTicks : Nat := 2400

/-! ### The boundary (R315-R317) -/

/-- The throttle ceiling after a mean draw in watts (R315); a regulator without a measurement keeps it.
Log 13 (DESIGN CHOICE). -/
def nextCeiling (c : Nat) (draw : Option Nat) : Nat :=
  match draw with
  | none => c
  | some w => if 776 < w then c - 1 else if w < 720 then min 7 (c + 1) else c

/-- The ceiling of one regulator at a boundary, with its record in the hub vault (R315, 26 R336). -/
def stepCeiling (draws : List Nat) (s : State) (r : Nat) : State :=
  let old := s.ceil.toList.getD r 7
  let new := nextCeiling old draws[r]?
  if new == old then s
  else record { s with ceil := s.ceil.setIfInBounds r new } hubUnit 0x30 0 0 0
    (payload [(3, r), (5, 0), (3, new), (45, 0), (8, 3)])

/-- The contexts with a block in a cluster. -/
def Cluster.residents (cl : Cluster) : List Nat := (cl.blocks.map fun p => p.2.ctx).eraseDups

/-- The request of a context in a cluster: its last `perf` there, which PCAP clips as it stands, or PCAP (R315). -/
def requestOf (s : State) (c ctx : Nat) : Nat := min (pcapOf s ctx) ((s.counters c ctx).perf.getD (pcapOf s ctx))

/-- REQ (R315). -/
def requestedLevel (s : State) (c : Nat) : Nat :=
  (s.cluster c).residents.foldl (fun l ctx => max l (requestOf s c ctx)) 0

/-- The lowest slot of a block whose strand is armed. -/
def lowestArmed (cl : Cluster) (b : Nat) : Option Nat :=
  ((cl.strands.filter fun p => p.2.block == b && p.2.regs.thrArmed).head?).map Prod.fst

/-- A throttle trap of the strand that has been raised and waits for a handler. -/
def Strand.throttleHeld (st : Strand) : Option Trap := st.trap.filter fun t => t.cause == causeThrottle

/-- The throttle trap of a strand where throttling begins or ends: one that is pending, due or held during a handler, takes the new
TINFO, or goes where the cluster is back in the state last reported to the strand; and one becomes pending in the lowest armed
strand of each block (R190, R244, R316). Log 52 (DEDUCED). -/
def throttleStrand (cl : Cluster) (begins : Bool) (eff : Nat) (k : Nat) (st : Strand) : Strand :=
  let t : Throttle := { begins := begins, level := eff }
  match st.throttleHeld with
  | some p =>
      if st.regs.thrTold == begins then { st with trap := none, stall := none } else { st with trap := some { p with info := t.info } }
  | none =>
      if st.regs.thrDue.isSome then
        { st with regs := { st.regs with thrDue := if st.regs.thrTold == begins then none else some t } }
      else if lowestArmed cl st.block == some k then { st with regs := { st.regs with thrDue := some t } }
      else st

/-- A POWER record of a cluster (26 R336). -/
def powerRecord (s : State) (c kind : Nat) : State :=
  let p := (s.cluster c).power
  record s c 0x30 0 0 0 (payload [(3, p.req), (5, 0), (3, p.eff), (45, 0), (8, kind)])

/-- USED restarts at the debt, and what exceeds the budget of the new level is carried further (R317). Log 25 (DEDUCED). -/
def Power.restart (p : Power) (req eff : Nat) : Power :=
  { p with req := req, eff := eff, thr := eff < req, used := p.debt, debt := p.debt - energyBudget eff }

/-- The boundary in one cluster. Log 25 (DEDUCED). -/
def stepInterval (s : State) (c : Nat) : State :=
  let old := (s.cluster c).power
  let req := requestedLevel s c
  let eff := min req (s.ceil.toList.getD (clusterRail s c) 7)
  let s := s.modCluster c fun cl => { cl with power := cl.power.restart req eff }
  let s := if eff == old.eff then s else powerRecord s c 0
  let begins : Bool := eff < req
  if begins == old.thr then s
  else
    let s := s.modCluster c fun cl =>
      { cl with strands := cl.strands.map fun p => (p.1, throttleStrand cl begins eff p.1 p.2) }
    powerRecord s c (if begins then 1 else 2)

/-- CONTROL_INTERVAL_BOUNDARY (R315-R317), with the mean draw of each regulator over the interval. Log 13 (DESIGN CHOICE). -/
def intervalEnds (draws : List Nat) (s : State) : Option State :=
  if s.time.toNat / intervalTicks ≤ s.intervals then none
  else
    let s := (upto 4).foldl (stepCeiling draws) s
    let s := (s.clusters.map Prod.fst).foldl stepInterval s
    some { s with intervals := s.time.toNat / intervalTicks }

def execControlIntervalBoundary (draws : List Nat) (s : State) : Host.Outcome State Fault Refusal := happen s (intervalEnds draws s)

/-! ### Admission (R317) -/

/-- TASK_ADMIT: the task that waits longest, of the strand in a slot or of the gang whose lowest member that is, fits and is
admitted. Log 32 (DEDUCED). -/
def taskAdmits (c slot : Nat) (s : State) : Option State :=
  let cl := s.cluster c
  match cl.power.waiting with
  | [] => none
  | (k, e, i) :: rest =>
      if taskSlot k != slot || cl.stopping.isSome || !cl.power.fits e i then none
      else some (s.setCluster c { cl with
        power := { cl.power.charge e i with waiting := rest, admitted := cl.power.admitted ++ [(k, i)] } })

def execTaskAdmit (c slot : Nat) (s : State) : Host.Outcome State Fault Refusal := happen s (taskAdmits c slot s)

/-! ### Droop (R319-R322) -/

/-- The time of the step is an edge of the cluster's clock (R321). -/
def Power.atEdge (p : Power) : Bool := p.edges == 0 || p.edges % 2 == 1

/-- DROOP_TRIP (R320, R321): the next six edges come after two periods each. The clock of a retained cluster stands (28 R364).
Log 25 (DEDUCED). -/
def droopTrips (c : Nat) (s : State) : Option State :=
  let p := (s.cluster c).power
  if 384 ≤ c || !p.en || !p.atEdge || (s.cluster c).retained then none
  else
    let cnt := (p.cnt + 1) % 2 ^ 17
    let s := s.modCluster c fun cl => { cl with power := { cl.power with cnt := cnt, edges := 13, halved := 0 } }
    some (record s c 0x31 0 0 0 (payload [(16, p.th), (16, 0), (17, cnt)]))

def execDroopTrip (c : Nat) (s : State) : Host.Outcome State Fault Refusal := happen s (droopTrips c s)

/-- DROOP_STRETCH_END (R322): at the sixth edge; 64 halved edges follow, the first of them an opportunity. -/
def stretchEnds (c : Nat) (s : State) : Option State :=
  if (s.cluster c).power.edges != 1 then none
  else some (s.modCluster c fun cl => { cl with power := { cl.power with edges := 0, halved := 66 } })

def execDroopStretchEnd (c : Nat) (s : State) : Host.Outcome State Fault Refusal := happen s (stretchEnds c s)

/-- DROOP_HALVING_END (R322): full issue resumes. -/
def halvingEnds (c : Nat) (s : State) : Option State :=
  let p := (s.cluster c).power
  if p.edges != 0 || p.halved != 1 then none
  else some (s.modCluster c fun cl => { cl with power := { cl.power with halved := 0 } })

def execDroopHalvingEnd (c : Nat) (s : State) : Host.Outcome State Fault Refusal := happen s (halvingEnds c s)

/-- The droop clock of a cluster after a step (R321, R322). Log 25 (DEDUCED). -/
def Power.tick (p : Power) : Power :=
  if 1 < p.edges then { p with edges := p.edges - 1 }
  else if p.edges == 0 && 1 < p.halved then { p with halved := p.halved - 1 }
  else p

/-- An edge of the cluster's clock comes at the end of this step (R321). -/
def Power.edgeNext (p : Power) : Bool := p.edges ≤ 1 || p.edges % 2 == 0

end Sys2Proof.Machine
end

