-- ==== Sys2Proof/Machine/Contexts.lean ====
section
/-!
DEFINITION. Pre-emption and restore (23 R296-R299), the checksum fold and the census merge (27 R351-R356).
-/
namespace Sys2Proof.Machine

/-! ### Folds (R351-R354) -/

/-- The bytes of one thread in a fold (R352): a lost register is folded as 0. -/
def foldThread (b : Block) (t : Nat) : List Byte :=
  let value := fun (win n : Nat) =>
    if ((b.lostRegs.get? (colKey win n)).getD 0).getLsbD t then 0 else b.reg win n t
  let word := fun (win n : Nat) => leBytes 4 (value win n).toNat
  let role := fun (i : Nat) => match b.roles[i]? with
    | some r => if r.freed then [] else ((upto r.window).map (word i)).flatten
    | none => []
  ((upto b.roles.length).map role).flatten ++ ((upto b.shared).map (word 8)).flatten
    ++ [BitVec.ofNat 8 (joinFields ((upto 8).map fun i => (1, bit01 (b.key i t))))]

def foldBytes (b : Block) : List Byte := ((upto b.n).map (foldThread b)).flatten

/-- A word that the fold of a block reads (R352), as `sramWord` numbers the block's: a register of a window that is not freed, a shared
one, or 32 threads of a key. -/
def Block.folded (b : Block) (w : Nat) : Bool :=
  let t := w % 4096
  let name := w / 4096 % 320
  let win := w / (4096 * 320) % 9
  if win < 8 then t < b.n && (b.roles[win]?).any fun r => !r.freed && name < r.window
  else (name < b.shared && t < b.n) || (keyName 0 ≤ name && name ≤ keyName 7 && t < (bitWords b.n).length)

/-- A poisoned word that the fold of a block reads, by SRAM word index. -/
def blockPoison (s : State) (c b : Nat) (blk : Block) : Option Nat :=
  s.poison.findSome? fun p => match p with
    | .registers c' w => if c' == c && w / (9 * 320 * 4096) == b && blk.folded w then some w else none
    | _ => none

/-- The entry of the checksum log and the header's count (R354, R356). -/
def logFold (mem : List Host.Cell) (base entries : Nat) (fields : List (Nat × Nat)) : List Host.Cell :=
  let i := readNat mem base 8
  let mem := writeNat mem (base + 64 + 32 * (i % entries)) 32 (joinFields fields)
  writeNat mem base 8 ((i + 1) % 2 ^ 64)

/-- The fold of a block whose phase completed: CKSUM record and log entry (R354). -/
def foldBlock (s : State) (c b : Nat) (blk : Block) (slot : Nat) (phase : Bool) (rest : List (Nat × Bool)) : State :=
  let crc := crc64 (foldBytes blk)
  let s := s.setBlock c b { blk with foldDue := rest, folds := blk.folds + 1 }
  let s := record s c 0x0D blk.ctx 0 blk.index crc
  match (s.ctx? blk.ctx).bind Context.log with
  | none => s
  | some (base, entries) =>
      let gseq := match s.grids.get? blk.grid with | some g => g.gseq | none => 0
      let entry := [(64, s.time.toNat), (64, crc.toNat), (32, gseq), (32, blk.index), (16, slot), (8, bit01 phase),
        (8, blk.ctx), (32, blk.folds)]
      { s with mem := logFold s.mem base entries entry }

/-- BARRIER_FOLD (R353): once no delivery of the block is outstanding; a poisoned register ends the context (28 R359). The block may
have waited for it to retire. -/
def barrierFolds (c b : Nat) (s : State) : Option State :=
  (s.block? c b).bind fun blk => match blk.foldDue with
    | [] => none
    | (slot, phase) :: rest =>
        if !(s.cluster c).foldReady b || (s.cluster c).stopping.isSome then none
        else match blockPoison s c b blk with
          | some w => some (fatal s c causeEcc blk.ctx (storageLocation 0 c w))
          | none => some (retireBlock (foldBlock s c b blk slot phase rest) c b)

def execBarrierFold (c b : Nat) (s : State) : Host.Outcome State Fault Refusal := happen s (barrierFolds c b s)

/-! ### Census merges (R356) -/

/-- Ticks between two merges. -/
def mergeTicks : Nat := 2400000

/-- CENSUS_MERGE (R356). -/
def censusMerges (ctx : Nat) (s : State) : Option State :=
  (s.ctx? ctx).bind fun x =>
    if s.time.toNat / mergeTicks ≤ x.merges then none
    else some ((mergeCensus s ctx).modCtx ctx fun x => { x with merges := s.time.toNat / mergeTicks })

def execCensusMerge (ctx : Nat) (s : State) : Host.Outcome State Fault Refusal := happen s (censusMerges ctx s)

/-! ### The stop (R296) -/

/-- Clusters in which a context has a block. -/
def clustersOf (s : State) (ctx : Nat) : List Nat :=
  (s.clusters.filter fun p => p.2.blocks.any fun b => b.2.ctx == ctx).map Prod.fst

/-- A PREEMPT record for each block of a context in a cluster (26 R336). -/
def preemptRecords (kind from' : Nat) (ctx : Nat) (s : State) (c : Nat) : State :=
  ((s.cluster c).blocks.filter fun b => b.2.ctx == ctx).foldl (fun s b =>
    record s c 0x09 ctx 0 b.2.index (payload [(9, from'), (47, 0), (8, kind)])) s

/-- A strand at the stop: a walk under way is abandoned, and PI stands at the progress point it has reached; a search for a slot
starts again (R296, R309, 06 R99). -/
def stopStrand (st : Strand) : Strand :=
  let st := { st with code := .none, pre := [] }
  match st.wait with
  | .walk _ | .walkFault _ | .search _ | .noSlot => { st with wait := .none }
  | _ => st

/-- A strand whose sweep stops at a row (01 R16, R375). -/
def stopSweep (ws : List Sweep) (k : Nat) (st : Strand) : Strand :=
  match ws.find? fun w => w.slot == k with
  | some w => { st with regs := { st.regs with pi := piOf (if w.down then 3 else 2) w.index } }
  | none => st

/-- A cluster stops: each sweep after some more rows, and every shadow goes (10 R159, R170, R297). -/
def Cluster.stop (cl : Cluster) (ctx rows : Nat) (time : Word) : Cluster :=
  let ws := cl.sweeps.map fun w => match cl.blocks.get? w.block with
    | some b => w.advance b.tol (factorTile b w.name).1 rows
    | none => w
  { cl with
    stopping := some ctx, stopAt := time, idle := 0
    strands := cl.strands.map fun p => (p.1, stopSweep ws p.1 (stopStrand p.2))
    blocks := cl.blocks.map fun p => (p.1, { p.2 with shadows := [] })
    sweeps := ws }

/-- The error lies in a shadow of a cluster. -/
def shadowSite (c : Nat) : ErrSite → Bool
  | .tile c' _ w => c' == c && 16 * 4096 ≤ w
  | _ => false

/-- A cluster stops, with its records. -/
def stopCluster (ctx rows : Nat) (s : State) (c : Nat) : State :=
  let s := s.modCluster c fun cl => cl.stop ctx rows s.time
  preemptRecords 0 0 ctx { s with poison := s.poison.filter fun e => !shadowSite c e } c

/-- PREEMPT_REQUEST (R296): every cluster with a block of the context stops as a whole. Log 38 (DEDUCED). -/
def preemptStops (ctx rows : Nat) (s : State) : Option State :=
  let cs := clustersOf s ctx
  if cs.isEmpty || cs.any fun c => (s.cluster c).stopping.isSome then none else some (cs.foldl (stopCluster ctx rows) s)

def execPreemptRequest (ctx rows : Nat) (s : State) : Host.Outcome State Fault Refusal := happen s (preemptStops ctx rows s)

/-! ### The image (R297, R298) -/

/-- What the image waits for has finished: deliveries, late results, `ldsc` bytes, accesses to the scratchpad, tile-engine runs,
`bmv`, the chunks that jobs have begun and tracker entries of the context, and what an early access holds back (R297, 14 R228). -/
def drained (s : State) (c ctx : Nat) : Bool :=
  let cl := s.cluster c
  let bs := cl.blocksOf ctx
  !(cl.deliveries.any fun d => bs.contains d.block) && !(cl.landings.any fun d => bs.contains d.block)
    && !(cl.tileOps.any fun d => bs.contains d.block) && !(cl.bankOps.any fun d => bs.contains d.block)
    && !(cl.tracker.any fun d => bs.contains d.block) && !(cl.jobs.any fun j => bs.contains j.block && j.partial')
    && !(s.debts.any fun d => d.cluster == c)
    && cl.strands.all fun p => !bs.contains p.2.block || (p.2.late.isEmpty && p.2.out.all fun a => a.space.isNone)

/-- Words in one block's registers, as the model numbers them (`sramWord`). -/
def blockWords : Nat := 9 * 320 * 4096

/-- The cluster and block of a storage error, and the same error in another block. -/
def siteBlock : ErrSite → Option (Nat × Nat)
  | .registers c w => some (c, w / blockWords)
  | .tile c b _ | .scratchpad c b _ => some (c, b)
  | _ => none

def moveSite (c blocks : Nat) : ErrSite → ErrSite
  | .registers _ w => .registers c (w + blocks * blockWords)
  | .tile _ b w => .tile c (b + blocks) w
  | .scratchpad _ b w => .scratchpad c (b + blocks) w
  | e => e

/-- The storage error lies in one of these blocks of a cluster. -/
def siteIn (c : Nat) (bs : List Nat) (e : ErrSite) : Bool :=
  match siteBlock e with
  | some (c', b) => c' == c && bs.contains b
  | none => false

/-- The image of a context's blocks in a cluster. A job keeps the elements of its whole chunks, and reads again what the others
need (11 R182). -/
def Cluster.image (cl : Cluster) (c ctx : Nat) (poison : List ErrSite) : Image :=
  let bs := cl.blocksOf ctx
  let mine := fun (k : Nat) => (cl.strands.get? k).any fun st => bs.contains st.block
  let inH := cl.handler.any mine
  { cluster := c
    strands := cl.strands.filter fun p => bs.contains p.2.block
    blocks := cl.blocks.filter fun p => bs.contains p.1
    handler := if inH then cl.handler else none
    hstack := if inH then cl.hstack else { levels := [], base := 0, limit := 15 }
    hlatch := if inH then cl.hlatch else none
    jobs := (cl.jobs.filter fun j => bs.contains j.block).map fun j => { j with ixs := [], got := [] }
    sweeps := cl.sweeps.filter fun w => bs.contains w.block
    arrivals := cl.arrivals.filter fun a => mine a.slot
    counters := cl.counters.get? ctx
    nextId := cl.nextId
    poison := poison }

/-- The save area (R298): its header, and in each image's slot bytes that the manual does not lay out. Log 38 (DESIGN CHOICE). -/
def writeSaveArea (mem : List Host.Cell) (save free : Nat) (images : List Nat) : List Host.Cell :=
  let mem := writeNat mem save 4 images.length
  (images.zip (upto images.length)).foldl (fun mem p =>
    let mem := writeNat mem (save + 8 + 8 * p.2) 8 p.1
    writeBytes mem (save + 4096 + 8388608 * p.2) ((Config.savedImage (free + p.2)).take (6232 * 1024))) mem

/-- A cluster's image is captured: the context leaves the cluster and the others go on (R297). Log 38 (DESIGN CHOICE). -/
def captureCluster (ctx : Nat) (s : State) (c : Nat) : State :=
  let s := preemptRecords 1 0 ctx s c
  let cl := s.cluster c
  let bs := cl.blocksOf ctx
  let s := s.modCtx ctx fun x => { x with images := x.images ++ [cl.image c ctx (s.poison.filter (siteIn c bs))] }
  let s : State := { s with poison := s.poison.filter fun e => !siteIn c bs e }
  s.setCluster c { cl.without ctx bs with stopping := none }

/-- PREEMPT_IMAGE_CAPTURED (R297, R298, R356): the census is merged before the image is complete. -/
def imagesComplete (ctx : Nat) (s : State) : Option State :=
  let cs := (s.clusters.filter fun p => p.2.stopping == some ctx).map Prod.fst
  if cs.isEmpty || cs.any fun c => (s.cluster c).retained || !drained s c ctx then none
  else
    let s := cs.foldl (captureCluster ctx) (mergeCensus s ctx)
    some (match s.ctx? ctx with
      | none => s
      | some x => { s with mem := writeSaveArea s.mem x.desc.save.toNat s.freeCount (x.images.map Image.cluster)
                           freeCount := s.freeCount + x.images.length })

def execPreemptImageCaptured (ctx : Nat) (s : State) : Host.Outcome State Fault Refusal := happen s (imagesComplete ctx s)

/-! ### The restore (R299) -/

/-- What the blocks of an image need together. -/
def Image.need (i : Image) : Room :=
  let sum := i.blocks.foldl (fun (r : Room) p =>
    let b := p.2.room
    { threads := r.threads + b.threads, regs := r.regs + b.regs, scratch := r.scratch + b.scratch, bars := r.bars + b.bars,
      slots := 0, tiles := r.tiles + b.tiles, blocks := r.blocks + b.blocks })
    { threads := 0, regs := 0, scratch := 0, bars := 0, slots := 0, tiles := 0, blocks := 0 }
  { sum with slots := i.strands.length }

/-- Entries of the range scoreboard that jobs hold (11 R178). -/
def rangeEntries (js : List Job) : Nat := (js.map fun j => (j.writes.filter Region.scratch).length).foldl (· + ·) 0

/-- The image can be restored into a cluster: everything fits, and its strand slots are free. -/
def Image.fitsIn (i : Image) (cl : Cluster) : Bool :=
  i.need.fits cl.room && cl.stopping.isNone && i.strands.all (fun p => (cl.strands.get? p.1).isNone)
    && (i.handler.isNone || cl.handler.isNone)
    && ((i.arrivals ++ cl.arrivals).map Arrival.gang).eraseDups.length ≤ Config.rendezvousLatches
    && i.jobs.length + cl.jobs.length ≤ Config.schedulerJobs
    && rangeEntries i.jobs + rangeEntries cl.jobs ≤ Config.rangeEntries

/-- Ranges of numbers moved. -/
def moveSpans (ids : Nat) (l : List (Nat × Nat)) : List (Nat × Nat) := l.map fun r => (r.1 + ids, r.2 + ids)

/-- A strand with its block and access numbers moved to those of the new cluster. One with a stopped long instruction issues the
first broadcast (R299 step 5, 01 R17). -/
def Strand.renumber (ids blocks : Nat) (st : Strand) : Strand :=
  { st with
    block := st.block + blocks
    frames := st.frames.map fun f => { f with first := f.first + ids, spans := moveSpans ids f.spans }
    spans := moveSpans ids st.spans
    out := st.out.map fun a => { a with id := a.id + ids, group := a.group + ids }
    resumed := st.regs.pi.getLsbD 31 && st.wait == .none }

/-- A job with its numbers moved. -/
def Job.renumber (ids blocks : Nat) (j : Job) : Job :=
  { j with id := j.id + ids, block := j.block + blocks, edges := j.edges.map fun e => e + ids }

/-- A map with its keys raised. -/
def shiftKeys {α : Type} (d : Nat) (m : SMap α) : SMap α := m.map fun p => (p.1 + d, p.2)

/-- A map with another's entries set. -/
def setAll {α : Type} (m l : SMap α) : SMap α := l.foldl (fun m p => m.set p.1 p.2) m

/-- A cluster with an image loaded (R299). Log 38 (DESIGN CHOICE). -/
def Cluster.load (cl : Cluster) (ctx : Nat) (i : Image) : Cluster :=
  let ids := cl.nextId
  let bs := cl.nextBlock
  let sum := fun (l : List Nat) => l.foldl (· + ·) 0
  { cl with
    strands := setAll cl.strands (i.strands.map fun p => (p.1, p.2.renumber ids bs))
    blocks := setAll cl.blocks (shiftKeys bs i.blocks)
    handler := if i.handler.isSome then i.handler else cl.handler
    hstack := if i.handler.isSome then i.hstack else cl.hstack
    hlatch := if i.handler.isSome then i.hlatch else cl.hlatch
    jobs := cl.jobs ++ i.jobs.map (Job.renumber ids bs)
    sweeps := cl.sweeps ++ i.sweeps.map fun w => { w with block := w.block + bs }
    arrivals := cl.arrivals ++ i.arrivals
    counters := match i.counters with | some k => cl.counters.set ctx k | none => cl.counters
    nextId := ids + i.nextId
    nextBlock := bs + (i.blocks.map Prod.fst).foldl max 0 + 1
    idle := 0
    power := { cl.power with infl := cl.power.infl + sum (i.jobs.map Job.current) + sum (i.sweeps.map Sweep.current) } }

/-- The holder's cluster number after a restore (R144, R299). -/
def Holder.move (i : Image) (ctx dest : Nat) (h : Holder) : Holder :=
  if h.ctx == ctx && h.cluster == i.cluster && (i.strands.get? h.slot).any (fun st => st.num == h.strand) then { h with cluster := dest }
  else h

/-- The token of an access of a saved strand, with its cluster and number after the restore (25 R325). -/
def Token.move (i : Image) (dest ids : Nat) (t : Token) : Token :=
  if !t.reply && t.cluster == i.cluster && (i.strands.any fun p => p.2.out.any fun a => a.id == t.id) then
    { t with cluster := dest, id := t.id + ids }
  else t

/-- An image goes into a cluster. -/
def restoreImage (s : State) (ctx : Nat) (i : Image) (rest : List Image) (c : Nat) : State :=
  let cl := s.cluster c
  let s : State := { s with
    locks := s.locks.map fun (p : Nat × Lock) => (p.1,
      { p.2 with holder := p.2.holder.map (Holder.move i ctx c), waiters := p.2.waiters.map (Holder.move i ctx c) })
    links := s.links.map (Token.move i c cl.nextId)
    cellar := s.cellar.map (Token.move i c cl.nextId)
    poison := s.poison ++ i.poison.map (moveSite c cl.nextBlock) }
  let s := s.modCluster c fun cl => cl.load ctx i
  let s := s.modCtx ctx fun x => { x with images := rest }
  i.blocks.foldl (fun s b => record s c 0x09 ctx 0 b.2.index (payload [(9, i.cluster), (47, 0), (8, 2)])) s

/-- CONTEXT_RESTORE (R299): the context's oldest image goes into the first cluster of its partition that is ready (29 R370) and has
room for it, from one past the last placement. Log 38 (DEDUCED). -/
def contextRestores (ctx : Nat) (s : State) : Option State :=
  (s.ctx? ctx).bind fun x => match x.images with
    | [] => none
    | i :: rest => ((walkClusters s (ctxPart s ctx)).find? fun c => s.ready.getLsbD c && i.fitsIn (s.cluster c)).map (restoreImage s ctx i rest)

def execContextRestore (ctx : Nat) (s : State) : Host.Outcome State Fault Refusal := happen s (contextRestores ctx s)

end Sys2Proof.Machine
end

