-- ==== Sys2Proof/Machine/Xmss.lean ====
section
/-!
DEFINITION. XMSS-SHAKE256_20_256 (26 R346, 29 R372): RFC 8391's signature with n = 32, w = 16 and a tree of height 20, and the
functions of NIST SP 800-208. Byte strings are big-endian. The keys are the device's. Log 11 (PRESUMED, DESIGN CHOICE).
-/
namespace Sys2Proof.Machine

/-- The big-endian number of `n` bytes. -/
def beBytes (n v : Nat) : List Byte := ((List.range n).map fun i => BitVec.ofNat 8 (v / 2 ^ (8 * i))).reverse
def beNat (bs : List Byte) : Nat := bs.foldl (fun n b => 256 * n + b.toNat) 0

def xorBytes (a b : List Byte) : List Byte := (a.zip b).map fun p => p.1 ^^^ p.2

/-! ### The keyed functions (SP 800-208) -/

def xmssKeyed (kind : Nat) (key m : List Byte) : List Byte := shakeBytes (beBytes 32 kind ++ key ++ m)
def xmssF : List Byte → List Byte → List Byte := xmssKeyed 0
def xmssH : List Byte → List Byte → List Byte := xmssKeyed 1
def xmssHmsg : List Byte → List Byte → List Byte := xmssKeyed 2
def xmssPrf : List Byte → List Byte → List Byte := xmssKeyed 3

/-- An address of 32 bytes: its type, three words, and keyAndMask. -/
def xmssAdrs (type a b c mask : Nat) : List Byte :=
  beBytes 12 0 ++ beBytes 4 type ++ beBytes 4 a ++ beBytes 4 b ++ beBytes 4 c ++ beBytes 4 mask

/-- RAND_HASH under an address whose mask is yet to be given. -/
def randHash (seed : List Byte) (adrs : Nat → List Byte) (l r : List Byte) : List Byte :=
  let p := fun (i : Nat) => xmssPrf seed (adrs i)
  xmssH (p 0) (xorBytes l (p 1) ++ xorBytes r (p 2))

/-! ### WOTS+ -/

/-- `k` steps of the chain `i` of key `ots` from its step `at'` on. -/
def wotsChain (seed : List Byte) (ots i : Nat) : Nat → Nat → List Byte → List Byte
  | 0, _, x => x
  | k + 1, at', x =>
      let p := fun (mask : Nat) => xmssPrf seed (xmssAdrs 0 ots i at' mask)
      wotsChain seed ots i k (at' + 1) (xmssF (p 0) (xorBytes x (p 1)))

/-- The base-16 digits of bytes. -/
def hexDigits (bs : List Byte) : List Nat := bs.flatMap fun b => [b.toNat / 16, b.toNat % 16]

/-- The 67 digits of a digest: 64 of its own and 3 of its checksum. -/
def wotsDigits (m : List Byte) : List Nat :=
  let d := hexDigits m
  d ++ (hexDigits (beBytes 2 ((d.foldl (fun n x => n + (15 - x)) 0) * 16))).take 3

/-- One level of the L-tree over a public key. -/
def ltreeLevel (seed : List Byte) (ots height : Nat) : Nat → List (List Byte) → List (List Byte)
  | i, a :: b :: rest => randHash seed (xmssAdrs 1 ots height i) a b :: ltreeLevel seed ots height (i + 1) rest
  | _, l => l

/-- The L-tree: 67 values in at most seven levels. -/
def ltree (seed : List Byte) (ots : Nat) (pk : List (List Byte)) : List Byte :=
  ((List.range 7).foldl (fun l h => ltreeLevel seed ots h 0 l) pk).headD []

/-! ### Verification -/

/-- The root that an authentication path gives from a node of height `h` and index `i`. -/
def rootFrom (seed : List Byte) : Nat → Nat → List Byte → List (List Byte) → List Byte
  | _, _, node, [] => node
  | h, i, node, a :: rest =>
      let adrs := xmssAdrs 2 0 h (i / 2)
      rootFrom seed (h + 1) (i / 2) (if i % 2 == 0 then randHash seed adrs node a else randHash seed adrs a node) rest

/-- Strings of 32 bytes. -/
def chunks32 : Nat → List Byte → List (List Byte)
  | 0, _ => []
  | n + 1, bs => bs.take 32 :: chunks32 n (bs.drop 32)

/-- The signature of `4 + 32 · (68 + height)` bytes verifies under a root and a seed. -/
def xmssVerify (height : Nat) (root seed message sig : List Byte) : Bool :=
  let idx := beNat (sig.take 4)
  let r := (sig.drop 4).take 32
  let ots := chunks32 67 (sig.drop 36)
  let auth := chunks32 height (sig.drop (36 + 32 * 67))
  let digits := wotsDigits (xmssHmsg (r ++ root ++ beBytes 32 idx) message)
  let pk := ((ots.zip digits).zip (List.range 67)).map fun p => wotsChain seed idx p.2 (15 - p.1.2) p.1.2 p.1.1
  sig.length == 4 + 32 * (68 + height) && idx < 2 ^ height && rootFrom seed 0 idx (ltree seed idx pk) auth == root

/-! ### Signing -/

/-- A private key: the starts of its chains by key and chain, the key of its randomisers, and its public seed. -/
structure XmssKey where
  start : Nat → Nat → List Byte
  prf : List Byte
  seed : List Byte

/-- The node of a height and index. -/
def treeNode (k : XmssKey) : Nat → Nat → List Byte
  | 0, i => ltree k.seed i ((List.range 67).map fun c => wotsChain k.seed i c 15 0 (k.start i c))
  | h + 1, i => randHash k.seed (xmssAdrs 2 0 h i) (treeNode k h (2 * i)) (treeNode k h (2 * i + 1))

/-- The signature of a message with an index of a key whose tree has a height. -/
def xmssSign (k : XmssKey) (height idx : Nat) (message : List Byte) : List Byte :=
  let r := xmssPrf k.prf (beBytes 32 idx)
  let digits := wotsDigits (xmssHmsg (r ++ treeNode k height 0 ++ beBytes 32 idx) message)
  beBytes 4 idx ++ r ++ ((digits.zip (List.range 67)).flatMap fun p => wotsChain k.seed idx p.2 p.1 0 (k.start idx p.2))
    ++ (List.range height).flatMap fun h => treeNode k h (Nat.xor (idx / 2 ^ h) 1)

/-! ### The device's keys -/

/-- The height of the trees (R346). -/
def xmssHeight : Nat := 20

/-- The capsule key, or the identity key (26 R346, 29 R372). Log 11 (DESIGN CHOICE). -/
def deviceKey (identity : Bool) : XmssKey :=
  { start := fun i c => beBytes 32 (Config.xmssStart identity i c).toNat, prf := beBytes 32 (Config.xmssPrfKey identity).toNat
    seed := beBytes 32 (Config.xmssSeed identity).toNat }

/-- A signature with a key of the device. -/
def deviceSign (identity : Bool) (idx : Nat) (message : List Byte) : List Byte :=
  xmssSign (deviceKey identity) xmssHeight idx message

/-- The capsule key's root and public seed (29 R372). -/
def capsulePublicKey : List Byte := treeNode (deviceKey false) xmssHeight 0 ++ (deviceKey false).seed

/-- A signature verifies under the vendor key (29 R372). Log 11 (DESIGN CHOICE). -/
def vendorVerify (message sig : List Byte) : Bool :=
  xmssVerify xmssHeight (beBytes 32 Config.vendorRoot.toNat) (beBytes 32 Config.vendorSeed.toNat) message sig

end Sys2Proof.Machine
end

