-- ==== Sys2Proof/Machine/Freeze.lean ====
section
/-!
DEFINITION. Freezing, thawing, EPOCH and GAP records, and the crash capsule: its bytes, its signature, its summary in NOR and
its views (26 R335-R350).
-/
namespace Sys2Proof.Machine

/-! ### Tokens (R340, R341) -/

/-- Units that have a vault (R333): clusters, fabric vaults, the hub. -/
def vaultUnits : List Nat := upto 389

/-- The vault of a unit takes no part in the freeze any more: it has frozen, or is lost. -/
def vaultDone (s : State) (f : FreezeState) (u : Nat) : Bool := (s.vault u).frozen || f.lostUnits.contains u

/-- The die of a unit, 4 for the hub's. -/
def unitDie (u : Nat) : Nat := if u < 384 then dieOf u else u - 384

/-- The last tick at which the token of a start reaches a unit: 200 ns in its die, 1 µs in the package (R340). -/
def FreezeStart.latest (x : FreezeStart) (u : Nat) : Nat := x.t0.toNat + if unitDie u == unitDie x.unit then 240 else 1200

/-- The token of a start reaches a vault, which stops with that start's cause and origin (R340, R341); a retained cluster is woken
(28 R364). -/
def tokenReaches (s : State) (unit : Nat) (x : FreezeStart) : State :=
  let s := s.setVault unit ((s.vault unit).stop (vaultSize unit) s.time x.cause x.unit)
  if unit < 384 then { s with clusters := s.clusters.modify unit fun cl => { cl with idle := 0 } } else s

/-- The token of the k-th start reaches the vault of a unit that has not frozen; the recorder is ready (R338, R341). -/
def tokenComes (unit k : Nat) (s : State) : Option State :=
  s.freeze.bind fun f =>
    if 389 ≤ unit || vaultDone s f unit || !s.ready.getLsbD 537 then none else (f.starts[k]?).map (tokenReaches s unit)

/-- The tokens that must have come by this tick reach their vaults (R340). Log 39 (DEDUCED). -/
def tokensForced (s : State) : State :=
  match s.freeze with
  | none => s
  | some f =>
      if !s.ready.getLsbD 537 then s
      else vaultUnits.foldl (fun s u =>
        if vaultDone s f u then s
        else match f.starts.find? fun x => x.latest u ≤ s.time.toNat with
          | some x => tokenReaches s u x
          | none => s) s

/-- FREEZE_TOKEN (R340): the token of the first start reaches the vault. Log 39 (DEDUCED). -/
def freezeTokenComes (unit : Nat) (s : State) : Option State := tokenComes unit 0 s

def execFreezeToken (unit : Nat) (s : State) : Host.Outcome State Fault Refusal := happen s (freezeTokenComes unit s)

/-! ### GAP and EPOCH (R335, R337) -/

/-- The count to report: the lowest type with one that is not zero. -/
def Vault.gapDue (v : Vault) : Option (Nat × Nat) := v.dropped.find? fun p => p.2 != 0

/-- Ticks of the 64 cc between two cycles that a GAP record may take. -/
def gapTicks : Nat := 128

/-- GAP (R337). Log 37 (DEDUCED). -/
def gapRecorded (unit : Nat) (s : State) : Option State :=
  let v := s.vault unit
  match v.gapDue with
  | none => none
  | some (ty, n) =>
      if v.frozen || !s.ready.getLsbD 537 || v.port == some s.time || s.time.toNat / gapTicks ≤ v.gap then none
      else
        let v := v.put (vaultSize unit) s.time { tlo := s.time.toNat % 2 ^ 32, type := 0x3C, ctx := 0, slot := 0, ord := 0,
                                                 pay := payload [(32, n), (6, ty)] }
        some (s.setVault unit { v with dropped := v.dropped.del ty, port := some s.time, gap := s.time.toNat / gapTicks })

def execGapRecord (unit : Nat) (s : State) : Host.Outcome State Fault Refusal := happen s (gapRecorded unit s)

/-- EPOCH (R335): TIME[31:0] has passed to 0. -/
def epochRecorded (s : State) : Option State :=
  let hi := s.time.toNat / 2 ^ 32
  if hi ≤ s.epochs then none
  else some (vaultUnits.foldl (fun s u => record s u 0x38 0 0 0 (payload [(32, hi)])) { s with epochs := hi })

def execEpochRecord (s : State) : Host.Outcome State Fault Refusal := happen s (epochRecorded s)

/-! ### The capsule's bytes (R343-R345) -/

/-- A record's 16 bytes (R334). -/
def Record.bytes (r : Record) : List Byte :=
  leBytes 16 (joinFields [(64, r.pay.toNat), (17, r.ord), (3, r.slot), (6, r.ctx), (6, r.type), (32, r.tlo)])

/-- A vault's 64-byte header (R335). -/
def Vault.header (v : Vault) : List Byte :=
  leBytes 64 (joinFields [(32, v.wptr), (1, bit01 v.frozen), (1, bit01 v.full), (30, 0), (32, v.wraps), (32, v.wraphi),
    (32, v.ftime)])

/-- The records of a vault, oldest first. -/
def Vault.oldestFirst (v : Vault) : List Record :=
  let old := if v.full then v.slots.filter fun p => v.wptr ≤ p.1 else []
  (old ++ v.slots.filter fun p => p.1 < v.wptr).map Prod.snd

/-- KIND of a unit's section. -/
def sectionKind (unit : Nat) : Nat := if unit < 384 then 0 else if unit < 388 then 1 else 2

/-- The 4 KiB boundary at or after a size. -/
def padded (n : Nat) : Nat := ceilDiv n 4096 * 4096

/-- Bytes padded with zeros to a multiple of 4 KiB. -/
def pad4k (bs : List Byte) : List Byte := bs ++ List.replicate (padded bs.length - bs.length) 0

/-- The data of a vault section. -/
def Section.bytes (x : Section) : List Byte := x.vault.header ++ (x.records.map Record.bytes).flatten

/-- The code of POL.REDACT (23 R295). -/
def redactCode : Redact → Nat
  | .full => 0
  | .shape => 1
  | .gap => 2

/-- The redaction map: the level of each context, then its POL.REDACT (R345). -/
def redactMap (levels : List Nat) (redact : List (Option Redact)) : List Byte :=
  levels.map (BitVec.ofNat 8) ++ redact.map fun r => BitVec.ofNat 8 ((r.map redactCode).getD 0)

/-- The levels of a stored capsule: 0, or 3 for a context that was not defined. -/
def storedLevels (redact : List (Option Redact)) : List Nat := redact.map fun r => if r.isSome then 0 else 3

/-- The section table (R345): vault sections from offset 0x3000 on, then the redaction map. -/
def sectionTable (secs : List Section) : Nat → List Byte
  | off => match secs with
    | [] => leBytes 16 (joinFields [(16, 3), (16, 0), (32, off / 4096), (32, 128), (32, 0)])
    | x :: rest =>
        let len := 64 + 16 * x.records.length
        leBytes 16 (joinFields [(16, sectionKind x.unit), (16, x.unit), (32, off / 4096), (32, len), (32, x.records.length)])
          ++ sectionTable rest (off + padded len)

/-- DOFF: the sections, then the page of the redaction map. -/
def digestOffset (secs : List Section) : Nat :=
  secs.foldl (fun o x => o + padded (64 + 16 * x.records.length)) 0x3000 + 4096

/-- What the header of a capsule or a view depends on, besides the freeze. -/
structure CapsuleForm where
  view : Bool
  summary : Bool
  /-- CAUSE and INFO are given -/
  plain : Bool
  sigidx : Option Nat
  deriving DecidableEq, Repr

/-- SECOND (R344). -/
def Second.entry (x : Second) : Nat := joinFields [(32, x.tlo), (15, 0), (9, x.unit), (8, x.cause)]

/-- The header (R344). -/
def capsuleHeader (serial : List Byte) (f : FreezeState) (form : CapsuleForm) (secs : List Section) : List Byte :=
  let flags := joinFields [(1, bit01 form.sigidx.isNone), (1, bit01 form.view), (1, bit01 form.summary),
    (1, bit01 (!f.lostUnits.isEmpty))]
  let seconds := (upto 7).map fun i => (64, (f.seconds[i]?.map Second.entry).getD 0)
  leBytes 256 (joinFields ([(64, 0x0000005041434B53), (16, 1), (16, flags), (32, secs.length + 1), (128, leNat serial),
    (32, f.boot), (32, f.capno), (8, if form.plain then f.cause else 0), (8, f.ctx), (16, f.origin), (32, 0), (64, f.t0.toNat),
    (64, if form.plain then f.info.toNat else 0)] ++ seconds ++ [(32, f.nsecond), (32, 0), (32, form.sigidx.getD 0xFFFFFFFF),
    (32, digestOffset secs)]))

/-- Bytes 0 to DOFF − 1. -/
def capsuleBody (serial : List Byte) (f : FreezeState) (form : CapsuleForm) (levels : List Nat) (secs : List Section) :
    List Byte :=
  let head := capsuleHeader serial f form secs ++ sectionTable secs 0x3000
  head ++ List.replicate (0x3000 - head.length) 0 ++ (secs.map fun x => pad4k x.bytes).flatten
    ++ pad4k (redactMap levels f.redact)

/-- The digest's 32 bytes. -/
def digestBytes (d : BitVec 256) : List Byte := leBytes 32 d.toNat

/-! ### Signing (R346) -/

/-- Bytes of a signature. -/
def sigBytes : Nat := 2820

/-- The next capsule index; a block of 64 is reserved before its first index is used. Log 7 (DESIGN CHOICE). -/
def takeIndex (s : State) : State × Option Nat :=
  if s.nextIndex < s.reserved then ({ s with nextIndex := s.nextIndex + 1 }, some s.nextIndex)
  else if s.reserved < 2 ^ 20 then
    ({ s with nextIndex := s.reserved + 1, reserved := s.reserved + 64 }, some s.reserved)
  else (s, none)

/-- The signature of a digest, zeros without an index. -/
def signDigest (identity : Bool) (index : Option Nat) (message : List Byte) : List Byte :=
  match index with
  | some i => deviceSign identity i message
  | none => List.replicate sigBytes 0

/-! ### Assembly (R342, R343, R347) -/

/-- The sections of a capsule: every vault that froze. -/
def vaultSections (s : State) (f : FreezeState) : List Section :=
  (vaultUnits.filter fun u => !f.lostUnits.contains u).map fun u =>
    { unit := u, vault := { s.vault u with slots := [], dropped := [], queue := [], port := none, arrived := [], gap := 0 }
      records := (s.vault u).oldestFirst }

/-- A vault writes THAW and resumes (R342). -/
def thawVault (capno : Nat) (s : State) (u : Nat) : State :=
  record (s.setVault u { s.vault u with frozen := false }) u 0x3D 0 0 0 (payload [(32, capno)])

/-- The level bytes of a held capsule. -/
def Capsule.levels (c : Capsule) : List Nat := storedLevels c.fr.redact

def Capsule.form (c : Capsule) : CapsuleForm :=
  { view := false, summary := c.summary, plain := true, sigidx := c.sigidx }

/-- The length of a held capsule, to a multiple of 4 KiB. -/
def Capsule.length (c : Capsule) : Nat := padded (digestOffset c.sections + 32 + sigBytes)

/-- The capsule of a freeze, signed. -/
def makeCapsule (s : State) (f : FreezeState) : State × Capsule :=
  let summary := s.capsule.isSome
  let secs := if summary then [] else vaultSections s f
  let (s, idx) := takeIndex s
  let form : CapsuleForm := { view := false, summary := summary, plain := true, sigidx := idx }
  let digest := shake256 (capsuleBody s.serialNo f form (storedLevels f.redact) secs)
  (s, { handle := s.fresh, summary := summary, fr := f, sections := secs, sigidx := idx, digest := digest,
        sig := signDigest false idx (digestBytes digest) })

/-- CAPSULE_ASSEMBLED (R343, R347): every vault has frozen and the signer is ready. The strongroom holds one full capsule and
64 summaries, and the vaults thaw. -/
def capsuleAssembles (s : State) : Option State :=
  match s.freeze with
  | none => none
  | some f =>
      if !s.ready.getLsbD 538 || !vaultUnits.all (vaultDone s f) then none
      else
        let (s, c) := makeCapsule s f
        let s := { s with
          fresh := s.fresh + 1, freeze := none
          capsule := if c.summary then s.capsule else some c
          summaries := if c.summary then (s.summaries ++ [c]).drop (s.summaries.length + 1 - 64) else s.summaries
          norDue := s.norDue ++ [c] }
        some (vaultUnits.foldl (thawVault f.capno) s)

def execCapsuleAssembled (s : State) : Host.Outcome State Fault Refusal := happen s (capsuleAssembles s)

/-- The bytes of a summary in NOR: the capsule's own header, redaction map, digest and signature (R348). Log 39 (DEDUCED). -/
def Capsule.norBytes (c : Capsule) (serial : List Byte) : List Byte :=
  capsuleHeader serial c.fr c.form c.sections ++ redactMap c.levels c.fr.redact ++ digestBytes c.digest ++ c.sig

/-- The next of 8 slots is taken for a summary, whose write is not over: without power it stays invalid (R348). -/
def norOpens (s : State) : State :=
  if s.norOpen then s else { s with nor := (s.nor ++ [none]).drop (s.nor.length + 1 - 8), norOpen := true }

/-- The hub begins to write a summary that is due. -/
def norBegins (s : State) : Option State := if s.norOpen || s.norDue.isEmpty then none else some (norOpens s)

/-- CAPSULE_NOR_SUMMARY (R348): the summary stands in its slot, with a copy of ERRSUM (28 R366). -/
def norSummaryWrites (s : State) : Option State :=
  match s.norDue with
  | [] => none
  | c :: rest =>
      let s := norOpens s
      some { s with norDue := rest, norErr := s.errsum, norOpen := false, nor := s.nor.dropLast ++ [some (c.norBytes s.serialNo)] }

def execCapsuleNorSummary (s : State) : Host.Outcome State Fault Refusal := happen s (norSummaryWrites s)

/-! ### Views (R349) -/

/-- The level of a context in a view: 0 clear, 1 SHAPE, 2 GAP, 3 not defined at T0. -/
def viewLevel (operator : Bool) (granted : List Nat) (ctx : Nat) (pol : Option Redact) : Nat :=
  match pol with
  | none => 3
  | some p =>
      if granted.contains ctx then (if operator then min (redactCode p) 1 else redactCode p)
      else if operator then 1 else 2

/-- The level at which what is a context's is rendered: nobody has the credential of one that was not defined (R349). -/
def renderLevel (operator : Bool) (level : Nat) : Nat := if level == 3 then (if operator then 1 else 2) else level

/-- The level a record is rendered at: records of device types are clear. -/
def recordLevel (levels : List Nat) (r : Record) : Nat :=
  if 0x01 ≤ r.type && r.type ≤ 0x2F then levels.getD r.ctx 0 else 0

/-- TLO of the next record that is kept. -/
def keptTlo (levels : List Nat) : List Record → Nat
  | [] => 0
  | r :: rest => if recordLevel levels r == 2 then keptTlo levels rest else r.tlo

/-- The records of a section as a view shows them. -/
def renderRecords (levels : List Nat) : List Record → List Record
  | [] => []
  | r :: rest =>
      let out := renderRecords levels rest
      match recordLevel levels r with
      | 0 => r :: out
      | 1 => { r with pay := 0 } :: out
      | _ =>
          match rest.head?, out with
          | some q, g :: more =>
              if recordLevel levels q == 2 && q.ctx == r.ctx then { g with pay := g.pay + 1 } :: more
              else { tlo := keptTlo levels rest, type := 0x3B, ctx := r.ctx, slot := 0, ord := 0, pay := 1 } :: out
          | _, _ => { tlo := keptTlo levels rest, type := 0x3B, ctx := r.ctx, slot := 0, ord := 0, pay := 1 } :: out

/-- The bytes of a view of a capsule, with the index its signature uses. -/
def viewBytes (serial : List Byte) (c : Capsule) (operator : Bool) (granted : List Nat) (idx : Option Nat) : List Byte :=
  let levels := (c.fr.redact.zip (upto 64)).map fun p => viewLevel operator granted p.2 p.1
  let drawn := levels.map (renderLevel operator)
  let secs := c.sections.map fun x => { x with records := renderRecords drawn x.records }
  let shown := drawn.getD c.fr.ctx 0
  let form : CapsuleForm := { view := true, summary := c.summary, plain := !(shown == 1 || shown == 2), sigidx := idx }
  let body := capsuleBody serial c.fr form levels secs
  let digest := shake256 body
  pad4k (body ++ digestBytes digest ++ signDigest false idx (digestBytes digest))

end Sys2Proof.Machine
end

