-- ==== Sys2Proof/Machine/Faults.lean ====
section
/-!
DEFINITION. Storage errors, kills and what follows them, the watchdog, retention and fault notices (28 R358-R367, 13 R208).
-/
namespace Sys2Proof.Machine

/-! ### Kills (R360-R362) -/

/-- CONTEXT_KILL (R361): of a context that an uncontained error ends; its accesses join those of the one kill of all. -/
def contextEnds (ctx : Nat) (s : State) : Option State :=
  if !s.killDue.contains ctx then none
  else
    let s := { s with killDue := s.killDue.filter fun x => x != ctx }
    if !s.ctxLive ctx then some s
    else
      let out := outOfContext s ctx
      let s := endContext s ctx 0x81
      some { s with kills := s.kills.map fun k => if k.ctx == 255 && !k.horizon then { k with out := k.out ++ out } else k }

def execContextKill (ctx : Nat) (s : State) : Host.Outcome State Fault Refusal := happen s (contextEnds ctx s)

/-- KILL_HORIZON (R362): nothing that the context sent is performed after it. The notice follows, if one is asked for.
Log 44 (DEDUCED). -/
def horizonPasses (ctx : Nat) (s : State) : Option State :=
  match s.kills.find? fun k => k.ctx == ctx && !k.horizon with
  | none => none
  | some k =>
      if ctx == 255 && !s.killDue.isEmpty then none
      else
        let done : Kill := { k with horizon := true, out := [] }
        some { s with kills := if s.fnote == 0 then s.kills.filter fun x => x != k
                                else s.kills.map fun x => if x == k then done else x }

def execKillHorizon (ctx : Nat) (s : State) : Host.Outcome State Fault Refusal := happen s (horizonPasses ctx s)

/-- FAULT_NOTICE (R367): the fields, then SEQ in one step. -/
def noticeWrites (s : State) : Option State :=
  match s.kills.find? Kill.horizon with
  | none => none
  | some k =>
      if s.fnote == 0 then none
      else
        let mem := writeBytes s.mem s.fnote (s.serialNo ++ leBytes 4 k.capno ++ leBytes 1 k.cause ++ leBytes 1 k.ctx ++ leBytes 2 0)
        let seq := (readNat mem (s.fnote + 24) 8 + 1) % 2 ^ 64
        some { s with mem := writeNat mem (s.fnote + 24) 8 seq, kills := s.kills.filter fun x => x != k }

def execFaultNotice (s : State) : Host.Outcome State Fault Refusal := happen s (noticeWrites s)

/-- The READY bits that an uncontained error leaves: recorder, signer, mailbox (R360). -/
def readyKept : BitVec 540 := BitVec.ofNat 540 (2 ^ 537 + 2 ^ 538 + 2 ^ 539)

/-- UNCONTAINED_HARDWARE_ERROR (R360): the unit freezes, every context is to be killed, and no launch is accepted until a
device reset. Log 14 (DESIGN CHOICE). -/
def hardwareFails (unit : Nat) (s : State) : Option State :=
  if 389 ≤ unit then none
  else
    let s := startFreeze s unit 0x81 none (Config.errorLocation s.freeCount) false
    let due := (s.ctxs.filter fun p => !p.2.killed).map Prod.fst
    some { s with
      freeCount := s.freeCount + 1, dead := true, ready := s.ready &&& readyKept, killDue := due
      kills := s.kills ++ [{ ctx := 255, cause := 0x81, at' := s.time, capno := s.capno, horizon := false, out := [] }] }

def execUncontainedHardwareError (unit : Nat) (s : State) : Host.Outcome State Fault Refusal := happen s (hardwareFails unit s)

/-- FREEZE (26 R339, R340): of a cause that no context raises. CAPFREEZE's freezes and ends nothing; an uncontained error's is
that error. The freezes of the other causes are part of the steps that find the cause. Log 39 (DEDUCED). -/
def vaultsFreeze (unit cause : Nat) (info : Word) (s : State) : Option State :=
  if cause == 0x82 && unit == hubUnit && info == 0 then some (startFreeze s hubUnit 0x82 none 0 false)
  else if cause == 0x81 then hardwareFails unit s
  else none

def execFreezeVaults (unit cause : Nat) (info : Word) (s : State) : Host.Outcome State Fault Refusal :=
  happen s (vaultsFreeze unit cause info s)

/-! ### The watchdog (R363) -/

/-- WDOG in ticks. -/
def watchdogTicks (s : State) (ctx : Nat) : Nat :=
  match s.desc? ctx with
  | some d => if d.wdog == 0 then 2400000000 else d.wdog.toNat
  | none => 2400000000

/-- The stall reasons whose wait ages. Log 40 (DEDUCED). -/
def Stall.ages : Stall → Bool
  | .barrier | .lock | .rendezvous | .sleep => true
  | _ => false

/-- The age of a strand has reached its context's period. Log 40 (DEDUCED). -/
def watchdogDue (s : State) (m : Me) : Bool := watchdogTicks s m.ctx ≤ m.st.age

/-- WATCHDOG (R363). -/
def watchdogFires (c slot : Nat) (s : State) : Option State :=
  match meAt s c slot with
  | none => none
  | some m => if watchdogDue s m then some (fatal s hubUnit causeWatchdog m.ctx 0) else none

def execWatchdog (c slot : Nat) (s : State) : Host.Outcome State Fault Refusal := happen s (watchdogFires c slot s)

/-! ### Retention (R364, R365) -/

/-- The stall reasons of a strand of an idle cluster. -/
def Stall.rests : Stall → Bool
  | .barrier | .lock | .sleep | .extWait => true
  | _ => false

/-- The cluster holds no block, or only waits (R364). -/
def Cluster.quiet (cl : Cluster) : Bool :=
  cl.blocks.isEmpty
    || (cl.strands.all (fun p => p.2.stall.any Stall.rests) && cl.jobs.isEmpty && cl.tileOps.isEmpty && cl.bankOps.isEmpty
        && cl.sweeps.isEmpty && cl.deliveries.isEmpty && cl.landings.isEmpty)

/-- Idle cc before retention (R364). -/
def retentionEdges : Nat := 38400

/-- The cc for which a cluster has been idle; one that nothing has reached since the last reset has been so since then. -/
def idleEdges (s : State) (c : Nat) : Nat :=
  match s.clusters.get? c with
  | some cl => cl.idle
  | none => (s.time - s.upAt).toNat / 2

/-- RETENTION_ENTRY (R364). Log 25 (DEDUCED). -/
def retentionEnters (c : Nat) (s : State) : Option State :=
  let cl := s.cluster c
  if 384 ≤ c || cl.retained || cl.stopping.isSome || !cl.quiet || idleEdges s c < retentionEdges then none
  else some (s.setCluster c { cl with retained := true, idle := retentionEdges })

def execRetentionEntry (c : Nat) (s : State) : Host.Outcome State Fault Refusal := happen s (retentionEnters c s)

/-- What a strand of a retained cluster waits for has come: a grid barrier's round, a lock, its watch or its timeout. -/
def strandWakes (s : State) (c k : Nat) (st : Strand) : Bool :=
  match st.wait with
  | .gbar r => match s.block? c st.block with
      | some b => (match s.grids.get? b.grid with | some g => g.round != r | none => true)
      | none => true
  | .queued pa => match s.locks.get? (pa / 8 * 8) with
      | some l => l.holder.any fun h => h.cluster == c && h.slot == k
      | none => true
  | .timedOut => true
  | _ => st.regs.watch.any Watch.fired

/-- A wake event has come to a retained cluster (R364). -/
def clusterWakes (s : State) (c : Nat) (cl : Cluster) : Bool :=
  cl.idle == 0 || !cl.quiet || cl.strands.any fun p => strandWakes s c p.1 p.2

/-- The state of a cluster is lost: it freezes without its vault, every context there is killed, and it is zeroed (R365).
Log 39 (DEDUCED). -/
def loseCluster (s : State) (c : Nat) : State :=
  let ctxs := (s.cluster c).residents
  let s := bumpLost (startFreeze s c causeStateLost none (BitVec.ofNat 64 c) true)
  let s := ctxs.foldl (fun s ctx => killContext s ctx causeStateLost) s
  let cl := s.cluster c
  let s := s.setCluster c { Cluster.reset with nextId := cl.nextId, nextBlock := cl.nextBlock }
  { s with ready := s.ready &&& ~~~(BitVec.twoPow 540 c) }

/-- RETENTION_EXIT (R364, R365), once a wake event has come: every loft parity bit is checked first. -/
def retentionEnds (c : Nat) (parityOk : Bool) (s : State) : Option State :=
  let cl := s.cluster c
  if !cl.retained || !clusterWakes s c cl then none
  else if parityOk then some (s.setCluster c { cl with retained := false, idle := 0 })
  else some (loseCluster s c)

def execRetentionExit (c : Nat) (parityOk : Bool) (s : State) : Host.Outcome State Fault Refusal :=
  happen s (retentionEnds c parityOk s)

/-! ### Storage errors (R358) -/

/-- The unit whose vault takes the ECC record, the storage code and the address or index. Log 36 (DEDUCED). -/
def errorPlace : ErrSite → Nat × Nat × Nat
  | .registers c w => (c, 0, w)
  | .tile c _ w => (c, 0, w)
  | .scratchpad c _ w => (c, 1, w)
  | .dieCache pa => (fabricUnit (homeDie pa), 2, pa)
  | .weightStore pa => (fabricUnit (bitsOf pa 35 32 % 4), 3, pa)
  | .vault u i => (u, 5, i)
  | .strongroom h w | .nor h w => (hubUnit, 5, 2 ^ 22 * h + w)

/-- The storage exists. -/
def errorSiteExists (s : State) : ErrSite → Bool
  | .registers c w => c < 384 && ((s.cluster c).blocks.get? (w / blockWords)).isSome
  | .tile c b _ => c < 384 && ((s.cluster c).blocks.get? b).isSome
  | .scratchpad c b w => c < 384 && ((s.cluster c).blocks.get? b).any fun x => 8 * w < x.scratchLen
  | .dieCache pa => isPooled pa && pa < s.poolsz
  | .weightStore pa => frameExists s.poolsz (pa / 4096 * 4096) 4096 && isWeight pa
  | .vault u i => u < 389 && i < vaultSize u
  | .strongroom h w => (s.capsule.toList ++ s.summaries).any fun c => c.handle == h && 8 * w < c.length
  | .nor i w => i < s.nor.length && 8 * w < 4096

/-- A digest that fails to verify. Log 36 (DESIGN CHOICE). -/
def spoiled (n : Nat) (d : BitVec 256) : BitVec 256 := if Config.spoiledDigest n == d then ~~~d else Config.spoiledDigest n

/-- The digest of a summary in NOR, which follows its header and redaction map, fails to verify. -/
def spoiledBytes (n : Nat) (bs : List Byte) : List Byte :=
  bs.take 384 ++ digestBytes (spoiled n (BitVec.ofNat 256 (leNat ((bs.drop 384).take 32)))) ++ bs.drop 416

/-- An uncorrectable error: the granule is poisoned; a vault's record goes into the capsule with TYPE 0; the digest of a capsule
fails to verify. -/
def strike (s : State) : ErrSite → State
  | .vault u i => s.setVault u { s.vault u with slots := (s.vault u).slots.modify i fun r => { r with type := 0 } }
  | .strongroom h _ =>
      let spoil := fun (c : Capsule) => if c.handle == h then { c with digest := spoiled s.freeCount c.digest } else c
      { s with capsule := s.capsule.map spoil, summaries := s.summaries.map spoil, freeCount := s.freeCount + 1 }
  | .nor i _ =>
      { s with nor := s.nor.modify i fun b => b.map (spoiledBytes s.freeCount), freeCount := s.freeCount + 1 }
  | e => if s.poison.contains e then s else { s with poison := s.poison ++ [e] }

/-- An ECC record (26 R336). -/
def eccRecord (s : State) (unit code : Nat) (uncorrectable : Bool) (at' : Nat) : State :=
  record s unit 0x32 0 0 0 (payload [(52, at'), (7, 0), (1, bit01 uncorrectable), (4, code)])

/-- SOFT_ERROR (R358, R366). -/
def errorStrikes (site : ErrSite) (correctable : Bool) (s : State) : Option State :=
  if !errorSiteExists s site then none
  else
    let (unit, code, at') := errorPlace site
    let s := eccRecord s unit code (!correctable) at'
    some (if correctable then bumpCorr s else strike (bumpUncor s) site)

def execSoftError (site : ErrSite) (correctable : Bool) (s : State) : Host.Outcome State Fault Refusal :=
  happen s (errorStrikes site correctable s)

/-! ### Refresh (13 R208) -/

/-- A bank group of a die is refreshing. -/
def refreshing (s : State) (die group : Nat) : Bool :=
  (s.time.toNat + 76800 * 2 - s.phases.toList.getD die 0 - 1200 * group) % 76800 < 96

/-- REFRESH_WINDOW (R208): in its window the group is refreshed and scrubbed; that changes no value (R358). -/
def windowOpens (die group : Nat) (s : State) : Option State :=
  if 4 ≤ die || 64 ≤ group || !refreshing s die group then none else some s

def execRefreshWindow (die group : Nat) (s : State) : Host.Outcome State Fault Refusal := happen s (windowOpens die group s)

end Sys2Proof.Machine
end

