-- ==== Sys2Proof/Machine/Device.lean ====
section
/-!
DEFINITION. The die links' cellars, the pool's snoops, and what the host writes through BAR0: doorbells, the partition table
and the mailbox pages (25 R323-R330, 24 R311-R313, 29 R373).
-/
namespace Sys2Proof.Machine

/-! ### Tokens (R325) -/

/-- The token that was sent last on a way, where none of the way lies in a cellar: those sent after a spilled one are spilled as they
are sent. Log 50 (DEDUCED). -/
def newestToken (s : State) (sender receiver : Nat) (reply : Bool) : Option Token :=
  let on := fun (t : Token) => t.sender == sender && t.receiver == receiver && t.reply == reply
  if s.cellar.any on then none else (s.links.filter on).getLast?

/-- TOKEN_SPILL (R325): the receiver's buffer is full, and the token waits in the cellar of the die that made the request. -/
def tokenSpills (sender receiver : Nat) (reply : Bool) (s : State) : Option State :=
  if sender == receiver then none else (newestToken s sender receiver reply).map (spill s)

def execTokenSpill (sender receiver : Nat) (reply : Bool) (s : State) : Host.Outcome State Fault Refusal :=
  happen s (tokenSpills sender receiver reply s)

/-- TOKEN_PULL (R325): the oldest token of the triple leaves the cellar, as the notice asks. -/
def tokenPulls (sender receiver : Nat) (reply : Bool) (s : State) : Option State :=
  (s.cellar.find? fun t => t.sender == sender && t.receiver == receiver && t.reply == reply).map fun t =>
    { s with cellar := s.cellar.erase t, notices := takeNotice s.notices t }

def execTokenPull (sender receiver : Nat) (reply : Bool) (s : State) : Host.Outcome State Fault Refusal :=
  happen s (tokenPulls sender receiver reply s)

/-! ### Snoops (R330) -/

/-- BACK_INVALIDATE (R330, R331): another package writes bytes of a line of the pool. The home slice that holds the line gives it
up before the pool answers, and what is read of it next is what the pool holds. A line that no slice holds changes in the pool
alone. Log 44 (DEDUCED). -/
def lineInvalidates (line : Nat) (bytes : List Byte) (s : State) : Option State :=
  if s.poolsz ≤ 128 * line || 128 < bytes.length then none
  else some { s with sharedLines := s.sharedLines.filter fun l => l != line, mem := writeBytes s.mem (128 * line) bytes }

def execBackInvalidate (line : Nat) (bytes : List Byte) (s : State) : Host.Outcome State Fault Refusal :=
  happen s (lineInvalidates line bytes s)

/-! ### Host doorbells (R328) -/

/-- Doorbell words of the device: 2,048 pages of 512 (R327, 13 R210). -/
def bellWords : Nat := 2048 * 512

/-- The physical address of a doorbell word. -/
def bellAddress (word : Nat) : Nat := 12 * 2 ^ 48 + 8 * word

/-- DOORBELL_HOST_WRITE (R328). -/
def hostRings (word : Nat) (value : Word) (s : State) : Option State :=
  if bellWords ≤ word then none else some (ringBell s (bellAddress word) value.toNat)

def execDoorbellHostWrite (word : Nat) (value : Word) (s : State) : Host.Outcome State Fault Refusal := happen s (hostRings word value s)

/-! ### Partitions (R311-R313) -/

/-- PART and CLUSTER_RAIL of an entry. -/
def entryPart (e : Word) : Nat := bitsOf e.toNat 9 8
def entryRail (e : Word) : Nat := bitsOf e.toNat 1 0

/-- A saved image that only this cluster could take (R312). -/
def imageOnly (s : State) (c : Nat) : Bool :=
  s.ctxs.any fun p => !p.2.images.isEmpty && walkClusters s (ctxPart s p.1) == [c]

/-- The status of one cluster of the staged table (R312): its regulator feeds a lower cluster of another partition, or it is
in use and would change. Log 42 (DEDUCED). -/
def stagedStatus (s : State) (c : Nat) : Nat :=
  let e := s.stagedEntry c
  let clash := (upto c).any fun d =>
    entryRail (s.stagedEntry d) == entryRail e && entryPart (s.stagedEntry d) != entryPart e
  let old := s.activeEntry c
  let changes := entryRail old != entryRail e || entryPart old != entryPart e
  if clash then 0x17
  else if changes && (!(s.cluster c).blocks.isEmpty || imageOnly s c) then 0x18
  else 0

/-- PSTAT (R313). -/
def partitionStatus (first status : Nat) : Word := payload [(8, status), (1, 1), (9, first)]

/-- PARTITION_COMMIT (R313): the whole staged table becomes ACTIVE, or nothing changes. Log 42 (DEDUCED). -/
def execPartitionCommit (value : Word) (s : State) : Host.Outcome State Fault Refusal :=
  if value != 1 || !s.pstat.getLsbD 8 then .next s
  else match (upto 384).find? fun c => stagedStatus s c != 0 with
    | some c => .next { s with pstat := partitionStatus c (stagedStatus s c) }
    | none => .next { s with active := s.staged, pstat := partitionStatus 0 0 }

/-! ### The mailbox pages (29 R373) -/

/-- Writes a mailbox page. -/
def State.modPage (s : State) (page0 : Bool) (f : MboxPage → MboxPage) : State :=
  if page0 then { s with page0 := f s.page0 } else { s with page1 := f s.page1 }

def State.page (s : State) (page0 : Bool) : MboxPage := if page0 then s.page0 else s.page1

/-- A dropped access is counted (R327, R328, R373). -/
def countDrop (s : State) (page0 : Bool) : State := s.modPage page0 fun p => { p with errcnt := p.errcnt + 1 }

/-- Some bytes of a 64-bit register written, at their place. -/
def mergeWord (old : Word) (at' : Nat) (data : List Byte) : Word :=
  BitVec.ofNat 64 (leNat ((upto 8).map fun i =>
    if at' ≤ i then data.getD (i - at') (BitVec.ofNat 8 (old.toNat / 2 ^ (8 * i))) else BitVec.ofNat 8 (old.toNat / 2 ^ (8 * i))))

/-- Bytes written from an address on into an area of a size that takes writes of any size; what lies outside it is left out. -/
def putArea (m : SMap Byte) (base size at' : Nat) : List Byte → SMap Byte
  | [] => m
  | b :: bs => putArea (if base ≤ at' && at' < base + size then m.setD 0 (at' - base) b else m) base size (at' + 1) bs

/-- Bytes of such an area. -/
def areaBytes (m : SMap Byte) (at' n : Nat) : List Byte := (upto n).map fun i => m.getD 0 (at' + i)

/-- GO: the command is taken, and DONE is clear until it has been served (R373); before MBOX is ready it ends with NOTREADY at once
(29 R370). Log 22 (DESIGN CHOICE). -/
def goWrite (s : State) (page0 : Bool) : State :=
  let p := s.page page0
  if !p.status.getLsbD 8 then countDrop s page0
  else if !s.ready.getLsbD 539 then
    s.modPage page0 fun p => { p with status := payload [(8, 0x03), (1, 1), (23, 0), (32, bitsOf p.cmd.toNat 63 32)], result := [] }
  else
    let n := bitsOf p.cmd.toNat 31 16
    let r : Request := { page0 := page0, code := bitsOf p.cmd.toNat 15 0, tag := BitVec.ofNat 32 (bitsOf p.cmd.toNat 63 32),
                         params := areaBytes p.params 0 (min n 4097) }
    { s.modPage page0 (fun p => { p with status := p.status &&& ~~~0x100 }) with server := s.server ++ [r] }

/-- A write of bytes that reaches a register is dropped: wider than 64 bits, not aligned to its size, or over two of them (R327). -/
def badWrite (offset bytes : Nat) : Bool :=
  bytes != 0 && (8 < bytes || offset % bytes != 0 || offset / 8 != (offset + bytes - 1) / 8)

/-- A malformed write that covers a byte of a register, as `reg` knows them, is counted; one that covers none is ignored (R327). -/
def dropWrite (s : State) (reg : Nat → Bool) (offset bytes : Nat) : State :=
  if (upto bytes).any fun i => reg (offset + i) then countDrop s true else s

/-- Bytes of the registers of a mailbox page and of the partition window (R313, R373). -/
def mailboxReg (at' : Nat) : Bool := at' < 0x18 || (0x3000 ≤ at' && at' < 0x3008)
def partitionReg (at' : Nat) : Bool := at' < 0xC00 || (0x1000 ≤ at' && at' < 0x1C00) || (0x2000 ≤ at' && at' < 0x2018)

/-- Bytes of the words of the READY map (29 R369). -/
def readyReg (at' : Nat) : Bool := at' < 0x48

/-- The number that at most eight bytes make. -/
def dataWord (data : List Byte) : Word := BitVec.ofNat 64 (leNat data)

/-- A write to a mailbox page. Log 22 (DESIGN CHOICE). -/
def mailboxWrite (s : State) (page0 : Bool) (at' : Nat) (data : List Byte) : State :=
  let s := if at' < 0x2000 then s.modPage page0 fun p => { p with params := putArea p.params 0x1000 0x1000 at' data } else s
  if badWrite at' data.length then dropWrite s mailboxReg at' data.length
  else if at' < 8 then s.modPage page0 fun p => { p with cmd := mergeWord p.cmd at' data }
  else if at' == 0x3000 && data.length == 8 then goWrite s page0
  else s

/-! ### Register writes (R327) -/

/-- A write to the partition window: STAGED, whose PART and CLUSTER_RAIL alone are writable, or COMMIT (R313). -/
def partitionWrite (s : State) (at' : Nat) (data : List Byte) : Host.Outcome State Fault Refusal :=
  if badWrite at' data.length then .next (dropWrite s partitionReg at' data.length)
  else if data.length != 8 then .next s
  else if 0x1000 ≤ at' && at' < 0x1C00 then
    let c := (at' - 0x1000) / 8
    .next { s with staged := s.staged.setD (BitVec.ofNat 64 (c / 96)) c (dataWord data &&& 0x303) }
  else if at' == 0x2000 then execPartitionCommit (dataWord data) s
  else .next s

/-- A write to DROOP_TH of a cluster by the hub, and to BPC i of a context by its driver (24 R319, 15 R251).
Log 22 (DESIGN CHOICE). -/
def systemWrite (s : State) (at' : Nat) (value : Word) : State :=
  if at' < 0x10000 then
    let c := at' / 8
    if c < 384 then
      s.modCluster c fun cl => { cl with power := { cl.power with en := value.getLsbD 16, th := bitsOf value.toNat 15 0 } }
    else s
  else
    let n := (at' - 0x10000) / 8
    s.modCtx (n / 8) fun x =>
      { x with bpc := x.bpc.setIfInBounds (n % 8) (if value.getLsbD 63 then some (value.truncate 57) else none) }

/-- REGISTER_WRITE (R327): the host writes a value of a number of bytes, the low one first, at an offset of BAR0. From
0x100_0000 on stand the system registers that no BAR0 offset reaches, as the log numbers them. Log 22 (DESIGN CHOICE). -/
def execRegisterWrite (offset bytes value : Nat) (s : State) : Host.Outcome State Fault Refusal :=
  let data := leBytes bytes value
  let word := data.length == 8 && offset % 8 == 0
  if offset < 0x10000 then .next (mailboxWrite s (offset < 0x8000) (offset % 0x8000) data)
  else if offset < 0x11000 then
    .next (if badWrite offset bytes then dropWrite s readyReg (offset - 0x10000) bytes else s)
  else if 0x40000 ≤ offset && offset < 0x50000 then .next { s with fwWindow := putArea s.fwWindow 0x40000 0x10000 offset data }
  else if 0x50000 ≤ offset && offset < 0x60000 then partitionWrite s (offset - 0x50000) data
  else if 0x800000 ≤ offset && offset < 0x1000000 then
    if word then execDoorbellHostWrite ((offset - 0x800000) / 8) (dataWord data) s else .next (countDrop s true)
  else if 0x1000000 ≤ offset && offset < 0x1020000 then
    .next (if word then systemWrite s (offset - 0x1000000) (dataWord data) else countDrop s true)
  else .next s

/-! ### Reads of BAR0 (R327, R328) -/

/-- A byte of a 64-bit register. -/
def wordByte (w : Word) (i : Nat) : Byte := BitVec.ofNat 8 (w.toNat / 2 ^ (8 * (i % 8)))

/-- A byte of a mailbox page (R373). -/
def pageByte (p : MboxPage) (at' : Nat) : Byte :=
  if at' < 0x08 then wordByte p.cmd at'
  else if at' < 0x10 then wordByte p.status at'
  else if at' < 0x18 then wordByte (BitVec.ofNat 64 p.errcnt) at'
  else if at' < 0x1000 then 0
  else if at' < 0x2000 then p.params.getD 0 (at' - 0x1000)
  else if at' < 0x3000 then p.result.getD (at' - 0x2000) 0
  else 0

/-- CEIL: the throttle ceilings of the regulators (R313). -/
def ceilWord (s : State) : Word := payload (s.ceil.toList.map fun n => (8, n))

/-- A byte of the partition window (R313). -/
def partitionByte (s : State) (at' : Nat) : Byte :=
  if at' < 0xC00 then wordByte (s.activeEntry (at' / 8)) at'
  else if 0x1000 ≤ at' && at' < 0x1C00 then wordByte (s.stagedEntry ((at' - 0x1000) / 8)) at'
  else if 0x2008 ≤ at' && at' < 0x2010 then wordByte s.pstat at'
  else if 0x2010 ≤ at' && at' < 0x2018 then wordByte (ceilWord s) at'
  else 0

/-- What a host read finds at an offset of BAR0; a read has no side effects (R327, R328, 29 R369, R373). -/
def barByte (s : State) (offset : Nat) : Byte :=
  if offset < 0x10000 then pageByte (s.page (offset < 0x8000)) (offset % 0x8000)
  else if offset < 0x11000 then BitVec.ofNat 8 (s.ready.toNat / 2 ^ (8 * (offset - 0x10000)))
  else if 0x20000 ≤ offset && offset < 0x30000 then s.capWindow.getD (offset - 0x20000) 0
  else if 0x30000 ≤ offset && offset < 0x40000 then s.attWindow.getD (offset - 0x30000) 0
  else if 0x40000 ≤ offset && offset < 0x50000 then s.fwWindow.getD 0 (offset - 0x40000)
  else if 0x50000 ≤ offset && offset < 0x60000 then partitionByte s (offset - 0x50000)
  else if 0x800000 ≤ offset && offset < 0x1000000 then (bellBytes s (12 * 2 ^ 48 + (offset - 0x800000)) 1).headD 0
  else 0

/-- A host read of `n` bytes at an offset of BAR0. -/
def barRead (s : State) (offset n : Nat) : List Byte := (upto n).map fun i => barByte s (offset + i)

end Sys2Proof.Machine
end

