-- ==== Sys2Proof/Machine/Queue.lean ====
section
/-!
DEFINITION. The queue engine: starting and ending packets, the bytecode, and the acceptance of a launch (21 R276-R287).
-/
namespace Sys2Proof.Machine

/-! ### Acceptance of a launch (R284, R285) -/

/-- A grid awaits placement: some of its blocks have not been placed, or its dimensions are not known. -/
def Grid.awaits (g : Grid) : Bool :=
  !g.closed && match g.dims with
    | none => true
    | some (gx, gy, gz) => g.placed < gx * gy * gz

/-- Grids the dispatcher holds. -/
def awaiting (s : State) : Nat := (s.grids.filter fun p => p.2.awaits).length

/-- The grid dimensions known at acceptance: of the record, or of a dimension block without PSIG (R284). -/
def dimsAtOnce (s : State) (ctx : Nat) (l : Launch) : Option (Nat × Nat × Nat) :=
  if !l.ind then some (gridDims l.grid.toNat)
  else if hubNat s ctx (l.grid.toNat + 8) 8 == 0 then some (gridDims (hubNat s ctx l.grid.toNat 8))
  else none

/-- A launch is refused (R285, R286): a LAUNCH record, the signal, and a child that counts as completed. -/
def refuseLaunch (s : State) (ctx va : Nat) (l : Launch) (status : Nat) (parent : Option Nat) : State :=
  let s := launchRecord s 1 ctx va l.depth status
  let s := (signalGrid s ctx l.sigp status).1
  match parent with
  | none => s
  | some g => settle (s.modGrid g fun x => { x with children := x.children - 1 }) g

/-- A launch is accepted: a grid record (R274, R287). -/
def acceptLaunch (s : State) (ctx va : Nat) (l : Launch) (dims : Option (Nat × Nat × Nat)) (parent : Option Nat) : State :=
  let n := s.fresh
  let before := match s.ctx? ctx with | some x => x.grids | none => 0
  let g : Grid := { rec' := l, va := va, dims := dims, parent := parent, children := 0, placed := 0, retired := 0,
                    closed := false, status := 0, accepted := n, gseq := before, round := 0 }
  let s := { s with grids := s.grids.set n g, fresh := n + 1 }
  let s := s.modCtx ctx fun x => { x with grids := (x.grids + 1) % 2 ^ 32 }
  settle (launchRecord s 0 ctx va l.depth 0) n

/-- A launch from the record at an address of a context, with its status (R285). -/
def launchFrom (s : State) (ctx va : Nat) (parent : Option Nat) : State × Nat :=
  if va % 256 != 0 || !rangeOk s ctx .load va 256 then
    (refuseLaunch s ctx va { parseLaunch (List.replicate 256 0) with sigp := 0 } 0x10 parent, 0x10)
  else
    let bs := hubBytes s ctx va 256
    let l := parseLaunch bs
    let s := hubHolds s ctx va 256
    let s := if l.ind then hubHolds s ctx l.grid.toNat 24 else s
    let dims := dimsAtOnce s ctx l
    let status := launchStatus s ctx bs (l.fmts.toList.all slotValid) dims
    if status == 0 then (acceptLaunch s ctx va l dims parent, 0) else (refuseLaunch s ctx va l status parent, status)

/-! ### The end of a packet (R277, R280, R281) -/

/-- The ring entry of the packet at HEAD (R275). -/
def Queue.entry (r : Queue) : Nat := r.rbase + 256 * (r.head.toNat % 2 ^ r.rlog)

/-- A packet of a queue ends without a launch operation that resolved its submission: a refused child (R281). -/
def resolveSubmission (s : State) (r : Queue) (p : Packet) : State :=
  match p.sub with
  | none => s
  | some (parent, sigp) => refuseSubmission s r.ctx r.entry parent sigp 0x22

/-- A QPKT record (26 R336). Log 37 (DEDUCED). -/
def packetRecord (s : State) (r : Queue) (status index : Nat) : State :=
  record s hubUnit 0x0E r.ctx 0 0
    (payload [(32, r.head.toNat % 2 ^ 32), (6, r.slot.getD 0), (2, 0), (16, index), (8, status)])

/-- A packet ends with a status at an operation (R280): STAT, then HEAD (R277), and OVERRUN where the queue is to stop.
Log 37 (DEDUCED). -/
def endPacket (s : State) (q status index : Nat) : State :=
  match s.queues.get? q with
  | none => s
  | some r =>
      let s := packetRecord s r status index
      let s := writeStat s q status index
      let s := s.modQueue q fun r => { r with packet := none, head := r.head + 1 }
      let s := hubStore s r.ctx (r.va + 16) 8 (r.head + 1).toNat
      let s := match r.packet with | some p => resolveSubmission s r p | none => s
      if r.stopped then writeStat s q 0x04 0 else s

/-- A packet is abandoned with status DEREG: HEAD is not advanced (R280). -/
def abandonPacket (s : State) (q : Nat) : State :=
  match s.queues.get? q with
  | none => s
  | some r =>
      match r.packet with
      | none => s
      | some p =>
          let s := packetRecord s r 0x06 p.index
          let s := writeStat s q 0x06 p.index
          let s := resolveSubmission (s.modQueue q fun r => { r with packet := none }) r p
          if r.stopped then writeStat s q 0x04 0 else s

/-! ### The start of a packet -/

/-- The engine may start a packet of the queue (R276). -/
def Queue.startable (s : State) (r : Queue) : Bool :=
  s.ready.getLsbD 535 && r.slot.isSome && !r.stopped && r.packet.isNone && r.waits s && s.ctxLive r.ctx

/-- A poisoned line among bytes that the engine reads (28 R359). -/
def rangePoison (s : State) (ctx va n : Nat) : Option Nat :=
  if s.poison.isEmpty then none
  else (upto n).findSome? fun i => match hubPa s ctx .load (va + i) with
    | some pa => if poisonedAt s pa then some pa else none
    | none => none

/-- The unit that detects poison at a physical address: of the die of a weight store, or of the home slice (26 R339). -/
def poisonUnit (pa : Nat) : Nat := fabricUnit (if isWeight pa then bitsOf pa 35 32 % 4 else homeDie pa)

/-- The queue engine reads poison: its context ends (28 R359). -/
def enginePoison (s : State) (ctx pa : Nat) : State := fatal s (poisonUnit pa) causeEcc ctx (physLocation pa)

/-- Registers at the start of a packet (R278). -/
def packetRegs (head : Word) : Vector Word 8 := (Vector.replicate 8 0).set 7 head

/-- QUEUE_SLOT_MAP (R276). -/
def slotMaps (q : Nat) (s : State) : Option State :=
  if nextUnmapped s != some q || ((freeSlot s).isNone && (idleVictim s).isNone) then none
  else some (mapQueue s q)

def execQueueSlotMap (q : Nat) (s : State) : Host.Outcome State Fault Refusal := happen s (slotMaps q s)

/-! ### One operation (R278, R280) -/

/-- q0 reads 0. -/
def Packet.get (p : Packet) (n : BitVec 3) : Word := if n = 0 then 0 else p.regs[n.toNat]'n.isLt

/-- Writes to q0 are discarded. -/
def Packet.put (p : Packet) (n : BitVec 3) (v : Word) : Packet :=
  if n = 0 then p else { p with regs := p.regs.set n.toNat v n.isLt }

/-- IMM, sign-extended. -/
def qeImm (o : QeOps) : Word := o.imm.signExtend 64

/-- What an operation comes to. -/
inductive QEff where
  /-- it has its effect, and the next operation is at this index -/
  | go (s : State) (p : Packet) (index : Nat)
  /-- it waits, and holds no interpreter while it does -/
  | wait (s : State)
  /-- the packet ends with this status -/
  | stop (status : Nat)
  /-- it reads poison at this physical address -/
  | poison (pa : Nat)
  /-- a memory port that it needs is not ready: it is not executed yet -/
  | hold
  deriving DecidableEq, Repr

/-- The index after an operation, at the end of a loop's body (R278): the body's first again while repetitions are left. -/
def Packet.follow (p : Packet) (next : Nat) : Packet :=
  match p.rep with
  | some (first, len, left) =>
      if next < first + len then { p with index := next }
      else if 1 < left then { p with index := first, rep := some (first, len, left - 1) }
      else { p with index := next, rep := none }
  | none => { p with index := next }

/-- The packet after an operation. -/
def putPacket (s : State) (q : Nat) (p : Packet) : State :=
  { s.modQueue q (fun r => { r with packet := some p, used := s.fresh }) with fresh := s.fresh + 1 }

/-- One operation of the current packet: its step is counted, and the 257th ends the packet (R280). Log 41 (DEDUCED). -/
def qeRun (s : State) (k : Nat → Queue → Packet → QEff) : Host.Outcome State Fault Refusal :=
  match s.curQ.bind fun q => (s.queues.get? q).bind fun r => r.packet.map fun p => (q, r, p) with
  | none => .fault .noPacket
  | some (q, r, p) =>
      if !p.counted && 256 ≤ p.steps then .next (endPacket s q 0x01 p.index)
      else
        let p := if p.counted then p else { p with steps := p.steps + 1 }
        match k q r p with
        | .go s' p' next => .next (putPacket s' q (({ p' with counted := false, parked := false } : Packet).follow next))
        | .wait s' => .next (putPacket s' q { p with counted := true, parked := true })
        | .stop status => .next (endPacket s q status (if status == 0 then 0 else p.index))
        | .poison pa => .next (enginePoison s r.ctx pa)
        | .hold => .next s

/-- An operation that writes a register and goes on. -/
def qeSet (s : State) (d : BitVec 3) (f : Packet → Word) : Host.Outcome State Fault Refusal :=
  qeRun s fun _ _ p => .go s (p.put d (f p)) (p.index + 1)

/-- A transfer: to the current index + IMM where the relation holds. -/
def qeJump (s : State) (o : QeOps) (taken : Packet → Bool) : Host.Outcome State Fault Refusal :=
  qeRun s fun _ _ p => .go s p (if taken p then p.index + o.imm.toNat else p.index + 1)

/-- The physical address of a window operand: aligned, inside the window, allowed by its bits and by the page (R278). -/
def windowPa (s : State) (r : Queue) (p : Packet) (o : QeOps) (align n : Nat) (read write : Bool) (need : Need) :
    Option (Nat × Nat) :=
  match r.wins[o.w.toNat]? with
  | none => none
  | some w =>
      let va := (BitVec.ofNat 64 w.base + p.get o.a + qeImm o).toNat
      if va % align != 0 || va < w.base || w.base + w.len < va + n || (read && !w.r) || (write && !w.w) then none
      else (hubPa s r.ctx need va).map fun pa => (va, pa)

/-- An operation on a window word (R278); WINDOW where its operand breaks the rules. A doorbell page takes no window store, which is
neither `st.b64` nor `sst.b64` (13 R205). -/
def qeWindow (s : State) (o : QeOps) (read write : Bool) (need : Need) (k : State → Packet → Nat → QEff) :
    Host.Outcome State Fault Refusal :=
  qeRun s fun _ r p => match windowPa s r p o 8 8 read write need with
    | none => .stop 0x02
    | some (va, pa) =>
        if !portReady s pa then .hold
        else if read && poisonedAt s pa then .poison pa
        else k (hubHolds s r.ctx va 8) p pa

def execQeLdp (o : QeOps) (s : State) : Host.Outcome State Fault Refusal :=
  qeSet s o.d fun p => BitVec.ofNat 64 (fieldAt p.bytes o.imm.toNat 8)

def execQeLdw (o : QeOps) (s : State) : Host.Outcome State Fault Refusal :=
  qeWindow s o true false .load fun s p pa => .go s (p.put o.d (BitVec.ofNat 64 (seenNat s pa 8))) (p.index + 1)

def execQeStw (o : QeOps) (s : State) : Host.Outcome State Fault Refusal :=
  qeWindow s o false true (.store false) fun s p pa => .go (storeNat s pa 8 (p.get o.b).toNat) p (p.index + 1)

def execQeLdi (o : QeOps) (s : State) : Host.Outcome State Fault Refusal := qeSet s o.d fun _ => qeImm o
def execQeMov (o : QeOps) (s : State) : Host.Outcome State Fault Refusal := qeSet s o.d fun p => p.get o.a
def execQeAdd (o : QeOps) (s : State) : Host.Outcome State Fault Refusal := qeSet s o.d fun p => p.get o.a + p.get o.b
def execQeAddi (o : QeOps) (s : State) : Host.Outcome State Fault Refusal := qeSet s o.d fun p => p.get o.a + qeImm o
def execQeSub (o : QeOps) (s : State) : Host.Outcome State Fault Refusal := qeSet s o.d fun p => p.get o.a - p.get o.b
def execQeAnd (o : QeOps) (s : State) : Host.Outcome State Fault Refusal := qeSet s o.d fun p => p.get o.a &&& p.get o.b
def execQeOr (o : QeOps) (s : State) : Host.Outcome State Fault Refusal := qeSet s o.d fun p => p.get o.a ||| p.get o.b
def execQeShl (o : QeOps) (s : State) : Host.Outcome State Fault Refusal :=
  qeSet s o.d fun p => p.get o.a <<< (o.imm.toNat % 64)
def execQeShr (o : QeOps) (s : State) : Host.Outcome State Fault Refusal :=
  qeSet s o.d fun p => p.get o.a >>> (o.imm.toNat % 64)

def execQeBeq (o : QeOps) (s : State) : Host.Outcome State Fault Refusal := qeJump s o fun p => p.get o.a == p.get o.b
def execQeBne (o : QeOps) (s : State) : Host.Outcome State Fault Refusal := qeJump s o fun p => p.get o.a != p.get o.b
def execQeBltu (o : QeOps) (s : State) : Host.Outcome State Fault Refusal := qeJump s o fun p => (p.get o.a).ult (p.get o.b)
def execQeBgeu (o : QeOps) (s : State) : Host.Outcome State Fault Refusal := qeJump s o fun p => (p.get o.b).ule (p.get o.a)
def execQeJmpf (o : QeOps) (s : State) : Host.Outcome State Fault Refusal := qeJump s o fun _ => true

/-- `loop n, len`: the next len operations run n times. -/
def execQeLoop (o : QeOps) (s : State) : Host.Outcome State Fault Refusal :=
  qeRun s fun _ _ p => .go s { p with rep := some (p.index + 1, o.loopLen, o.loopN) } (p.index + 1)

/-- `waitsig`: an acquire once the word has reached the value; it counts one step (R280). -/
def execQeWaitsig (o : QeOps) (s : State) : Host.Outcome State Fault Refusal :=
  qeWindow s o true false .load fun s p pa =>
    if (p.get o.b).toNat ≤ seenNat s pa 8 then .go s p (p.index + 1) else .wait s

/-- The ports of the record and of its dimension block are ready. -/
def launchReady (s : State) (ctx va : Nat) : Bool :=
  let l := parseLaunch (hubBytes s ctx va 256)
  hubReady s ctx va 256 && (!l.ind || hubReady s ctx l.grid.toNat 24)

/-- A launch operation: it waits while the dispatcher holds 256 grids; the first of a packet resolves its submission
(R278, R281). -/
def qeLaunchAt (s : State) (d : BitVec 3) (r : Queue) (p : Packet) (va : Nat) : QEff :=
  if 256 ≤ awaiting s then .wait s
  else if !launchReady s r.ctx va then .hold
  else
    let (s, status) := launchFrom s r.ctx va (p.sub.map Prod.fst)
    .go s ({ p.put d (BitVec.ofNat 64 status) with sub := none }) (p.index + 1)

def execQeLaunch (o : QeOps) (s : State) : Host.Outcome State Fault Refusal :=
  qeRun s fun _ r p => match windowPa s r p o 256 256 true false .load with
    | none => .stop 0x02
    | some (va, pa) =>
        if !portReady s pa then .hold
        else match poisonedIn s pa 256 with
          | some q => .poison q
          | none => qeLaunchAt s o.d r p va

def execQeLaunchp (o : QeOps) (s : State) : Host.Outcome State Fault Refusal :=
  qeRun s fun _ r p => qeLaunchAt s o.d r p r.entry

/-- `signal`: one atomic addition, a release for the packet's earlier operations. -/
def execQeSignal (o : QeOps) (s : State) : Host.Outcome State Fault Refusal :=
  qeWindow s o true true .atomic fun s p pa =>
    .go (storeNat s pa 8 ((seenNat s pa 8 + (p.get o.b).toNat) % 2 ^ 64)) p (p.index + 1)

/-- `advance`: the packet ends with status OK. -/
def execQeAdvance (_ : QeOps) (s : State) : Host.Outcome State Fault Refusal := qeRun s fun _ _ _ => .stop 0x00

/-- `fence`: window stores and signals are performed in order here, so it only goes on. -/
def execQeFence (_ : QeOps) (s : State) : Host.Outcome State Fault Refusal :=
  qeRun s fun _ _ p => .go s p (p.index + 1)

/-! ### Interpreters (R276) -/

/-- The operation that a parked packet waits in. -/
def parkedOp (r : Queue) (p : Packet) : Option Instr :=
  if !p.parked then none
  else (r.ops[p.index]?).bind fun w => (decodeOp w.toNat).toOption

/-- What a parked packet waits for has come: the word has reached its value or can no longer be read, or the dispatcher has room. -/
def waitHolds (s : State) (r : Queue) (p : Packet) : Bool :=
  match parkedOp r p with
  | some (.qeWaitsig o) => match windowPa s r p o 8 8 true false .load with
    | none => true
    | some (_, pa) => (p.get o.b).toNat ≤ seenNat s pa 8
  | some (.qeLaunch _) | some (.qeLaunchp _) => awaiting s < 256
  | _ => false

/-- The queue can take an interpreter: for a packet that starts, or for one whose wait is over. -/
def Queue.takes (s : State) (r : Queue) : Bool := r.startable s || r.packet.any fun p => waitHolds s r p

/-- Interpreters in use: packets under way that do not wait. -/
def interpreters (s : State) : Nat := (s.queues.filter fun p => p.2.packet.any fun k => !k.parked).length

/-- Queues in the order in which the engine serves them: by PRI, and round robin within a class. -/
def servedOrder (l : SMap Queue) : List (Nat × Queue) := sortBy (fun p => p.2.pri * 2 ^ 64 + p.2.used) l

/-- The queue that is given an interpreter next. -/
def nextServed (s : State) : Option Nat := ((servedOrder (s.queues.filter fun p => p.2.takes s)).head?).map Prod.fst

/-- The queue is the next to be given an interpreter, and one of the four is free. -/
def servedNow (s : State) (q : Nat) : Bool := interpreters s < 4 && nextServed s == some q

/-- The packet at HEAD as it starts: of a device launch queue it carries the submission (R281). -/
def newPacket (s : State) (r : Queue) : Packet :=
  { regs := packetRegs r.head, index := 0, steps := 0, rep := none, bytes := [], counted := false, parked := false
    sub := if r.dev then (s.ctx? r.ctx).bind fun x => x.subs.get? r.head.toNat else none }

/-- PACKET_START (R278, R280). -/
def packetStarts (q : Nat) (s : State) : Option State :=
  ((s.queues.get? q).filter fun r => r.startable s && servedNow s q && hubReady s r.ctx r.entry 256 && hubReady s r.ctx r.va 64).map
  fun r =>
    let p := newPacket s r
    let s := if r.dev then s.modCtx r.ctx fun x => { x with subs := x.subs.del r.head.toNat } else s
    let s := { s.modQueue q (fun r => { r with packet := some p, used := s.fresh }) with fresh := s.fresh + 1 }
    if !rangeOk s r.ctx .load r.entry 256 then endPacket s q 0x05 0
    else match rangePoison s r.ctx r.entry 256 with
      | some pa => enginePoison s r.ctx pa
      | none => hubHolds (s.modQueue q fun r => { r with packet := some { p with bytes := hubBytes s r.ctx r.entry 256 } })
          r.ctx r.entry 256

def execPacketStart (q : Nat) (s : State) : Host.Outcome State Fault Refusal := happen s (packetStarts q s)

/-- The engine tests the condition of a packet that waits in `waitsig`: the line of its word is held (25 R330). -/
def pollQueue (s : State) (r : Queue) : State :=
  match r.packet.bind fun p => (parkedOp r p).map fun i => (p, i) with
  | some (p, .qeWaitsig o) => match windowPa s r p o 8 8 true false .load with
    | some (va, pa) => if portReady s pa then hubHolds s r.ctx va 8 else s
    | none => s
  | _ => s

/-- WAITSIG_CONDITION_HOLDS (R276): the slot of a packet that waits is given an interpreter again. -/
def waitResumes (q : Nat) (s : State) : Option State :=
  ((s.queues.get? q).filter fun r => r.packet.any (fun p => waitHolds s r p) && servedNow s q).map fun r =>
    (pollQueue s r).modQueue q fun x => { x with packet := r.packet.map fun p => { p with parked := false } }

def execWaitsigConditionHolds (q : Nat) (s : State) : Host.Outcome State Fault Refusal := happen s (waitResumes q s)

end Sys2Proof.Machine
end

