-- ==== Sys2Proof/Machine/Place.lean ====
section
/-!
DEFINITION. The dispatcher: indirect dimensions, block placement and set-up, and weight-store fills (21 R284, R288-R291, 12
R195, R197, 05 R80).
-/
namespace Sys2Proof.Machine

/-! ### Indirect dimensions (R284) -/

/-- The grid ends without a further block, with a status. -/
def closeGrid (s : State) (g status : Nat) : State :=
  settle (s.modGrid g fun x => { x with closed := true, status := max x.status status }) g

/-- The address of the word that a grid's dimensions wait for. -/
def psigOf (s : State) (l : Launch) : Nat := hubNat s l.ctx (l.grid.toNat + 8) 8

/-- The word at PSIG has reached PVAL: none while it has not; otherwise the dimensions, or none where a word cannot be read. -/
def dimsDue (s : State) (l : Launch) : Option (Option (Nat × Nat × Nat)) :=
  let block := l.grid.toNat
  let psig := psigOf s l
  if !rangeOk s l.ctx .load block 24 || !rangeOk s l.ctx .load psig 4 then some none
  else if !hubReady s l.ctx block 24 || !hubReady s l.ctx psig 4 then none
  else if hubNat s l.ctx (block + 16) 8 ≤ hubNat s l.ctx psig 4 then some (some (gridDims (hubNat s l.ctx block 8)))
  else none

/-- The hub reads the dimension block and the word at PSIG: their lines are held (25 R330). -/
def pollDims (s : State) (l : Launch) : State :=
  if hubReady s l.ctx l.grid.toNat 24 && hubReady s l.ctx (psigOf s l) 4 then
    hubHolds (hubHolds s l.ctx l.grid.toNat 24) l.ctx (psigOf s l) 4
  else s

/-- INDIRECT_DIM_READ (R284): the checks that depend on the dimensions are made now. -/
def dimsRead (grid : Nat) (s : State) : Option State :=
  match s.grids.get? grid with
  | none => none
  | some g =>
      if g.closed || g.dims.isSome then none
      else match dimsDue s g.rec' with
        | none => none
        | some none => some (closeGrid s grid 0x10)
        | some (some (gx, gy, gz)) =>
            if 2 ^ 31 < gx then some (closeGrid s grid 0x11)
            else if g.rec'.coop && !coopFits s g.rec' (gx * gy * gz) then some (closeGrid s grid 0x16)
            else some (settle
              ((pollDims s g.rec').modGrid grid fun x => { x with dims := some (gx, gy, gz) }) grid)

def execIndirectDimRead (grid : Nat) (s : State) : Host.Outcome State Fault Refusal := happen s (dimsRead grid s)

/-! ### Set-up of a block (12 R195, R197, 05 R80) -/

/-- The lowest free thread-slot granules of a cluster. -/
def freeGranules (cl : Cluster) (n : Nat) : List Nat :=
  let used := (cl.blocks.map fun p => p.2.granules).flatten
  ((upto 64).filter fun i => !used.contains i).take n

/-- The free strand slots of a cluster, ascending. -/
def freeSlots (cl : Cluster) : List Nat := (upto 8).filter fun k => (cl.strands.get? k).isNone

/-- The argument words of a role: register and value; none where a word cannot be read. Log 6 (DESIGN CHOICE). -/
def argumentWords (s : State) (l : Launch) : Option (List (Nat × Nat × Nat)) :=
  match s.code.find? fun o => o.ctx == l.ctx && o.base == l.code with
  | none => some []
  | some o =>
      if o.args.all fun a => rangeOk s l.ctx .load (l.argp + a.2.2) 8 then
        some (o.args.map fun a => (a.1, a.2.1, hubNat s l.ctx (l.argp + a.2.2) 8))
      else none

/-- The argument words have been read (25 R330). -/
def argumentsRead (s : State) (l : Launch) : State :=
  (argOffsets s l.ctx l.code).foldl (fun s o => hubHolds s l.ctx (l.argp + o) 8) s

/-- The scalars of a role's strands. -/
def roleScalars (args : List (Nat × Nat × Nat)) (role : Nat) : Vector Word 64 :=
  args.foldl (fun v a => if a.1 == role then v.setIfInBounds a.2.1 (BitVec.ofNat 64 a.2.2) else v) (Vector.replicate 64 0)

/-- The set of threads of a domain. -/
def domainSet (lo hi : Nat) : TSet := setOf ((upto (hi + 1)).filter fun t => lo ≤ t)

/-- The strands of a block, role by role, with the numbers from `num` on. -/
def blockStrands (l : Launch) (args : List (Nat × Nat × Nat)) (block : Nat) (time : Word) (num : Nat) : List Strand :=
  let all := ((l.roles.zip (upto l.roles.length)).map fun p =>
    let l0 := domainSet p.1.lo p.1.hi
    List.replicate p.1.strands
      (newStrand p.1.entry (newRegs (roleScalars args p.2) p.1.handler l.n l0) l0 15 block p.2 none time num)).flatten
  (all.zip (upto all.length)).map fun p => { p.1 with num := num + p.2 }

/-- The scratchpad of a new block: zeros, and the `.data sp` images of its code object. Log 6 (DESIGN CHOICE). -/
def blockScratch (s : State) (l : Launch) : List Host.Cell :=
  match s.code.find? fun o => o.ctx == l.ctx && o.base == l.code with
  | none => []
  | some o => o.images.foldl (fun m i => writeBytes m i.1 i.2) []

/-- A new block. -/
def newBlock (s : State) (g : Nat) (gr : Grid) (index : Nat) (granules : List Nat) : Block :=
  let l := gr.rec'
  { ctx := l.ctx, grid := g, index := index, n := l.n, bx := l.bx, by' := l.by', bz := l.bz, roles := l.roles,
    shared := l.shared, scratchLen := l.spGranules * 4096, scratch := blockScratch s l, bars := l.bars, tiles := l.tiles,
    depth := l.depth, granules := granules, regs := [], open' := [], lostRegs := [], keys := Vector.replicate 8 0,
    tol := 0x35800000, acc := [], shadows := [], fmts := l.fmts, scales := l.scales, taskp := l.taskp, tickets := 0, folds := 0,
    foldDue := [] }

/-- The block with an index of a grid starts in a cluster; none where an argument word cannot be read (R285). -/
def startBlock (s : State) (g : Nat) (gr : Grid) (index c : Nat) : Option State :=
  (argumentWords s gr.rec').map fun args =>
    let cl := s.cluster c
    let b := cl.nextBlock
    let sts := (freeSlots cl).zip (blockStrands gr.rec' args b s.time s.fresh)
    let s := argumentsRead s gr.rec'
    let s := s.setCluster c { cl with
      nextBlock := b + 1, idle := 0
      blocks := cl.blocks.set b (newBlock s g gr index (freeGranules cl (ceilDiv gr.rec'.n 64)))
      strands := sts.foldl (fun m p => m.set p.1 p.2) cl.strands }
    { s.modGrid g fun x => { x with placed := index + 1 } with lastPlaced := c, fresh := s.fresh + sts.length }

/-! ### Placement (R288, R289) -/

/-- The cluster that takes the next block of a launch, if any does. -/
def clusterFor (s : State) (l : Launch) : Option Nat :=
  (walkClusters s (ctxPart s l.ctx)).find? fun c =>
    s.ready.getLsbD c && l.need.fits (s.cluster c).room

/-- Blocks of a grid that have not been placed. -/
def Grid.left (g : Grid) : Nat :=
  match g.dims with
  | some (gx, gy, gz) => if g.closed then 0 else gx * gy * gz - g.placed
  | none => 0

/-- What the placement of one block comes to. -/
inductive Placed where
  | done (s : State)
  /-- an argument word cannot be read: no further block is placed -/
  | lost (s : State)
  | noRoom
  deriving DecidableEq, Repr

/-- Places the next block of a grid. -/
def placeNext (s : State) (g : Nat) : Placed :=
  match s.grids.get? g with
  | none => .noRoom
  | some gr =>
      match clusterFor s gr.rec' with
      | none => .noRoom
      | some c =>
          match startBlock s g gr gr.placed c with
          | some s => .done s
          | none => .lost (closeGrid s g 0x10)

/-- Places the next `n` blocks of a grid, or none. -/
def placeAll (s : State) (g : Nat) : Nat → Placed
  | 0 => .done s
  | n + 1 =>
      match placeNext s g with
      | .done s => placeAll s g n
      | p => p

/-- The placement a grid makes next: one block, or all of them for a cooperative grid (R289). -/
def placeGrid (s : State) (g : Nat) : Placed :=
  match s.grids.get? g with
  | none => .noRoom
  | some gr => if gr.left == 0 then .noRoom else placeAll s g (if gr.rec'.coop then gr.left else 1)

/-- Grid `a` is taken before grid `b`: by PRI, then by age of acceptance. -/
def Grid.before (a b : Grid) : Bool :=
  a.rec'.pri < b.rec'.pri || (a.rec'.pri == b.rec'.pri && a.accepted < b.accepted)

/-- No grid that comes before this one has a block that fits. -/
def firstToPlace (s : State) (g : Grid) : Bool :=
  s.grids.all fun p => !p.2.before g || match placeGrid s p.1 with | .noRoom => true | _ => false

/-- The ports of the argument words of a launch are ready. -/
def argumentsReady (s : State) (l : Launch) : Bool :=
  (argOffsets s l.ctx l.code).all fun o => hubReady s l.ctx (l.argp + o) 8

/-- The hub polls what it waits for in memory: PSIG words of grids and the words of `waitsig`. -/
def hubPolls (s : State) : State :=
  let s := s.queues.foldl (fun s p => pollQueue s p.2) s
  s.grids.foldl (fun s p => if p.2.dims.isNone && !p.2.closed then pollDims s p.2.rec' else s) s

/-- BLOCK_PLACE (R288, R289). -/
def blockPlaces (grid : Nat) (s : State) : Option State :=
  match s.grids.get? grid with
  | none => none
  | some g =>
      if !s.ready.getLsbD 535 || !firstToPlace s g || !argumentsReady s g.rec' then none
      else match placeGrid s grid with
        | .done s => some s
        | .lost s => some s
        | .noRoom => none

def execBlockPlace (grid : Nat) (s : State) : Host.Outcome State Fault Refusal := happen s (blockPlaces grid s)

/-! ### Weight-store fills (R291) -/

/-- Bytes copied. -/
def copyBytes (mem : List Host.Cell) (from' dest n : Nat) : List Host.Cell := writeBytes mem dest (readBytes mem from' n)

/-- WSFILL_DONE (R291): the frames hold the source, poison in them is gone, and the signal is raised. -/
def fillEnds (id : Nat) (s : State) : Option State :=
  match s.fills.find? fun f => f.id == id with
  | none => none
  | some f =>
      let n := 4096 * f.count
      if !portsReady s f.source n || !portReady s f.signal then none else
      let mem := copyBytes s.mem f.source f.frame n
      let sig := (readNat mem f.signal 8 + 1) % 2 ^ 64
      some { s with
        mem := writeNat mem f.signal 8 sig
        poison := s.poison.filter fun p => match p with
          | .weightStore a => !(f.frame ≤ a && a < f.frame + n)
          | _ => true
        fills := s.fills.filter fun x => x.id != id }

def execWsfillDone (id : Nat) (s : State) : Host.Outcome State Fault Refusal := happen s (fillEnds id s)

end Sys2Proof.Machine
end

