-- ==== Sys2Proof/Machine/Scan.lean ====
section
/-!
DEFINITION. The code-page scanner: the rules Y1 to Y11 over the 4 KiB of a page, and its report (03 R59, R61, R63-R65).
-/
namespace Sys2Proof.Machine

/-- A page as the scanner sees it: the slot words of each line, and its line word. -/
structure CodeLine where
  slots : List Nat
  word : Nat
  deriving DecidableEq, Repr

/-- The lines of a page's bytes. -/
def codeLines (bytes : List Byte) : List CodeLine :=
  (upto 64).map fun l =>
    let line := (bytes.drop (64 * l)).take 64
    { slots := (upto 5).map (slotWordOf line), word := lineWordOf line }

/-- The instruction of a word that keeps to R64's rules on one word. -/
def scanWord (n : Nat) : Option Instr :=
  match decodeWord n with
  | .ok i => some i
  | .error _ => none

/-- Y1 to Y6 and Y11: the rules that one word breaks. -/
def wordRules (n : Nat) : List Nat :=
  match rawWord n with
  | .error e => [e.rule]
  | .ok r => r.bad ++ r.instr.broken

/-- Y7 for a slot (R44). -/
def slotParity (l : CodeLine) (i : Nat) : Bool := (ones 96 (l.slots.getD i 0) + bit01 (bitOf l.word (9 + i))) % 2 == 0

/-! ### Control transfers (R61, Y9, Y10) -/

/-- How control goes on after an instruction. -/
inductive Flow where
  /-- to the sequential successor -/
  | next
  /-- to a target, and also to the successor where `falls` says so -/
  | direct (tslot loff : Int) (falls : Bool)
  /-- to an address in a register -/
  | indirect
  deriving DecidableEq, Repr

/-- A direct transfer of the B layout. -/
def bFlow (o : BOps) (falls : Bool) : Flow := .direct o.tslot.toNat o.loff.toInt falls

/-- The flow of an instruction. A path does not end at `halt`: it ends only at the page's end or at a transfer that leaves the page
(R61); an indirect transfer leaves it. After an unconditional `jmp` no path falls to the successor, and after `call` one does.
Log 43 (DEDUCED). -/
def flowOf : Instr → Flow
  | .branch _ o | .bcnt _ o | .call o | .loopI o => bFlow o true
  | .jmp o => bFlow o false
  | .jmpr _ | .ret _ | .tret _ => .indirect
  | _ => .next

/-- The index of a target in the page, five to a line; none where it leaves the page. -/
def targetIndex (i : Nat) (tslot loff : Int) : Option Nat :=
  let line := ((i / 5 : Nat) : Int) + loff
  if 0 ≤ line && line < 64 then some ((line * 5).toNat + tslot.toNat) else none

/-- STOP of a slot word. -/
def stopOf (n : Nat) : Bool := bitOf n 8

/-- A transfer whose slot must have STOP: indirect, backward, or leaving the page (R61). -/
def needsStop (i : Nat) (f : Flow) : Bool :=
  match f with
  | .direct ts lo _ => (match targetIndex i ts lo with
      | some _ => decide ((lo : Int) < 0) || (lo == 0 && decide (ts ≤ ((i % 5 : Nat) : Int)))
      | none => true)
  | .indirect => true
  | _ => false

/-- The slots of a page in order: word, TGT bit and flow. -/
def pageFlows (ls : List CodeLine) : List (Nat × Bool × Flow) :=
  (ls.map fun l => (l.slots.zip (upto 5)).map fun p => (p.1, bitOf l.word p.2, (scanWord p.1).elim .next flowOf)).flatten

/-- The longer of two runs; `none` is no path at all. -/
def longerRun : Option Nat → Option Nat → Option Nat
  | none, r => r
  | r, none => r
  | some x, some y => some (max x y)

/-- The longest run of slots without STOP that ends in each slot, along every path (R61); 0 where no path comes. `fall`
is the run that falls into the slot, `jumps` the runs that jump to slots ahead; a path starts at slot 0 and at every slot
whose TGT bit is set. Log 43 (DEDUCED). -/
def stopRuns : Nat → Option Nat → SMap Nat → List (Nat × Bool × Flow) → List Nat
  | _, _, _, [] => []
  | i, fall, jumps, (w, tgt, f) :: rest =>
      let start := if i == 0 || tgt then some 0 else none
      let run := (longerRun start (longerRun fall (jumps.get? i))).map fun n => if stopOf w then 0 else n + 1
      let jumps := match f, run with
        | .direct ts lo _, some n => (match targetIndex i ts lo with
            | some t => if i < t && ts ≤ 4 then jumps.set t (max n (jumps.getD 0 t)) else jumps
            | none => jumps)
        | _, _ => jumps
      let falls := match f with
        | .next => true
        | .direct _ _ b => b
        | .indirect => false
      run.getD 0 :: stopRuns (i + 1) (if falls then run else none) jumps rest

/-- Y10: a transfer into its own page goes to a slot of 0-4 whose TGT bit is set. -/
def badTargetIn (ls : List CodeLine) (i : Nat) (f : Flow) : Bool :=
  match f with
  | .direct ts lo _ =>
      let line := ((i / 5 : Nat) : Int) + lo
      if 0 ≤ line && line < 64 then
        4 < ts || !bitOf ((ls[line.toNat]?.map CodeLine.word).getD 0) ts.toNat
      else false
  | _ => false

/-! ### Pairs (R59, Y8) -/

/-- Class of a slot word, OP[7:5]. -/
def classOf (n : Nat) : Nat := n % 256 / 32

/-- A register that an instruction of a pair reads or writes: a scalar, or a register of R86 or R12 by its number. -/
inductive PairReg where
  | scalar (n : Nat)
  | sys (num : Nat)
  deriving DecidableEq, Repr

/-- The numbers of FPTRAP, RFR, GANG and FT_TOL, the registers of R86 that the classes 011 to 111 read. -/
def fptrapNum : Nat := 0x001
def rfrNum : Nat := 0x00A
def gangNum : Nat := 0x020
def tolNum : Nat := 0x100

/-- What an instruction which may stand first writes: SD of the S layout, RFR for `spawn`, GANG for `gang`, and the register that
`sysw` names (R12, R86, R192). A write of s0 is discarded. -/
def firstWrites (i : Instr) (n : Nat) : List PairReg :=
  let sd := n / 2 ^ 16 % 64
  let scalar : List PairReg := if sd == 0 then [] else [.scalar sd]
  match i with
  | .spawn _ => [.sys rfrNum]
  | .gang _ => .sys gangNum :: scalar
  | .sysw o => .sys (o.imm32.toNat % 4096) :: scalar
  | _ => scalar

/-- FPTRAP is read by the floating-point instructions of a lane and of a reduction (R26), those that raise no flag among them.
Log 43 (DEDUCED). -/
def readsFptrap (i : Instr) (op : Nat) : Bool :=
  (0xA0 ≤ op && op < 0xB7) || match i with | .vred f _ | .vscan f _ => f.isFloat | _ => false

/-- The system registers that an instruction of the classes 011 to 111 reads: one that adds flags to FPFLAGS does not read it.
Log 43 (DEDUCED). -/
def sysReads (i : Instr) (op : Nat) : List PairReg :=
  (if readsFptrap i op then [.sys fptrapNum] else [])
    ++ match i with
      | .vrdFirst _ => [.sys rfrNum]
      | .mmag _ _ _ => [.sys gangNum]
      | .fdwn _ => [.sys tolNum]
      | _ => []

/-- VD of the M layout names a scalar that is read: data of `sst`, the compare value of `satom.cas`, and the base of
`ldsc.sp` (R131, R137). -/
def readsVd (i : Instr) : Bool :=
  match i with
  | .sst _ => true
  | .satom o => o.aop == .cas
  | .ldsc o => o.dst
  | _ => false

/-- The scalars that an instruction of the classes 011 to 111 reads; s0 for a field it does not use. -/
def scalarReads (i : Instr) (n : Nat) : List Nat :=
  let op := n % 256
  let f := fun (hi lo : Nat) => bitsOf n hi lo
  if op < 0x80 then [f 61 56]
  else if op < 0xC0 then
    (if f 57 56 == 1 then [f 39 34] else []) ++ (match i with | .vwr _ => [f 48 43] | _ => [])
  else if op < 0xE0 then [f 39 34, f 58 53] ++ if readsVd i then [f 21 16] else []
  else if op < 0xEA then [f 35 30] ++ (match i with | .tcommit _ => [] | _ => [f 59 54])
  else if op < 0xEF then (match i with | .finit _ => [f 35 30] | _ => [])
  else [f 21 16, f 40 35]

/-- Every register that an instruction which may stand second reads, other than thread registers. -/
def secondReads (i : Instr) (n : Nat) : List PairReg := (scalarReads i n).map .scalar ++ sysReads i (n % 256)

/-- The opcodes that access scratchpad or memory (05 R71). -/
def touchesMemory (n : Nat) : Bool :=
  let op := n % 256
  [0x4B, 0x33, 0x6A, 0x6B, 0x6C, 0x9E, 0xE0, 0xE2, 0xE3, 0xE9, 0xEF].contains op || (0xC0 ≤ op && op < 0xE0)

/-- The pair of slots a and b of a line is legal (R59). Log 43 (DEDUCED). -/
def pairLegal (l : CodeLine) (i : Nat) : Bool :=
  let a := l.slots.getD i 0
  let b := l.slots.getD (i + 1) 0
  match scanWord a, scanWord b with
  | some x, some y =>
      let first := classOf a ≤ 1 || (match x with | .spawn _ | .launchI _ => true | _ => false)
      first && 3 ≤ classOf b && !((firstWrites x a).any fun w => (secondReads y b).contains w)
        && !(touchesMemory a && touchesMemory b)
        && !bitOf l.word (6 + i) && !bitOf l.word (i + 1) && !stopOf b
  | _, _ => false

/-! ### The scan (R64, R65) -/

/-- The rules a line word breaks. Log 43 (DEDUCED). -/
def lineRules (l : CodeLine) : List Nat :=
  (if bitsOf l.word 31 15 == 0 then [] else [3]) ++ (if ones 15 l.word % 2 == 0 then [] else [7])
    ++ (if (upto 4).all (fun i => !bitOf l.word (5 + i) || pairLegal { l with word := if i == 3 then l.word % 2 ^ 9 else l.word } i)
        then [] else [8])

/-- The rules a slot breaks, with the longest run without STOP that ends in it. Log 43 (DEDUCED). -/
def slotRules (ls : List CodeLine) (l : CodeLine) (i : Nat) (w : Nat) (f : Flow) (run : Nat) : List Nat :=
  wordRules w ++ (if slotParity l (i % 5) then [] else [7])
    ++ (if (i == 0 && !stopOf w) || (needsStop i f && !stopOf w) || 64 < run then [9] else [])
    ++ (if badTargetIn ls i f then [10] else [])

/-- The words of a page in address order with the rules they break: line offset, slot (7 for the line word), rules. -/
def scanAll (ls : List CodeLine) : List (Nat × Nat × List Nat) :=
  let flows := pageFlows ls
  let runs := stopRuns 0 none [] flows
  ((ls.zip (upto ls.length)).map fun p =>
    ((upto 5).map fun k =>
      let i := 5 * p.2 + k
      let (w, _, f) := flows.getD i (0, false, .next)
      (64 * p.2, k, slotRules ls p.1 i w f (runs.getD i 0))) ++ [(64 * p.2, 7, lineRules p.1)]).flatten

/-- The report of a page that is rejected: line offset, slot, rule (R65). Log 43 (DEDUCED). -/
def scanReport (ls : List CodeLine) : Option (Nat × Nat × Nat) :=
  ((scanAll ls).find? fun x => !x.2.2.isEmpty).map fun x => (x.1, x.2.1, (leastRule x.2.2).getD 0)

/-- The scan of a frame of 4 KiB. -/
def scanFrame (mem : List Host.Cell) (pa : Nat) : Option (Nat × Nat × Nat) := scanReport (codeLines (readBytes mem pa 4096))

end Sys2Proof.Machine
end

