-- ==== Sys2Proof/Machine/Tables.lean ====
section
/-!
DEFINITION. The page tables as the hub writes them: MAP, UNMAP, and the removal of a context's mappings (23 R303-R310, R377,
21 R291, 03 R63).
-/
namespace Sys2Proof.Machine

/-! ### Entries on a walk -/

/-- An entry as a walker takes it: one that breaks R303-R306 is absent (R306). -/
inductive Entry where
  | absent
  | pointer (table : Nat)
  /-- a leaf: its page's first address, and the entry of the first frame of its run -/
  | leaf (base entry : Nat)
  deriving DecidableEq, Repr

/-- The address of the entry for `va` in a table of a level. -/
def entryAddress (table va lo k : Nat) : Nat := table + 8 * ((va / 2 ^ lo) % 2 ^ k)

/-- The entry for `va` in a table of a level; `last` at the last level, which holds leaves alone (R303). -/
def entryOf (mem : List Host.Cell) (poolsz table va lo k : Nat) (nat : Option Nat) (last : Bool) : Entry :=
  let e := readNat mem (entryAddress table va lo k) 8
  if !pteV e then .absent
  else if pteR e || pteW e || pteX e then
    match nat.bind (leafAt poolsz va e lo) with
    | some (b, l) => .leaf b l
    | none => .absent
  else if last then .absent
  else match pointerTo e with
    | some t => if tableExists poolsz t 512 then .pointer t else .absent
    | none => .absent

/-- The natural SZ of the level that holds leaves of a size (R306). -/
def naturalOf (sz : Nat) : Nat := sz / 3 * 3

/-- First addresses of the leaf entries that a table and those below it hold, for a table that translates addresses from
`va` on. -/
def leavesUnder (mem : List Host.Cell) (poolsz : Nat) : List (Nat × Nat × Option Nat) → Nat → Nat → List Nat
  | [], _, _ => []
  | (lo, k, nat) :: rest, table, va =>
      ((upto (2 ^ k)).map fun i =>
        let a := va + i * 2 ^ lo
        match entryOf mem poolsz table a lo k nat rest.isEmpty with
        | .leaf _ _ => [a]
        | .pointer t => leavesUnder mem poolsz rest t a
        | .absent => []).flatten

/-- A table and the tables below it. -/
def tablesUnder (mem : List Host.Cell) (poolsz : Nat) : List (Nat × Nat × Option Nat) → Nat → Nat → List Nat
  | [], _, _ => []
  | (lo, k, nat) :: rest, table, va =>
      table :: ((upto (2 ^ k)).map fun i =>
        let a := va + i * 2 ^ lo
        match entryOf mem poolsz table a lo k nat rest.isEmpty with
        | .pointer t => tablesUnder mem poolsz rest t a
        | _ => []).flatten

/-! ### Where a leaf goes (R307) -/

/-- The way to the level of natural SZ `n`: the tables it lacks, or that a valid leaf of another size bars it, or the table
that holds the entries. -/
inductive Path where
  /-- the table that must point on, the level of its entry, and the levels below it down to the leaf's -/
  | lacks (table lo k : Nat) (below : List (Nat × Nat × Option Nat))
  | barred
  | found (table lo k : Nat) (rest : List (Nat × Nat × Option Nat))
  deriving DecidableEq, Repr

def pathTo (mem : List Host.Cell) (poolsz va n : Nat) : List (Nat × Nat × Option Nat) → Nat → Path
  | [], _ => .barred
  | (lo, k, nat) :: rest, table =>
      if nat == some n then .found table lo k rest
      else match entryOf mem poolsz table va lo k nat rest.isEmpty with
        | .leaf _ _ => .barred
        | .pointer t => pathTo mem poolsz va n rest t
        | .absent => .lacks table lo k rest

/-- The levels from the top of a list down to the one of natural SZ `n`. -/
def levelsTo (n : Nat) : List (Nat × Nat × Option Nat) → Nat
  | [] => 0
  | (_, _, nat) :: rest => if nat == some n then 1 else 1 + levelsTo n rest

/-- The entries of a run: address and value (R306). -/
def runOf (table va lo k sz leaf : Nat) : List (Nat × Nat) :=
  let n := naturalOf sz
  (upto (4 ^ (sz - n))).map fun i => (entryAddress table va lo k + 8 * i, leaf + i * pageBytes n)

/-- What stands at the entries of a page: a leaf of the same size and base, or none; the tables of pointers that would be
replaced; none where one bars the page (R307 MAP_OVERLAP). -/
def runHolds (mem : List Host.Cell) (poolsz table va lo k sz : Nat) (rest : List (Nat × Nat × Option Nat)) :
    Option (Option Nat × List Nat) :=
  let n := naturalOf sz
  ((upto (4 ^ (sz - n))).map fun i => va + i * 2 ^ lo).foldl (fun acc a =>
    acc.bind fun (old, gone) =>
      match entryOf mem poolsz table a lo k (some n) rest.isEmpty with
      | .absent => some (old, gone)
      | .leaf b e => if b == va && pteSz e == sz then some (some e, gone) else none
      | .pointer t =>
          if (leavesUnder mem poolsz rest t a).isEmpty then some (old, gone ++ tablesUnder mem poolsz rest t a) else none)
    (some (none, []))

/-! ### Frames of a page (R63, R291) -/

/-- The 4 KiB frames of a leaf. -/
def framesOf (leaf : Nat) : List Nat := (upto (pageBytes (pteSz leaf) / 4096)).map fun i => pteFrame leaf + 4096 * i

/-- A mapping of a leaf comes: map counts of weight-store frames, approval of executable frames. -/
def addMapping (s : State) (leaf : Nat) : State :=
  { s with
    mapCounts := if isWeight (pteFrame leaf) then (framesOf leaf).foldl (fun m f => m.setD 0 f (m.getD 0 f + 1)) s.mapCounts
                 else s.mapCounts
    approved := if pteX leaf then s.approved ++ framesOf leaf else s.approved }

/-- A mapping of a leaf goes. -/
def dropMapping (s : State) (leaf : Nat) : State :=
  { s with
    mapCounts := if isWeight (pteFrame leaf) then (framesOf leaf).foldl (fun m f => m.setD 0 f (m.getD 0 f - 1)) s.mapCounts
                 else s.mapCounts
    approved := if pteX leaf then (framesOf leaf).foldl List.erase s.approved else s.approved }

/-! ### MAP (R307) -/

/-- MAP_BADPTE: R304 to R306, with the page's address aligned to its size. Log 48 (DEDUCED). -/
def mapForm (poolsz va leaf : Nat) : Bool :=
  let size := pageBytes (pteSz leaf)
  va < 2 ^ 57 && va % size == 0 && leafForm poolsz leaf && pteFrame leaf % size == 0 && frameExists poolsz (pteFrame leaf) size

/-- MAP_KIND is not the answer. -/
def mapKind (leaf : Nat) : Bool :=
  let f := pteFrame leaf
  (pteWl leaf == 0 || isWeight f) && !(isWeight f && pteW leaf) && !(pteDb leaf && (!isBell f || pteX leaf))
    && (pteDb leaf || !isBell f) && (!pteSh leaf || isPooled f)

/-- MAP_WX is not the answer. -/
def mapWx (leaf : Nat) : Bool := !pteX leaf || (!pteW leaf && isPooled (pteFrame leaf))

/-- The scan of the frames of a page: each 4 KiB frame is scanned and reported as a page of its own (R65). Log 19 (DESIGN
CHOICE). -/
def scanPage (mem : List Host.Cell) (va leaf : Nat) : Option (Nat × Nat × Nat × Nat) :=
  (upto (pageBytes (pteSz leaf) / 4096)).findSome? fun i =>
    (scanFrame mem (pteFrame leaf + 4096 * i)).map fun r => (va + 4096 * i, r)

/-- The result bytes of SCAN_REJECT: page address, line offset, slot, rule. Log 19 (DESIGN CHOICE). -/
def scanBytes (r : Nat × Nat × Nat × Nat) : List Byte :=
  leBytes 8 r.1 ++ leBytes 2 r.2.1 ++ leBytes 1 r.2.2.1 ++ leBytes 1 r.2.2.2

/-- Tables that the arena of a context can still supply (R295). -/
def Context.tablesLeft (x : Context) : Nat := x.freeTables.length + (8 * x.desc.tasz.toNat - x.tables)

/-- The tables that the arena supplies next. -/
def Context.nextTables (x : Context) (n : Nat) : List Nat :=
  (x.freeTables ++ (upto n).map fun i => x.desc.tarena.toNat + 512 * (x.tables + i)).take n

/-- Takes a table of the arena, all zero, where pooled memory holds it. -/
def takeTable (s : State) (ctx : Nat) : Option (State × Nat) :=
  (s.ctx? ctx).bind fun x =>
    let zero := fun (t : Nat) => writeBytes s.mem t (List.replicate 512 0)
    match x.freeTables with
    | t :: rest => some ({ s with mem := zero t }.setCtx ctx { x with freeTables := rest }, t)
    | [] =>
        let t := x.desc.tarena.toNat + 512 * x.tables
        if x.tables < 8 * x.desc.tasz.toNat && tableExists s.poolsz t 512 then
          some ({ s with mem := zero t }.setCtx ctx { x with tables := x.tables + 1 }, t)
        else none

/-- Makes the tables of the levels below an entry that lacks its pointer; the table that is to hold the leaf. -/
def makeTables (va n ctx : Nat) : List (Nat × Nat × Option Nat) → State → Nat → Nat → Nat →
    Option (State × Nat × Nat × Nat)
  | [], _, _, _, _ => none
  | (lo', k', nat) :: rest, s, table, lo, k =>
      (takeTable s ctx).bind fun (s, t) =>
        let s := { s with mem := writeNat s.mem (entryAddress table va lo k) 8 (t + 1) }
        if nat == some n then some (s, t, lo', k') else makeTables va n ctx rest s t lo' k'

/-- What MAP finds of the tables: a status, or the state with its leaf written (R307). A top table that pooled memory does not hold is
MAP_NOTABLE. Log 48 (DEDUCED). -/
def writeLeaf (s : State) (ctx : Nat) (x : Context) (va leaf : Nat) : Except Nat State :=
  let sz := pteSz leaf
  let n := naturalOf sz
  let put := fun (s : State) (table lo k : Nat) =>
    { s with mem := (runOf table va lo k sz leaf).foldl (fun m p => writeNat m p.1 8 p.2) s.mem }
  if !tableExists s.poolsz x.desc.ptroot.toNat 64 then .error 0x19
  else match pathTo s.mem s.poolsz va n walkLevels x.desc.ptroot.toNat with
  | .barred => .error 0x1A
  | .lacks table lo k below =>
      if x.tablesLeft < levelsTo n below then .error 0x19
      else match makeTables va n ctx below s table lo k with
        | none => .error 0x19
        | some (s, t, lo, k) => .ok (addMapping (put s t lo k) leaf)
  | .found table lo k rest =>
      match runHolds s.mem s.poolsz table va lo k sz rest with
      | none => .error 0x1A
      | some (old, gone) =>
          let s := s.modCtx ctx fun x => { x with freeTables := x.freeTables ++ gone }
          let s := match old with | some e => dropMapping s e | none => s
          .ok (addMapping (put s table lo k) leaf)

/-- MAP for a live context: the status with the result bytes, and the state (R307). Log 20 (DEDUCED). -/
def mapLeaf (s : State) (ctx : Nat) (x : Context) (va leaf : Nat) : Nat × List Byte × State :=
  if !mapForm s.poolsz va leaf then (0x10, [], s)
  else if !mapKind leaf then (0x11, [], s)
  else if !mapWx leaf then (0x12, [], s)
  else if pteX leaf && !s.ready.getLsbD 536 then (0x03, [], s)
  else match (if pteX leaf then scanPage s.mem va leaf else none) with
    | some r => (0x13, scanBytes r, s)
    | none => match writeLeaf s ctx x va leaf with
      | .error e => (e, [], s)
      | .ok s => (0, [], s)

/-- The memory ports that MAP needs: of the tables on the page's way and of those the arena supplies next, and of the frames that it
scans (29 R371). -/
def mapPorts (s : State) (ctx va leaf : Nat) : Bool :=
  (tableLines s ctx va).all (portReady s)
    && (match s.ctx? ctx with
      | some x => (x.nextTables walkLevels.length).all fun t => !tableExists s.poolsz t 512 || portReady s t
      | none => true)
    && (!pteX leaf || !frameExists s.poolsz (pteFrame leaf) (pageBytes (pteSz leaf))
      || portsReady s (pteFrame leaf) (pageBytes (pteSz leaf)))

/-! ### UNMAP (R310) -/

/-- Clears the run of a leaf. -/
def clearLeaf (s : State) (root base leaf : Nat) : State :=
  let sz := pteSz leaf
  match pathTo s.mem s.poolsz base (naturalOf sz) walkLevels root with
  | .found table lo k _ => { s with mem := (runOf table base lo k sz leaf).foldl (fun m p => writeNat m p.1 8 0) s.mem }
  | _ => s

/-- An access in flight reaches the bytes. -/
def Access.reaches (lo size : Nat) (a : Access) : Bool := overlaps a.pa a.bytes lo size

/-- Accesses to memory that have been sent and are not performed, whoever sent them. -/
def accessesOut (s : State) : List Access :=
  (s.clusters.map fun p => (p.2.strands.map fun q => q.2.out).flatten ++ p.2.orphans.map Orphan.access).flatten
    ++ (s.ctxs.map fun p => (p.2.images.map fun i => (i.strands.map fun q => q.2.out).flatten).flatten).flatten
    ++ (s.kills.map fun k => k.out.map Prod.snd).flatten

/-- Something that was translated before is still to be performed on these physical bytes (R310). Log 21 (DEDUCED). -/
def framesInUse (s : State) (lo size : Nat) : Bool :=
  ((accessesOut s).any fun a => a.space.isNone && a.reaches lo size) || s.clusters.any fun p =>
    (p.2.tileOps.any fun t => t.regions.any fun r => !r.scratch && overlaps r.base r.len lo size)
      || (p.2.bankOps.any fun t => t.pages.any fun a => overlaps (a / 4096 * 4096) 4096 lo size)

/-- The leaves of a context's tables, one for each page: its first address, and its entry. -/
def leavesOf (s : State) (ctx : Nat) : List (Nat × Nat) :=
  match s.desc? ctx with
  | none => []
  | some d => if tableExists s.poolsz d.ptroot.toNat 64 then
      ((leavesUnder s.mem s.poolsz walkLevels d.ptroot.toNat 0).filterMap fun va => walk s ctx va).eraseDups
    else []

/-- A fill under way writes a frame of a leaf (21 R291). -/
def fillPending (s : State) (leaf : Nat) : Bool :=
  s.fills.any fun f => overlaps f.frame (4096 * f.count) (pteFrame leaf) (pageBytes (pteSz leaf))

/-- The TLB entries of a context that meet a page, as every TLB of the package holds them: they may be of another frame (R307). -/
def entriesFor (s : State) (ctx base size : Nat) : List TlbEntry :=
  ((s.clusters.map fun p => p.2.utlb).flatten ++ (s.dtlb.map Prod.snd).flatten).filter fun e =>
    e.ctx == ctx && overlaps e.base (pageBytes (pteSz e.leaf)) base size

/-- The physical bytes that a page's leaf and the entries of the TLBs give. -/
def pageRanges (s : State) (ctx base leaf : Nat) : List (Nat × Nat) :=
  ((leaf :: (entriesFor s ctx base (pageBytes (pteSz leaf))).map TlbEntry.leaf).map fun e => (pteFrame e, pageBytes (pteSz e))).eraseDups

/-- The first half of a removal: the leaves are cleared and every TLB gives their pages up (R310). The ones to wait for are kept. -/
def startUnmap (s : State) (ctx root : Nat) (va : Option Nat) (leaves : List (Nat × Nat)) : State :=
  { leaves.foldl (fun s p => tlbDrop (clearLeaf s root p.1 p.2) ctx p.1 (pageBytes (pteSz p.2))) s with
    unmapping := some { ctx := ctx, va := va, leaves := leaves.map Prod.snd
                        ranges := leaves.flatMap fun p => pageRanges s ctx p.1 p.2 } }

/-- Accesses that used the removed entries are to be performed. -/
def Unmapping.waits (s : State) (u : Unmapping) : Bool := u.ranges.any fun r => framesInUse s r.1 r.2

/-- A removal waits. -/
def unmapWaits (s : State) : Bool := s.unmapping.any (Unmapping.waits s)

/-- The second half: the map counts and approvals of the removed leaves fall (R310, R291). -/
def finishUnmap (s : State) : State :=
  match s.unmapping with
  | none => s
  | some u => { u.leaves.foldl dropMapping s with unmapping := none }

/-- The removal that is under way is of these pages. -/
def unmapStarted (s : State) (ctx : Nat) (va : Option Nat) : Bool := s.unmapping.any fun u => u.ctx == ctx && u.va == va

/-- Another removal is under way. -/
def unmapOther (s : State) (ctx : Nat) (va : Option Nat) : Bool := s.unmapping.isSome && !unmapStarted s ctx va

/-- UNMAP of a page begins, unless it has begun (R310). -/
def unmapPage (s : State) (ctx va base leaf : Nat) : State :=
  if unmapStarted s ctx (some va) then s
  else startUnmap s ctx ((s.desc? ctx).elim 0 fun d => d.ptroot.toNat) (some va) [(base, leaf)]

/-- The removal of every mapping of a context begins, unless it has begun, with the pointers of its top table, whose tables go back to
the arena (R377). -/
def unmapAll (s : State) (ctx : Nat) : State :=
  if unmapStarted s ctx none then s
  else match s.desc? ctx with
    | none => s
    | some d =>
        let s' := startUnmap s ctx d.ptroot.toNat none (leavesOf s ctx)
        if tableExists s.poolsz d.ptroot.toNat 64 then
          { s' with mem := writeBytes s'.mem d.ptroot.toNat (List.replicate 64 0) }
        else s'

end Sys2Proof.Machine
end

