-- ==== Sys2Proof/Machine/Mailbox.lean ====
section
/-!
DEFINITION. The commands of the management mailbox (29 R372-R374, 23 R295, R377, 21 R279, R291, 26 R350, 27 R356, 28 R366-R367).
-/
namespace Sys2Proof.Machine

/-! ### The end of a command (R373) -/

/-- STATUS with DONE = 1. -/
def doneStatus (status : Nat) (tag : W32) : Word := payload [(8, status), (1, 1), (23, 0), (32, tag.toNat)]

/-- The result, then STATUS. Log 19 (DESIGN CHOICE). -/
def endCommand (s : State) (h : CmdHdr) (status : Nat) (result : List Byte) : State :=
  s.modPage h.page0 fun p => { p with result := result ++ p.result.drop result.length, status := doneStatus status h.tag }

/-- A command is a wake event of retained clusters (28 R364). -/
def wakeAll (s : State) : State :=
  { s with clusters := s.clusters.map fun (p : Nat × Cluster) => (p.1, if p.2.retained then { p.2 with idle := 0 } else p.2) }

/-- A command: NORIGHT on page 1 where it needs the operator right (R373); NOTREADY where no firmware runs, unless the mailbox
takes it even then (R372). Log 20 (DEDUCED). -/
def command (s : State) (h : CmdHdr) (operator always : Bool) (k : State → Nat × List Byte × State) :
    Host.Outcome State Fault Refusal :=
  let s := wakeAll s
  if operator && !h.page0 then .next (endCommand s h 0x02 [])
  else if !always && s.running.isNone then .next (endCommand s h 0x03 [])
  else
    let (status, result, s) := k s
    .next (endCommand s h status result)

/-- A command of the operator that needs firmware. -/
def operatorCommand (s : State) (h : CmdHdr) (k : State → Nat × List Byte × State) : Host.Outcome State Fault Refusal :=
  command s h true false k

/-- A command that names a context: BADCMD where it is undefined or killed (23 R377). Log 20 (DEDUCED). -/
def contextCommand (s : State) (h : CmdHdr) (ctx : Nat) (k : State → Context → Nat × List Byte × State) :
    Host.Outcome State Fault Refusal :=
  operatorCommand s h fun s => match s.ctx? ctx with
    | none => (0x01, [], s)
    | some x => if x.killed then (0x01, [], s) else k s x

/-- A command that is to be carried out waits: nothing changes, and the server attempts it again. -/
def commandWaits (s : State) (h : CmdHdr) (ready : Bool) : Bool := h.page0 && s.running.isSome && !ready

/-! ### Firmware (R372) -/

/-- Bytes of a slot's image. -/
def imageNat (m : SMap Byte) (at' n : Nat) : Nat := leNat (areaBytes m at' n)

/-- An image is valid. -/
def imageValid (minSvn : Nat) (m : SMap Byte) : Bool :=
  let len := imageNat m 12 4
  imageNat m 0 4 == 0x57464B53 && BitVec.ofNat 256 (imageNat m 16 32) == shake256 (areaBytes m 256 len)
    && vendorVerify (areaBytes m 0 48) (areaBytes m (256 + len) sigBytes) && minSvn ≤ imageNat m 8 4

/-- A slot: true for B. -/
def State.slot (s : State) (b : Bool) : SMap Byte := if b then s.fwB else s.fwA

/-- The slot that runs; slot A's bytes where none does. -/
def State.runningSlot (s : State) : SMap Byte := s.slot (s.running == some true)

/-- The inactive slot: B while A runs, and A otherwise. Log 20 (DEDUCED). -/
def State.inactiveB (s : State) : Bool := s.running == some false

/-- INFO (R374). -/
def execInfoCmd (h : CmdHdr) (s : State) : Host.Outcome State Fault Refusal :=
  command s h false true fun s =>
    let fw := s.runningSlot
    (0, s.serialNo ++ leBytes 4 (imageNat fw 4 4) ++ leBytes 4 (imageNat fw 8 4) ++ leBytes 4 s.boot ++ leBytes 2 Config.clusters
      ++ leBytes 1 (bit01 (s.running == some true)) ++ leBytes 1 0 ++ leBytes 8 s.errsum.toNat ++ leBytes 8 s.poolsz, s)

/-- FWSTAGE (R372): the staging window into the inactive slot. -/
def execFwstage (h : CmdHdr) (offset : Nat) (s : State) : Host.Outcome State Fault Refusal :=
  command s h true true fun s =>
    let put := fun (m : SMap Byte) => ((areaBytes s.fwWindow 0 65536).zip (upto 65536)).foldl (fun m p => m.setD 0 (offset + p.2) p.1) m
    (0, [], if s.inactiveB then { s with fwB := put s.fwB } else { s with fwA := put s.fwA })

/-- FWCOMMIT (R372). -/
def execFwcommit (h : CmdHdr) (raise : Bool) (s : State) : Host.Outcome State Fault Refusal :=
  operatorCommand s h fun s =>
    let m := s.slot s.inactiveB
    if !imageValid s.minSvn m then (0x05, [], s)
    else (0, [], if raise then { s with minSvn := imageNat m 8 4 } else s)

/-! ### Attestation (R372, R373) -/

/-- The next index of the identity key (R346 as R372 applies it). Log 7 (DESIGN CHOICE). -/
def takeIdIndex (s : State) : State × Option Nat :=
  if s.idNext < s.idReserved then ({ s with idNext := s.idNext + 1 }, some s.idNext)
  else if s.idReserved < 2 ^ 20 then
    ({ s with idNext := s.idReserved + 1, idReserved := s.idReserved + 64 }, some s.idReserved)
  else (s, none)

/-- The bytes of the ACTIVE table (24 R313). -/
def activeBytes (s : State) : List Byte := ((upto 384).map fun c => leBytes 8 (s.activeEntry c).toNat).flatten

/-- Bytes 0 to 255 of a report. -/
def reportBytes (s : State) (nonce : List Byte) (idx : Option Nat) : List Byte :=
  let fw := s.runningSlot
  leBytes 8 0x5453455454414B53 ++ s.serialNo ++ nonce ++ leBytes 4 s.boot ++ leBytes 4 (imageNat fw 8 4) ++ leBytes 4 s.minSvn
    ++ leBytes 4 0 ++ digestBytes Config.romDigest ++ areaBytes fw 16 32 ++ digestBytes (shake256 (activeBytes s))
    ++ capsulePublicKey ++ leBytes 4 (idx.getD 0xFFFFFFFF) ++ leBytes 20 0

/-- ATTEST (R373): the report of a nonce. -/
def execAttest (h : CmdHdr) (nonce : List Byte) (s : State) : Host.Outcome State Fault Refusal :=
  command s h false false fun s =>
    if !s.ready.getLsbD 538 then (0x03, [], s)
    else
      let (s, idx) := takeIdIndex s
      let body := reportBytes s nonce idx
      (0, [], { s with attWindow := body ++ signDigest true idx body })

/-! ### Contexts and tables (23 R295, R307, R310, R377) -/

/-- CTXSET's checks of a descriptor that no reserved bit breaks (R374, 24 R311). -/
def descOk (d : CtxDesc) : Bool :=
  d.part.toNat ≤ 3 && d.ptroot.toNat % 64 == 0 && d.save.toNat % 4096 == 0 && d.tarena.toNat % 4096 == 0

/-- The context after CTXSET: fresh where it was undefined or killed (R377). Log 47 (DEDUCED). -/
def freshContext (s : State) (d : CtxDesc) : Context :=
  { desc := d, killed := false, tables := 0, freeTables := [], grids := 0, merged := none, log := none, images := [], subs := [],
    merges := s.time.toNat / 2400000, bpc := Vector.replicate 8 none }

/-- Log 47 (DEDUCED). -/
def contextAfter (s : State) (d : CtxDesc) (old : Option Context) (same : Bool) : Context :=
  match old with
  | none => freshContext s d
  | some x =>
      let y := if x.killed then freshContext s d else { x with desc := d, merged := none }
      if same then { y with tables := x.tables, freeTables := x.freeTables } else { y with tables := 0, freeTables := [] }

/-- The context's tables stay: the descriptor keeps PTROOT and TARENA. Log 47 (DEDUCED). -/
def sameTables (d : CtxDesc) (x : Context) : Bool := x.desc.ptroot == d.ptroot && x.desc.tarena == d.tarena

/-- A new descriptor leaves the tables of a context as they are. -/
def tablesStay (s : State) (ctx : Nat) (d : CtxDesc) : Bool := (s.ctx? ctx).any (sameTables d)

/-- The status with which CTXSET is refused: BADCMD, or BUSY while the context is resident or saved; none where it goes on
(R374, R377). -/
def ctxsetRefused (s : State) (ctx : Nat) (d : CtxDesc) : Option Nat :=
  if 64 ≤ ctx || !descOk d then some 0x01
  else if !unmapStarted s ctx none
      && (s.clusters.any (fun p => !(p.2.blocksOf ctx).isEmpty) || (s.ctx? ctx).any fun x => !x.images.isEmpty) then some 0x04
  else none

/-- The ports of the tables that CTXSET removes are ready, and no other removal is under way (29 R371). -/
def ctxsetReady (s : State) (ctx : Nat) : Bool :=
  !unmapOther s ctx none && match s.desc? ctx with
    | some d => !tableExists s.poolsz d.ptroot.toNat 64
        || (tablesUnder s.mem s.poolsz walkLevels d.ptroot.toNat 0).all (portReady s)
    | none => true

/-- CTXSET (R374, R377). Of the tables that it removes it clears the leaves first and then waits for the accesses that used them, as
UNMAP does; the new descriptor takes effect when it completes. Log 47 (DEDUCED). -/
def execCtxset (h : CmdHdr) (ctx : Nat) (d : CtxDesc) (s : State) : Host.Outcome State Fault Refusal :=
  match ctxsetRefused s ctx d with
  | some status => operatorCommand s h fun s => (status, [], s)
  | none =>
      if tablesStay s ctx d then operatorCommand s h fun s => (0, [], s.setCtx ctx (contextAfter s d (s.ctx? ctx) true))
      else if commandWaits s h (ctxsetReady s ctx) then .next s
      else if commandWaits s h (!unmapWaits (unmapAll s ctx)) then .next (unmapAll s ctx)
      else operatorCommand s h fun s =>
        let s := finishUnmap (unmapAll s ctx)
        (0, [], s.setCtx ctx (contextAfter s d (s.ctx? ctx) false))

/-- What MAP waits for: a fill that writes a frame which it names, since no frame changes while it is mapped (13 R207), and the ports
of the memory that it reaches (29 R371). -/
def mapReady (s : State) (ctx va leaf : Nat) : Bool := !fillPending s leaf && mapPorts s ctx va leaf

/-- MAP (R307). Log 48 (DEDUCED). -/
def execMapPage (h : CmdHdr) (va leaf : Word) (ctx : Nat) (s : State) : Host.Outcome State Fault Refusal :=
  if commandWaits s h (mapReady s ctx va.toNat leaf.toNat) then .next s
  else contextCommand s h ctx fun s x => mapLeaf s ctx x va.toNat leaf.toNat

/-- The page that UNMAP names: the one that it has begun to remove, or the one whose leaf a walk finds; an address of more than 57
bits has none. -/
def unmapLeaf (s : State) (ctx va : Nat) : Option (Nat × Nat) :=
  if unmapStarted s ctx (some va) then some (va, 0) else if 2 ^ 57 ≤ va then none else walk s ctx va

/-- What UNMAP waits for before it begins: the ports of the tables, and another removal. -/
def unmapReady (s : State) (ctx va : Nat) : Bool :=
  !unmapOther s ctx (some va) && (tableLines s ctx va).all (portReady s)

/-- UNMAP (R310): the leaf is cleared and leaves every TLB, the command waits for the accesses that used it, and the map counts fall
as it completes. Log 21 (DEDUCED). -/
def execUnmapPage (h : CmdHdr) (va : Word) (ctx : Nat) (s : State) : Host.Outcome State Fault Refusal :=
  if commandWaits s h (unmapReady s ctx va.toNat) then .next s
  else match unmapLeaf s ctx va.toNat with
  | none => operatorCommand s h fun s => (if 64 ≤ ctx then 0x01 else 0, [], s)
  | some (base, leaf) =>
      let begun := unmapPage s ctx va.toNat base leaf
      if commandWaits s h (!unmapWaits begun) then .next begun
      else operatorCommand s h fun s => (0, [], finishUnmap (unmapPage s ctx va.toNat base leaf))

/-! ### Queues (21 R275, R276, R279) -/

/-- The windows of a record (R275). -/
def recordWindows (bs : List Byte) : List Window :=
  (upto 4).map fun i =>
    let o := 64 + 16 * i
    { base := fieldAt bs o 8, len := fieldAt bs (o + 8) 4, r := bitOf (fieldAt bs (o + 12) 1) 0, w := bitOf (fieldAt bs (o + 12) 1) 1 }

/-- A reserved field of the record is nonzero. -/
def recordMarks (bs : List Byte) : Bool :=
  fieldAt bs 8 1 / 32 != 0 || fieldAt bs 9 1 / 4 != 0 || fieldAt bs 10 1 / 64 != 0 || fieldAt bs 11 1 / 2 != 0
    || fieldAt bs 12 4 != 0 || fieldAt bs 42 6 != 0 || fieldAt bs 59 1 != 0
    || (upto 4).any fun i => fieldAt bs (76 + 16 * i) 1 / 4 != 0 || fieldAt bs (77 + 16 * i) 3 != 0

/-- The physical address of the doorbell word that a virtual address names. -/
def doorAt (s : State) (ctx va : Nat) : Option Nat :=
  if 2 ^ 57 ≤ va || va % 8 != 0 then none
  else (walk s ctx va).bind fun p =>
    let pa := pteFrame p.2 + (va - p.1)
    if isBell pa then some pa else none

/-- Rule 8 of R279 for the record's bytes; the doorbell word where it is kept. -/
def recordDoor (s : State) (ctx : Nat) (bs : List Byte) : Option Nat :=
  let prog := fieldAt bs 32 8
  let dev := fieldAt bs 11 1 % 2 == 1
  if recordMarks bs || 16 < fieldAt bs 8 1 % 32 || fieldAt bs 0 8 % 256 != 0 || fieldAt bs 10 1 % 64 != ctx
      || !rangeOk s ctx .load prog (8 * fieldAt bs 40 2) || (dev && s.queues.any fun p => p.2.ctx == ctx && p.2.dev) then none
  else (doorAt s ctx (fieldAt bs 48 8)).filter fun pa => (queueOfBell s pa).isNone

/-- The loop bodies of a program: first index, last index. -/
def loopBodies (ops : List Nat) : List (Nat × Nat) :=
  (ops.zip (upto ops.length)).filterMap fun p =>
    if p.1 % 256 == 0x15 then some (p.2 + 1, p.2 + bitsOf p.1 47 40) else none

/-- The loop body that holds an index. -/
def bodyOf (bodies : List (Nat × Nat)) (i : Nat) : Option (Nat × Nat) := bodies.find? fun b => b.1 ≤ i && i ≤ b.2

/-- The rules 2 to 7 that an operation breaks (R279). -/
def opRules (wins : List Window) (plen : Nat) (bodies : List (Nat × Nat)) (n i : Nat) : List Nat :=
  match rawOp n with
  | none => [2]
  | some r =>
      let opc := n % 256
      let imm := bitsOf n 63 32
      let jump := 0x10 ≤ opc && opc ≤ 0x14
      let window := [0x02, 0x03, 0x18, 0x19, 0x1B].contains opc
      r.bad ++ r.instr.broken
        ++ (if jump && plen < i + imm then [4] else [])
        ++ (if opc == 0x15 && plen < i + bitsOf n 47 40 + 1 then [5] else [])
        ++ (if (opc == 0x15 && (bodyOf bodies i).isSome) || (jump && bodyOf bodies (i + imm) != bodyOf bodies i) then [6] else [])
        ++ (if window && (wins[bitsOf n 18 17]?).any (fun w => w.len == 0) then [7] else [])

/-- A declared window whose base or length breaks R275. -/
def Window.bad (w : Window) : Bool := w.len != 0 && (w.base % 8 != 0 || w.len % 8 != 0)

/-- The first failing rule of a program and the first operation that fails it: rule, index (R279). Log 41 (DEDUCED). -/
def programReject (wins : List Window) (ops : List Nat) : Option (Nat × Nat) :=
  let bodies := loopBodies ops
  let fails := (ops.zip (upto ops.length)).map fun p => (p.2, opRules wins ops.length bodies p.1 p.2)
  (upto 8).findSome? fun r =>
    match fails.find? fun p => p.2.contains r with
    | some p => some (r, if r == 7 && wins.any Window.bad then 0 else p.1)
    | none => if r == 7 && wins.any Window.bad then some (7, 0) else none

/-- QREJECT's result: record, operation index, rule. Log 19 (DESIGN CHOICE). -/
def rejectBytes (va index rule : Nat) : List Byte := leBytes 8 va ++ leBytes 2 index ++ leBytes 1 rule

/-- A registered record (R276): the tail is the record's TAIL. Log 41 (DEDUCED). -/
def registerQueue (s : State) (ctx va door : Nat) (bs : List Byte) (ops : List Nat) : State :=
  let r : Queue :=
    { va := va, ctx := ctx, pri := fieldAt bs 9 1 % 4, dev := fieldAt bs 11 1 % 2 == 1, rbase := fieldAt bs 0 8,
      rlog := fieldAt bs 8 1 % 32, ops := ops.map (BitVec.ofNat 64), stat := BitVec.ofNat 64 (fieldAt bs 56 8), door := door,
      wins := recordWindows bs, head := BitVec.ofNat 64 (fieldAt bs 16 8), slot := none, stopped := false, since := s.fresh,
      used := s.fresh, packet := none }
  let q := s.fresh
  let s := { s with
    queues := s.queues.set q r, fresh := q + 1, bells := s.bells.set door (BitVec.ofNat 64 (fieldAt bs 24 8)) }
  let s := if r.waits s then mapQueue s q else s
  checkOverrun s q

/-- The ports of a queue record and of its program are ready (29 R371). -/
def qregPorts (s : State) (ctx va : Nat) : Bool :=
  hubReady s ctx va 128 &&
    (!rangeOk s ctx .load va 128 || hubReady s ctx (hubNat s ctx (va + 32) 8) (8 * hubNat s ctx (va + 40) 2))

/-- QREG (R276, R279). -/
def execQreg (h : CmdHdr) (va : Word) (ctx : Nat) (s : State) : Host.Outcome State Fault Refusal :=
  if commandWaits s h (qregPorts s ctx va.toNat) then .next s
  else contextCommand s h ctx fun s _ =>
    let a := va.toNat
    if a % 128 != 0 || !rangeOk s ctx .load a 128 then (0x14, rejectBytes a 0xFFFF 8, s)
    else
      let bs := hubBytes s ctx a 128
      let prog := fieldAt bs 32 8
      let plen := fieldAt bs 40 2
      match recordDoor s ctx bs with
      | none => (0x14, rejectBytes a 0xFFFF 8, s)
      | some door =>
          if plen == 0 || 256 < plen || prog % 8 != 0 then (0x14, rejectBytes a 0 1, s)
          else
            let s := hubHolds (hubHolds s ctx a 128) ctx prog (8 * plen)
            let ops := (upto plen).map fun i => hubNat s ctx (prog + 8 * i) 8
            match programReject (recordWindows bs) ops with
            | some (rule, index) => (0x14, rejectBytes a index rule, s)
            | none => (0, [], registerQueue s ctx a door bs ops)

/-- QDEREG (R374): each operation of the engine is one step, so none is in progress here. Log 41 (DEDUCED). -/
def execQdereg (h : CmdHdr) (va : Word) (ctx : Nat) (s : State) : Host.Outcome State Fault Refusal :=
  if commandWaits s h (hubReady s ctx va.toNat 128) then .next s
  else contextCommand s h ctx fun s _ =>
    match s.queues.find? fun p => p.2.ctx == ctx && p.2.va == va.toNat with
    | none => (0, [], s)
    | some (q, _) => (0, [], closeQueue (abandonPacket s q) q)

/-! ### Fills (21 R291) -/

/-- The operands of WSFILL name frames, a source and a signal word that exist. Log 48 (DEDUCED). -/
def fillForm (poolsz frame count source signal : Nat) : Bool :=
  isWeight frame && frame % 4096 == 0 && frameExists poolsz frame (4096 * count) && isPooled source && source % 4096 == 0
    && frameExists poolsz source (4096 * count) && isPooled signal && signal % 8 == 0 && frameExists poolsz signal 8

/-- WSFILL (R291, R374). Log 48 (DEDUCED). -/
def execWsfill (h : CmdHdr) (frame : Word) (count : Nat) (source signal : Word) (s : State) :
    Host.Outcome State Fault Refusal :=
  operatorCommand s h fun s =>
    let f := frame.toNat
    let die := fun (i : Nat) => bitsOf (f + 4096 * i) 35 32
    if !fillForm s.poolsz f count source.toNat signal.toNat then (0x01, [], s)
    else if !(List.range' (die 0) (die (count - 1) + 1 - die 0)).all (fun d => s.ready.getLsbD (512 + d)) then (0x03, [], s)
    else if s.mapCounts.any (fun p => f ≤ p.1 && p.1 < f + 4096 * count && p.2 != 0) then (0x15, [], s)
    else (0, [], { s with
      fills := s.fills ++ [{ id := s.fresh, frame := f, count := count, source := source.toNat, signal := signal.toNat }]
      fresh := s.fresh + 1 })

/-! ### Capsules (26 R350) -/

/-- The held capsules: the full one, then the summaries. -/
def heldCapsules (s : State) : List Capsule := s.capsule.toList ++ s.summaries

/-- A capsule in CAPLIST's result. Log 19 (DESIGN CHOICE). -/
def Capsule.listed (c : Capsule) : List Byte :=
  leBytes 8 c.handle ++ leBytes 4 c.fr.capno ++ leBytes 1 c.fr.cause ++ leBytes 1 (bit01 c.summary) ++ leBytes 2 c.fr.origin
    ++ leBytes 8 c.fr.t0.toNat ++ leBytes 8 c.length

def execCaplist (h : CmdHdr) (s : State) : Host.Outcome State Fault Refusal :=
  operatorCommand s h fun s => (0, ((heldCapsules s).map Capsule.listed).flatten, s)

/-- The credential is that of the context at T0 (26 R349). -/
def credentialHolds (c : Capsule) (ctx : Nat) (cred : List Byte) : Bool := c.fr.creds.get? ctx == some (shake256 cred)

/-- CAPVIEW (R350): the view's number, its length, and a mask of the pairs whose credential fails. -/
def execCapview (h : CmdHdr) (handle : Nat) (operator : Bool) (creds : List (Nat × List Byte)) (s : State) :
    Host.Outcome State Fault Refusal :=
  operatorCommand s h fun s =>
    if !s.ready.getLsbD 538 then (0x03, [], s)
    else match (heldCapsules s).find? fun c => c.handle == handle with
      | none => (0x01, [], s)
      | some c =>
          let granted := (creds.filter fun p => credentialHolds c p.1 p.2).map Prod.fst
          let failed := (creds.zip (upto creds.length)).foldl
            (fun m p => if credentialHolds c p.1.1 p.1.2 then m else m + 2 ^ p.2) 0
          let (s, idx) := takeIndex s
          let v : View := { id := s.fresh, handle := handle, bytes := viewBytes s.serialNo c operator granted idx }
          (0, leBytes 8 v.id ++ leBytes 8 v.bytes.length ++ leBytes 8 failed,
            { s with views := s.views ++ [v], fresh := s.fresh + 1 })

/-- Bytes of the retrieval window. -/
def windowBytes : Nat := 65536

/-- CAPREAD (R350). Log 48 (DEDUCED). -/
def execCapread (h : CmdHdr) (view offset : Nat) (s : State) : Host.Outcome State Fault Refusal :=
  command s h false false fun s =>
    match s.views.find? fun v => v.id == view with
    | none => (0x16, [], s)
    | some v =>
        if offset % windowBytes != 0 then (0x01, [], s)
        else (0, [], { s with
          capWindow := ((v.bytes.drop offset).take windowBytes ++ List.replicate windowBytes 0).take windowBytes })

/-- CAPREL (R350). -/
def execCaprel (h : CmdHdr) (handle : Nat) (s : State) : Host.Outcome State Fault Refusal :=
  operatorCommand s h fun s =>
    if !(heldCapsules s).any (fun c => c.handle == handle) then (0x01, [], s)
    else (0, [], { s with
      capsule := s.capsule.filter fun c => c.handle != handle
      summaries := s.summaries.filter fun c => c.handle != handle
      views := s.views.filter fun v => v.handle != handle })

/-- CAPFREEZE (R350): a freeze with cause 0x82 and the hub as origin. -/
def execCapfreeze (h : CmdHdr) (s : State) : Host.Outcome State Fault Refusal :=
  operatorCommand s h fun s =>
    if !s.ready.getLsbD 537 then (0x03, [], s) else (0, [], startFreeze s hubUnit 0x82 none 0 false)

/-- NORLIST (R350): the valid summaries of NOR as they stand there, newest first. Log 19 (DESIGN CHOICE). -/
def execNorlist (h : CmdHdr) (s : State) : Host.Outcome State Fault Refusal :=
  command s h false false fun s => (0, (s.nor.reverse.filterMap id).flatten, s)

/-! ### Logs and tables of a context (27 R356) -/

/-- A pooled physical range from an address aligned to 64. Log 46 (DEDUCED). -/
def pooledRange (s : State) (base n : Nat) : Bool := base % 64 == 0 && isPooled base && base + n ≤ s.poolsz

/-- The ports of such a range are ready; one that pooled memory does not hold is not reached (29 R371). -/
def areaPorts (s : State) (base n : Nat) : Bool := !pooledRange s base n || portsReady s base n

/-- CKLOG (R356). Log 48 (DEDUCED). -/
def execCklog (h : CmdHdr) (ctx : Nat) (base : Word) (entries : Nat) (s : State) : Host.Outcome State Fault Refusal :=
  if commandWaits s h (areaPorts s base.toNat (64 + 32 * entries)) then .next s
  else contextCommand s h ctx fun s x =>
    if entries == 0 then (0, [], s.setCtx ctx { x with log := none })
    else if !pooledRange s base.toNat (64 + 32 * entries) || entries != 2 ^ entries.log2 then (0x01, [], s)
    else (0, [], { s with mem := writeNat s.mem base.toNat 8 0 }.setCtx ctx { x with log := some (base.toNat, entries) })

/-- CENSUS (R356): the merged table is cleared, with entry 0 in use. Log 48 (DEDUCED). -/
def execCensusCmd (h : CmdHdr) (ctx : Nat) (base : Word) (entries : Nat) (s : State) : Host.Outcome State Fault Refusal :=
  if commandWaits s h (areaPorts s base.toNat (64 + 48 * entries)) then .next s
  else contextCommand s h ctx fun s x =>
    if entries == 0 || 65536 < entries || !pooledRange s base.toNat (64 + 48 * entries) then (0x01, [], s)
    else
      let mem := writeBytes s.mem base.toNat (List.replicate (64 + 48 * entries) 0)
      let mem := writeNat (writeNat mem base.toNat 4 1) (base.toNat + 64) 8 (maxW 64)
      (0, [], { s with mem := mem }.setCtx ctx { x with merged := some (base.toNat, entries) })

/-! ### Errors and notices (28 R366, R367) -/

/-- ERRREAD (R366). -/
def execErrread (h : CmdHdr) (s : State) : Host.Outcome State Fault Refusal :=
  operatorCommand s h fun s => (0, leBytes 8 s.errsum.toNat, s)

/-- FNOTE (R367): 0 stops the notices. Log 46 (DEDUCED). -/
def execFnote (h : CmdHdr) (addr : Word) (s : State) : Host.Outcome State Fault Refusal :=
  operatorCommand s h fun s =>
    if addr == 0 then (0, [], { s with fnote := 0, kills := s.kills.filter fun k => !k.horizon })
    else if !pooledRange s addr.toNat 32 then (0x01, [], s)
    else (0, [], { s with fnote := addr.toNat })

/-! ### Parameters (R374) -/

/-- A context descriptor's 64 bytes (23 R295); none where a reserved bit is set. -/
def decodeDesc (bs : List Byte) : Option CtxDesc :=
  let pol := fieldAt bs 18 1
  let redact : Option Redact := match bitsOf pol 3 2 with
    | 0 => some .full
    | 1 => some .shape
    | 2 => some .gap
    | _ => none
  if 16 ≤ pol || 8 ≤ fieldAt bs 19 1 || fieldAt bs 20 4 != 0 || fieldAt bs 60 4 != 0 then none
  else redact.map fun r =>
    { ptroot := BitVec.ofNat 64 (fieldAt bs 0 8), save := BitVec.ofNat 64 (fieldAt bs 8 8), part := BitVec.ofNat 16 (fieldAt bs 16 2),
      serial := bitOf pol 0, valid := bitOf pol 1, redact := r, pcap := BitVec.ofNat 3 (fieldAt bs 19 1),
      wdog := BitVec.ofNat 64 (fieldAt bs 24 8), vcred := (bs.drop 32).take 16, tarena := BitVec.ofNat 64 (fieldAt bs 48 8),
      tasz := BitVec.ofNat 32 (fieldAt bs 56 4) }

/-- The context named in a byte. -/
def contextByte (bs : List Byte) (at' : Nat) : Option Nat :=
  let c := fieldAt bs at' 1
  if c < 64 then some c else none

/-- The pairs of CAPVIEW: 17 bytes each, context and credential. Log 19 (DESIGN CHOICE). -/
def credentialPairs (bs : List Byte) : Nat → Option (List (Nat × List Byte))
  | 0 => some []
  | n + 1 => (contextByte bs 0).bind fun c => (credentialPairs (bs.drop 17) n).map fun r => (c, (bs.drop 1).take 16) :: r

/-- A 64-bit parameter. -/
def param64 (bs : List Byte) (at' : Nat) : Word := BitVec.ofNat 64 (fieldAt bs at' 8)

/-- The meaning of the command of a code and its parameters (R373, R374), or none: BADCMD. Log 19 (DESIGN CHOICE). -/
def commandOf (h : CmdHdr) (code : Nat) (bs : List Byte) : Option (State → Host.Outcome State Fault Refusal) :=
  let n := bs.length
  let when' := fun (ok : Bool) (i : State → Host.Outcome State Fault Refusal) => if ok then some i else none
  match code with
  | 0x0001 => when' (n == 0) (execInfoCmd h)
  | 0x0010 => if n == 72 && fieldAt bs 1 7 == 0 then
      (contextByte bs 0).bind fun c => (decodeDesc (bs.drop 8)).map fun d => execCtxset h c d
    else none
  | 0x0011 => if n == 17 then (contextByte bs 16).map fun c => execMapPage h (param64 bs 0) (param64 bs 8) c else none
  | 0x0012 => if n == 9 then (contextByte bs 8).map fun c => execUnmapPage h (param64 bs 0) c else none
  | 0x0013 => if n == 9 then (contextByte bs 8).map fun c => execQreg h (param64 bs 0) c else none
  | 0x0014 => if n == 9 then (contextByte bs 8).map fun c => execQdereg h (param64 bs 0) c else none
  | 0x0015 => when' (n == 32 && fieldAt bs 12 4 == 0) (execWsfill h (param64 bs 0) (fieldAt bs 8 4) (param64 bs 16) (param64 bs 24))
  | 0x0020 => when' (n == 32) (execAttest h bs)
  | 0x0021 => when' (n == 8) (execFwstage h (fieldAt bs 0 8))
  | 0x0022 => when' (n == 1 && fieldAt bs 0 1 < 2) (execFwcommit h (fieldAt bs 0 1 == 1))
  | 0x0030 => when' (n == 0) (execCaplist h)
  | 0x0031 =>
      let k := fieldAt bs 9 1
      if k ≤ 64 && n == 10 + 17 * k && fieldAt bs 8 1 < 2 then
        (credentialPairs (bs.drop 10) k).map fun cs => execCapview h (fieldAt bs 0 8) (fieldAt bs 8 1 == 1) cs
      else none
  | 0x0032 => when' (n == 16) (execCapread h (fieldAt bs 0 8) (fieldAt bs 8 8))
  | 0x0033 => when' (n == 8) (execCaprel h (fieldAt bs 0 8))
  | 0x0034 => when' (n == 0) (execCapfreeze h)
  | 0x0035 => when' (n == 0) (execNorlist h)
  | 0x0038 => if n == 20 && fieldAt bs 1 7 == 0 then
      (contextByte bs 0).map fun c => execCklog h c (param64 bs 8) (fieldAt bs 16 4)
    else none
  | 0x0039 => if n == 20 && fieldAt bs 1 7 == 0 then
      (contextByte bs 0).map fun c => execCensusCmd h c (param64 bs 8) (fieldAt bs 16 4)
    else none
  | 0x0040 => when' (n == 0) (execErrread h)
  | 0x0041 => when' (n == 8) (execFnote h (param64 bs 0))
  | _ => none

/-- A code that is a command's. -/
def commandCode (code : Nat) : Bool :=
  [0x0001, 0x0010, 0x0011, 0x0012, 0x0013, 0x0014, 0x0015, 0x0020, 0x0021, 0x0022, 0x0030, 0x0031, 0x0032, 0x0033, 0x0034,
   0x0035, 0x0038, 0x0039, 0x0040, 0x0041].contains code

/-- A command that page 1 takes (R373). -/
def openCode (code : Nat) : Bool := [0x0001, 0x0020, 0x0032, 0x0035].contains code

end Sys2Proof.Machine
end

