-- ==== Sys2Proof/Machine/Boot.lean ====
section
/-!
DEFINITION. Reset, power-on, the choice of the firmware and the READY bits (29 R369-R372, 26 R346, R347, 28 R366).
-/
namespace Sys2Proof.Machine

/-! ### READY (R369-R371) -/

/-- What must be ready before a function is (R371): the boot ROM's verification, MBOX, RECORDER, SIGNER in that order and then the
others, in any; without running firmware MBOX alone (R372). Log 49 (DESIGN CHOICE). -/
def readyAfter (s : State) (bit : Nat) : Bool :=
  if bit == 539 then s.booted
  else s.running.isSome && (if bit == 537 then s.ready.getLsbD 539
    else if bit == 538 then s.ready.getLsbD 537
    else s.ready.getLsbD 538)

/-- FUNCTION_READY (R370). Log 49 (DESIGN CHOICE). -/
def functionReadies (bit : Nat) (s : State) : Option State :=
  if 540 ≤ bit || s.ready.getLsbD bit || s.dead || !readyAfter s bit then none
  else some { s with ready := s.ready ||| BitVec.twoPow 540 bit }

def execFunctionReady (bit : Nat) (s : State) : Host.Outcome State Fault Refusal := happen s (functionReadies bit s)

/-! ### The boot ROM (R372) -/

/-- The slot the ROM boots: the valid one with the higher VERSION, A among equals. Log 49 (DESIGN CHOICE). -/
def bootSlot (s : State) : Option Bool :=
  match imageValid s.minSvn s.fwA, imageValid s.minSvn s.fwB with
  | true, true => some (decide (imageNat s.fwA 4 4 < imageNat s.fwB 4 4))
  | true, false => some false
  | false, true => some true
  | false, false => none

/-- FIRMWARE_BOOT (R371, R372): once after a reset, before any function is ready. Log 7 (DESIGN CHOICE), 49 (DESIGN CHOICE). -/
def firmwareBoots (s : State) : Option State :=
  if s.booted then none
  else some { s with booted := true, running := bootSlot s, boot := (s.boot + 1) % 2 ^ 32 }

def execFirmwareBoot (s : State) : Host.Outcome State Fault Refusal := happen s (firmwareBoots s)

/-! ### Resets (R370, 26 R347) -/

/-- Poison that outlasts a reset: that of pooled memory's lines and of the weight store. -/
def ErrSite.ofMemory : ErrSite → Bool
  | .dieCache _ | .weightStore _ => true
  | _ => false

/-- The machine after a device reset: every READY bit clear, no context, grid or queue; memory, NOR, the vaults and the
strongroom are kept (R370, R377, 26 R332, R347). Log 3 (DESIGN CHOICE), 45 (DEDUCED). -/
def afterReset (s : State) : State :=
  { State.reset with
    time := s.time, upAt := s.time, mem := s.mem, poolsz := s.poolsz, ports := s.ports, code := s.code, vaults := s.vaults, freeze := s.freeze
    capsule := s.capsule, summaries := s.summaries, views := s.views, nor := s.nor, norOpen := false, norDue := s.norDue, capno := s.capno
    nextIndex := s.nextIndex, reserved := s.reserved, idNext := s.idNext, idReserved := s.idReserved, fwA := s.fwA
    fwB := s.fwB, boot := s.boot, minSvn := s.minSvn, serialNo := s.serialNo, errsum := s.errsum, norErr := s.norErr
    poison := s.poison.filter ErrSite.ofMemory, phases := s.phases, fresh := s.fresh, freeCount := s.freeCount
    intervals := s.intervals, epochs := s.epochs, agenda := s.agenda }

/-- DEVICE_RESET (R370). Log 45 (DEDUCED). -/
def execDeviceReset (s : State) : Host.Outcome State Fault Refusal := .next (afterReset s)

/-- The cells of pooled memory, which is outside the package. Log 2 (DESIGN CHOICE). -/
def pooledCells (m : List Host.Cell) : List Host.Cell := m.filter fun p => isPooled p.1

/-- COLD_POWER_ON (26 R347, R346, 28 R366): a reset that also empties the strongroom and the vaults, clears ERRSUM and skips
the indices left of a reserved block. Log 2 (DESIGN CHOICE), 45 (DEDUCED). -/
def execColdPowerOn (s : State) : Host.Outcome State Fault Refusal :=
  .next { afterReset s with
    mem := pooledCells s.mem, vaults := [], freeze := none, capsule := none, summaries := [], views := [], norDue := []
    nextIndex := s.reserved, idNext := s.idReserved, errsum := 0
    poison := s.poison.filter fun p => match p with | .dieCache _ => true | _ => false }

end Sys2Proof.Machine
end

