-- ==== Sys2Proof/Machine/Vector.lean ====
section
/-!
DEFINITION. Integer lane instructions and moves within a thread (08 R114-R117), and the moves between threads
(08 R124-R128).
-/
namespace Sys2Proof.Machine

/-! ### Lanes (02 R21, R22) -/

/-- Lane width of an integer TY. -/
def laneWidth (ty : Ty) : Nat :=
  match ty with
  | .i16x2 | .u16x2 | .f16x2 | .bf16x2 => 16
  | .i8x4 | .u8x4 => 8
  | _ => 32

def laneSigned (ty : Ty) : Bool := ty == .i32 || ty == .i16x2 || ty == .i8x4

/-- Lane `i` of width `w`. -/
def laneOf (w : Nat) (v : W32) (i : Nat) : BitVec w := BitVec.ofNat w (v.toNat / 2 ^ (w * i))

/-- A register from lanes of width `w`, lane 0 first. -/
def ofLanes (w : Nat) : List Nat → Nat
  | [] => 0
  | x :: xs => x % 2 ^ w + 2 ^ w * ofLanes w xs

/-- Lanes per register. -/
def laneCount (ty : Ty) : Nat := 32 / laneWidth ty

/-- Applies an operation to every lane of three registers. -/
def mapLanes (ty : Ty) (f : (w : Nat) → BitVec w → BitVec w → BitVec w → BitVec w) (a b c : W32) : W32 :=
  let w := laneWidth ty
  BitVec.ofNat 32 (ofLanes w ((upto (laneCount ty)).map fun i => (f w (laneOf w a i) (laneOf w b i) (laneOf w c i)).toNat))

/-- The value of a lane as its TY reads it. -/
def laneInt (sg : Bool) {w : Nat} (x : BitVec w) : Int := if sg then x.toInt else x.toNat

/-- Clamps to the range of a lane (R22). -/
def clampLane (sg : Bool) (w : Nat) (v : Int) : Int :=
  let lo : Int := if sg then -2 ^ (w - 1) else 0
  let hi : Int := if sg then 2 ^ (w - 1) - 1 else 2 ^ w - 1
  if v < lo then lo else if hi < v then hi else v

/-- An exact result narrowed: wrapped, or clamped under SAT (R22). -/
def narrow (sg sat : Bool) (w : Nat) (v : Int) : BitVec w := BitVec.ofInt w (if sat then clampLane sg w v else v)

/-- An arithmetic lane operation on exact integers. -/
def arith (ty : Ty) (sat : Bool) (f : Int → Int → Int → Int) (a b c : W32) : W32 :=
  let sg := laneSigned ty
  mapLanes ty (fun w x y z => narrow sg sat w (f (laneInt sg x) (laneInt sg y) (laneInt sg z))) a b c

/-! ### Lane instructions (R116) -/

/-- A V-layout instruction whose result in each acting thread is a function of A, B and C. -/
def laneOp (s : State) (op : Nat) (o : VOps) (a b c : Bool) (f : W32 → W32 → W32 → W32) :
    Host.Outcome State Fault Refusal :=
  issue s op o.hdr.stop (vUses o true a b c) fun m =>
    .done (m.putV s o.vd.toNat ((m.acting s o.all).map fun t =>
      (t, f (if a then m.v o.va.toNat t else 0) (vOpB o m t) (if c then m.v o.vc.toNat t else 0))))

def execVadd (o : VOps) (s : State) : Host.Outcome State Fault Refusal :=
  laneOp s 0x80 o true true false (arith o.ty o.sat fun a b _ => a + b)
def execVsub (o : VOps) (s : State) : Host.Outcome State Fault Refusal :=
  laneOp s 0x81 o true true false (arith o.ty o.sat fun a b _ => a - b)
def execVmul (o : VOps) (s : State) : Host.Outcome State Fault Refusal :=
  laneOp s 0x82 o true true false (arith o.ty o.sat fun a b _ => a * b)
/-- Bits [2w−1:w] of the product. -/
def execVmulh (o : VOps) (s : State) : Host.Outcome State Fault Refusal :=
  laneOp s 0x83 o true true false fun a b c =>
    mapLanes o.ty (fun w x y _ => BitVec.ofInt w (laneInt (laneSigned o.ty) x * laneInt (laneSigned o.ty) y / 2 ^ w)) a b c
def execVmad (o : VOps) (s : State) : Host.Outcome State Fault Refusal :=
  laneOp s 0x84 o true true true (arith o.ty o.sat fun a b c => a * b + c)
def execVadds (o : VOps) (s : State) : Host.Outcome State Fault Refusal :=
  laneOp s 0x85 o true true false (arith o.ty true fun a b _ => a + b)
def execVsubs (o : VOps) (s : State) : Host.Outcome State Fault Refusal :=
  laneOp s 0x86 o true true false (arith o.ty true fun a b _ => a - b)
def execVand (o : VOps) (s : State) : Host.Outcome State Fault Refusal :=
  laneOp s 0x87 o true true false fun a b _ => a &&& b
def execVor (o : VOps) (s : State) : Host.Outcome State Fault Refusal :=
  laneOp s 0x88 o true true false fun a b _ => a ||| b
def execVxor (o : VOps) (s : State) : Host.Outcome State Fault Refusal :=
  laneOp s 0x89 o true true false fun a b _ => a ^^^ b
def execVnot (o : VOps) (s : State) : Host.Outcome State Fault Refusal :=
  laneOp s 0x8A o true false false fun a _ _ => ~~~a
def execVshl (o : VOps) (s : State) : Host.Outcome State Fault Refusal :=
  laneOp s 0x8B o true true false (mapLanes o.ty fun w x y _ => aluShl w x y)
def execVshr (o : VOps) (s : State) : Host.Outcome State Fault Refusal :=
  laneOp s 0x8C o true true false (mapLanes o.ty fun w x y _ => aluShr w x y)
def execVsra (o : VOps) (s : State) : Host.Outcome State Fault Refusal :=
  laneOp s 0x8D o true true false (mapLanes o.ty fun w x y _ => aluSra w x y)
def execVmin (o : VOps) (s : State) : Host.Outcome State Fault Refusal :=
  laneOp s 0x8E o true true false (mapLanes o.ty fun w x y _ => aluMin w x y)
def execVminu (o : VOps) (s : State) : Host.Outcome State Fault Refusal :=
  laneOp s 0x8E o true true false (mapLanes o.ty fun w x y _ => aluMinu w x y)
def execVmax (o : VOps) (s : State) : Host.Outcome State Fault Refusal :=
  laneOp s 0x8F o true true false (mapLanes o.ty fun w x y _ => aluMax w x y)
def execVmaxu (o : VOps) (s : State) : Host.Outcome State Fault Refusal :=
  laneOp s 0x8F o true true false (mapLanes o.ty fun w x y _ => aluMaxu w x y)
def execVabs (o : VOps) (s : State) : Host.Outcome State Fault Refusal :=
  laneOp s 0x90 o true false false (arith o.ty o.sat fun a _ _ => if a < 0 then -a else a)
def execVneg (o : VOps) (s : State) : Host.Outcome State Fault Refusal :=
  laneOp s 0x91 o true false false (arith o.ty o.sat fun a _ _ => -a)
def execVclz (o : VOps) (s : State) : Host.Outcome State Fault Refusal :=
  laneOp s 0x92 o true false false (mapLanes o.ty fun w x _ _ => aluClz w x x)
def execVpopc (o : VOps) (s : State) : Host.Outcome State Fault Refusal :=
  laneOp s 0x93 o true false false (mapLanes o.ty fun w x _ _ => aluPopc w x x)

/-- pos and len of `vbfx` and `vbfi` (R116). -/
def vFieldPos (b : W32) : Nat := bitsOf b.toNat 4 0
def vFieldLen (b : W32) : Nat := min (bitsOf b.toNat 13 8) (32 - vFieldPos b)

/-- A field, extended from its top bit for I32. -/
def vbfxOf (sg : Bool) (a b : W32) : W32 :=
  let len := vFieldLen b
  let x := a.toNat / 2 ^ vFieldPos b % 2 ^ len
  BitVec.ofInt 32 (if sg && 0 < len then signedOf len x else x)

def vbfiOf (a b c : W32) : W32 :=
  let k := BitVec.ofNat 32 ((2 ^ vFieldLen b - 1) * 2 ^ vFieldPos b)
  (c &&& ~~~k) ||| ((a <<< vFieldPos b) &&& k)

def execVbfx (o : VOps) (s : State) : Host.Outcome State Fault Refusal :=
  laneOp s 0x94 o true true false fun a b _ => vbfxOf (o.ty == .i32) a b
def execVbfi (o : VOps) (s : State) : Host.Outcome State Fault Refusal :=
  laneOp s 0x95 o true true true fun a b c => vbfiOf a b c

def execVmov (o : VOps) (s : State) : Host.Outcome State Fault Refusal :=
  laneOp s 0x97 o false true false fun _ b _ => b

/-- `vsel`: by a key (R116). -/
def execVsel (o : VOps) (s : State) : Host.Outcome State Fault Refusal :=
  issue s 0x96 o.hdr.stop { vUses o true true true false with keys := [o.vc.toNat % 8] } fun m =>
    .done (m.putV s o.vd.toNat ((m.acting s o.all).map fun t =>
      (t, if m.blk.key (o.vc.toNat % 8) t then m.v o.va.toNat t else vOpB o m t)))

/-- The relation of `vcmp` (R117). -/
def vrelHolds (r : VRel) (sg : Bool) (a b : W32) : Bool :=
  let lt := fun (x y : W32) => if sg then x.slt y else x.ult y
  match r with
  | .eq => a == b
  | .ne => a != b
  | .lt => lt a b
  | .le => !lt b a
  | .gt => lt b a
  | .ge => !lt a b

def execVcmp (r : VRel) (o : VOps) (s : State) : Host.Outcome State Fault Refusal :=
  issue s 0x98 o.hdr.stop (vUses o false true true false) fun m =>
    let x := filterSet m.blk.n (m.act s o.all) fun t => vrelHolds r (o.ty == .i32) (m.v o.va.toNat t) (vOpB o m t)
    .done (m.putKey s (o.vd.toNat % 8) (m.act s o.all) x)

/-! ### Moves between threads (R124-R128) -/

/-- A thread that `vrd` and `vwr` reach: below N and not parked by the strand. -/
def Me.reaches (m : Me) (i : Nat) : Bool := i < m.blk.n && !m.st.parked.getLsbD i

/-- The thread `vrd` and `vwr` name. -/
def vIndex (o : VOps) (r : Regs) : Nat :=
  if o.bsrc == .scalar then (r.get (scalarOf o.vb)).toNat % 2 ^ 32 else o.imm32.toNat

/-- What `vrd` and `vwr` use: they ignore TOP, and reach one thread or none. -/
def oneUses (o : VOps) (m : Me) (i : Nat) (d : VName) (write index value : Bool) (dst : List SReg) : Uses :=
  { bo := true, sets := true, ord := true, dst := dst, only := some (if m.reaches i then setOf [i] else 0)
    src := (if index && o.bsrc == .scalar then [(scalarOf o.vb, o.hdr.wfb)] else [])
      ++ (if value then [(scalarOf o.vc, o.hdr.wfc)] else [])
    names := [{ name := d, count := 1, write := write, wf := !write && o.hdr.wfa }] }

/-- A value extended by TY. -/
def extendTy (ty : Ty) (v : W32) : Word := if ty == .i32 then v.signExtend 64 else v.zeroExtend 64

/-- `vrd` of a thread (R124). -/
def vrdOf (m : Me) (s : State) (o : VOps) (i : Nat) : Eff :=
  .done (lateScalar s m (scalarOf o.vd) (some (if m.reaches i then extendTy o.ty (m.v o.va.toNat i) else 0)))

def execVrd (o : VOps) (s : State) : Host.Outcome State Fault Refusal :=
  issueBy s 0x99 o.hdr.stop
    (fun m => oneUses o m (vIndex o m.st.regs) o.va false true false [scalarOf o.vd])
    fun m => vrdOf m s o (vIndex o m.st.regs)

def execVrdFirst (o : VOps) (s : State) : Host.Outcome State Fault Refusal :=
  issueBy s 0x99 o.hdr.stop
    (fun m => oneUses o m m.st.regs.rfr.toNat o.va false false false [scalarOf o.vd])
    fun m => vrdOf m s o m.st.regs.rfr.toNat

def execVwr (o : VOps) (s : State) : Host.Outcome State Fault Refusal :=
  issueBy s 0x9A o.hdr.stop (fun m => oneUses o m (vIndex o m.st.regs) o.vd true true true []) fun m =>
    let i := vIndex o m.st.regs
    .done (if m.reaches i then m.putV s o.vd.toNat [(i, (m.st.regs.get (scalarOf o.vc)).truncate 32)] else s)

/-! ### Reductions (R125, R126) -/

/-- Identity of an operation. -/
def redIdentity (f : RedOp) (sg : Bool) : W32 :=
  match f with
  | .add | .or | .xor | .fadd => 0
  | .and => 0xFFFFFFFF
  | .min => if sg then 0x7FFFFFFF else 0xFFFFFFFF
  | .max => if sg then 0x80000000 else 0
  | .fmin => 0x7F800000
  | .fmax => 0xFF800000

/-- The first value of a float operation: flushed under FTZ, a NaN made canonical (R125). -/
def redFirstFloat (ftz : Bool) (x : W32) : FRes :=
  match f32.read ftz x.toNat with
  | .nan sn => f32.nanRes sn
  | .zero n => { bits := f32.sign n, flags := 0 }
  | _ => { bits := x.toNat, flags := 0 }

/-- The first value: an integer as it stands. -/
def redFirst (f : RedOp) (ftz : Bool) (x : W32) : W32 × BitVec 5 :=
  match f with
  | .fadd | .fmin | .fmax => let r := redFirstFloat ftz x; (BitVec.ofNat 32 r.bits, r.flags)
  | _ => (x, 0)

/-- One step of the combination. -/
def redStep (f : RedOp) (sg ftz : Bool) (rnd : Rnd) (acc x : W32) : W32 × BitVec 5 :=
  let fl := fun (r : FRes) => (BitVec.ofNat 32 r.bits, r.flags)
  match f with
  | .add => (acc + x, 0)
  | .min => (if sg then aluMin 32 acc x else aluMinu 32 acc x, 0)
  | .max => (if sg then aluMax 32 acc x else aluMaxu 32 acc x, 0)
  | .and => (acc &&& x, 0)
  | .or => (acc ||| x, 0)
  | .xor => (acc ^^^ x, 0)
  | .fadd => fl (f32.add rnd ftz (f32.read ftz acc.toNat) (f32.read ftz x.toNat))
  | .fmin => fl (f32.minMax false ftz acc.toNat x.toNat)
  | .fmax => fl (f32.minMax true ftz acc.toNat x.toNat)

/-- The running values over the acting threads, and the flags of the whole sequence. -/
def redRun (f : RedOp) (sg ftz : Bool) (rnd : Rnd) : Option W32 → List (Nat × W32) → List (Nat × W32) × BitVec 5
  | _, [] => ([], 0)
  | acc, (t, x) :: rest =>
      let (v, fl) := match acc with
        | none => redFirst f ftz x
        | some a => redStep f sg ftz rnd a x
      let (out, fl') := redRun f sg ftz rnd (some v) rest
      ((t, v) :: out, fl ||| fl')

/-- The acting threads with their values of A. -/
def Me.aValues (m : Me) (s : State) (o : VOps) : List (Nat × W32) :=
  (m.acting s o.all).map fun t => (t, m.v o.va.toNat t)

def isFloatRed (f : RedOp) : Bool := f == .fadd || f == .fmin || f == .fmax

def execVred (f : RedOp) (o : VOps) (s : State) : Host.Outcome State Fault Refusal :=
  issue s 0x9B o.hdr.stop
    { vUses o false true false false with dst := [scalarOf o.vd] } fun m =>
    let sg := o.ty == .i32
    let (run, fl) := redRun f sg o.ftz o.rnd none (m.aValues s o)
    let acc := (run.getLast?.map Prod.snd).getD (redIdentity f sg)
    withFlags m s fl fun s =>
      lateScalar s m (scalarOf o.vd) (some (if sg && !isFloatRed f then acc.signExtend 64 else acc.zeroExtend 64))

def execVscan (f : RedOp) (o : VOps) (s : State) : Host.Outcome State Fault Refusal :=
  issue s 0x9C o.hdr.stop (vUses o true true false false) fun m =>
    let (run, fl) := redRun f (o.ty == .i32) o.ftz o.rnd none (m.aValues s o)
    withFlags m s fl fun s => m.putV s o.vd.toNat run

/-! ### Permutation and table (R127, R128) -/

def execVperm (o : VOps) (s : State) : Host.Outcome State Fault Refusal :=
  issue s 0x9D o.hdr.stop (vUses o true true true false) fun m =>
    let act := m.act s o.all
    .done (m.putV s o.vd.toNat ((m.acting s o.all).map fun t =>
      let j := (vOpB o m t).toNat
      (t, if j < m.blk.n && act.getLsbD j then m.v o.va.toNat j else 0)))

/-- Addresses a thread reads from the table (R128), as exact sums (00 R5): one past 2^64 lies outside the scratchpad.
Log 56 (DEDUCED). -/
def lutAddrs (o : VOps) (p : Nat) (a : W32) : List Nat :=
  if o.ty == .u8x4 then (upto 4).map fun e => p + (laneOf 8 a e).toNat
  else [p + 4 * bitsOf a.toNat 15 0]

def lutWidth (o : VOps) : Nat := if o.ty == .u8x4 then 1 else 4

/-- What a thread reads. -/
def lutValue (o : VOps) (b : Block) (p : Nat) (a : W32) : W32 :=
  BitVec.ofNat 32 (if o.ty == .u8x4 then ofLanes 8 ((lutAddrs o p a).map fun x => readNat b.scratch x 1)
    else readNat b.scratch ((lutAddrs o p a).headD 0) 4)

/-- `vlut` (R128): MISALIGN of the base comes before ACCESS, and TINFO is that of R133, for MISALIGN of the first acting thread.
Log 56 (DEDUCED). -/
def execVlut (o : VOps) (s : State) : Host.Outcome State Fault Refusal :=
  issue s 0x9E o.hdr.stop
    { vUses o true true false false with src := [(scalarOf o.vb, o.hdr.wfb)] } fun m =>
    let p := (m.st.regs.get (scalarOf o.vb)).toNat
    let vals := m.aValues s o
    let w := lutWidth o
    let all := (vals.map fun q => (lutAddrs o p q.2).map fun x => (q.1, x)).flatten
    match vals with
    | [] => .done s
    | first :: _ =>
        if p % w != 0 then .trap causeMisalign (addrInfo first.1 ((lutAddrs o p first.2).headD 0)) s
        else match all.find? fun q => !m.blk.holds q.2 w with
          | some q => .trap causeAccess (addrInfo q.1 q.2) s
          | none =>
              if m.st.fenced 0 || all.any (fun q => scratchBusy s m q.2 w || sentBusy s m q.2 w) then .stall .range s
              else match all.findSome? fun q => scratchPoison s m.c m.st.block q.2 w with
                | some x => .trap causeEcc (storageLocation 1 m.c x) s
                | none => .done (m.putV s o.vd.toNat (vals.map fun q => (q.1, lutValue o m.blk p q.2)))

end Sys2Proof.Machine
end

