-- ==== Sys2Proof/Machine/VFloat.lean ====
section
/-!
DEFINITION. Float lane instructions and conversions (08 R118-R123).
-/
namespace Sys2Proof.Machine

/-- A result and the flags raised. -/
abbrev VRes : Type := W32 × BitVec 5

def FRes.v (r : FRes) : VRes := (BitVec.ofNat 32 r.bits, r.flags)

/-- A V-layout float instruction: the result in each acting thread and its flags (R118, R27). -/
def floatOp (s : State) (op : Nat) (o : VOps) (a b c : Bool) (f : W32 → W32 → W32 → VRes) :
    Host.Outcome State Fault Refusal :=
  issue s op o.hdr.stop (vUses o true a b c) fun m =>
    let rs := (m.acting s o.all).map fun t =>
      (t, f (if a then m.v o.va.toNat t else 0) (vOpB o m t) (if c then m.v o.vc.toNat t else 0))
    withFlags m s (orFlags (rs.map fun p => p.2.2)) fun s => m.putV s o.vd.toNat (rs.map fun p => (p.1, p.2.1))

/-- An FP32 operand. -/
def vf (o : VOps) (x : W32) : FVal := f32.read o.ftz x.toNat

def execVfadd (o : VOps) (s : State) : Host.Outcome State Fault Refusal :=
  floatOp s 0xA0 o true true false fun a b _ => (f32.add o.rnd o.ftz (vf o a) (vf o b)).v
def execVfsub (o : VOps) (s : State) : Host.Outcome State Fault Refusal :=
  floatOp s 0xA1 o true true false fun a b _ => (f32.sub o.rnd o.ftz (vf o a) (vf o b)).v
def execVfmul (o : VOps) (s : State) : Host.Outcome State Fault Refusal :=
  floatOp s 0xA2 o true true false fun a b _ => (f32.mul o.rnd o.ftz (vf o a) (vf o b)).v
def execVffma (o : VOps) (s : State) : Host.Outcome State Fault Refusal :=
  floatOp s 0xA3 o true true true fun a b c => (f32.fma o.rnd o.ftz (vf o a) (vf o b) (vf o c)).v
def execVfmin (o : VOps) (s : State) : Host.Outcome State Fault Refusal :=
  floatOp s 0xA4 o true true false fun a b _ => (f32.minMax false o.ftz a.toNat b.toNat).v
def execVfmax (o : VOps) (s : State) : Host.Outcome State Fault Refusal :=
  floatOp s 0xA5 o true true false fun a b _ => (f32.minMax true o.ftz a.toNat b.toNat).v

/-- The sign bits of the lanes of TY. -/
def signBits (ty : Ty) : W32 := if laneWidth ty == 16 then 0x80008000 else 0x80000000

def execVfabs (o : VOps) (s : State) : Host.Outcome State Fault Refusal :=
  laneOp s 0xA6 o true false false fun a _ _ => a &&& ~~~(signBits o.ty)
def execVfneg (o : VOps) (s : State) : Host.Outcome State Fault Refusal :=
  laneOp s 0xA7 o true false false fun a _ _ => a ^^^ signBits o.ty

def execVfdiv (o : VOps) (s : State) : Host.Outcome State Fault Refusal :=
  floatOp s 0xA8 o true true false fun a b _ => (f32.div o.rnd o.ftz (vf o a) (vf o b)).v
def execVfsqrt (o : VOps) (s : State) : Host.Outcome State Fault Refusal :=
  floatOp s 0xA9 o true false false fun a _ _ => (f32.sqrt o.rnd o.ftz (vf o a)).v
def execVfrcp (o : VOps) (s : State) : Host.Outcome State Fault Refusal :=
  floatOp s 0xAA o true false false fun a _ _ => (rcp o.ftz o.rnd (Config.ulpChoice 0 a) (vf o a)).v
def execVfrsq (o : VOps) (s : State) : Host.Outcome State Fault Refusal :=
  floatOp s 0xAB o true false false fun a _ _ => (rsq o.ftz o.rnd (Config.ulpChoice 1 a) (vf o a)).v
def execVfexp2 (o : VOps) (s : State) : Host.Outcome State Fault Refusal :=
  floatOp s 0xAC o true false false fun a _ _ => (exp2 o.ftz o.rnd (Config.ulpChoice 2 a) (vf o a)).v
def execVflog2 (o : VOps) (s : State) : Host.Outcome State Fault Refusal :=
  floatOp s 0xAD o true false false fun a _ _ => (log2 o.ftz o.rnd (Config.ulpChoice 3 a) (vf o a)).v

/-- Whether a relation of `vfcmp` holds, and its flags (R120). -/
def vfRelation (r : VFRel) (a b : FVal) : Bool × BitVec 5 :=
  let un := a.isNan || b.isNan
  let quiet : BitVec 5 := if a.isSnan || b.isSnan then flNv else 0
  let loud : BitVec 5 := if un then flNv else 0
  match r with
  | .eq => (a.eq b, quiet)
  | .ne => (!a.eq b, quiet)
  | .lt => (a.lt b, loud)
  | .le => (a.lt b || a.eq b, loud)
  | .gt => (b.lt a, loud)
  | .ge => (b.lt a || a.eq b, loud)
  | .un => (un, quiet)
  | .ord => (!un, quiet)

def execVfcmp (r : VFRel) (o : VOps) (s : State) : Host.Outcome State Fault Refusal :=
  issue s 0xAE o.hdr.stop (vUses o false true true false) fun m =>
    let rs := (m.acting s o.all).map fun t => (t, vfRelation r (vf o (m.v o.va.toNat t)) (vf o (vOpB o m t)))
    withFlags m s (orFlags (rs.map fun p => p.2.2)) fun s =>
      m.putKey s (o.vd.toNat % 8) (m.act s o.all) (setOf ((rs.filter fun p => p.2.1).map Prod.fst))

/-- The class bit of a value (R121). -/
def classBit (x : W32) : Nat :=
  match f32.read false x.toNat with
  | .inf true => 0
  | .fin true _ _ => if f32.isSub x.toNat then 2 else 1
  | .zero true => 3
  | .zero false => 4
  | .fin false _ _ => if f32.isSub x.toNat then 5 else 6
  | .inf false => 7
  | .nan true => 8
  | .nan false => 9

def execVfclass (o : VOps) (s : State) : Host.Outcome State Fault Refusal :=
  laneOp s 0xAF o true false false fun a _ _ => BitVec.ofNat 32 (2 ^ classBit a)

/-! ### Halves (R118) -/

/-- Format of the lanes of a packed float TY. -/
def halfFmt (ty : Ty) : FFmt := if ty == .bf16x2 then bf16 else f16

/-- Both lanes of a packed operation. -/
def halves (f : Nat → FRes) : VRes :=
  let lo := f 0
  let hi := f 1
  (BitVec.ofNat 32 (ofLanes 16 [lo.bits, hi.bits]), lo.flags ||| hi.flags)

/-- Lane `i` as a value. -/
def halfOf (o : VOps) (x : W32) (i : Nat) : FVal := (halfFmt o.ty).read o.ftz (laneOf 16 x i).toNat

def execVhadd (o : VOps) (s : State) : Host.Outcome State Fault Refusal :=
  floatOp s 0xB0 o true true false fun a b _ =>
    halves fun i => (halfFmt o.ty).add o.rnd o.ftz (halfOf o a i) (halfOf o b i)
def execVhmul (o : VOps) (s : State) : Host.Outcome State Fault Refusal :=
  floatOp s 0xB1 o true true false fun a b _ =>
    halves fun i => (halfFmt o.ty).mul o.rnd o.ftz (halfOf o a i) (halfOf o b i)
def execVhfma (o : VOps) (s : State) : Host.Outcome State Fault Refusal :=
  floatOp s 0xB2 o true true true fun a b c =>
    halves fun i => (halfFmt o.ty).fma o.rnd o.ftz (halfOf o a i) (halfOf o b i) (halfOf o c i)

/-! ### Conversions (R122, R123) -/

/-- The slot a conversion names: its descriptor and its per-tensor word. -/
def Me.slotOf (m : Me) (o : VOps) : W32 × W32 :=
  let k := o.vc.toNat % 8
  (m.blk.fmts[k]?.getD 0, m.blk.scales[k]?.getD 0)

/-- The sign bit of the scale factor an element gets. -/
def scaleSign (d tensor entry : W32) : Bool :=
  match slotScale d with
  | 1 => tensor.getLsbD 31
  | 3 => entry.getLsbD 31
  | _ => false

/-- B is read under SCALE 0b10 and 0b11 (R122). -/
def scaleRead (d : W32) : Bool := slotScale d == 2 || slotScale d == 3

/-- A conversion with a slot that may read B as a scale (R122): a B that is not read is no name of the instruction, and neither its
window nor a pending delivery of it is looked at. Log 56 (DEDUCED). -/
def slotOp (s : State) (o : VOps) (f : W32 → W32 → W32 → W32 → VRes) : Host.Outcome State Fault Refusal :=
  issueBy s 0xB3 o.hdr.stop (fun m => vUses o true true (scaleRead (m.slotOf o).1) false) fun m =>
    let (d, w) := m.slotOf o
    let rs := (m.acting s o.all).map fun t => (t, f d w (m.v o.va.toNat t) (vOpB o m t))
    withFlags m s (orFlags (rs.map fun p => p.2.2)) fun s => m.putV s o.vd.toNat (rs.map fun p => (p.1, p.2.1))

def encodeWith (d w entry a : W32) : VRes :=
  let r := slotEncode d a (slotFactor d w entry) (scaleSign d w entry)
  (BitVec.ofNat 32 r.1, r.2)

def execVcvtEnc (o : VOps) (s : State) : Host.Outcome State Fault Refusal :=
  slotOp s o fun d w a b => encodeWith d w b a
def execVcvtDec (o : VOps) (s : State) : Host.Outcome State Fault Refusal :=
  slotOp s o fun d w a b => (slotDecode d a.toNat (slotFactor d w b)).v

/-- A conversion of FP32 into a half format. -/
def toHalf (f : FFmt) (o : VOps) (a b : W32) : VRes :=
  halves fun i => f.convert o.rnd o.ftz (vf o (if i == 0 then a else b))

/-- A lane of a half format widened. -/
def fromHalf (f : FFmt) (o : VOps) (a : W32) : VRes :=
  (f32.convert o.rnd o.ftz (f.read o.ftz (laneOf 16 a (o.imm32.toNat % 2)).toNat)).v

def execVcvt (k : HCvt) (o : VOps) (s : State) : Host.Outcome State Fault Refusal :=
  floatOp s 0xB3 o true true false fun a b _ =>
    match k with
    | .f16F32 => toHalf f16 o a b
    | .bf16F32 => toHalf bf16 o a b
    | .f32F16 => fromHalf f16 o a
    | .f32Bf16 => fromHalf bf16 o a

/-- The conversions of `vcvti` (R37). -/
def convertInt (k : ICvt) (o : VOps) (a : W32) : VRes :=
  match k with
  | .f32I32 => (f32.ofInt o.rnd a.toInt).v
  | .f32U32 => (f32.ofInt o.rnd a.toNat).v
  | .i32F32 => let r := toInt o.rnd (-2 ^ 31) (2 ^ 31 - 1) (vf o a); (BitVec.ofInt 32 r.1, r.2)
  | .u32F32 => let r := toInt o.rnd 0 (2 ^ 32 - 1) (vf o a); (BitVec.ofInt 32 r.1, r.2)

def execVcvti (k : ICvt) (o : VOps) (s : State) : Host.Outcome State Fault Refusal :=
  floatOp s 0xB4 o true false false fun a _ _ => convertInt k o a

/-- The scale factor of `vpack` and `vunpk`: the per-tensor word or 1 (R123). -/
def packFactor (d w : W32) : FVal := if slotScale d == 1 then f32.read false w.toNat else .fin false 1 0

/-- Low bit of container pos (R123). -/
def containerPos (d : W32) (pos : Nat) : Nat := containerBits d * (pos % (32 / containerBits d))

def packInto (d w a old : W32) (pos : Nat) : VRes :=
  let r := slotEncode d a (packFactor d w) (slotScale d == 1 && w.getLsbD 31)
  let mask := BitVec.ofNat 32 ((2 ^ containerBits d - 1) * 2 ^ containerPos d pos)
  ((old &&& ~~~mask) ||| BitVec.ofNat 32 (r.1 * 2 ^ containerPos d pos), r.2)

def execVpack (o : VOps) (s : State) : Host.Outcome State Fault Refusal :=
  issue s 0xB5 o.hdr.stop
    (let u := vUses o true true false false
     { u with names := { name := o.vd, count := 1, write := false, wf := false } :: u.names }) fun m =>
    let (d, w) := m.slotOf o
    let rs := (m.acting s o.all).map fun t =>
      (t, packInto d w (m.v o.va.toNat t) (m.v o.vd.toNat t) (o.imm32.toNat % 32))
    withFlags m s (orFlags (rs.map fun p => p.2.2)) fun s => m.putV s o.vd.toNat (rs.map fun p => (p.1, p.2.1))

def execVunpk (o : VOps) (s : State) : Host.Outcome State Fault Refusal :=
  issue s 0xB6 o.hdr.stop (vUses o true true false false) fun m =>
    let (d, w) := m.slotOf o
    let rs := (m.acting s o.all).map fun t =>
      (t, (slotDecode d ((m.v o.va.toNat t).toNat / 2 ^ containerPos d (o.imm32.toNat % 32)) (packFactor d w)).v)
    withFlags m s (orFlags (rs.map fun p => p.2.2)) fun s => m.putV s o.vd.toNat (rs.map fun p => (p.1, p.2.1))

end Sys2Proof.Machine
end

