-- ==== Sys2Proof/Machine/Dispatch.lean ====
section
/-!
DEFINITION. The dispatch of an instruction to its meaning: one arm per constructor.
-/
namespace Sys2Proof.Machine

def exec (i : Instr) (s : State) : Host.Outcome State Fault Refusal :=
  match i with
  | .add o => Sys2Proof.Machine.execAdd o s
  | .sub o => Sys2Proof.Machine.execSub o s
  | .mul o => Sys2Proof.Machine.execMul o s
  | .mulh o => Sys2Proof.Machine.execMulh o s
  | .mulhu o => Sys2Proof.Machine.execMulhu o s
  | .div o => Sys2Proof.Machine.execDiv o s
  | .divu o => Sys2Proof.Machine.execDivu o s
  | .rem o => Sys2Proof.Machine.execRem o s
  | .remu o => Sys2Proof.Machine.execRemu o s
  | .andI o => Sys2Proof.Machine.execAndI o s
  | .orI o => Sys2Proof.Machine.execOrI o s
  | .xorI o => Sys2Proof.Machine.execXorI o s
  | .andn o => Sys2Proof.Machine.execAndn o s
  | .shl o => Sys2Proof.Machine.execShl o s
  | .shr o => Sys2Proof.Machine.execShr o s
  | .sra o => Sys2Proof.Machine.execSra o s
  | .rol o => Sys2Proof.Machine.execRol o s
  | .minI o => Sys2Proof.Machine.execMinI o s
  | .maxI o => Sys2Proof.Machine.execMaxI o s
  | .minu o => Sys2Proof.Machine.execMinu o s
  | .maxu o => Sys2Proof.Machine.execMaxu o s
  | .clz o => Sys2Proof.Machine.execClz o s
  | .ctz o => Sys2Proof.Machine.execCtz o s
  | .popc o => Sys2Proof.Machine.execPopc o s
  | .bfx o => Sys2Proof.Machine.execBfx o s
  | .bfi o => Sys2Proof.Machine.execBfi o s
  | .sel o => Sys2Proof.Machine.execSel o s
  | .seqI o => Sys2Proof.Machine.execSeqI o s
  | .slt o => Sys2Proof.Machine.execSlt o s
  | .sltu o => Sys2Proof.Machine.execSltu o s
  | .liI o => Sys2Proof.Machine.execLiI o s
  | .liHi o => Sys2Proof.Machine.execLiHi o s
  | .mov o => Sys2Proof.Machine.execMov o s
  | .fadd o => Sys2Proof.Machine.execFadd o s
  | .fsub o => Sys2Proof.Machine.execFsub o s
  | .fmul o => Sys2Proof.Machine.execFmul o s
  | .ffma o => Sys2Proof.Machine.execFfma o s
  | .fdiv o => Sys2Proof.Machine.execFdiv o s
  | .fsqrt o => Sys2Proof.Machine.execFsqrt o s
  | .fmin o => Sys2Proof.Machine.execFmin o s
  | .fmax o => Sys2Proof.Machine.execFmax o s
  | .fcmp r o => Sys2Proof.Machine.execFcmp r o s
  | .fcvt k o => Sys2Proof.Machine.execFcvt k o s
  | .sysr o => Sys2Proof.Machine.execSysr o s
  | .sysw o => Sys2Proof.Machine.execSysw o s
  | .timeI o => Sys2Proof.Machine.execTimeI o s
  | .cyc o => Sys2Proof.Machine.execCyc o s
  | .perf o => Sys2Proof.Machine.execPerf o s
  | .thra o => Sys2Proof.Machine.execThra o s
  | .ermark o => Sys2Proof.Machine.execErmark o s
  | .quota o => Sys2Proof.Machine.execQuota o s
  | .gang o => Sys2Proof.Machine.execGang o s
  | .cksum o => Sys2Proof.Machine.execCksum o s
  | .nop o => Sys2Proof.Machine.execNop o s
  | .branch c o => Sys2Proof.Machine.execBranch c o s
  | .bcnt c o => Sys2Proof.Machine.execBcnt c o s
  | .jmp o => Sys2Proof.Machine.execJmp o s
  | .jmpr o => Sys2Proof.Machine.execJmpr o s
  | .call o => Sys2Proof.Machine.execCall o s
  | .ret o => Sys2Proof.Machine.execRet o s
  | .loopI o => Sys2Proof.Machine.execLoopI o s
  | .spawn o => Sys2Proof.Machine.execSpawn o s
  | .joinI o => Sys2Proof.Machine.execJoinI o s
  | .tail o => Sys2Proof.Machine.execTail o s
  | .halt o => Sys2Proof.Machine.execHalt o s
  | .launchI o => Sys2Proof.Machine.execLaunchI o s
  | .trapI o => Sys2Proof.Machine.execTrapI o s
  | .tret o => Sys2Proof.Machine.execTret o s
  | .bkpt o => Sys2Proof.Machine.execBkpt o s
  | .waitInt o => Sys2Proof.Machine.execWaitInt o s
  | .waitExt o => Sys2Proof.Machine.execWaitExt o s
  | .yield o => Sys2Proof.Machine.execYield o s
  | .srch o => Sys2Proof.Machine.execSrch o s
  | .srchk o => Sys2Proof.Machine.execSrchk o s
  | .srchv o => Sys2Proof.Machine.execSrchv o s
  | .pushAll o => Sys2Proof.Machine.execPushAll o s
  | .pop o => Sys2Proof.Machine.execPop o s
  | .popn o => Sys2Proof.Machine.execPopn o s
  | .elseSet o => Sys2Proof.Machine.execElseSet o s
  | .fold o => Sys2Proof.Machine.execFold o s
  | .firstSet o => Sys2Proof.Machine.execFirstSet o s
  | .nextSet o => Sys2Proof.Machine.execNextSet o s
  | .gcnt o => Sys2Proof.Machine.execGcnt o s
  | .rdset o => Sys2Proof.Machine.execRdset o s
  | .wrset o => Sys2Proof.Machine.execWrset o s
  | .mark o => Sys2Proof.Machine.execMark o s
  | .vadd o => Sys2Proof.Machine.execVadd o s
  | .vsub o => Sys2Proof.Machine.execVsub o s
  | .vmul o => Sys2Proof.Machine.execVmul o s
  | .vmulh o => Sys2Proof.Machine.execVmulh o s
  | .vmad o => Sys2Proof.Machine.execVmad o s
  | .vadds o => Sys2Proof.Machine.execVadds o s
  | .vsubs o => Sys2Proof.Machine.execVsubs o s
  | .vand o => Sys2Proof.Machine.execVand o s
  | .vor o => Sys2Proof.Machine.execVor o s
  | .vxor o => Sys2Proof.Machine.execVxor o s
  | .vnot o => Sys2Proof.Machine.execVnot o s
  | .vshl o => Sys2Proof.Machine.execVshl o s
  | .vshr o => Sys2Proof.Machine.execVshr o s
  | .vsra o => Sys2Proof.Machine.execVsra o s
  | .vmin o => Sys2Proof.Machine.execVmin o s
  | .vminu o => Sys2Proof.Machine.execVminu o s
  | .vmax o => Sys2Proof.Machine.execVmax o s
  | .vmaxu o => Sys2Proof.Machine.execVmaxu o s
  | .vabs o => Sys2Proof.Machine.execVabs o s
  | .vneg o => Sys2Proof.Machine.execVneg o s
  | .vclz o => Sys2Proof.Machine.execVclz o s
  | .vpopc o => Sys2Proof.Machine.execVpopc o s
  | .vbfx o => Sys2Proof.Machine.execVbfx o s
  | .vbfi o => Sys2Proof.Machine.execVbfi o s
  | .vsel o => Sys2Proof.Machine.execVsel o s
  | .vmov o => Sys2Proof.Machine.execVmov o s
  | .vcmp r o => Sys2Proof.Machine.execVcmp r o s
  | .vrd o => Sys2Proof.Machine.execVrd o s
  | .vrdFirst o => Sys2Proof.Machine.execVrdFirst o s
  | .vwr o => Sys2Proof.Machine.execVwr o s
  | .vred f o => Sys2Proof.Machine.execVred f o s
  | .vscan f o => Sys2Proof.Machine.execVscan f o s
  | .vperm o => Sys2Proof.Machine.execVperm o s
  | .vlut o => Sys2Proof.Machine.execVlut o s
  | .vfadd o => Sys2Proof.Machine.execVfadd o s
  | .vfsub o => Sys2Proof.Machine.execVfsub o s
  | .vfmul o => Sys2Proof.Machine.execVfmul o s
  | .vffma o => Sys2Proof.Machine.execVffma o s
  | .vfmin o => Sys2Proof.Machine.execVfmin o s
  | .vfmax o => Sys2Proof.Machine.execVfmax o s
  | .vfabs o => Sys2Proof.Machine.execVfabs o s
  | .vfneg o => Sys2Proof.Machine.execVfneg o s
  | .vfdiv o => Sys2Proof.Machine.execVfdiv o s
  | .vfsqrt o => Sys2Proof.Machine.execVfsqrt o s
  | .vfrcp o => Sys2Proof.Machine.execVfrcp o s
  | .vfrsq o => Sys2Proof.Machine.execVfrsq o s
  | .vfexp2 o => Sys2Proof.Machine.execVfexp2 o s
  | .vflog2 o => Sys2Proof.Machine.execVflog2 o s
  | .vfcmp r o => Sys2Proof.Machine.execVfcmp r o s
  | .vfclass o => Sys2Proof.Machine.execVfclass o s
  | .vhadd o => Sys2Proof.Machine.execVhadd o s
  | .vhmul o => Sys2Proof.Machine.execVhmul o s
  | .vhfma o => Sys2Proof.Machine.execVhfma o s
  | .vcvtEnc o => Sys2Proof.Machine.execVcvtEnc o s
  | .vcvtDec o => Sys2Proof.Machine.execVcvtDec o s
  | .vcvt k o => Sys2Proof.Machine.execVcvt k o s
  | .vcvti k o => Sys2Proof.Machine.execVcvti k o s
  | .vpack o => Sys2Proof.Machine.execVpack o s
  | .vunpk o => Sys2Proof.Machine.execVunpk o s
  | .ld o => Sys2Proof.Machine.execLd o s
  | .st o => Sys2Proof.Machine.execSt o s
  | .lds o => Sys2Proof.Machine.execLds o s
  | .sts o => Sys2Proof.Machine.execSts o s
  | .ldsc o => Sys2Proof.Machine.execLdsc o s
  | .sld o => Sys2Proof.Machine.execSld o s
  | .sst o => Sys2Proof.Machine.execSst o s
  | .pref o => Sys2Proof.Machine.execPref o s
  | .atom o => Sys2Proof.Machine.execAtom o s
  | .atoms o => Sys2Proof.Machine.execAtoms o s
  | .satom o => Sys2Proof.Machine.execSatom o s
  | .fence o => Sys2Proof.Machine.execFence o s
  | .bara o => Sys2Proof.Machine.execBara o s
  | .barw o => Sys2Proof.Machine.execBarw o s
  | .baraw o => Sys2Proof.Machine.execBaraw o s
  | .gbar o => Sys2Proof.Machine.execGbar o s
  | .lockW o => Sys2Proof.Machine.execLockW o s
  | .unlockW o => Sys2Proof.Machine.execUnlockW o s
  | .trylock o => Sys2Proof.Machine.execTrylock o s
  | .waitv o => Sys2Proof.Machine.execWaitv o s
  | .mma sat ty o => Sys2Proof.Machine.execMma sat ty o s
  | .mmag sat ty o => Sys2Proof.Machine.execMmag sat ty o s
  | .tzero o => Sys2Proof.Machine.execTzero o s
  | .tld o => Sys2Proof.Machine.execTld o s
  | .tst o => Sys2Proof.Machine.execTst o s
  | .tmov o => Sys2Proof.Machine.execTmov o s
  | .tscale o => Sys2Proof.Machine.execTscale o s
  | .trow sum o => Sys2Proof.Machine.execTrow sum o s
  | .tcommit o => Sys2Proof.Machine.execTcommit o s
  | .tdiscard o => Sys2Proof.Machine.execTdiscard o s
  | .bmv sat ty o => Sys2Proof.Machine.execBmv sat ty o s
  | .finit o => Sys2Proof.Machine.execFinit o s
  | .fupd o => Sys2Proof.Machine.execFupd o s
  | .fdwn o => Sys2Proof.Machine.execFdwn o s
  | .fsolv o => Sys2Proof.Machine.execFsolv o s
  | .fstat o => Sys2Proof.Machine.execFstat o s
  | .job o => Sys2Proof.Machine.execJob o s
  | .jwait o => Sys2Proof.Machine.execJwait o s
  | .jpoll o => Sys2Proof.Machine.execJpoll o s
  | .pendingDelivery c id => Sys2Proof.Machine.execPendingDelivery c id s
  | .lateScalarResult c slot reg => Sys2Proof.Machine.execLateScalarResult c slot reg s
  | .ldscByteLanding c id => Sys2Proof.Machine.execLdscByteLanding c id s
  | .jobStart c b ticket => Sys2Proof.Machine.execJobStart c b ticket s
  | .jobRetire c b ticket => Sys2Proof.Machine.execJobRetire c b ticket s
  | .jobFault c b ticket => Sys2Proof.Machine.execJobFault c b ticket s
  | .tileEngineDone c id => Sys2Proof.Machine.execTileEngineDone c id s
  | .factorSweepRetire c slot => Sys2Proof.Machine.execFactorSweepRetire c slot s
  | .watchFire c slot => Sys2Proof.Machine.execWatchFire c slot s
  | .waitTimeout c slot => Sys2Proof.Machine.execWaitTimeout c slot s
  | .spawnSlotTimeout c slot => Sys2Proof.Machine.execSpawnSlotTimeout c slot s
  | .timerFire c slot => Sys2Proof.Machine.execTimerFire c slot s
  | .trapEntry c slot => Sys2Proof.Machine.execTrapEntry c slot s
  | .controlIntervalBoundary draws => Sys2Proof.Machine.execControlIntervalBoundary draws s
  | .taskAdmit c slot => Sys2Proof.Machine.execTaskAdmit c slot s
  | .droopStretchEnd c => Sys2Proof.Machine.execDroopStretchEnd c s
  | .droopHalvingEnd c => Sys2Proof.Machine.execDroopHalvingEnd c s
  | .contextKill ctx => Sys2Proof.Machine.execContextKill ctx s
  | .killHorizon ctx => Sys2Proof.Machine.execKillHorizon ctx s
  | .watchdog c slot => Sys2Proof.Machine.execWatchdog c slot s
  | .freezeVaults unit cause info => Sys2Proof.Machine.execFreezeVaults unit cause info s
  | .freezeToken unit => Sys2Proof.Machine.execFreezeToken unit s
  | .gapRecord unit => Sys2Proof.Machine.execGapRecord unit s
  | .barrierFold c b => Sys2Proof.Machine.execBarrierFold c b s
  | .censusMerge ctx => Sys2Proof.Machine.execCensusMerge ctx s
  | .queueSlotMap q => Sys2Proof.Machine.execQueueSlotMap q s
  | .packetStart q => Sys2Proof.Machine.execPacketStart q s
  | .qeLdp o => Sys2Proof.Machine.execQeLdp o s
  | .qeLdw o => Sys2Proof.Machine.execQeLdw o s
  | .qeStw o => Sys2Proof.Machine.execQeStw o s
  | .qeLdi o => Sys2Proof.Machine.execQeLdi o s
  | .qeMov o => Sys2Proof.Machine.execQeMov o s
  | .qeAdd o => Sys2Proof.Machine.execQeAdd o s
  | .qeAddi o => Sys2Proof.Machine.execQeAddi o s
  | .qeSub o => Sys2Proof.Machine.execQeSub o s
  | .qeAnd o => Sys2Proof.Machine.execQeAnd o s
  | .qeOr o => Sys2Proof.Machine.execQeOr o s
  | .qeShl o => Sys2Proof.Machine.execQeShl o s
  | .qeShr o => Sys2Proof.Machine.execQeShr o s
  | .qeBeq o => Sys2Proof.Machine.execQeBeq o s
  | .qeBne o => Sys2Proof.Machine.execQeBne o s
  | .qeBltu o => Sys2Proof.Machine.execQeBltu o s
  | .qeBgeu o => Sys2Proof.Machine.execQeBgeu o s
  | .qeJmpf o => Sys2Proof.Machine.execQeJmpf o s
  | .qeLoop o => Sys2Proof.Machine.execQeLoop o s
  | .qeWaitsig o => Sys2Proof.Machine.execQeWaitsig o s
  | .qeLaunch o => Sys2Proof.Machine.execQeLaunch o s
  | .qeLaunchp o => Sys2Proof.Machine.execQeLaunchp o s
  | .qeSignal o => Sys2Proof.Machine.execQeSignal o s
  | .qeAdvance o => Sys2Proof.Machine.execQeAdvance o s
  | .qeFence o => Sys2Proof.Machine.execQeFence o s
  | .indirectDimRead grid => Sys2Proof.Machine.execIndirectDimRead grid s
  | .blockPlace grid => Sys2Proof.Machine.execBlockPlace grid s
  | .trackerEntryFree c id => Sys2Proof.Machine.execTrackerEntryFree c id s
  | .wsfillDone id => Sys2Proof.Machine.execWsfillDone id s
  | .accessPerformed c slot id => Sys2Proof.Machine.execAccessPerformed c slot id s
  | .pageWalkDone c slot => Sys2Proof.Machine.execPageWalkDone c slot s
  | .bankComputeDone c id => Sys2Proof.Machine.execBankComputeDone c id s
  | .waitsigConditionHolds q => Sys2Proof.Machine.execWaitsigConditionHolds q s
  | .droopTrip c => Sys2Proof.Machine.execDroopTrip c s
  | .preemptRequest ctx rows => Sys2Proof.Machine.execPreemptRequest ctx rows s
  | .preemptImageCaptured ctx => Sys2Proof.Machine.execPreemptImageCaptured ctx s
  | .atomicReplyTimeout c slot id => Sys2Proof.Machine.execAtomicReplyTimeout c slot id s
  | .contextRestore ctx => Sys2Proof.Machine.execContextRestore ctx s
  | .retentionEntry c => Sys2Proof.Machine.execRetentionEntry c s
  | .retentionExit c parityOk => Sys2Proof.Machine.execRetentionExit c parityOk s
  | .softError site correctable => Sys2Proof.Machine.execSoftError site correctable s
  | .refreshWindow die group => Sys2Proof.Machine.execRefreshWindow die group s
  | .tokenPull sender receiver reply => Sys2Proof.Machine.execTokenPull sender receiver reply s
  | .tokenSpill sender receiver reply => Sys2Proof.Machine.execTokenSpill sender receiver reply s
  | .backInvalidate line bytes => Sys2Proof.Machine.execBackInvalidate line bytes s
  | .doorbellHostWrite word value => Sys2Proof.Machine.execDoorbellHostWrite word value s
  | .functionReady bit => Sys2Proof.Machine.execFunctionReady bit s
  | .partitionCommit value => Sys2Proof.Machine.execPartitionCommit value s
  | .registerWrite offset bytes value => Sys2Proof.Machine.execRegisterWrite offset bytes value s
  | .uncontainedHardwareError unit => Sys2Proof.Machine.execUncontainedHardwareError unit s
  | .infoCmd h => Sys2Proof.Machine.execInfoCmd h s
  | .ctxset h ctx d => Sys2Proof.Machine.execCtxset h ctx d s
  | .mapPage h va leaf ctx => Sys2Proof.Machine.execMapPage h va leaf ctx s
  | .unmapPage h va ctx => Sys2Proof.Machine.execUnmapPage h va ctx s
  | .qreg h va ctx => Sys2Proof.Machine.execQreg h va ctx s
  | .qdereg h va ctx => Sys2Proof.Machine.execQdereg h va ctx s
  | .wsfill h frame count source signal => Sys2Proof.Machine.execWsfill h frame count source signal s
  | .attest h nonce => Sys2Proof.Machine.execAttest h nonce s
  | .fwstage h offset => Sys2Proof.Machine.execFwstage h offset s
  | .fwcommit h raise => Sys2Proof.Machine.execFwcommit h raise s
  | .caplist h => Sys2Proof.Machine.execCaplist h s
  | .capview h handle operator creds => Sys2Proof.Machine.execCapview h handle operator creds s
  | .capread h view offset => Sys2Proof.Machine.execCapread h view offset s
  | .caprel h handle => Sys2Proof.Machine.execCaprel h handle s
  | .capfreeze h => Sys2Proof.Machine.execCapfreeze h s
  | .norlist h => Sys2Proof.Machine.execNorlist h s
  | .cklog h ctx base entries => Sys2Proof.Machine.execCklog h ctx base entries s
  | .censusCmd h ctx base entries => Sys2Proof.Machine.execCensusCmd h ctx base entries s
  | .errread h => Sys2Proof.Machine.execErrread h s
  | .fnote h addr => Sys2Proof.Machine.execFnote h addr s
  | .faultNotice => Sys2Proof.Machine.execFaultNotice s
  | .capsuleAssembled => Sys2Proof.Machine.execCapsuleAssembled s
  | .capsuleNorSummary => Sys2Proof.Machine.execCapsuleNorSummary s
  | .epochRecord => Sys2Proof.Machine.execEpochRecord s
  | .deviceReset => Sys2Proof.Machine.execDeviceReset s
  | .coldPowerOn => Sys2Proof.Machine.execColdPowerOn s
  | .firmwareBoot => Sys2Proof.Machine.execFirmwareBoot s

end Sys2Proof.Machine
end

