-- ==== Sys2Proof/Machine/Issue.lean ====
section
/-!
DEFINITION. An attempt of a strand to issue the instruction at its PC, the arbiter, an operation of the queue engine, and the
mailbox server: what surrounds the meaning of an instruction (03 R59, R66, R376, 15 R232-R238, R251, 12 R202, 23 R301, R308,
21 R280, 29 R373).
-/
namespace Sys2Proof.Machine

/-! ### A word without a meaning (03 R376) -/

/-- The operand latch of a strand of the context, the j-th of them, after the n-th such word. Log 12 (DESIGN CHOICE). -/
def illegalLatch (n j : Nat) : Option Latch :=
  let v := Config.illegalSystem n j
  if (v 0x300).getLsbD 0 then
    some { key := { va := (v 0x301).truncate 9, shpn := ([.n16, .n32, .n64][(v 0x302).toNat % 3]?).getD .n64
                    shpk := (v 0x303).truncate 2, fsa := (v 0x304).truncate 3
                    ty := ([.slot, .fp16, .bf16][(v 0x305).toNat % 3]?).getD .slot }
           rows := Config.illegalLatch n j }
  else none

/-- Its watch: none, the one it has with other contents, or one of the scratchpad. -/
def illegalWatch (n j : Nat) (old : Option Watch) : Option Watch :=
  let v := Config.illegalSystem n j
  let other := fun (w : Watch) => { w with value := (v 0x311).toNat % 2 ^ (8 * w.bytes), seen := (v 0x312).getLsbD 0, fired := (v 0x312).getLsbD 1 }
  match (v 0x310).toNat % 3 with
  | 0 => none
  | 1 => old.map other
  | _ => some (other { scratch := true, addr := (v 0x313).toNat % 2 ^ 17 * 8, bytes := 8, value := 0, seen := false, fired := false })

/-- Its registers: free values, a long instruction none. -/
def illegalRegs (n j : Nat) (r : Regs) : Regs :=
  let v := Config.illegalSystem n j
  { r with
    latch := illegalLatch n j, watch := illegalWatch n j r.watch
    thrArmed := (v 0x320).getLsbD 0, thrTold := (v 0x320).getLsbD 1, thrDue := if (v 0x320).getLsbD 2 then r.thrDue else none
    s := Vector.ofFn fun i => Config.illegalScalar n j i.val
    lost := v 0x200, fpflags := (v 0x000).truncate 5, fptrap := (v 0x001).truncate 5, pi := (v 0x008).truncate 32 &&& 0xFFFFFF
    rsc := (v 0x009).truncate 16, rfr := (v 0x00A).truncate 16, z := (v 0x00B).getLsbD 0, cdepth := (v 0x00C).truncate 16
    tvec := v 0x010, trpc := v 0x011 &&& 0x1FFFFFFFFFFFFFF, tcause := v 0x012 &&& 0xFF, tinfo := v 0x013
    tstate := v 0x014 &&& 0xF0F0F, tpi := (v 0x015).truncate 32 &&& 0xFFFFFF, dbg := v 0x016 &&& 1
    tnpc := v 0x017 &&& 0x1FFFFFFFFFFFFFF, tmcmp := v 0x018, tmctl := v 0x019 &&& 3, gang := v 0x020 &&& 0xFF }

/-- Its responder stack: the base level and those above it. -/
def illegalStack (n j : Nat) (k : Stack) : Stack :=
  match (Config.illegalLevels n j).take (k.limit + 1) with
  | [] => k
  | l => { k with levels := l ++ k.levels.drop (k.depth + 1) }

/-- A strand: its registers, its levels, what it has parked, what its inline frames hold, and no stopped `fsolv`. -/
def illegalStrand (n j : Nat) (st : Strand) : Strand :=
  { st with
    regs := illegalRegs n j st.regs, stack := illegalStack n j st.stack, parked := Config.illegalParked n j, solve := none
    frames := (st.frames.zip (upto st.frames.length)).map fun p =>
      let i := j + 1000 * (p.2 + 1)
      { p.1 with regs := illegalRegs n i p.1.regs, parked := Config.illegalParked n i } }

/-- The binding of accumulator name `a` of a block, the j-th of the context: its mode, its tile and FSTAT. -/
def illegalName (n j a : Nat) : AccName :=
  let v := Config.illegalSystem n j (0x1100 + a)
  { mode := if v.getLsbD 1 then .factor (bitsOf v.toNat 13 8 + 1) else .plain (16 * 2 ^ (bitsOf v.toNat 15 14 % 3))
    tile := ((Config.illegalTile n j a).take 64).map fun r => r.take 64
    status := bitsOf v.toNat 19 16, k := bitsOf v.toNat 29 24
    last := ([.none, .fupd, .fdwn][bitsOf v.toNat 31 30 % 3]?).getD .none }

/-- A block of the context, the j-th of them. -/
def illegalBlock (n j : Nat) (b : Block) : Block :=
  let v := Config.illegalSystem n j
  let tol : W32 := (v 0x1000).truncate 32
  let b := (Config.illegalThread n j).foldl (fun b p => b.putReg p.1 p.2.1 [(p.2.2.1, p.2.2.2)]) b
  { b with
    keys := Vector.ofFn fun i => Config.illegalKey n j i.val
    scratch := ((Config.illegalScratch n j).filter fun p => p.1 < b.scratchLen).foldl (fun m p => writeByte m p.1 p.2) b.scratch
    acc := (((upto 16).filter fun a => (v (0x1100 + a)).getLsbD 0).take b.tiles).map fun a => (a, illegalName n j a)
    tol := if tolOk tol then tol else b.tol
    fmts := Vector.ofFn fun i => (v (0x1200 + i.val)).truncate 32, scales := Vector.ofFn fun i => (v (0x1210 + i.val)).truncate 32 }

/-- The strands, and the blocks, of a context. -/
def strandsOf (s : State) (ctx : Nat) : List (Nat × Nat) :=
  (s.clusters.map fun p => (p.2.strands.filter fun q => (p.2.blocksOf ctx).contains q.2.block).map fun q => (p.1, q.1)).flatten
def placesOf (s : State) (ctx : Nat) : List (Nat × Nat) :=
  (s.clusters.map fun p => (p.2.blocksOf ctx).map fun b => (p.1, b)).flatten

/-- The handler stack and latch of a cluster whose handler is a strand of the context. -/
def illegalHandler (ctx n : Nat) (cl : Cluster) : Cluster :=
  match (cl.handler.bind cl.strands.get?).filter fun st => (cl.blocksOf ctx).contains st.block with
  | some st => { cl with hstack := illegalStack n (500 + st.num) cl.hstack, hlatch := illegalLatch n (500 + st.num) }
  | none => cl

/-- The state of a context after the n-th word without a meaning: its strands, its blocks, and memory that it may write. -/
def illegalState (s : State) (ctx n : Nat) : State :=
  let ks := strandsOf s ctx
  let bs := placesOf s ctx
  let s := (ks.zip (upto ks.length)).foldl (fun s p => s.modStrand p.1.1 p.1.2 (illegalStrand n p.2)) s
  let s := { s with clusters := s.clusters.map fun p => (p.1, illegalHandler ctx n p.2) }
  let s := (bs.zip (upto bs.length)).foldl (fun s p => s.modBlock p.1.1 p.1.2 (illegalBlock n p.2)) s
  (Config.illegalMemory n).foldl (fun s p => hubStore s ctx p.1 1 p.2.toNat) s

/-- The cause that such a word raises: one below 0x40, ECC_CONTAINED, or none. -/
def illegalCause (n : Nat) : Option Nat := (Config.illegalCause n).filter fun c => c ≤ causeEcc

/-- A word that breaks R64 is issued (R376): what it does to its context is free, and it does nothing to another.
Log 12 (DESIGN CHOICE). -/
def illegalWord (s : State) (m : Me) (word : Nat) : State :=
  let n := s.freeCount
  let s := { illegalState s m.ctx n with freeCount := n + 1 }
  match meAt s m.c m.k with
  | none => s
  | some m => match illegalCause n with
    | some c => raise s m c (Config.illegalInfo n) (word % 256)
    | none => retireAt s m (bitOf word 8) false (Config.illegalNext n)

/-! ### A strand's instruction -/

/-- Traps that fall at the boundary before the next instruction: STEP, then a job fault whose issuer had tailed, then TIMER, then
THROTTLE (12 R202, 15 R244, R251). -/
def boundaryTrap (s : State) (m : Me) : Option State :=
  if m.inH then none
  else match m.st.stepDue with
    | some (pc, next) =>
        some (takeTrap (s.modStrand m.c m.k fun st => { st with stepDue := none }) m.c m.k (stepTrap pc next))
    | none =>
        if !atBoundary s m then none
        else match boundaryFault m with
          | some f => some (raise (dropFault s m f) m f.cause f.tinfo 0)
          | none => (timerFires m.c m.k s).or (m.st.regs.thrDue.map (throttleTrap s m))

/-- A fetch that finds wrong parity (03 R44, R66): an uncorrectable error of the fetched line. Log 36 (DEDUCED). -/
def fetchParity (s : State) (m : Me) (pa : Nat) : State :=
  let at' := pa + 12 * pcSlot m.st.pc
  fatal (eccRecord (bumpUncor s) m.c 4 true at') m.c causeEcc m.ctx (physLocation at')

/-- The comparator that fires before the slot at the strand's PC (15 R251). -/
def comparator (s : State) (m : Me) (word : Nat) : Option Nat :=
  if m.st.bpinh || !bitOf word 8 || m.st.wait != .none then none
  else (s.ctx? m.ctx).bind fun x => (upto 8).find? fun i => x.bpc.toList.getD i none == some m.st.pc

/-- A comparator breakpoint (15 R251). Log 28 (DEDUCED). -/
def hitComparator (s : State) (m : Me) (i : Nat) (op : Nat) : State :=
  if m.inH then raiseDouble s m causeBkpt op
  else takeTrap s m.c m.k
    { cause := causeBkpt, info := payload [(3, i), (29, 0), (1, 1)], pc := m.st.pc, next := successor m.st.pc, skip := false,
      async := false, pair := m.paired s, bpinh := true }

/-- The code page of a strand is in a TLB or known to have no leaf; else the strand waits for its walk, one walk at a time, and in
any case for the port of its line (23 R308, R371, 15 R239). None where it need not wait. -/
def fetchWait (s : State) (m : Me) : Option State :=
  let va := pcLine m.st.pc
  let stalled := fun (code : CodeWalk) => s.modStrand m.c m.k fun st => { st with stall := some .fetch, waited := 0, code := code }
  match tlbFind s m.c m.ctx va with
  | some e => if portReady s (e.pa va) then none else some (stalled m.st.code)
  | none => match m.st.code with
    | .none => some (stalled (.walking (va / 4096)))
    | .walking p => some (stalled (.walking p))
    | .absent p => if p == va / 4096 then none else some (stalled (.walking (va / 4096)))

/-- What the fetch and the checks before the decoder come to. -/
inductive Fetched where
  /-- the word to decode -/
  | word (w : Nat)
  /-- a trap, an end or a wait instead -/
  | instead (s : State)
  deriving DecidableEq, Repr

/-- The fetch of a strand's slot and the checks of R66 and R251. Log 28 (DEDUCED). -/
def fetchSlot (s : State) (m : Me) : Fetched :=
  let info := m.st.pc.zeroExtend 64
  match fetchWait s m with
  | some s => .instead s
  | none =>
      if m.st.entering && !targetOk s m.c m.ctx m.st.pc then .instead (raise s m causeBadTarget info 0)
      else match fetchLine s m.c m.ctx m.st.pc with
        | .trap cause => .instead (raise (s.modStrand m.c m.k fun st => { st with code := .none }) m cause info 0)
        | .poisoned pa => .instead (fatal s m.c causeEcc m.ctx (physLocation pa))
        | .line pa bytes =>
            if !parityOk bytes (pcSlot m.st.pc) then .instead (fetchParity s m pa)
            else
              let w := slotWordOf bytes (pcSlot m.st.pc)
              match comparator s m w with
              | some i => .instead (hitComparator s m i (w % 256))
              | none => .word w

/-- The state as it is when no strand issues. Log 9 (DESIGN CHOICE). -/
def settleCur : Host.Outcome State Fault Refusal → Host.Outcome State Fault Refusal
  | .next s => .next { s with cur := none, curQ := none }
  | o => o

/-- The strand may issue at all: its trap does not wait, its cluster runs, its clock has an edge (24 R321), and its context neither has
been nor is to be killed (28 R361). -/
def mayIssue (s : State) (m : Me) : Bool :=
  let cl := s.cluster m.c
  m.st.trap.isNone && !cl.retained && cl.stopping.isNone && cl.power.atEdge && s.ctxLive m.ctx && !s.killDue.contains m.ctx

/-- The strand attempts the slot at its PC. Log 18 (DEDUCED). -/
def attemptSlot (s : State) (m : Me) : Host.Outcome State Fault Refusal :=
  match fetchSlot s m with
  | .instead s => .next s
  | .word w => match decodeWord w with
    | .error _ => .next (illegalWord s m w)
    | .ok i => settleCur (exec i { s with cur := some (m.c, m.k) })

/-- What an attempt of a strand comes to: it would issue, or trap, or go on waiting with or without having done something. -/
inductive Prospect where
  | issues
  | moves (r : Stall)
  | waits (r : Stall)
  | never
  deriving DecidableEq, Repr

/-- What the attempt has made of the strand. -/
def prospectIn (s s' : State) (c k : Nat) (st : Strand) : Prospect :=
  match s'.strand? c k with
  | none => .issues
  | some st' =>
      if st'.trap.isSome then .issues
      else match st'.stall with
        | none => .issues
        | some r =>
            if st'.wait != st.wait || st'.regs.pi != st.regs.pi || st'.code != st.code
                || (s'.cluster c).power.waiting != (s.cluster c).power.waiting then .moves r
            else .waits r

/-- The slot at a strand's PC is the first of a pair (03 R59), and is not issued alone. -/
def Me.pairFirst (m : Me) (s : State) : Bool :=
  m.st.alone != some m.st.pc && match fetchLine s m.c m.ctx m.st.pc with
    | .line _ bytes => pairOf bytes (pcSlot m.st.pc)
    | _ => false

/-- The second slot of a pair whose first has just issued, in `s1`: what the strand knows of the translation of its second
instruction, and what the tile engine has read for it, stays. -/
def pairSecond (s s1 : State) (m : Me) : Option (State × Me) :=
  if !m.pairFirst s then none
  else
    let s1 := s1.modStrand m.c m.k fun st =>
      { st with wait := match m.st.wait with | .walk p => .walk p | .walkFault p => .walkFault p | _ => st.wait, pre := m.st.pre }
    ((meAt s1 m.c m.k).filter fun n =>
      n.st.pc == successor m.st.pc && n.st.num == m.st.num && n.inH == m.inH && n.st.stall.isNone && mayIssue s1 n).map fun n => (s1, n)

/-- The first of a pair waits for the second (15 R235): what the second does before it issues is done, and nothing else. `r` is the
reason where the second waits in the state that the first leaves alone. -/
def secondWaits (s : State) (m : Me) (r : Stall) : State :=
  let held := s.modStrand m.c m.k fun st => { st with stall := some r, waited := 0 }
  let s0 := s.modStrand m.c m.k fun st => { st with pc := successor m.st.pc }
  match meAt s0 m.c m.k with
  | none => held
  | some n => match attemptSlot s0 n with
    | .next s' => match prospectIn s0 s' m.c m.k n.st with
      | .waits _ | .moves _ => if captured s' n then held else s'.modStrand m.c m.k fun st => { st with pc := m.st.pc }
      | _ => held
    | _ => held

/-- A strand attempts its next instruction, and with the first of a pair the second, in one cycle. The first waits for a second that
does not issue (03 R59, 15 R235); one that has had its `bo` point has (R157, R165). Log 26 (DEDUCED). -/
def attemptPair (s : State) (m : Me) : Host.Outcome State Fault Refusal :=
  match attemptSlot s m with
  | .next s1 => match pairSecond s s1 m with
    | none => .next s1
    | some (s1, n) => match attemptSlot s1 n with
      | .next s2 =>
          match prospectIn s1 s2 m.c m.k n.st with
          | .waits r | .moves r => .next (if captured s2 n then s2 else secondWaits s m r)
          | _ => .next s2
      | o => o
  | o => o

/-- A rule of R64 other than parity fails in the slot at the strand's PC or in its line word. -/
def slotIllegal (s : State) (m : Me) : Bool :=
  match fetchLine s m.c m.ctx m.st.pc with
  | .line pa _ => (scanAll (codeLines (readBytes s.mem (pa / 4096 * 4096) 4096))).any fun x =>
      x.1 == pa % 4096 / 64 * 64 && (x.2.1 == pcSlot m.st.pc || x.2.1 == 7) && x.2.2.any fun r => r != 7
  | _ => false

/-- A slot is issued that breaks a rule which only the page's scan finds, and what it does to its context is free (R376).
Log 12 (DESIGN CHOICE). -/
def illegalIssues (c k : Nat) (s : State) : Option State :=
  (meAt s c k).bind fun m =>
    if !mayIssue s m || (boundaryTrap s m).isSome || !slotIllegal s m then none
    else match fetchSlot s m with
      | .word w => some (illegalWord s m w)
      | .instead _ => none

/-- The strand in a slot attempts its next instruction; nothing happens where there is none or it may not issue. -/
def attempt (s : State) (c k : Nat) : Host.Outcome State Fault Refusal :=
  match meAt s c k with
  | none => .next s
  | some m =>
      if !mayIssue s m then .next s
      else match boundaryTrap s m with
        | some s => .next s
        | none => attemptPair s m

/-! ### The arbiter (15 R233, R234, R238) -/

/-- A strand's prospect, whether it would take a broadcast opportunity, and the wait that it keeps where it takes none. -/
structure Outlook where
  slot : Nat
  strand : Strand
  prospect : Prospect
  point : Bool
  waited : Nat
  deriving DecidableEq, Repr

/-- The outlook of a strand: what its attempt comes to where no slot had taken an opportunity before. -/
def outlook (s : State) (c k : Nat) (st : Strand) : Outlook :=
  if st.trap.isSome then { slot := k, strand := st, prospect := .waits .trap, point := false, waited := 0 }
  else
    let s0 := s.modCluster c fun cl => { cl with lastSlot := 8 }
    match attempt s0 c k with
    | .next s1 =>
        { slot := k, strand := st, prospect := if (meAt s c k).any (mayIssue s) then prospectIn s s1 c k st else .never
          point := (s1.cluster c).lastSlot != 8, waited := ((s1.strand? c k).elim 0 Strand.waited) }
    | _ => { slot := k, strand := st, prospect := .never, point := false, waited := st.waited }

/-- The strands of a cluster with their outlooks. -/
def prospects (s : State) (c : Nat) : List Outlook := (s.cluster c).strands.map fun p => outlook s c p.1 p.2

/-- A strand that is to be attempted. -/
def Prospect.useful : Prospect → Bool
  | .issues | .moves _ => true
  | _ => false

/-- The class of a strand (R233). -/
def classIn (cl : Cluster) (k : Nat) (st : Strand) : Nat :=
  if cl.handler == some k then 1 else if st.gangDone != 0 then 2 else 3

/-- The order of the strands: class, then slot in class 2, and in class 3 the longest wait and round robin.
Log 5 (DESIGN CHOICE), 26 (DEDUCED). -/
def arbiterKey (cl : Cluster) (k : Nat) (st : Strand) : Nat :=
  let c := classIn cl k st
  let wait := min st.waited 0xFFFF
  c * 2 ^ 32 + (if c == 3 then (0xFFFF - wait) * 16 + (k + 7 - cl.lastSlot) % 8 else k)

/-- The slot that the arbiter chooses at an opportunity: of the strands that would take it, those that have yielded behind the
others (R233, R234). Log 26 (DEDUCED). -/
def arbiterPick (cl : Cluster) (ps : List Outlook) : Option Nat :=
  let all := sortBy (fun p => arbiterKey cl p.slot p.strand) (ps.filter Outlook.point)
  (((all.filter fun p => !p.strand.yielded).head?).or all.head?).map Outlook.slot

/-- A strand that a turn of serial mode skips (R238). -/
def serialSkips (p : Prospect) : Bool :=
  match p with
  | .waits .barrier | .waits .lock | .waits .rendezvous | .waits .extWait | .waits .sleep | .waits .trap | .never => true
  | _ => false

/-- Serial mode: the turn of the next slot that is not skipped; while a handler runs, its strand's (R238).
Log 26 (DEDUCED). -/
def serialPick (cl : Cluster) (ps : List Outlook) : Option Nat :=
  let order := sortBy (fun p => (p.slot + 7 - cl.turn) % 8) (ps.filter fun p => match cl.handler with
    | some h => p.slot == h
    | none => true)
  ((order.find? fun p => !serialSkips p.prospect).filter fun p => p.prospect.useful).map Outlook.slot

/-- A strand may be attempted now: in serial mode at its turn, and else where it would take an opportunity only as the arbiter's
choice (R233, R238). -/
def mayGo (s : State) (c k : Nat) (ps : List Outlook) : Bool :=
  if serialMode s c then serialPick (s.cluster c) ps == some k
  else !(ps.any fun p => p.slot == k && p.point) || arbiterPick (s.cluster c) ps == some k

/-- The slot of a cluster that is attempted next: one that competes for no opportunity, in slot order, and then the arbiter's
choice. Log 16 (DESIGN CHOICE). -/
def pickIn (s : State) (c : Nat) : Option Nat :=
  let ps := prospects s c
  if serialMode s c then serialPick (s.cluster c) ps
  else ((ps.find? fun p => p.prospect.useful && !p.point).map Outlook.slot).or (arbiterPick (s.cluster c) ps)

/-- After an opportunity: a strand that was eligible and not chosen has waited once more, and one that had yielded has been passed
over; a strand that was not eligible has not waited (R233, R234). Log 26 (DEDUCED). -/
def passOver (s : State) (c k : Nat) (ps : List Outlook) (s' : State) : State :=
  let after := fun (i : Nat) (st : Strand) =>
    if i == k || ((s.cluster c).strands.get? i).isNone then st
    else if ps.any fun q => q.slot == i && q.point then { st with yielded := false, waited := st.waited + 1 }
    else { st with waited := 0 }
  s'.modCluster c fun cl => { cl with strands := cl.strands.map fun p => (p.1, after p.1 p.2) }

/-- An attempt of a strand as a step: as the opportunity of its cluster where it takes it. An opportunity that only strands which
have yielded could take passes them over (R234). A strand that may not be attempted now does nothing. Log 17 (DESIGN CHOICE). -/
def issueStep (s : State) (c k : Nat) : Host.Outcome State Fault Refusal :=
  let ps := prospects s c
  if !mayGo s c k ps then .next s
  else if ps.any fun p => p.slot == k && p.point then
    (if ps.any fun p => p.slot == k && p.strand.yielded then .next (passOver s c 8 ps s)
    else match attempt s c k with
      | .next s' => .next (passOver s c k ps s')
      | o => o)
  else attempt s c k

/-! ### The queue engine (21 R276, R280) -/

/-- An operation of the packet under way in a queue: NOADV past the last one. Log 18 (DEDUCED). -/
def engineStep (s : State) (q : Nat) : Host.Outcome State Fault Refusal :=
  match (s.queues.get? q).bind fun r => r.packet.map fun p => (r, p) with
  | none => .next s
  | some (r, p) =>
      if p.parked then .next s
      else match r.ops[p.index]? with
        | none => .next (endPacket s q 0x03 p.index)
        | some w =>
            match decodeOp w.toNat with
            | .error _ => .next (endPacket s q 0x03 p.index)
            | .ok i => settleCur (exec i { s with curQ := some q })

/-- The queue that the engine serves next: by PRI, then round robin (R276). -/
def enginePick (s : State) : Option Nat :=
  ((servedOrder (s.queues.filter fun p => p.2.packet.any fun k => !k.parked)).head?).map Prod.fst

/-! ### The mailbox server (29 R373) -/

/-- The server attempts its oldest request; a request that has been answered leaves the queue.
Log 20 (DEDUCED), 21 (DEDUCED). -/
def serverStep (s : State) : Host.Outcome State Fault Refusal :=
  match s.server with
  | [] => .next s
  | r :: rest =>
      let h : CmdHdr := { page0 := r.page0, tag := r.tag }
      let answered := fun (s : State) => if (s.page r.page0).status.getLsbD 8 then { s with server := rest } else s
      if !commandCode r.code then .next (answered (endCommand (wakeAll s) h 0x01 []))
      else if !r.page0 && !openCode r.code then .next (answered (endCommand (wakeAll s) h 0x02 []))
      else match commandOf h r.code r.params with
        | none => .next (answered (endCommand (wakeAll s) h 0x01 []))
        | some k => match k s with
          | .next s => .next (answered s)
          | o => o

end Sys2Proof.Machine
end

