-- ==== Sys2Proof/Machine/Schedule.lean ====
section
/-!
DEFINITION. What the machine does next when the agenda says nothing, and the passage of one cycle: TIME, the counters, the ages
and the timeouts (11 R188, 15 R240, 23 R301, 24 R321, 28 R363, R364). The default order is one of those the manual allows.
-/
namespace Sys2Proof.Machine

/-! ### Events that are due -/

/-- An event that the device brings about by itself. -/
inductive Due where
  | kill (ctx : Nat) | horizon (ctx : Nat) | interval | merge (ctx : Nat) | epoch | gap (unit : Nat) | token (unit : Nat)
  | assembled | norSummary | notice | pull (t : Token)
  | stretchEnd (c : Nat) | halvingEnd (c : Nat) | wake (c : Nat) | retain (c : Nat) | trapEntry (c k : Nat)
  | watchdog (c k : Nat) | late (c k : Nat) (reg : SReg) | delivery (c id : Nat) | landing (c id : Nat)
  | performed (c k id : Nat) | walked (c k : Nat) | watch (c k : Nat) | timeout (c k : Nat) | spawnTimeout (c k : Nat)
  | replyLost (c k id : Nat) | sweepDone (c k : Nat) | jobStart (c b t : Nat) | jobFault (c b t : Nat) | jobRetire (c b t : Nat)
  | tileDone (c id : Nat) | bankDone (c id : Nat) | trackerFree (c id : Nat) | fold (c b : Nat) | admission (c k : Nat)
  | filled (id : Nat) | slotMap (q : Nat) | resume (q : Nat) | packet (q : Nat) | dims (g : Nat) | place (g : Nat)
  | captured (ctx : Nat) | restore (ctx : Nat) | arrive (t : Token)
  deriving DecidableEq, Repr

/-- The mean draw of each regulator over the interval that ends: the hub's measurement. Log 13 (DESIGN CHOICE). -/
def drawsNow (s : State) : List Nat := (upto 4).map fun r => Config.regulatorDraw s.intervals r

/-- An event where its condition holds. -/
def runDue (s : State) : Due → Option State
  | .kill ctx => contextEnds ctx s
  | .horizon ctx => horizonPasses ctx s
  | .interval => intervalEnds (drawsNow s) s
  | .merge ctx => censusMerges ctx s
  | .epoch => epochRecorded s
  | .gap u => gapRecorded u s
  | .token u => freezeTokenComes u s
  | .assembled => capsuleAssembles s
  | .norSummary => norSummaryWrites s
  | .notice => noticeWrites s
  | .pull t => tokenPulls t.sender t.receiver t.reply s
  | .stretchEnd c => stretchEnds c s
  | .halvingEnd c => halvingEnds c s
  | .wake c => retentionEnds c true s
  | .retain c => retentionEnters c s
  | .trapEntry c k => trapEnters c k s
  | .watchdog c k => watchdogFires c k s
  | .late c k r => scalarArrives c k r s
  | .delivery c id => deliveryArrives c id s
  | .landing c id => bytesLand c id s
  | .performed c k id => accessPerforms c k id s
  | .walked c k => walkDone c k s
  | .watch c k => watchFires c k s
  | .timeout c k => waitTimesOut c k s
  | .spawnTimeout c k => searchEnds c k s
  | .replyLost c k id => replyTimesOut c k id s
  | .sweepDone c k => sweepRetires c k s
  | .jobStart c b t => jobStarts c b t s
  | .jobFault c b t => jobFaults c b t s
  | .jobRetire c b t => jobRetires c b t s
  | .tileDone c id => tileEngineDone c id s
  | .bankDone c id => bankComputeDone c id s
  | .trackerFree c id => trackerFrees c id s
  | .fold c b => barrierFolds c b s
  | .admission c k => taskAdmits c k s
  | .filled id => fillEnds id s
  | .slotMap q => slotMaps q s
  | .resume q => waitResumes q s
  | .packet q => packetStarts q s
  | .dims g => dimsRead g s
  | .place g => blockPlaces g s
  | .captured ctx => imagesComplete ctx s
  | .restore ctx => contextRestores ctx s
  | .arrive t => tokenArrives t.sender t.receiver t.reply s

/-- Accesses that a sender in a slot has out: each may be performed, or in a stopped cluster its reply given up. -/
def accessesDue (c k : Nat) (stopping : Bool) (l : List Access) : List Due :=
  (l.map fun a => Due.performed c k a.id) ++ if stopping then l.map fun a => .replyLost c k a.id else []

/-- The events that may be due of one strand. -/
def strandDue (c k : Nat) (st : Strand) (stopping : Bool) : List Due :=
  (st.late.map fun p => Due.late c k (BitVec.ofNat 6 p.1)) ++ accessesDue c k stopping st.out
    ++ (match st.wait, st.code with
      | .walk _, _ | _, .walking _ => [.walked c k]
      | .asleep _ _, _ => [.timeout c k]
      | .search _, _ => [.spawnTimeout c k]
      | _, _ => [])
    ++ (if st.regs.watch.isSome then [.watch c k] else []) ++ (if st.stall.any Stall.ages then [.watchdog c k] else [])

/-- The events that may be due of one cluster. -/
def clusterDue (s : State) (c : Nat) (cl : Cluster) : List Due :=
  [.stretchEnd c, .halvingEnd c] ++ (if cl.retained && clusterWakes s c cl then [.wake c] else [])
    ++ ((nextTrap s c).toList.map fun k => .trapEntry c k)
    ++ (cl.strands.map fun p => strandDue c p.1 p.2 cl.stopping.isSome).flatten
    ++ accessesDue c 8 cl.stopping.isSome (cl.orphans.map Orphan.access) ++ (cl.tracker.map fun t => .trackerFree c t.id)
    ++ (cl.deliveries.map fun d => .delivery c d.id) ++ (cl.landings.map fun l => .landing c l.id)
    ++ (cl.sweeps.map fun w => .sweepDone c w.slot)
    ++ (cl.jobs.map fun j => [Due.jobStart c j.block j.ticket, .jobFault c j.block j.ticket, .jobRetire c j.block j.ticket]).flatten
    ++ (cl.tileOps.map fun t => .tileDone c t.id) ++ (cl.bankOps.map fun o => .bankDone c o.id)
    ++ (cl.blocks.filterMap fun p => if p.2.foldDue.isEmpty then none else some (.fold c p.1))
    ++ (cl.power.waiting.head?.toList.map fun w => .admission c (taskSlot w.1)) ++ [.retain c]

/-- The accesses of saved strands and of killed contexts. -/
def outsideDue (s : State) : List Due :=
  (s.ctxs.map fun p => (p.2.images.map fun i => (i.strands.map fun q =>
      q.2.out.map fun a => Due.performed i.cluster q.1 a.id).flatten).flatten).flatten
    ++ (s.kills.map fun k => k.out.map fun q => .performed q.1 8 q.2.id).flatten

/-- The kills whose horizon is near, or all of whose accesses have been performed (28 R362). Log 44 (DEDUCED). -/
def horizonsDue (s : State) (near : Bool) : List Due :=
  (s.kills.filter fun k => !k.horizon && (if near then 23000 ≤ (s.time - k.at').toNat else k.out.isEmpty)).map fun k =>
    .horizon k.ctx

/-- Replies of atomics of stopped clusters that may be given up (23 R302), and tokens that may arrive. -/
def linksDue (s : State) : List Due :=
  ((s.links.filter fun t => t.reply && t.atomic && (s.cluster t.cluster).stopping.isSome).map fun t =>
    Due.replyLost t.cluster t.slot t.id) ++ s.links.map .arrive

/-- A cluster that nothing has reached since the last reset, and that has been idle for so long that it is retained (28 R364). -/
def untouchedDue (s : State) : Option Nat :=
  if (s.time - s.upAt).toNat / 2 < retentionEdges then none else (upto 384).find? fun c => (s.clusters.get? c).isNone

/-- The events of the package that may be due. -/
def packageDue (s : State) : List Due :=
  [.interval, .epoch] ++ (s.cellar.map .pull) ++ (s.ctxs.map fun p => .merge p.1)
    ++ (match s.freeze with
      | some f => .token f.origin :: (vaultUnits.map .token) ++ [.assembled]
      | none => [])
    ++ (s.vaults.filterMap fun p => if p.2.gapDue.isSome then some (.gap p.1) else none)
    ++ (if s.norDue.isEmpty then [] else [.norSummary]) ++ (if s.kills.any Kill.horizon then [.notice] else [])
    ++ (s.fills.map fun f => .filled f.id) ++ (s.ctxs.map fun p => .captured p.1) ++ (linksDue s)
    ++ (untouchedDue s).toList.map .retain

/-- The events of the hub's queues and grids that may be due. -/
def hubDue (s : State) : List Due :=
  (s.queues.map fun p => Due.slotMap p.1)
    ++ ((nextServed s).toList.map fun q => [Due.resume q, .packet q]).flatten
    ++ (s.grids.map fun p => Due.dims p.1) ++ (s.grids.map fun p => Due.place p.1) ++ s.ctxs.map fun p => .restore p.1

/-- Every event that may be due, in the default order. Log 17 (DESIGN CHOICE). -/
def dueList (s : State) : List Due :=
  (s.killDue.map .kill) ++ horizonsDue s true ++ (s.clusters.map fun p => clusterDue s p.1 p.2).flatten ++ outsideDue s
    ++ horizonsDue s false ++ packageDue s ++ hubDue s

/-- The first event that can happen. Log 16 (DESIGN CHOICE). -/
def dueNow (s : State) : Option Due := (dueList s).find? fun d => (runDue s d).isSome

/-! ### The default choice -/

/-- What the machine does next. -/
inductive NextUp where
  | due (d : Due)
  | issue (c k : Nat)
  | part (c block ticket : Nat) (p : JobPart)
  | engine (q : Nat)
  | server
  | idle
  deriving DecidableEq, Repr

/-- The clusters that hold strands, starting at one that TIME selects. -/
def clusterRound (s : State) : List Nat :=
  let cs := (s.clusters.filter fun p => !p.2.strands.isEmpty).map Prod.fst
  let k := if cs.isEmpty then 0 else s.time.toNat / 2 % cs.length
  cs.drop k ++ cs.take k

/-- A strand that issues next. -/
def issueUp (s : State) : Option NextUp := (clusterRound s).findSome? fun c => (pickIn s c).map (NextUp.issue c)

/-- The next access of a job. -/
def partUp (s : State) : Option NextUp :=
  s.clusters.findSome? fun p => p.2.jobs.findSome? fun j => j.next.bind fun q =>
    if (jobPart p.1 j.block j.ticket q s).isSome then some (.part p.1 j.block j.ticket q) else none

def engineUp (s : State) : Option NextUp := (enginePick s).map .engine

def serverUp (s : State) : Option NextUp := if s.server.isEmpty then none else some .server

/-- Strands go first in two cycles of four, jobs in the third, and the hub in the fourth. Log 16 (DESIGN CHOICE). -/
def nextUp (s : State) : NextUp :=
  match dueNow s with
  | some d => .due d
  | none =>
      let hub := (serverUp s).or (engineUp s)
      (match s.time.toNat / 2 % 4 with
        | 3 => hub.or ((partUp s).or (issueUp s))
        | 2 => (partUp s).or ((issueUp s).or hub)
        | _ => (issueUp s).or ((partUp s).or hub)).getD .idle

/-- What the agenda gives an attempt is for that attempt alone. -/
def clearGiven : Host.Outcome State Fault Refusal → Host.Outcome State Fault Refusal
  | .next s => .next { s with cap := none, ahead := false }
  | o => o

/-- The tile engine reads bytes of the scratchpad for an instruction that could issue (09 R217, R226). Log 23 (DEDUCED). -/
def tilePrereads (c k addr bytes : Nat) (s : State) : Option State :=
  (meAt s c k).bind fun m =>
    if (outlook s c k m.st).prospect != .issues || m.blk.scratchLen < addr + bytes then none
    else some ((touch s c k m.st.block (some m.st.block) addr bytes).modStrand c k fun st =>
      { st with pre := ((readBytes m.blk.scratch addr bytes).zip (upto bytes)).foldl (fun p q => p.set (addr + q.2) q.1) st.pre })

/-- The step of a choice of the agenda. Log 17 (DESIGN CHOICE). -/
def perform (s : State) : Choice → Host.Outcome State Fault Refusal
  | .issue c k => issueStep s c k
  | .engine q => engineStep s q
  | .event i => settleCur (exec i s)
  | .server => serverStep s
  | .jobPart c b t p => happen s (jobPart c b t p s)
  | .bankPart c id p => happen s (bankPart c id p s)
  | .early c k id => happen s (accessEarly c k id s)
  | .split c k id => happen s (accessSplits c k id s)
  | .land c id t => happen s (landThread c id t s)
  | .token u k => happen s (tokenComes u k s)
  | .norBegins => happen s (norBegins s)
  | .part c k n => clearGiven (issueStep { s with cap := some n } c k)
  | .ahead c k => clearGiven (issueStep { s with ahead := true } c k)
  | .preread c k a n => happen s (tilePrereads c k a n s)
  | .arrive x y reply => happen s (tokenArrives x y reply s)
  | .illegal c k => happen s (illegalIssues c k s)

/-- The step of the default choice. -/
def performUp (s : State) : NextUp → Host.Outcome State Fault Refusal
  | .due d => happen s (runDue s d)
  | .issue c k => issueStep s c k
  | .part c b t p => happen s (jobPart c b t p s)
  | .engine q => engineStep s q
  | .server => serverStep s
  | .idle => .next s

/-! ### One cycle -/

/-- What kept a strand from issuing at an edge; none for one that could. -/
def Prospect.stall : Prospect → Option Stall
  | .moves r | .waits r => some r
  | .issues | .never => none

/-- The wait age of a strand after a cycle (28 R363): only four reasons make it rise, and with every other it is 0; it is held while
the context is switched out. -/
def Strand.ageAfter (st : Strand) (reason : Option Stall) (aging : Bool) : Nat :=
  match reason with
  | none => st.age
  | some r => if !aging then st.age else if r.ages then st.age + 2 else 0

/-- The timeouts, the stall, the wait and the wait age of a strand after a cycle, from its outlook before it (06 R89, R97, 15 R233,
R239, 28 R363): where it could not be attempted, as in retention, its stall stands. Log 26 (DEDUCED), 40 (DEDUCED). -/
def Strand.tick (st : Strand) (o : Option Outlook) (edge aging : Bool) : Strand :=
  let p := o.map Outlook.prospect
  let stall := match p with
    | some (.waits r) => some r
    | some .issues => none
    | _ => st.stall
  let reason := match p with
    | some .never => st.stall
    | _ => p.bind Prospect.stall
  let wait := if !edge then st.wait else match st.wait with
    | .asleep e (some (n + 1)) => .asleep e (some n)
    | .search (n + 1) => .search n
    | w => w
  let waited := match o with
    | some q => if q.prospect.stall.isSome then min st.waited q.waited else st.waited
    | none => st.waited
  { st with wait := wait, stall := stall, waited := waited, age := st.ageAfter reason aging }

/-- The strand's watch after a cycle: it has seen a word that differs from its compare value, however long it did (09 R145). -/
def Strand.look (s : State) (c : Nat) (st : Strand) : Strand :=
  match st.regs.watch, s.block? c st.block with
  | some w, some b => { st with regs := { st.regs with watch := some { w with seen := w.seen || watchSees s b w != w.value } } }
  | _, _ => st

/-- The reason of a strand that is not eligible. -/
def Prospect.reason : Prospect → Nat
  | .moves r | .waits r => r.code
  | .issues | .never => Stall.fetch.code

/-- The counters of a context after a clock edge (15 R240): the strands of the context with their outlooks. -/
def Counters.edge (n : Counters) (ps : List Outlook) : Counters :=
  let eligible := (ps.filter fun p => p.prospect == .issues).length
  let first := (sortBy (fun p => p.strand.started.toNat) ps).head?
  let reason := match first with | some p => p.prospect.reason | none => Stall.engine.code
  { n with
    cyc := n.cyc + 1
    elig := n.elig.setIfInBounds eligible ((n.elig.toList.getD eligible 0) + 1)
    stalls := if eligible == 0 then n.stalls.setIfInBounds reason ((n.stalls.toList.getD reason 0) + 1) else n.stalls }

/-- The counters of the contexts that were resident at the edge and that nothing has killed in it. -/
def tickCounters (s' : State) (cl : Cluster) (ps : List Outlook) (counters : SMap Counters) : SMap Counters :=
  (cl.residents.filter s'.ctxLive).foldl (fun m ctx =>
    let mine := ps.filter fun p => (cl.blocks.get? p.strand.block).any fun b => b.ctx == ctx
    m.set ctx (((m.get? ctx).getD Counters.reset).edge mine)) counters

/-- The outlooks of a cluster at the edge that its clock has or, in the first half of a stretched period, had (24 R321). -/
def edgeProspects (s : State) (c : Nat) : List Outlook :=
  prospects (if (s.cluster c).power.atEdge then s
    else s.modCluster c fun cl => { cl with power := { cl.power with edges := cl.power.edges + 1 } }) c

/-- A cluster `cl` of `s'`, after a cycle in which it stood as in `s` before. Log 16 (DESIGN CHOICE). -/
def tickCluster (s s' : State) (c : Nat) (cl : Cluster) : Cluster :=
  let old := s.cluster c
  let ps := edgeProspects s c
  let stopped := old.stopping.isSome
  let edge := cl.power.edgeNext && !old.retained && !stopped
  { cl with
    strands := cl.strands.map fun p =>
      (p.1, (p.2.look s' c).tick (ps.find? fun q => q.slot == p.1) (edge || old.retained) (!stopped))
    counters := if edge then tickCounters s' old ps cl.counters else cl.counters
    idle := if cl.retained then cl.idle else if cl.quiet then cl.idle + 1 else 0
    power := if old.retained then cl.power else cl.power.tick }

/-- The cycle that a step takes, from the state before it: what the hub polls, the tokens of a freeze that must have come, two ticks
of TIME, and the port of every vault while the recorder is ready (11 R188, 26 R337, R338, R340). Log 16 (DESIGN CHOICE). -/
def endCycle (s s' : State) : State :=
  let s' := tokensForced (hubPolls s')
  { s' with
    time := s'.time + 2
    clusters := s'.clusters.map fun p => (p.1, tickCluster s s' p.1 p.2)
    vaults := if s'.ready.getLsbD 537 then s'.vaults.map fun p => (p.1, p.2.drain (vaultSize p.1) s'.time) else s'.vaults }

/-- What a step answers, from the state before it. Log 16 (DESIGN CHOICE). -/
def afterStep (s : State) : Host.Outcome State Fault Refusal → Host.Outcome State Fault Refusal
  | .next s' => .next (endCycle s s')
  | o => o

/-- The choice that the agenda names, or the default one. Log 9 (DESIGN CHOICE). -/
def stepOf (s : State) : Host.Outcome State Fault Refusal :=
  match s.agenda with
  | choice :: rest => perform { s with agenda := rest } choice
  | [] => performUp s (nextUp s)

end Sys2Proof.Machine
end

