-- ==== Sys2Proof/Machine/Stage.lean ====
section
/-!
DEFINITION. A machine that is about to run one given instruction: a block of one thread with one strand whose PC names the
instruction's slot, or a queue with a packet under way whose program is the operation.
-/
namespace Sys2Proof.Machine

/-- A fetch line with a word in slot 0 and its parity (03 R42-R44). -/
def lineWith (word : Nat) : List Byte :=
  let spar := ones 96 word % 2
  leBytes 60 word ++ leBytes 4 (spar * 2 ^ 9 + spar * 2 ^ 14)

/-- The page that holds the line: its virtual and physical address, and its leaf, readable and executable. -/
def stagePage : Nat := 0x1000
def stageLeaf : Nat := stagePage + 11

/-- A descriptor of a context whose tables hold nothing. -/
def stageDesc : CtxDesc :=
  { ptroot := 0, save := 0, part := 0, serial := false, valid := false, redact := .full, pcap := 7, wdog := 0, vcred := [],
    tarena := 0, tasz := 0 }

/-- A live context with that descriptor. -/
def stageContext : Context :=
  { desc := stageDesc, killed := false, tables := 0, freeTables := [], grids := 0, merged := none, log := none, images := [], subs := [],
    merges := 0, bpc := Vector.replicate 8 none }

/-- A block of one thread with one role. -/
def stageBlock : Block :=
  { ctx := 0, grid := 0, index := 0, n := 1, bx := 1, by' := 1, bz := 1,
    roles := [{ window := 256, freed := false, entry := BitVec.ofNat 57 stagePage, handler := 0, lo := 0, hi := 0, strands := 1 }],
    shared := 64, scratchLen := 4096, scratch := [], bars := 1, tiles := 1, depth := 0, granules := [0], regs := [],
    open' := [], lostRegs := [], keys := Vector.replicate 8 0, tol := 0x35800000, acc := [], shadows := [],
    fmts := Vector.replicate 8 0, scales := Vector.replicate 8 0, taskp := 0, tickets := 0, folds := 0, foldDue := [] }

/-- Its strand, past its entry. -/
def stageStrand : Strand :=
  { newStrand (BitVec.ofNat 57 stagePage) (newRegs (Vector.replicate 64 0) 0 1 1) 1 15 0 0 none 0 0 with entering := false }

/-- The cluster that holds them, with the leaf in its µTLB. -/
def stageCluster : Cluster :=
  { Cluster.reset with
    strands := [(0, stageStrand)], blocks := [(0, stageBlock)], nextBlock := 1
    utlb := [{ ctx := 0, base := stagePage, leaf := stageLeaf }] }

/-- A strand of cluster 0 is about to issue the word. Log 1 (DESIGN CHOICE). -/
def stageWord (s : State) (word : Nat) : State :=
  { s.setCluster 0 stageCluster with
    mem := writeBytes s.mem stagePage (lineWith word), approved := stagePage :: s.approved, poison := []
    ready := s.ready ||| BitVec.twoPow 540 (526 + (portOf s stagePage).getD 0), ctxs := s.ctxs.set 0 stageContext, agenda := [.issue 0 0] }

/-- A queue whose program is one operation, with a packet at its first step. -/
def stageQueue (word : Nat) : Queue :=
  { va := 0, ctx := 0, pri := 0, dev := false, rbase := 0, rlog := 0, ops := [BitVec.ofNat 64 word], stat := 0,
    door := bellAddress 0, wins := List.replicate 4 { base := 0, len := 4096, r := true, w := true }, head := 0, slot := some 0,
    stopped := false, since := 0, used := 0,
    packet := some { regs := packetRegs 0, index := 0, steps := 0, rep := none, bytes := List.replicate 256 0, counted := false,
                     parked := false, sub := none } }

/-- The queue engine is about to execute the operation. Log 1 (DESIGN CHOICE). -/
def stageOp (s : State) (word : Nat) : State :=
  { s with queues := s.queues.set 0 (stageQueue word), ctxs := s.ctxs.set 0 stageContext, agenda := [.engine 0] }

/-- The instruction of a table word is the next to run. Log 1 (DESIGN CHOICE). -/
def stageFetch (s : State) (nbits w : Nat) : State :=
  if nbits = 64 then stageOp s (w % 2 ^ 64) else stageWord s (w % 2 ^ nbits % 2 ^ 96)

end Sys2Proof.Machine
end

