-- ==== Sys2Proof/Machine/Step.lean ====
section
/-!
DEFINITION. One step of the machine, and the placing of one instruction where the next step fetches it.
-/
namespace Sys2Proof.Machine

/-- One step: the choice of the agenda, or the default one, and the cycle it takes. -/
def step (s : State) : Host.Outcome State Fault Refusal := afterStep s (stepOf s)

/-- The state with an instruction, numbered as the opcode table numbers its bits, where step fetches its next one.
Log 1 (DESIGN CHOICE). -/
def State.withFetchWord (s : State) (nbits w : Nat) : State := stageFetch s nbits w

end Sys2Proof.Machine
end

