-- ==== Sys2Proof/Safety.lean ====
section
/-!
DEFINITION. The words claims are made in: when an instruction passes to its effect, what an instruction that completes
leaves, what lies apart from a strand, and the invariant of memory that every safe run keeps.
-/
namespace Sys2Proof.Machine

/-! ### When an instruction has its effect -/

/-- Strand `m` is the current one, and an instruction that uses `u` passes every check before its effect: the population is to
be had (15 R235, R245), the strand has not tailed (06 R93), the names exist and each group lies in one window (03 R57, 10 R152),
no scalar it uses is empty or lost (01 R18, 23 R302), no thread register it names is pending, lost or poisoned (01 R19, 23 R302,
28 R359), and neither a mark bit nor a key that it reads is poisoned (28 R358), and no acquire of the strand that holds it back is outstanding (14 R219, R228). -/
structure Ready (s : State) (m : Me) (u : Uses) : Prop where
  here : me? s = some m
  population : u.bo = true → boBlocked s m = none
  live : u.sets = true → m.st.setsGone = false
  named : ∀ x ∈ u.names, ∀ n ∈ x.list, useTrap m x n = none
  full : ∀ x ∈ u.src, m.st.regs.isLost x.1 = false ∧ m.st.regs.isEmpty x.1 = false
  free : ∀ r ∈ u.dst, m.st.regs.isEmpty r = false
  arrived : ∀ x ∈ u.names, ∀ n ∈ x.list, namePending s m n = false
  sound : ∀ x ∈ u.names, x.write = false → ∀ n ∈ x.list,
    nameLost m (m.tested s u) n = false ∧ namePoison s m (m.tested s u) n = none
  clean : setPoison s m u (m.tested s u) = none
  acquired : u.ord = true → m.acquiring s u.mem = false

/-- The strand does not trap STEP at the end of an instruction with this STOP bit: stepping is off, or suspended in a handler
(15 R251, R246). -/
def Unstepped (m : Me) (stop : Bool) : Prop := stop = true → m.st.regs.dbg.getLsbD 0 = false ∨ m.inH = true

/-! ### What an instruction leaves -/

/-- The state after an instruction that has had its effect `s'` retires and the strand goes on at `next`; one with a `bo` point has
taken its opportunity (15 R233). -/
def completed (m : Me) (bo stop : Bool) (next : PC) (s' : State) : State :=
  let t := retire s' m stop next
  if bo then tookTurn t m else t

/-- The state after an instruction that raises a cause in `s`: its tile task waits no more (24 R317), and the trap is raised
(15 R242). -/
def trappedIn (s : State) (m : Me) (cause : Nat) (info : Word) (op : Nat) : State := raise (m.dropTask s) m cause info op

/-- The same for an instruction that has a `bo` point: it took its opportunity (15 R232, R233). -/
def trappedBo (s : State) (m : Me) (cause : Nat) (info : Word) (op : Nat) : State := tookTurn (trappedIn s m cause info op) m

/-- Every byte of physical memory reads as before. -/
def SameBytes (s t : State) : Prop := ∀ a, readByte t.mem a = readByte s.mem a

/-- What a completed instruction without a `bo` point leaves alone that reaches no block, no other strand and no memory: every byte
of memory, every other cluster, every other strand of the cluster, and of the cluster everything but its strands and whose turn
the last was; of the machine everything but the clusters and the recorder's vaults. -/
structure StrandFrame (s t : State) (m : Me) : Prop where
  memory : ∀ a, readByte t.mem a = readByte s.mem a
  machine : t = { s with clusters := t.clusters, vaults := t.vaults }
  clusters : ∀ d, d ≠ m.c → t.clusters.get? d = s.clusters.get? d
  strands : ∀ j, j ≠ m.k → t.strand? m.c j = s.strand? m.c j
  cluster : t.cluster m.c = { s.cluster m.c with strands := (t.cluster m.c).strands, turn := m.k }

/-- The same for an instruction with a `bo` point that writes registers or keys of its own block: every other block is as before
too, and of the cluster the slot that took the last opportunity changes as well. -/
structure BlockFrame (s t : State) (m : Me) : Prop where
  memory : ∀ a, readByte t.mem a = readByte s.mem a
  machine : t = { s with clusters := t.clusters, vaults := t.vaults, poison := t.poison }
  clusters : ∀ d, d ≠ m.c → t.clusters.get? d = s.clusters.get? d
  strands : ∀ j, j ≠ m.k → t.strand? m.c j = s.strand? m.c j
  blocks : ∀ b, b ≠ m.st.block → t.block? m.c b = s.block? m.c b
  cluster : t.cluster m.c =
    { s.cluster m.c with strands := (t.cluster m.c).strands, blocks := (t.cluster m.c).blocks, lastSlot := m.k, turn := m.k }

/-- The registers of a strand but the given scalars, their lost marks, and FPFLAGS are as before. -/
def ScalarsSame (r r' : Regs) (except : List SReg) : Prop :=
  (∀ n, n ∉ except → r'.get n = r.get n ∧ r'.isLost n = r.isLost n) ∧
    r' = { r with s := r'.s, lost := r'.lost, fpflags := r'.fpflags }

/-! ### Memory instructions -/

/-- Every address of a global memory instruction passes R133's checks, thread by thread, what a load or an atomic reaches is not
poisoned (28 R359), what it reaches is not touched by an outstanding tile-engine access of the strand (10 R153), and the
strand's die has room for as many requests (25 R324). -/
structure Reached (s : State) (m : Me) (need : Need) (bytes : Nat) (also : Nat → Option Nat) (addrs : List (Nat × Nat))
    (l : List (Nat × Nat × Nat)) : Prop where
  passed : translateAll s m need bytes also addrs = .ok l
  apart : ∀ q ∈ l, tileMeets s m q.2.1 bytes = false
  sound : need = .load ∨ need = .atomic → ∀ q ∈ l, poisonedAt s q.2.1 = false
  room : requestsFull s m.c (newRequests m.c l) = false

/-- A range of the scratchpad is not held back by a job, an `ldsc` or a tile-engine access (13 R215, 10 R153), and where it is read
not poisoned (28 R359). -/
def RangeClear (s : State) (m : Me) (reads : Bool) (a n : Nat) : Prop :=
  scratchBusy s m a n = false ∧ (reads = true → scratchPoison s m.c m.st.block a n = none)

/-- The same, and the strand has sent nothing that it meets, no fence of the strand's stands before it, and no order of another's
is owed on it (14 R219, R228): an access may take place there at once. -/
def RangeFree (s : State) (m : Me) (reads : Bool) (a n : Nat) : Prop :=
  RangeClear s m reads a n ∧ sentBusy s m a n = false ∧ m.st.fenced (bit01 !reads) = false

/-- Every address of a scratchpad instruction is aligned, in the block's scratchpad and clear (09 R133, R135). -/
def InScratch (s : State) (m : Me) (reads : Bool) (bytes : Nat) (addrs : List (Nat × Nat)) : Prop :=
  ∀ q ∈ addrs, q.2 % bytes = 0 ∧ q.2 + bytes ≤ m.blk.scratchLen ∧ RangeClear s m reads q.2 bytes

/-- An access as statements name it: the block whose scratchpad it reaches, location, bytes, act, acquire, release, destination. -/
abbrev SentAccess : Type := Option Nat × Nat × Nat × Act × Bool × Bool × Dest

/-- What the strand has sent since. -/
def sentBy (m : Me) (st : Strand) : List SentAccess :=
  (st.out.drop m.st.out.length).map fun a => (a.space, a.pa, a.bytes, a.act, a.acq, a.rel, a.dest)

/-- A strand after a memory instruction that has been sent: it goes on behind it with PI clear where the instruction is long, and
its registers, sets and earlier accesses are as before. -/
structure Sent (m : Me) (st : Strand) (pi : W32) (what : List SentAccess) : Prop where
  pc : st.pc = successor m.st.pc
  stack : st.stack = m.st.stack
  out : st.out.take m.st.out.length = m.st.out
  sent : sentBy m st = what
  regs : st.regs.pi = pi ∧ ∀ n, st.regs.get n = m.st.regs.get n

/-! ### Tiles -/

/-- A tile task of a cluster, under its name in the power domain, with header `h` is admitted in `s`, which becomes `t`, and holds a
current (11 R172, 24 R317): a task that was admitted and has not issued; a header of (0, 0) always; and a task at the head of those
that wait which fits. A task that waits keeps the header with which it began. -/
def AdmittedAs (s : State) (c task : Nat) (h : Nat × Nat) (current : Nat) (t : State) : Prop :=
  let cl := s.cluster c
  let p := cl.power
  let was := p.admitted.find? fun a => a.1 == task
  let kept := p.header task h
  (was = some (task, current) ∧
    t = s.setCluster c { cl with power := { p with admitted := p.admitted.filter fun a => a.1 != task } }) ∨
  (was = none ∧ kept = (0, 0) ∧ current = 0 ∧ t = s) ∨
  (was = none ∧ kept ≠ (0, 0) ∧ (p.waiting.head?.map Prod.fst).getD task = task ∧ p.fits kept.1 kept.2 = true ∧ current = kept.2 ∧
    t = s.setCluster c { cl with power := { p.charge kept.1 kept.2 with waiting := p.waiting.filter fun w => w.1 != task } })

/-- The same for the strand's own task, whose header's line is held once it has been read (25 R330). -/
def Admitted (s : State) (m : Me) (th : BitVec 4) (current : Nat) (t : State) : Prop :=
  AdmittedAs (headerRead s m.blk m.st.role th.toNat) m.c m.task (m.header s th) current t

/-- An instruction on accumulator `name` is held up by no sweep and no poison of the tile it reads (10 R170, 28 R359). -/
def TileClear (s : State) (m : Me) (name : Nat) (reads : Option Nat) : Prop :=
  sweeping s m name = false ∧ ∀ k, reads = some k → tilePoison s m.c m.st.block k = none

/-- One fresh tile is to be had (10 R148). -/
def FreshTile (s : State) (m : Me) : Prop :=
  heldTiles (s.cluster m.c) m.blk m.st.block + drainingTiles (s.cluster m.c) m.st.block + 1 ≤ m.blk.tiles

/-- What a product leaves of a block (10 R154, R159, 02 R38): of the tile that `o` names, its shadow for SP, row i has for each
row i of A and each column c of B the element sum of the old element and of the products of the two, and every other element is
as before; the other names and all else of the block are as before too. The engine sees the scratchpad of `seen`. -/
def ProductDone (blk seen b : Block) (sat : Bool) (ty : MatTy) (o : TOps) (p q : Nat) (a : Latch) : Prop :=
  let name := tName o
  let base := mmaBase blk o
  let arrs := matArrays blk ty o p q
  let row := fun i => matRow blk ty o (arrs.2.1.read seen) i ((a.rows[i]?).getD [])
  let col := fun c => matCol blk ty o (arrs.1.read seen) (arrs.2.2.read seen) c
  let tile := if o.sp then (b.shadows.get? name).map Shadow.tile else (b.acc.get? name).map AccName.tile
  b = { blk with acc := b.acc, shadows := b.shadows } ∧
    (o.sp = true → b.acc = blk.acc) ∧ (o.sp = false → b.shadows = blk.shadows) ∧
    (∀ n, n ≠ name → b.acc.get? n = blk.acc.get? n ∧ b.shadows.get? n = blk.shadows.get? n) ∧
    ∃ t, tile = some t ∧ ∀ i c, c < shpWidth o.shpn → tileAt t i c =
      (if i < a.rows.length then
        BitVec.ofNat 32 (elementSum sat (matGroup ty) (tileAt base i c).toNat (products (row i) (col c))).bits
      else tileAt base i c)

/-- The arrays an instruction reads or writes are aligned, in the block's scratchpad, free of a job's writes and of what the
strand has sent, and where it reads them not poisoned (10 R151, R153, 13 R215, 14 R219, 28 R359). -/
def ArraysClear (s : State) (m : Me) (reads : Bool) (arrs : List MemArray) : Prop :=
  ∀ a ∈ arrs, a.len ≠ 0 → a.addr % a.align = 0 ∧ a.addr + a.len ≤ m.blk.scratchLen ∧
    rangeBusy s m a.addr a.len = false ∧ sentBusy s m a.addr a.len = false ∧ landBusy s m a.addr a.len = false ∧
    (reads = true → scratchPoison s m.c m.st.block a.addr a.len = none)

/-- The rows of `tld` or `tst` pass (10 R160, 09 R133): aligned, in the scratchpad and clear; or aligned in global memory with every
piece translated and ready, none of them waited for by the strand, the way to its die free and none that is read poisoned, whose
shared lines are then held: the state becomes `t`. -/
def RowsPass (s : State) (m : Me) (o : TOps) (need : Need) (t : State) (phys : List (Nat × Nat × Nat)) : Prop :=
  let r := m.st.regs
  let n := 4 * shpWidth o.shpn
  let pieces := rowList o r n
  (rowsLocal o r = true ∧ t = s ∧ phys = [] ∧ ArraysClear s m (decide (need = .load)) (rowArrays o r)) ∨
    (rowsLocal o r = false ∧ ∃ l, translateAll s m need 16 noAlso ((upto pieces.length).zip (pieces.map Prod.fst)) = .ok l ∧
      phys = (pieces.zip (l.map fun q => q.2)).map (fun q => (q.1.1, q.1.2, q.2.1)) ∧
      t = shareRows s (pieces.zip (l.map fun q => q.2)) ∧
      ∀ q ∈ phys, sentMeets s m q.2.2 q.2.1 = false ∧ portReady s q.2.2 = true ∧ linkFree s m.c q.2.2 = true ∧
        (need = .load → poisonedIn s q.2.2 q.2.1 = none))

/-! ### Commands -/

/-- A command of header `h` has been answered in `t` with a status and a result (29 R373). -/
def Answered (t : State) (h : CmdHdr) (status : Nat) (result : List Byte) : Prop :=
  (t.page h.page0).status = doneStatus status h.tag ∧ (t.page h.page0).result.take result.length = result

/-! ### Memory -/

/-- Physical memory is in its canonical form: addresses strictly rise, and no listed byte is one that an unlisted address
reads as. -/
def MemInv (s : State) : Prop := Memory.wf s.mem = true

/-- A step is safe: it answers a next state, and the memories keep their form. -/
def SafeStep (s : State) : Prop := ∃ t, step s = .next t ∧ MemInv t

end Sys2Proof.Machine
end

