-- ==== Sys2Proof/Certificates/Slice0/Obligations.lean ====
section
/-!
DEFINITION. The statements for the provers.
-/
open Sys2Proof Sys2Proof.Machine

/-! ### Scalars -/

/-- R83, R84, R22: every scalar integer instruction that takes A and B writes its result to SD and retires, with a zero
divisor, a shift count of w or more and the width of W32 as the rules say. -/
def Obligations.ScalarIntegerResults : Prop :=
  ∀ (s : State) (m : Me) (o : SOps), Ready s m (sUses o true true true false) →
    let a := m.st.regs.get o.sa
    let b := if o.imm then o.imm32.signExtend 64 else m.st.regs.get o.sb
    ∀ p ∈ [
      (Instr.add o, widthOp o (fun _ x y => x + y) a b),
      (Instr.sub o, widthOp o (fun _ x y => x - y) a b),
      (Instr.mul o, widthOp o (fun _ x y => x * y) a b),
      (Instr.mulh o, BitVec.ofInt 64 (a.toInt * b.toInt / 2 ^ 64)),
      (Instr.mulhu o, BitVec.ofNat 64 (a.toNat * b.toNat / 2 ^ 64)),
      (Instr.div o, if b = 0 then BitVec.allOnes 64 else a.sdiv b),
      (Instr.divu o, if b = 0 then BitVec.allOnes 64 else a / b),
      (Instr.rem o, if b = 0 then a else a.srem b),
      (Instr.remu o, if b = 0 then a else a % b),
      (Instr.andI o, widthOp o (fun _ x y => x &&& y) a b),
      (Instr.orI o, widthOp o (fun _ x y => x ||| y) a b),
      (Instr.xorI o, widthOp o (fun _ x y => x ^^^ y) a b),
      (Instr.andn o, a &&& ~~~b),
      (Instr.shl o, widthOp o (fun w x y => x <<< (y.toNat % w)) a b),
      (Instr.shr o, widthOp o (fun w x y => x >>> (y.toNat % w)) a b),
      (Instr.sra o, widthOp o (fun w x y => x.sshiftRight (y.toNat % w)) a b),
      (Instr.rol o, widthOp o (fun w x y => x.rotateLeft (y.toNat % w)) a b),
      (Instr.minI o, widthOp o (fun _ x y => if x.slt y then x else y) a b),
      (Instr.maxI o, widthOp o (fun _ x y => if x.slt y then y else x) a b),
      (Instr.minu o, widthOp o (fun _ x y => if x.ult y then x else y) a b),
      (Instr.maxu o, widthOp o (fun _ x y => if x.ult y then y else x) a b),
      (Instr.bfx o, (a >>> fieldPos b) &&& fieldMask 0 (fieldLen b)),
      (Instr.seqI o, if a = b then 1 else 0),
      (Instr.slt o, if a.slt b then 1 else 0),
      (Instr.sltu o, if a.ult b then 1 else 0)],
    exec p.1 s = .next (completed m false o.hdr.stop (successor m.st.pc) (m.setRegs s fun r => r.put o.sd p.2))

/-- R84: the scalar instructions with one operand, with SD as a third operand, or with none. -/
def Obligations.ScalarMoveResults : Prop :=
  ∀ (s : State) (m : Me) (o : SOps),
    let a := m.st.regs.get o.sa
    let b := sOpB o m.st.regs
    let d := m.st.regs.get o.sd
    let wrote := fun (v : Word) =>
      Host.Outcome.next (completed m false o.hdr.stop (successor m.st.pc) (m.setRegs s fun r => r.put o.sd v))
    (Ready s m (sUses o true true false false) →
      exec (.clz o) s = wrote (widthOp o (fun w x _ => BitVec.ofNat w (w - bitLen x.toNat)) a b) ∧
      exec (.ctz o) s = wrote (widthOp o (fun w x _ => BitVec.ofNat w (trailing w x.toNat)) a b) ∧
      exec (.popc o) s = wrote (widthOp o (fun w x _ => BitVec.ofNat w (ones w x.toNat)) a b) ∧
      exec (.mov o) s = wrote a) ∧
    (Ready s m (sUses o true true true true) →
      exec (.bfi o) s = wrote ((d &&& ~~~(fieldMask (fieldPos b) (fieldLen b))) |||
        ((a <<< fieldPos b) &&& fieldMask (fieldPos b) (fieldLen b))) ∧
      exec (.sel o) s = wrote (if d = 0 then b else a)) ∧
    (Ready s m (sUses o true false false false) → exec (.liI o) s = wrote (o.imm32.signExtend 64)) ∧
    (Ready s m (sUses o true false false true) → exec (.liHi o) s = wrote (o.imm32 ++ d.truncate 32))

/-- R85, R27, R242: a scalar float instruction that raises no flag enabled in FPTRAP sets its flags in FPFLAGS, writes its result
and retires; one that raises an enabled flag sets its flags, writes nothing else and traps FPEXC with the flags it raised. -/
def Obligations.ScalarFloatResults : Prop :=
  ∀ (s : State) (m : Me) (o : SOps),
    let a := m.st.regs.get o.sa
    let b := sOpF o m.st.regs
    let d := m.st.regs.get o.sd
    let done := fun (i : Instr) (x : Word × BitVec 5) =>
      let flagged := m.setRegs s fun r => { r with fpflags := r.fpflags ||| x.2 }
      (m.fpTraps x.2 = false → exec i s = .next (completed m false o.hdr.stop (successor m.st.pc)
        (m.setRegs flagged fun r => r.put o.sd x.1))) ∧
      (m.fpTraps x.2 = true → ∃ op, exec i s = .next (trappedIn flagged m causeFpExc (x.2.zeroExtend 64) op))
    (Ready s m (sUses o true true true false) →
      done (.fadd o) (f32.add .rne false (f32Of a) (f32Of b)).word ∧
      done (.fsub o) (f32.sub .rne false (f32Of a) (f32Of b)).word ∧
      done (.fmul o) (f32.mul .rne false (f32Of a) (f32Of b)).word ∧
      done (.fdiv o) (f32.div .rne false (f32Of a) (f32Of b)).word ∧
      done (.fmin o) (f32.minMax false false (a.toNat % 2 ^ 32) (b.toNat % 2 ^ 32)).word ∧
      done (.fmax o) (f32.minMax true false (a.toNat % 2 ^ 32) (b.toNat % 2 ^ 32)).word ∧
      ∀ r, done (.fcmp r o) (boolWord (fRelation r (f32Of a) (f32Of b)).1, (fRelation r (f32Of a) (f32Of b)).2)) ∧
    (Ready s m (sUses o true true true true) →
      done (.ffma o) (f32.fma .rne false (f32Of a) (f32Of b) (f32Of d)).word) ∧
    (Ready s m (sUses o true true false false) →
      done (.fsqrt o) (f32.sqrt .rne false (f32Of a)).word ∧ ∀ k, done (.fcvt k o) (fConvert k a))

/-- The frame of the scalar instructions with a result in SD: memory, every other strand and every block are as before, and of
the strand's registers only SD and FPFLAGS may change; a result for s0 is discarded; only a float instruction changes FPFLAGS,
and only sets bits (R57, R84, R85, R27). -/
def Obligations.ScalarFrame : Prop :=
  ∀ (s t : State) (m : Me) (o : SOps) (r : FRel) (k : FCvt),
    let abd := sUses o true true true false
    let all := sUses o true true true true
    let a := sUses o true true false false
    let ints := [(Instr.add o, abd), (.sub o, abd), (.mul o, abd), (.mulh o, abd), (.mulhu o, abd), (.div o, abd),
      (.divu o, abd), (.rem o, abd), (.remu o, abd), (.andI o, abd), (.orI o, abd), (.xorI o, abd), (.andn o, abd),
      (.shl o, abd), (.shr o, abd), (.sra o, abd), (.rol o, abd), (.minI o, abd), (.maxI o, abd), (.minu o, abd),
      (.maxu o, abd), (.clz o, a), (.ctz o, a), (.popc o, a), (.bfx o, abd), (.bfi o, all), (.sel o, all), (.seqI o, abd),
      (.slt o, abd), (.sltu o, abd), (.liI o, sUses o true false false false), (.liHi o, sUses o true false false true),
      (.mov o, a)]
    let floats := [(Instr.fadd o, abd), (.fsub o, abd), (.fmul o, abd), (.ffma o, all), (.fdiv o, abd), (.fsqrt o, a),
      (.fmin o, abd), (.fmax o, abd), (.fcmp r o, abd), (.fcvt k o, a)]
    ∀ p ∈ ints ++ floats, Ready s m p.2 → Unstepped m o.hdr.stop → (p ∈ floats → m.st.regs.fptrap = 0 ∨ m.inH = true) →
      exec p.1 s = .next t →
      StrandFrame s t m ∧ ∃ st, t.strand? m.c m.k = some st ∧ st.pc = successor m.st.pc ∧
        st.stack = m.st.stack ∧ st.parked = m.st.parked ∧ ScalarsSame m.st.regs st.regs [o.sd] ∧
        (o.sd = 0 → st.regs.get o.sd = 0) ∧
        (p ∈ ints → st.regs.fpflags = m.st.regs.fpflags) ∧
        ∃ fl, st.regs.fpflags = m.st.regs.fpflags ||| fl

/-! ### System registers, time and power -/

/-- R86, R209, R237, R240, R241, R300, R318, R319: `sysr` writes to SD the register its number names, of the strand, its block,
its cluster and context, its die or the package; a number that names no register traps ACCESS with the number in TINFO. -/
def Obligations.SystemRegisterReads : Prop :=
  ∀ (s : State) (m : Me) (o : SOps), Ready s m (sUses o true false false false) →
    let r := m.st.regs
    let p := (s.cluster m.c).power
    let num := o.imm32.toNat % 4096
    let wsRefcal := fun (phase : Nat) => payload [(20, phase), (20, 76800), (4, 0), (12, 1200), (8, 96)]
    let reads := fun (v : Word) =>
      Host.Outcome.next (completed m false o.hdr.stop (successor m.st.pc) (m.setRegs s fun r => r.put o.sd v))
    (∀ q ∈ [(0x000, r.fpflags.zeroExtend 64), (0x001, r.fptrap.zeroExtend 64), (0x008, r.pi.zeroExtend 64),
        (0x009, r.rsc.zeroExtend 64), (0x00A, r.rfr.zeroExtend 64), (0x00B, setst m s), (0x00C, r.cdepth.zeroExtend 64),
        (0x00D, payload [(4, r.children)]), (0x010, r.tvec), (0x011, r.trpc),
        (0x012, r.tcause), (0x013, r.tinfo), (0x014, r.tstate), (0x015, r.tpi.zeroExtend 64), (0x016, r.dbg),
        (0x017, r.tnpc), (0x018, r.tmcmp), (0x019, r.tmctl), (0x020, r.gang),
        (0x021, payload [(3, m.k), (5, 0), (3, m.st.role), (5, 0), (4, m.blk.depth)]),
        (0x100, m.blk.tol.zeroExtend 64), (0x101, boolWord (serialMode s m.c)),
        (0x114, wsRefcal (s.phases[dieOf m.c]?.getD 0)),
        (0x140, payload [(3, p.req), (1, 0), (3, p.eff), (1, 0), (1, bit01 p.thr), (1, bit01 (decide (0 < p.edges))),
          (1, bit01 (decide (p.edges = 0 ∧ 2 ≤ p.halved)))]),
        (0x141, payload [(32, p.used), (16, p.infl)]),
        (0x142, payload [(16, p.th), (1, bit01 p.en), (15, 0), (17, p.cnt)])],
      num = q.1 → exec (.sysr o) s = reads q.2) ∧
    (∀ d, d < 4 → num = 0x110 + d → exec (.sysr o) s = reads (wsRefcal (s.phases[d]?.getD 0))) ∧
    (∀ i : Fin 9, num = 0x120 + i.val → exec (.sysr o) s = reads (s.counters m.c m.ctx).elig[i]) ∧
    (∀ i : Fin 12, num = 0x130 + i.val → exec (.sysr o) s = reads (s.counters m.c m.ctx).stalls[i]) ∧
    (sysRead m s num = none → exec (.sysr o) s = .next (trappedIn s m causeAccess (BitVec.ofNat 64 num) 0x2A))

/-- R86, R164: `sysw` writes a writable per-strand register, and FT_TOL of its block; a write of a read-only register or of a
value that FT_TOL does not take traps ACCESS with the number in TINFO. -/
def Obligations.SystemRegisterWrites : Prop :=
  ∀ (s : State) (m : Me) (o : SOps), Ready s m (sUses o false true false false) →
    let r := m.st.regs
    let num := o.imm32.toNat % 4096
    let v := r.get o.sa
    let done := fun (s' : State) => Host.Outcome.next (completed m false o.hdr.stop (successor m.st.pc) s')
    (∀ p ∈ [(0x000, { r with fpflags := v.truncate 5 }), (0x001, { r with fptrap := v.truncate 5 }),
        (0x010, { r with tvec := v }), (0x014, { r with tstate := (r.tstate &&& ~~~1) ||| (v &&& 1) }),
        (0x016, { r with dbg := v &&& 1 }), (0x018, { r with tmcmp := v }), (0x019, { r with tmctl := v &&& 3 }),
        (0x020, { r with gang := v &&& 0xFF })],
      num = p.1 → exec (.sysw o) s = done (m.setRegs s fun _ => p.2)) ∧
    (num = 0x100 → tolOk (v.truncate 32) = true →
      exec (.sysw o) s = done (s.modBlock m.c m.st.block fun b => { b with tol := v.truncate 32 })) ∧
    (num = 0x100 → tolOk (v.truncate 32) = false →
      exec (.sysw o) s = .next (trappedIn s m causeAccess (BitVec.ofNat 64 num) 0x2B)) ∧
    (num ∈ [0x008, 0x009, 0x00A, 0x00B, 0x00C, 0x00D, 0x011, 0x012, 0x013, 0x015, 0x017, 0x021, 0x101, 0x110, 0x120, 0x130,
        0x140, 0x141, 0x142, 0xFFF] →
      exec (.sysw o) s = .next (trappedIn s m causeAccess (BitVec.ofNat 64 num) 0x2B))

/-- R87, R188-R190, R192: `time`, `cyc`, `perf`, `thra`, `ermark`, `gang` and `nop`. That a strand which arms `thra` is taken to know
the throttle state of its cluster is the model's reading (log 52). -/
def Obligations.SystemResults : Prop :=
  ∀ (s : State) (m : Me) (o : SOps),
    let a := m.st.regs.get o.sa
    let done := fun (s' : State) => Host.Outcome.next (completed m false o.hdr.stop (successor m.st.pc) s')
    (Ready s m (sUses o true false false false) →
      exec (.timeI o) s = done (m.setRegs s fun r => r.put o.sd s.time) ∧
      exec (.cyc o) s = done (m.setRegs s fun r => r.put o.sd (s.counters m.c m.ctx).cyc)) ∧
    (Ready s m (sUses o true true false false) →
      (let l := min (min (a.toNat % 256) 7) (pcapOf s m.ctx)
       exec (.perf o) s = done (m.setRegs (m.setCounters s fun k => { k with perf := some l }) fun r =>
        r.put o.sd (BitVec.ofNat 64 l))) ∧
      exec (.gang o) s = done (m.setRegs s fun r =>
        { r.put o.sd (a &&& 0xFF &&& BitVec.ofNat 64 (slotsOf (s.cluster m.c) m.st.block)) with gang := a &&& 0xFF })) ∧
    (Ready s m (sUses o false true false false) →
      exec (.thra o) s = done (m.setRegs s fun r =>
        { r with thrArmed := a.getLsbD 0, thrDue := if a.getLsbD 0 then r.thrDue else none
                 thrTold := if r.thrArmed then r.thrTold else (s.cluster m.c).power.thr }) ∧
      exec (.ermark o) s = done (m.note s 0x0C a)) ∧
    (Ready s m {} → exec (.nop o) s = done s)

/-- R191, R193, R198, R353: `quota` completes where none of its four conditions holds and no delivery covers a moved name. Role FROM
loses its last 32·N names and role TO gains as many behind its own, or none where TO was freed; the names that join read 0 in a
context with POL.VALID and are open otherwise, and every other name, key and byte of the block is as before. Else it traps QUOTA
with the first condition that holds. `cksum` completes where its range lies in the block's scratchpad and is free: the CRC-64 of
its bytes is the late result of SD; a range that leaves the scratchpad traps ACCESS. That the open names hold values nothing fixes,
and that reason 3 is not tested for a freed TO, which gains nothing, are the model's choices (log 8). -/
def Obligations.QuotaAndChecksum : Prop :=
  ∀ (s : State) (m : Me) (o : SOps),
    let done := fun (bo : Bool) (t : State) => Host.Outcome.next (completed m bo o.hdr.stop (successor m.st.pc) t)
    (Ready s m { bo := true, ord := true } →
      let src := o.imm32.toNat % 8
      let dst := o.imm32.toNat / 16 % 8
      let n := o.imm32.toNat / 256 % 16
      let traps := fun (why : Nat) => exec (.quota o) s = .next (trappedBo s m causeQuota (BitVec.ofNat 64 why) 0x31)
      (m.blk.roles[src]? = none ∨ m.blk.roles[dst]? = none ∨ src = dst → traps 1) ∧
      ∀ f t : Role, m.blk.roles[src]? = some f → m.blk.roles[dst]? = some t → src ≠ dst →
        let size := n = 0 ∨ f.window < 32 * n
        let full := t.freed = false ∧ 256 < t.window + 32 * n
        let moved := fun (key : Nat) => ∃ i, i < 32 * n ∧ (key = colKey src (f.window - 32 * n + i) ∨
          (t.freed = false ∧ key = colKey dst (t.window + i)))
        (f.freed = true → traps 4) ∧
        (f.freed = false → size → traps 2) ∧
        (f.freed = false → ¬size → full → traps 3) ∧
        (f.freed = false → ¬size → ¬full → quotaPending s m src dst n = false → ∃ u b, exec (.quota o) s = done true u ∧
          SameBytes s u ∧ u.block? m.c m.st.block = some b ∧
          b.roles[src]? = some { f with window := f.window - 32 * n } ∧
          b.roles[dst]? = some (if t.freed then t else { t with window := t.window + 32 * n }) ∧
          (∀ i, i ≠ src → i ≠ dst → b.roles[i]? = m.blk.roles[i]?) ∧
          b = { m.blk with roles := b.roles, regs := b.regs, lostRegs := b.lostRegs, open' := b.open' } ∧
          (∀ win name j, ¬moved (colKey win name) → b.reg win name j = m.blk.reg win name j) ∧
          (t.freed = false → ∀ name j, t.window ≤ name → name < t.window + 32 * n → b.reg dst name j =
            (if s.ctxValid m.ctx then 0 else Config.freeRegister s.freeCount ((dst * 320 + name) * 4096 + j))))) ∧
    (Ready s m { sUses o true true true false with ord := true } →
      let a := (m.st.regs.get o.sa).toNat
      let len := (m.st.regs.get o.sb).toNat
      (len = 0 ∨ a + len ≤ m.blk.scratchLen → RangeFree s m true a len →
        exec (.cksum o) s = done false (lateScalar s m o.sd (some (crc64 (readBytes m.blk.scratch a len))))) ∧
      (len ≠ 0 → m.blk.scratchLen < a + len →
        exec (.cksum o) s = .next (trappedIn s m causeAccess (addrInfo 0 a) 0x33)))

/-! ### Transfers -/

/-- R88, R50, R66: branches, jumps, calls and loops, taken and not taken; a transfer to another page, and every indirect one,
checks its target's TGT bit before any effect and traps BADTARGET with the target. That `jmpr` and `ret` take the low 57 bits of
their register as the target, whatever the bits above, is the model's reading (log 28). -/
def Obligations.TransferResults : Prop :=
  ∀ (s : State) (m : Me) (o : BOps) (so : SOps),
    let r := m.st.regs
    let a := r.get o.sa
    let b := r.get o.sb
    let target := directTarget m.st.pc o.tslot o.loff
    let near := samePage m.st.pc target = true ∨ targetOk s m.c m.ctx target = true
    let far := samePage m.st.pc target = false ∧ targetOk s m.c m.ctx target = false
    let go := fun (s' : State) => Host.Outcome.next (completed m false o.hdr.stop target s')
    let stay := fun (s' : State) => Host.Outcome.next (completed m false o.hdr.stop (successor m.st.pc) s')
    let bad := fun (op : Nat) => Host.Outcome.next (trappedIn s m causeBadTarget (target.zeroExtend 64) op)
    (Ready s m (bUses o true true) → ∀ p ∈ [(BCond.eq, decide (a = b)), (.ne, decide (a ≠ b)), (.lt, a.slt b),
        (.ge, b.sle a), (.ltu, a.ult b), (.geu, b.ule a)],
      (p.2 = false → exec (.branch p.1 o) s = stay s) ∧ (p.2 = true → near → exec (.branch p.1 o) s = go s) ∧
      (p.2 = true → far → exec (.branch p.1 o) s = bad 0x40)) ∧
    (∀ p ∈ [(CntCond.z, r.rsc == 0), (.nz, r.rsc != 0), (.one, r.rsc == 1), (.ge, decide (a.toNat ≤ r.rsc.toNat))],
      Ready s m (bUses o (p.1 == .ge) false) →
      (p.2 = false → exec (.bcnt p.1 o) s = stay s) ∧ (p.2 = true → near → exec (.bcnt p.1 o) s = go s)) ∧
    (Ready s m {} → (near → exec (.jmp o) s = go s) ∧ (far → exec (.jmp o) s = bad 0x42)) ∧
    (Ready s m { dst := [63] } → near →
      exec (.call o) s = go (m.setRegs s fun r => { r.put 63 ((successor m.st.pc).zeroExtend 64) with
        cdepth := if r.cdepth = 0xFFFF then r.cdepth else r.cdepth + 1 })) ∧
    (Ready s m { src := [(o.sd, o.hdr.wfc)], dst := [o.sd] } →
      let v := r.get o.sd - 1
      let wrote := m.setRegs s fun r => r.put o.sd v
      (v = 0 → exec (.loopI o) s = stay wrote) ∧ (v ≠ 0 → near → exec (.loopI o) s = go wrote)) ∧
    (Ready s m (sUses so false true false false) →
      let x : PC := (r.get so.sa).truncate 57
      (targetOk s m.c m.ctx x = true → exec (.jmpr so) s = .next (completed m false so.hdr.stop x s)) ∧
      (targetOk s m.c m.ctx x = false → exec (.jmpr so) s = .next (trappedIn s m causeBadTarget (x.zeroExtend 64) 0x43))) ∧
    (Ready s m { src := [(63, false)] } → ¬(m.st.isCallee = true ∧ r.cdepth = 0) →
      let x : PC := (r.get 63).truncate 57
      targetOk s m.c m.ctx x = true →
      exec (.ret so) s = .next (completed m false so.hdr.stop x (m.setRegs s fun r =>
        { r with cdepth := if r.cdepth = 0 then 0 else r.cdepth - 1 })))

/-! ### Strands -/

/-- R89-R92: `spawn` outside a handler starts a child in the lowest free slot of the cluster, at the target, with the parent's
TOP as its base level and LIMIT less DEPTH as its limit; the parent parks those threads and goes on. With no slot free after
its search, and always in a handler, it runs its callee inline at the target; at most four frames nest, and the fifth traps
NESTDEPTH 1. `join`, with no child left and nothing that a child has sent outstanding, unparks the threads and counts TOP. -/
def Obligations.SpawnAndJoin : Prop :=
  ∀ (s : State) (m : Me) (o : BOps) (so : SOps) (slot : Nat), Ready s m { bo := true, ord := true } →
    let target := directTarget m.st.pc o.tslot o.loff
    (m.st.late = [] → m.st.regs.children < 15 →
      (m.inH = false → m.st.wait ≠ .noSlot → slot < 8 → s.strand? m.c slot = none →
        (∀ j, j < slot → s.strand? m.c j ≠ none) →
        ∃ t, exec (.spawn o) s = .next t ∧ (Unstepped m o.hdr.stop → ∃ child st, t.strand? m.c slot = some child ∧
          child.pc = target ∧ child.stack = Stack.init (m.unparked m.st.stack.top)
            (m.st.stack.limit - m.st.stack.depth) ∧ child.parent = some (m.k, m.st.frames.length) ∧
          (∀ n : SReg, n ≠ 63 → child.regs.get n = m.st.regs.get n) ∧ child.regs.get 63 = 0 ∧
          t.strand? m.c m.k = some st ∧ st.parked = m.st.parked ||| m.unparked m.st.stack.top ∧
          st.regs.children = m.st.regs.children + 1 ∧ st.pc = successor m.st.pc)) ∧
      ((m.inH = true ∨ m.st.wait = .noSlot) → m.st.frames.length < 4 →
        ∃ t st, exec (.spawn o) s = .next t ∧ t.strand? m.c m.k = some st ∧
          st.pc = target ∧ st.frames.length = m.st.frames.length + 1 ∧
          (∀ n : SReg, n ≠ 63 → st.regs.get n = m.st.regs.get n)) ∧
      (m.inH = false → m.st.wait = .noSlot → 4 ≤ m.st.frames.length →
        exec (.spawn o) s = .next (trappedBo s m causeNestDepth 1 0x47))) ∧
    (m.inH = false → childrenDone s m = true →
      exec (.joinI so) s = .next (completed m true so.hdr.stop (successor m.st.pc) (joined s m)))

/-- R93, R94, R88, R181: `tail` of a strand that is no callee retires with the one effect `doTail`, and of a callee traps ACCESS;
`halt`, and `ret` at CDEPTH 0 of a callee, end a strand that has no frame and waits for no child, after that same effect; they
wait as `join` does while a child has not ended or has something outstanding; in an inline callee they restore the frame, and the
strand goes on behind its `spawn` with the registers and parked threads it had there. What `doTail` leaves where no gang waits for
the strand: the latch is empty, the levels and their mark bits are gone, the strand's deliveries are discarded and hold none of its
entries, a tracker entry stands for what it has outstanding, and its role's window is freed with the role's last strand. Outside
a handler a job fault that waits for the strand traps before `tail` and `halt`. -/
def Obligations.StrandEnds : Prop :=
  ∀ (s : State) (m : Me) (o : SOps), Ready s m { bo := true, ord := true } →
    let cl := s.cluster m.c
    let mine := (m.k, m.st.frames.length)
    let gone := Host.Outcome.next (tookTurn (endStrand (noteSite (doTail s m) m o.hdr.stop) m) m)
    let held := Host.Outcome.next (s.modStrand m.c m.k fun st => { st with stall := some .sleep, waited := 0, pre := [] })
    (∀ f, m.inH = false → lowestFault m.st.jobFaults = some f →
      exec (.tail o) s = .next (trappedBo (dropFault s m f) m f.cause f.tinfo 0x49) ∧
      exec (.halt o) s = .next (trappedBo (dropFault s m f) m f.cause f.tinfo 0x4A)) ∧
    ((∀ a ∈ cl.arrivals, bitOf a.gang m.k = false) →
      let t := doTail s m
      let e := trackedOf s m
      (∃ st b, t.strand? m.c m.k = some st ∧ t.block? m.c m.st.block = some b ∧
        st = { m.st with tailed := true, regs := { m.st.regs with latch := none }, stack := { m.st.stack with levels := [0], base := 0 } } ∧
        b = { m.blk with roles := b.roles } ∧
        (roleRemains cl m.k m.st.block m.st.role = true → b = m.blk) ∧
        (roleRemains cl m.k m.st.block m.st.role = false → ∀ i : Nat, b.roles[i]? =
          (m.blk.roles[i]?).map fun r => if i = m.st.role then { r with freed := true } else r)) ∧
      (t.cluster m.c).deliveries = cl.deliveries.map (fun d => if d.slot = m.k then { d with discard := true, slot := 8 } else d) ∧
      (t.cluster m.c).tracker = (if e.empty = true then cl.tracker else cl.tracker ++ [e]) ∧
      ((∀ x ∈ cl.tracker, x.strand ≠ m.st.num) → e.ids = (m.st.out.filter Access.tracked).map Access.id ∧
        e.jobs = (ownJobs cl m.k m.st.block).map Job.id ∧ e.strand = m.st.num ∧ e.block = m.st.block ∧ e.parent = m.st.parent) ∧
      SameBytes s t ∧ (∀ j, j ≠ m.k → t.strand? m.c j = s.strand? m.c j)) ∧
    (s.cap = none → m.st.jobFaults = [] →
      ((∃ p ∈ cl.strands, p.2.parent = some mine) ∨ (∃ x ∈ cl.tracker, x.block = m.st.block ∧ x.parent = some mine) →
        exec (.halt o) s = held ∧ (m.st.isCallee = true → m.st.regs.cdepth = 0 → exec (.ret o) s = held))) ∧
    (m.st.jobFaults = [] → (trackedOf s m).empty = true ∨ cl.tracker.length < 16 →
    (m.inH = false → m.st.isCallee = false →
      exec (.tail o) s = .next (completed m true o.hdr.stop (successor m.st.pc) (doTail s m))) ∧
    (m.inH = false → m.st.isCallee = true → exec (.tail o) s = .next (trappedBo s m causeAccess 0 0x49)) ∧
    (childrenDone s m = true → m.st.frames = [] →
      (exec (.halt o) s = gone ∧ ∃ t, exec (.halt o) s = .next t ∧ t.strand? m.c m.k = none) ∧
      (m.st.parent ≠ none → m.st.regs.cdepth = 0 →
        exec (.ret o) s = gone ∧ ∃ t, exec (.ret o) s = .next t ∧ t.strand? m.c m.k = none)) ∧
    (∀ f rest, childrenDone s m = true → m.st.frames = f :: rest → ∀ i ∈ [Instr.halt o, .ret o], (i = .ret o → m.st.regs.cdepth = 0) →
      ∃ t st, exec i s = .next t ∧ t.strand? m.c m.k = some st ∧ st.pc = f.resume ∧ st.frames = rest ∧ st.regs = f.regs ∧
        st.parked = f.parked))

/-- R95, R281: `launch` of an aligned readable record, below depth 10, with nothing of the strand outstanding and the memory ports
ready, submits the
record's 256 bytes and retires with the submission's answer, 0 or 1, as a late result in SD; a misaligned address traps. The answer
is 1, and nothing is submitted, where the context has no queue with DEV, its ring is full, or the entry may not be written. Else
it is 0: the record's bytes, with DEPTH in byte 47 one more than SELF's, are written to the entry of the tail, the submission
is a child of the strand's grid, and the tail becomes one more. -/
def Obligations.LaunchSubmits : Prop :=
  ∀ (s : State) (m : Me) (o : SOps) (pa leaf : Nat), Ready s m { sUses o true true false false with ord := true } →
    let va := (m.st.regs.get o.sa).toNat
    (va % 256 = 0 → checkDirect s m.ctx .load va = .ok pa leaf → poisonedAt s pa = false → poisonedAt s (pa + 128) = false →
      launchPorts s m va = true → m.blk.depth < 10 → m.quiet s = true → owed s m.c m.k m.st.block none pa 256 = false →
      let x := submitLaunch (hubHolds s m.ctx va 256) m va (seenBytes s pa 256)
      exec (.launchI o) s = .next (completed m false o.hdr.stop (successor m.st.pc)
        (lateScalar x.1 m o.sd (some (BitVec.ofNat 64 x.2)))) ∧ (x.2 = 0 ∨ x.2 = 1) ∧
      let w := hubHolds s m.ctx va 256
      ((∀ p ∈ s.queues, p.2.ctx = m.ctx → p.2.dev = false) → x = (w, 1)) ∧
      ∀ q r, s.queues.find? (fun p => p.2.ctx == m.ctx && p.2.dev) = some (q, r) →
        let tail := ((s.bells.get? r.door).getD 0).toNat
        let entry := r.rbase + 256 * (tail % 2 ^ r.rlog)
        let bytes := (seenBytes s pa 256).take 47 ++ [BitVec.ofNat 8 (m.blk.depth + 1)] ++ (seenBytes s pa 256).drop 48
        (tail - r.head.toNat = 2 ^ r.rlog ∨ hubPa s m.ctx (.store false) entry = none → x = (w, 1)) ∧
        (tail - r.head.toNat ≠ 2 ^ r.rlog → hubPa s m.ctx (.store false) entry ≠ none → x.2 = 0 ∧
          (x.1.mem = (ringBell (hubStore w m.ctx entry 256 (leNat bytes)) r.door (tail + 1)).mem) ∧
          (r.door % 8 = 0 → x.1.bells.get? r.door = some (BitVec.ofNat 64 (tail + 1))) ∧
          (∀ g, s.grids.get? m.blk.grid = some g → (x.1.grids.get? m.blk.grid).map Grid.children = some (g.children + 1)))) ∧
    (va % 256 ≠ 0 → exec (.launchI o) s = .next (trappedIn s m causeMisalign (addrInfo 0 va) 0x4B))

/-- R243, R241, R242: a trap below 0x40 of a strand outside a handler, in a cluster where none runs, no trap waits and neither a
stopped `fsolv` nor the pair of another strand holds the population, enters the handler at TVEC with the trap record written: TRPC, TCAUSE, TINFO,
TPI, TNPC, and TSTATE with SKIP, PAIR, DEPTH and LIMIT, ASYNC and BPINH being 0; the handler's sets start from TOP at DEPTH 0
and LIMIT 15, and the latch is set aside. Scalars, FPFLAGS and memory are as before. -/
def Obligations.TrapEntry : Prop :=
  ∀ (s : State) (m : Me) (cause op : Nat) (info : Word), me? s = some m → m.inH = false → cause < 0x40 →
    s.entryFree m.c m.k = true → (∀ p ∈ (s.cluster m.c).strands, p.2.trap = none) → m.st.regs.tvec ≠ 0 →
    targetOk s m.c m.ctx (m.st.regs.tvec.truncate 57) = true →
    ∃ st, (raise s m cause info op).strand? m.c m.k = some st ∧ st.pc = m.st.regs.tvec.truncate 57 ∧
      st.regs.trpc = m.st.pc.zeroExtend 64 ∧ st.regs.tcause = BitVec.ofNat 64 cause ∧ st.regs.tinfo = info ∧
      st.regs.tpi = m.st.regs.pi ∧ st.regs.tnpc = (successor m.st.pc).zeroExtend 64 ∧ st.regs.latch = none ∧
      st.regs.tstate = payload [(1, bit01 (skipOf cause)), (1, 0), (1, bit01 (m.paired s)), (1, 0), (4, 0),
        (4, m.st.stack.depth), (4, 0), (4, m.st.stack.limit)] ∧
      (∀ n, st.regs.get n = m.st.regs.get n) ∧ st.regs.fpflags = m.st.regs.fpflags ∧
      ((raise s m cause info op).cluster m.c).handler = some m.k ∧
      ((raise s m cause info op).cluster m.c).hstack = Stack.init m.st.stack.top 15 ∧
      ((raise s m cause info op).cluster m.c).hlatch = m.st.regs.latch ∧
      SameBytes s (raise s m cause info op)

/-- R96, R242, R247, R248: `trap`, and `bkpt` at a stop site or in a handler, raise USERTRAP and BKPT with the low 16 bits of the
immediate in TINFO, and `bkpt` elsewhere retires; `tret` in a handler releases the freeze, restores PI and the latch, and continues at TNPC
with PI cleared where SKIP is set and at TRPC otherwise, and outside a handler traps ACCESS. -/
def Obligations.TrapInstructions : Prop :=
  ∀ (s : State) (m : Me) (o : SOps), Ready s m {} →
    let info : Word := o.imm32.zeroExtend 64 &&& 0xFFFF
    exec (.trapI o) s = .next (trappedIn s m causeUserTrap info 0x4C) ∧
    (o.hdr.stop = true ∨ m.inH = true → exec (.bkpt o) s = .next (trappedIn s m causeBkpt info 0x4E)) ∧
    (o.hdr.stop = false → m.inH = false → exec (.bkpt o) s = .next (completed m false false (successor m.st.pc) s)) ∧
    (m.inH = true → ∃ t st, exec (.tret o) s = .next t ∧ t.strand? m.c m.k = some st ∧
      (t.cluster m.c).handler = none ∧ st.regs.latch = (s.cluster m.c).hlatch ∧
      (m.st.regs.tstate.getLsbD 0 = true → st.pc = m.st.regs.tnpc.truncate 57 ∧ st.regs.pi = 0) ∧
      (m.st.regs.tstate.getLsbD 0 = false → st.pc = m.st.regs.trpc.truncate 57 ∧ st.regs.pi = m.st.regs.tpi) ∧
      ∀ n, st.regs.get n = m.st.regs.get n) ∧
    (m.inH = false → exec (.tret o) s = .next (trappedIn s m causeAccess 0 0x4D))

/-- R97, R98: `wait` answers 0 with no watch armed, 1 when the watch has fired, which disarms it, and 2 when its timeout has
passed; else it sleeps, with SLEEP for `.int` and EXTWAIT for `.ext`. `yield` retires and is passed over once. -/
def Obligations.WaitAndYield : Prop :=
  ∀ (s : State) (m : Me) (o : SOps),
    let n := (m.st.regs.get o.sa).toNat
    (Ready s m (sUses o true true false false) → ∀ p ∈ [(Instr.waitInt o, false, Stall.sleep), (Instr.waitExt o, true, Stall.extWait)],
      let wrote := fun (v : Word) (w : Option Watch) => Host.Outcome.next (completed m false o.hdr.stop (successor m.st.pc)
        (m.setRegs s fun r => { r.put o.sd v with watch := w }))
      (m.st.regs.watch = none → exec p.1 s = wrote 0 none) ∧
      ∀ w, m.st.regs.watch = some w →
        (w.fired = true → exec p.1 s = wrote 1 none) ∧
        (w.fired = false → m.st.wait = .timedOut → exec p.1 s = wrote 2 (some w)) ∧
        (w.fired = false → m.st.wait = .none → ∃ t st, exec p.1 s = .next t ∧ t.strand? m.c m.k = some st ∧
          st.pc = m.st.pc ∧ st.stall = some p.2.2 ∧ st.wait = .asleep p.2.1 (if n = 0 then none else some n))) ∧
    (Ready s m {} → exec (.yield o) s = .next (completed m false o.hdr.stop (successor m.st.pc)
      (s.modStrand m.c m.k fun st => { st with yielded := true })))

/-! ### Searches and sets -/

/-- R101, R102, R12, R103, R110: the thirteen predicates compare the tested field and the operand as w-bit numbers, unsigned or in
two's complement. A search forms the set of the matching threads of TOP that are not parked, pushes it, only counts
it, or combines it with TOP in place; a full stack traps SETOVF and the base level SETUNF, with OP in TINFO. -/
def Obligations.SearchResults : Prop :=
  (∀ (w : Nat) (x y : BitVec w), 0 < w → w ≤ 32 →
    ∀ p ∈ [(Cmp.eq, decide (x = y)), (.ne, decide (x ≠ y)), (.ltu, x.ult y), (.leu, x.ule y), (.gtu, y.ult x), (.geu, y.ule x),
      (.lts, x.slt y), (.les, x.sle y), (.gts, y.slt x), (.ges, y.sle x), (.bitset, decide (x &&& y = y)),
      (.bitclr, decide (x &&& y = 0)), (.mask, decide (x &&& y ≠ 0))],
      cmpHolds p.1 w x.toNat y.toNat = p.2) ∧
  ∀ (s : State) (m : Me) (o : QOps),
    let w := o.hi.toNat + 1 - o.lo.toNat
    let field := fun (v : W32) => v.toNat / 2 ^ o.lo.toNat % 2 ^ w
    let operand := if o.opd == .scalar then (m.st.regs.get o.sc).toNat else o.imm32.toNat
    let k := m.stack s
    ∀ p ∈ [
      (Instr.srch o, qUses o [qName o.va o.hdr.wfa] (o.opd == .scalar), 0x60,
        fun (t : Nat) => cmpHolds o.cmp w (field (m.v o.va.toNat t)) (operand % 2 ^ w)),
      (Instr.srchk o, { qUses o [] (o.opd == .scalar) with keys := [o.va.toNat % 8] }, 0x61,
        fun t => cmpHolds o.cmp 1 (bit01 (m.blk.key (o.va.toNat % 8) t)) (operand % 2)),
      (Instr.srchv o, qUses o [qName o.va o.hdr.wfa, qName (o.imm32.truncate 9) o.hdr.wfb] false, 0x62,
        fun t => cmpHolds o.cmp w (field (m.v o.va.toNat t)) (field (m.v (o.imm32.truncate 9 : VName).toNat t)))],
    o.lo.toNat ≤ o.hi.toNat → Ready s m p.2.1 →
      let top := filterSet m.blk.n (m.unparked k.top) p.2.2.2
      let below := filterSet m.blk.n (m.unparked k.parent) p.2.2.2
      let done := fun (s' : State) => Host.Outcome.next (completed m true o.hdr.stop (successor m.st.pc) s')
      let traps := fun (cause : Nat) (s' : State) =>
        Host.Outcome.next (trappedBo s' m cause (BitVec.ofNat 64 p.2.2.1) p.2.2.1)
      (o.sop = .push → k.depth ≠ k.limit → top ≠ 0 →
        exec p.1 s = done (m.restack s o { k with levels := top :: k.levels })) ∧
      (o.sop = .push → k.depth ≠ k.limit → top = 0 →
        exec p.1 s = done (setEvent m (m.restack s o { k with levels := 0 :: k.levels }) p.2.2.1 (k.depth + 1) false)) ∧
      (o.sop = .push → k.depth = k.limit →
        exec p.1 s = traps causeSetOvf (setEvent m s p.2.2.1 k.depth true)) ∧
      (o.sop = .peek → exec p.1 s = done (m.count s o top)) ∧
      (o.sop = .and → k.depth ≠ 0 → exec p.1 s = done (m.restack s o (k.replaceTop (top ||| (k.top &&& m.st.parked))))) ∧
      (o.sop = .or → k.depth ≠ 0 → exec p.1 s = done (m.restack s o (k.replaceTop (k.top ||| below)))) ∧
      (o.sop = .rep → k.depth ≠ 0 → exec p.1 s = done (m.restack s o (k.replaceTop (below ||| (k.top &&& m.st.parked))))) ∧
      ((o.sop = .and ∨ o.sop = .or ∨ o.sop = .rep) → k.depth = 0 → exec p.1 s = traps causeSetUnf s)

/-- R103, R104, R336: `push.all`, `pop`, `popn`, `else`, `fold`, `first` and `next`. A level that is pushed empty writes a SETEV
record; a push at LIMIT writes one and traps SETOVF, and what needs a level above the base level traps SETUNF without one. -/
def Obligations.SetResults : Prop :=
  ∀ (s : State) (m : Me) (o : QOps),
    let k := m.stack s
    let one := firstSet m.blk.n (m.unparked k.top)
    let done := fun (s' : State) => Host.Outcome.next (completed m true o.hdr.stop (successor m.st.pc) s')
    let under := fun (op : Nat) => Host.Outcome.next (trappedBo s m causeSetUnf (BitVec.ofNat 64 op) op)
    let full := fun (op : Nat) => Host.Outcome.next (trappedBo (setEvent m s op k.depth true) m causeSetOvf (BitVec.ofNat 64 op) op)
    let empty := fun (op : Nat) => done (setEvent m (m.restack s o { k with levels := 0 :: k.levels }) op (k.depth + 1) false)
    (Ready s m (belowUses o) →
      (k.depth ≠ 0 → exec (.elseSet o) s =
        done (m.restack s o (k.replaceTop ((m.unparked k.parent &&& ~~~k.top) ||| (k.top &&& m.st.parked))))) ∧
      (k.depth = 0 → exec (.elseSet o) s = under 0x66)) ∧
    (Ready s m (setUses o) →
    (k.depth ≠ k.limit → k.top = 0 → exec (.pushAll o) s = empty 0x63) ∧
    (k.depth ≠ k.limit → one = 0 → exec (.firstSet o) s = empty 0x68) ∧
    (k.depth = k.limit → exec (.pushAll o) s = full 0x63 ∧ exec (.firstSet o) s = full 0x68) ∧
    (one ≠ 0 → k.depth = 0 → exec (.nextSet o) s = under 0x69) ∧
    (k.depth ≠ k.limit → k.top ≠ 0 → exec (.pushAll o) s = done (m.restack s o { k with levels := k.top :: k.levels })) ∧
    (k.depth ≠ 0 → exec (.pop o) s = done (m.restack s o { k with levels := k.levels.drop 1 })) ∧
    (k.depth = 0 → exec (.pop o) s = under 0x64) ∧
    (o.imm32.toNat % 16 ≤ k.depth →
      exec (.popn o) s = done (m.restack s o { k with levels := k.levels.drop (o.imm32.toNat % 16) })) ∧
    (k.depth < o.imm32.toNat % 16 → exec (.popn o) s = under 0x65) ∧
    (2 ≤ k.depth → exec (.fold o) s = done (m.restack s o { k with levels := k.top :: k.levels.drop 2 })) ∧
    (k.depth < 2 → exec (.fold o) s = under 0x67) ∧
    (k.depth ≠ k.limit → one ≠ 0 → exec (.firstSet o) s = done (m.restack s o { k with levels := one :: k.levels })) ∧
    (one = 0 → exec (.nextSet o) s = done (m.count s o 0)) ∧
    (one ≠ 0 → k.depth ≠ 0 → exec (.nextSet o) s = done (m.restack s o (k.replaceTop (k.top &&& ~~~one)))))

/-- R12, R110: the counts of a set: RSC is its number of members, RFR its lowest index or 0xFFFF, Z its emptiness, and SDC and
SDF, unless s0, are empty until the same numbers arrive. -/
def Obligations.SetCounts : Prop :=
  ∀ (s : State) (m : Me) (o : QOps) (x : TSet), me? s = some m → m.blk.n ≤ 4096 →
    ∃ st, (m.count s o x).strand? m.c m.k = some st ∧
      st.regs.rsc.toNat = (members m.blk.n x).length ∧
      (st.regs.z = true ↔ ∀ t, t < m.blk.n → x.getLsbD t = false) ∧
      (∀ t, t < m.blk.n → x.getLsbD t = true → st.regs.rfr.toNat ≤ t ∧ x.getLsbD st.regs.rfr.toNat = true) ∧
      ((∀ t, t < m.blk.n → x.getLsbD t = false) → st.regs.rfr = 0xFFFF) ∧
      (o.sdc ≠ 0 → st.regs.isEmpty o.sdc = true) ∧ (o.sdf ≠ 0 → st.regs.isEmpty o.sdf = true) ∧
      (o.sdf ≠ 0 → (st.late.get? o.sdf.toNat).map Prod.snd = some (some (st.regs.rfr.zeroExtend 64))) ∧
      (o.sdc ≠ 0 → o.sdc ≠ o.sdf → (st.late.get? o.sdc.toNat).map Prod.snd = some (some (st.regs.rsc.zeroExtend 64)))

/-- R105-R108: `mark` writes a key in the threads of the base level; `gcnt` writes the 64 halfword counts and `rdset` the map
of the acting set to scratchpad; `wrset` intersects the level below with a map read from scratchpad, and writes a SETEV record where
the level becomes empty. A misaligned address traps MISALIGN, and one whose bytes leave the scratchpad ACCESS, with thread 0 and the
address in TINFO; `wrset` at the base level traps SETUNF, and that it does so before those is the model's choice (log 51). -/
def Obligations.KeyAndMapResults : Prop :=
  ∀ (s : State) (m : Me) (o : QOps),
    let k := m.stack s
    let a := (m.st.regs.get o.sc + o.imm32.signExtend 64).toNat
    let act := m.unparked k.top
    let done := fun (s' : State) => Host.Outcome.next (completed m true o.hdr.stop (successor m.st.pc) s')
    let bad := fun (i : Instr) (op n align : Nat) =>
      (a % align ≠ 0 → exec i s = .next (trappedBo s m causeMisalign (addrInfo 0 a) op)) ∧
      (a % align = 0 → m.blk.scratchLen < a + n → exec i s = .next (trappedBo s m causeAccess (addrInfo 0 a) op))
    let inSp := fun (reads : Bool) (n align : Nat) => a % align = 0 ∧ a + n ≤ m.blk.scratchLen ∧ RangeFree s m reads a n
    (Ready s m (setUses o) →
      exec (.mark o) s = done (m.count (m.putKey s (o.va.toNat % 8) (m.unparked k.baseLevel) k.top) o act)) ∧
    (Ready s m { setUses o with src := [(o.sc, o.hdr.wfb)], names := [qName o.va o.hdr.wfa] } →
      bad (.gcnt o) 0x6A 128 2 ∧ (inSp false 128 2 → exec (.gcnt o) s = done (m.count (scratchWrite s m.c m.st.block a
        ((upto 64).map fun g => leBytes 2 (((members m.blk.n act).map fun t => (m.v o.va.toNat t).toNat % 64).count g)).flatten)
        o act))) ∧
    (Ready s m { setUses o with src := [(o.sc, o.hdr.wfb)] } → bad (.rdset o) 0x6B 512 8 ∧
      (inSp false 512 8 → exec (.rdset o) s = done (m.count (scratchWrite s m.c m.st.block a (mapBytes m.blk.n act)) o act))) ∧
    (Ready s m { belowUses o with src := [(o.sc, o.hdr.wfb)] } →
      (k.depth = 0 → exec (.wrset o) s = .next (trappedBo s m causeSetUnf (BitVec.ofNat 64 0x6C) 0x6C)) ∧
      (k.depth ≠ 0 → bad (.wrset o) 0x6C 512 8) ∧
      (k.depth ≠ 0 → inSp true 512 8 →
        let top := (m.unparked k.parent &&& BitVec.ofNat 4096 (readNat m.blk.scratch a 512)) ||| (k.top &&& m.st.parked)
        (top ≠ 0 → exec (.wrset o) s = done (m.restack s o (k.replaceTop top))) ∧
        (top = 0 → exec (.wrset o) s = done (setEvent m (m.restack s o (k.replaceTop 0)) 0x6C k.depth false))))

/-! ### Lanes -/

/-- R116, R22, R52: every lane instruction writes its result to VD in the acting threads, read before any is written, and
retires. -/
def Obligations.LaneResults : Prop :=
  ∀ (s : State) (m : Me) (o : VOps),
    let a := fun (t : Nat) => m.v o.va.toNat t
    let b := fun (t : Nat) => vOpB o m t
    let c := fun (t : Nat) => m.v o.vc.toNat t
    let ar := fun (f : Int → Int → Int → Int) (x y z : W32) => arith o.ty o.sat f x y z
    let ln := fun (f : (w : Nat) → BitVec w → BitVec w → BitVec w) (x y : W32) => mapLanes o.ty (fun w p q _ => f w p q) x y 0
    let wrote := fun (f : Nat → W32) => Host.Outcome.next (completed m true o.hdr.stop (successor m.st.pc)
      (m.putV s o.vd.toNat ((m.acting s o.all).map fun t => (t, f t))))
    (Ready s m (vUses o true true true false) → ∀ p ∈ [
      (Instr.vadd o, fun t => ar (fun x y _ => x + y) (a t) (b t) 0), (.vsub o, fun t => ar (fun x y _ => x - y) (a t) (b t) 0),
      (.vmul o, fun t => ar (fun x y _ => x * y) (a t) (b t) 0),
      (.vadds o, fun t => arith o.ty true (fun x y _ => x + y) (a t) (b t) 0),
      (.vsubs o, fun t => arith o.ty true (fun x y _ => x - y) (a t) (b t) 0),
      (.vand o, fun t => a t &&& b t), (.vor o, fun t => a t ||| b t), (.vxor o, fun t => a t ^^^ b t),
      (.vbfx o, fun t => vbfxOf (o.ty == .i32) (a t) (b t))],
      exec p.1 s = wrote p.2) ∧
    (Ready s m { vUses o true true true false with keys := [o.vc.toNat % 8] } →
      exec (.vsel o) s = wrote fun t => if m.blk.key (o.vc.toNat % 8) t then a t else b t) ∧
    (Ready s m (vUses o true true true false) →
      exec (.vshl o) s = wrote (fun t => ln (fun w x y => x <<< (y.toNat % w)) (a t) (b t)) ∧
      exec (.vshr o) s = wrote (fun t => ln (fun w x y => x >>> (y.toNat % w)) (a t) (b t)) ∧
      exec (.vsra o) s = wrote (fun t => ln (fun w x y => x.sshiftRight (y.toNat % w)) (a t) (b t)) ∧
      exec (.vmin o) s = wrote (fun t => ln (fun _ x y => if x.slt y then x else y) (a t) (b t)) ∧
      exec (.vminu o) s = wrote (fun t => ln (fun _ x y => if x.ult y then x else y) (a t) (b t)) ∧
      exec (.vmax o) s = wrote (fun t => ln (fun _ x y => if x.slt y then y else x) (a t) (b t)) ∧
      exec (.vmaxu o) s = wrote (fun t => ln (fun _ x y => if x.ult y then y else x) (a t) (b t)) ∧
      exec (.vmulh o) s = wrote (fun t => ln (fun w x y =>
        BitVec.ofInt w (laneInt (laneSigned o.ty) x * laneInt (laneSigned o.ty) y / 2 ^ w)) (a t) (b t))) ∧
    (Ready s m (vUses o true true true true) →
      exec (.vmad o) s = wrote (fun t => ar (fun x y z => x * y + z) (a t) (b t) (c t)) ∧
      exec (.vbfi o) s = wrote (fun t => vbfiOf (a t) (b t) (c t))) ∧
    (Ready s m (vUses o true true false false) →
      exec (.vnot o) s = wrote (fun t => ~~~(a t)) ∧
      exec (.vabs o) s = wrote (fun t => arith o.ty o.sat (fun x _ _ => if x < 0 then -x else x) (a t) (b t) 0) ∧
      exec (.vneg o) s = wrote (fun t => arith o.ty o.sat (fun x _ _ => -x) (a t) (b t) 0) ∧
      exec (.vclz o) s = wrote (fun t => mapLanes o.ty (fun w x _ _ => BitVec.ofNat w (w - bitLen x.toNat)) (a t) (b t) 0) ∧
      exec (.vpopc o) s = wrote (fun t => mapLanes o.ty (fun w x _ _ => BitVec.ofNat w (ones w x.toNat)) (a t) (b t) 0) ∧
      exec (.vfabs o) s = wrote (fun t => a t &&& ~~~(signBits o.ty)) ∧
      exec (.vfneg o) s = wrote (fun t => a t ^^^ signBits o.ty) ∧
      exec (.vfclass o) s = wrote (fun t => BitVec.ofNat 32 (2 ^ classBit (a t)))) ∧
    (Ready s m (vUses o true false true false) → exec (.vmov o) s = wrote b)

/-- R21, R22: the lanes of an arithmetic instruction are independent: each is the exact result on the lanes as TY reads them,
wrapped, or under SAT clamped to the lane's range. -/
def Obligations.LaneArithmetic : Prop :=
  ∀ (ty : Ty) (sat : Bool) (f : Int → Int → Int → Int) (a b c : W32) (i : Nat), i < laneCount ty →
    let w := laneWidth ty
    let sg := laneSigned ty
    let v := f (laneInt sg (laneOf w a i)) (laneInt sg (laneOf w b i)) (laneInt sg (laneOf w c i))
    let lo : Int := if sg then -2 ^ (w - 1) else 0
    let hi : Int := if sg then 2 ^ (w - 1) - 1 else 2 ^ w - 1
    (sat = false → laneOf w (arith ty sat f a b c) i = BitVec.ofInt w v) ∧
    (sat = true → laneInt sg (laneOf w (arith ty sat f a b c) i) = max lo (min hi v))

/-- The frame of the instructions that write one thread register: of the block only VD in the acting threads may change, and of
the strand nothing but its PC and what a retirement leaves; memory, scratchpad, keys, accumulators and every other strand
and block are as before (R114, R115, R116). -/
def Obligations.LaneFrame : Prop :=
  ∀ (s t : State) (m : Me) (o : VOps),
    let ab := vUses o true true true false
    let a := vUses o true true false false
    let abc := vUses o true true true true
    ∀ p ∈ [(Instr.vadd o, ab), (.vsub o, ab), (.vmul o, ab), (.vmulh o, ab), (.vmad o, abc), (.vadds o, ab), (.vsubs o, ab),
        (.vand o, ab), (.vor o, ab), (.vxor o, ab), (.vnot o, a), (.vshl o, ab), (.vshr o, ab), (.vsra o, ab), (.vmin o, ab),
        (.vminu o, ab), (.vmax o, ab), (.vmaxu o, ab), (.vabs o, a), (.vneg o, a), (.vclz o, a), (.vpopc o, a),
        (.vbfx o, ab), (.vbfi o, abc), (.vsel o, { ab with keys := [o.vc.toNat % 8] }), (.vmov o, vUses o true false true false), (.vfabs o, a),
        (.vfneg o, a), (.vfclass o, a), (.vperm o, ab)],
      Ready s m p.2 → Unstepped m o.hdr.stop → exec p.1 s = .next t →
      BlockFrame s t m ∧
      (∃ st, t.strand? m.c m.k = some st ∧ st.pc = successor m.st.pc ∧ st.regs = m.st.regs ∧ st.stack = m.st.stack ∧
        st.parked = m.st.parked) ∧
      ∃ b, t.block? m.c m.st.block = some b ∧
        b = { m.blk with regs := b.regs, lostRegs := b.lostRegs } ∧
        ∀ win name j, name < 320 →
          ¬(win = windowOf m.st.role o.vd.toNat ∧ name = winName o.vd.toNat ∧ j ∈ m.acting s o.all) →
          b.reg win name j = m.blk.reg win name j

/-- R117, R124: `vcmp` writes key VD of the acting threads; `vrd` reads one thread that the strand has not parked, or 0, into a
late scalar; `vwr` writes one such thread, or nothing. -/
def Obligations.LaneMoves : Prop :=
  ∀ (s : State) (m : Me) (o : VOps),
    let done := fun (s' : State) => Host.Outcome.next (completed m true o.hdr.stop (successor m.st.pc) s')
    let index := vIndex o m.st.regs
    let first := m.st.regs.rfr.toNat
    let reach := fun (i : Nat) => i < m.blk.n ∧ m.st.parked.getLsbD i = false
    let ext := fun (v : W32) => if o.ty == .i32 then v.signExtend 64 else v.zeroExtend 64
    (Ready s m (vUses o false true true false) → ∀ p ∈ [(VRel.eq, fun (x y : W32) => decide (x = y)), (.ne, fun x y => decide (x ≠ y)),
        (.lt, fun x y => if o.ty == .i32 then x.slt y else x.ult y), (.le, fun x y => if o.ty == .i32 then x.sle y else x.ule y),
        (.gt, fun x y => if o.ty == .i32 then y.slt x else y.ult x), (.ge, fun x y => if o.ty == .i32 then y.sle x else y.ule x)],
      exec (.vcmp p.1 o) s = done (m.putKey s (o.vd.toNat % 8) (m.act s o.all)
        (filterSet m.blk.n (m.act s o.all) fun t => p.2 (m.v o.va.toNat t) (vOpB o m t)))) ∧
    (Ready s m (oneUses o m index o.va false true false [scalarOf o.vd]) →
      (reach index → exec (.vrd o) s = done (lateScalar s m (scalarOf o.vd) (some (ext (m.v o.va.toNat index))))) ∧
      (¬reach index → exec (.vrd o) s = done (lateScalar s m (scalarOf o.vd) (some 0)))) ∧
    (Ready s m (oneUses o m first o.va false false false [scalarOf o.vd]) →
      (reach first → exec (.vrdFirst o) s = done (lateScalar s m (scalarOf o.vd) (some (ext (m.v o.va.toNat first))))) ∧
      (¬reach first → exec (.vrdFirst o) s = done (lateScalar s m (scalarOf o.vd) (some 0)))) ∧
    (Ready s m (oneUses o m index o.vd true true true []) →
      (reach index → exec (.vwr o) s =
        done (m.putV s o.vd.toNat [(index, (m.st.regs.get (scalarOf o.vc)).truncate 32)])) ∧
      (¬reach index → exec (.vwr o) s = done s))

/-- R125-R128: `vred` combines A over the acting threads in ascending order into a late scalar, and gives the identity with no
acting thread; `vscan` writes the running values; `vperm` reads A of the thread that B names, 0 where it does not act;
`vlut` reads a table in scratchpad. -/
def Obligations.AcrossThreads : Prop :=
  ∀ (s : State) (m : Me) (o : VOps) (f : RedOp),
    let sg := o.ty == .i32
    let act := m.acting s o.all
    let run := redRun f sg o.ftz o.rnd none (act.map fun t => (t, m.v o.va.toNat t))
    let flagged := m.setRegs s fun r => { r with fpflags := r.fpflags ||| run.2 }
    let done := fun (s' : State) => Host.Outcome.next (completed m true o.hdr.stop (successor m.st.pc) s')
    (Ready s m { vUses o false true false false with dst := [scalarOf o.vd] } → m.fpTraps run.2 = false →
      (act = [] → exec (.vred f o) s = done (lateScalar flagged m (scalarOf o.vd) (some
        (if sg && !isFloatRed f then (redIdentity f sg).signExtend 64 else (redIdentity f sg).zeroExtend 64)))) ∧
      (∀ x, run.1.getLast? = some x → exec (.vred f o) s = done (lateScalar flagged m (scalarOf o.vd) (some
        (if sg && !isFloatRed f then x.2.signExtend 64 else x.2.zeroExtend 64))))) ∧
    (Ready s m (vUses o true true false false) → m.fpTraps run.2 = false →
      exec (.vscan f o) s = done (m.putV flagged o.vd.toNat run.1)) ∧
    (Ready s m (vUses o true true true false) →
      exec (.vperm o) s = done (m.putV s o.vd.toNat (act.map fun t =>
        (t, if (vOpB o m t).toNat ∈ act then m.v o.va.toNat (vOpB o m t).toNat else 0)))) ∧
    (Ready s m { vUses o true true false false with src := [(scalarOf o.vb, o.hdr.wfb)] } →
      let p := (m.st.regs.get (scalarOf o.vb)).toNat
      let w := lutWidth o
      p % w = 0 → (∀ t ∈ act, ∀ x ∈ lutAddrs o p (m.v o.va.toNat t), x + w ≤ m.blk.scratchLen ∧
        RangeFree s m true x w) → act ≠ [] →
      exec (.vlut o) s = done (m.putV s o.vd.toNat (act.map fun t => (t, lutValue o m.blk p (m.v o.va.toNat t)))))

/-! ### Float lanes -/

/-- R118-R123, R27, R242: a float lane instruction or conversion that raises no enabled flag sets the flags of all its acting threads
in FPFLAGS, writes its result to VD in each of them, and retires; one that raises an enabled flag sets them, writes nothing
else and traps FPEXC with the flags it raised. -/
def Obligations.FloatLaneResults : Prop :=
  ∀ (s : State) (m : Me) (o : VOps),
    let a := fun (t : Nat) => m.v o.va.toNat t
    let b := fun (t : Nat) => vOpB o m t
    let c := fun (t : Nat) => m.v o.vc.toNat t
    let x := fun (v : W32) => f32.read o.ftz v.toNat
    let h := halfFmt o.ty
    let hx := fun (v : W32) (i : Nat) => h.read o.ftz (laneOf 16 v i).toNat
    let slot := m.slotOf o
    let done := fun (i : Instr) (f : Nat → VRes) =>
      let act := m.acting s o.all
      let fl := orFlags (act.map fun t => (f t).2)
      let flagged := m.setRegs s fun r => { r with fpflags := r.fpflags ||| fl }
      (m.fpTraps fl = false → exec i s = .next (completed m true o.hdr.stop (successor m.st.pc)
        (m.putV flagged o.vd.toNat (act.map fun t => (t, (f t).1))))) ∧
      (m.fpTraps fl = true → ∃ op, exec i s = .next (trappedBo flagged m causeFpExc (fl.zeroExtend 64) op))
    (Ready s m (vUses o true true true false) →
      done (.vfadd o) (fun t => (f32.add o.rnd o.ftz (x (a t)) (x (b t))).v) ∧
      done (.vfsub o) (fun t => (f32.sub o.rnd o.ftz (x (a t)) (x (b t))).v) ∧
      done (.vfmul o) (fun t => (f32.mul o.rnd o.ftz (x (a t)) (x (b t))).v) ∧
      done (.vfdiv o) (fun t => (f32.div o.rnd o.ftz (x (a t)) (x (b t))).v) ∧
      done (.vfmin o) (fun t => (f32.minMax false o.ftz (a t).toNat (b t).toNat).v) ∧
      done (.vfmax o) (fun t => (f32.minMax true o.ftz (a t).toNat (b t).toNat).v) ∧
      done (.vhadd o) (fun t => halves fun i => h.add o.rnd o.ftz (hx (a t) i) (hx (b t) i)) ∧
      done (.vhmul o) (fun t => halves fun i => h.mul o.rnd o.ftz (hx (a t) i) (hx (b t) i)) ∧
      done (.vcvt .f16F32 o) (fun t => toHalf f16 o (a t) (b t)) ∧
      done (.vcvt .bf16F32 o) (fun t => toHalf bf16 o (a t) (b t)) ∧
      done (.vcvt .f32F16 o) (fun t => fromHalf f16 o (a t)) ∧
      done (.vcvt .f32Bf16 o) (fun t => fromHalf bf16 o (a t))) ∧
    (Ready s m (vUses o true true true true) →
      done (.vffma o) (fun t => (f32.fma o.rnd o.ftz (x (a t)) (x (b t)) (x (c t))).v) ∧
      done (.vhfma o) (fun t => halves fun i => h.fma o.rnd o.ftz (hx (a t) i) (hx (b t) i) (hx (c t) i))) ∧
    (Ready s m (vUses o true true false false) →
      done (.vfsqrt o) (fun t => (f32.sqrt o.rnd o.ftz (x (a t))).v) ∧
      done (.vfrcp o) (fun t => (rcp o.ftz o.rnd (Config.ulpChoice 0 (a t)) (x (a t))).v) ∧
      done (.vfrsq o) (fun t => (rsq o.ftz o.rnd (Config.ulpChoice 1 (a t)) (x (a t))).v) ∧
      done (.vfexp2 o) (fun t => (exp2 o.ftz o.rnd (Config.ulpChoice 2 (a t)) (x (a t))).v) ∧
      done (.vflog2 o) (fun t => (log2 o.ftz o.rnd (Config.ulpChoice 3 (a t)) (x (a t))).v) ∧
      (∀ k, done (.vcvti k o) (fun t => convertInt k o (a t))) ∧
      done (.vunpk o) (fun t => (slotDecode slot.1 ((a t).toNat / 2 ^ containerPos slot.1 (o.imm32.toNat % 32))
        (packFactor slot.1 slot.2)).v)) ∧
    (Ready s m (vUses o true true (scaleRead slot.1) false) →
      done (.vcvtEnc o) (fun t => encodeWith slot.1 slot.2 (b t) (a t)) ∧
      done (.vcvtDec o) (fun t => (slotDecode slot.1 (a t).toNat (slotFactor slot.1 slot.2 (b t))).v)) ∧
    (Ready s m { vUses o true true false false with
        names := { name := o.vd, count := 1, write := false, wf := false } :: (vUses o true true false false).names } →
      done (.vpack o) (fun t => packInto slot.1 slot.2 (a t) (m.v o.vd.toNat t) (o.imm32.toNat % 32))) ∧
    (Ready s m (vUses o false true true false) → ∀ r : VFRel,
      let rel := fun (t : Nat) => vfRelation r (x (a t)) (x (b t))
      let fl := orFlags ((m.acting s o.all).map fun t => (rel t).2)
      let flagged := m.setRegs s fun r => { r with fpflags := r.fpflags ||| fl }
      (m.fpTraps fl = false → exec (.vfcmp r o) s = .next (completed m true o.hdr.stop (successor m.st.pc)
        (m.putKey flagged (o.vd.toNat % 8) (m.act s o.all) (setOf ((m.acting s o.all).filter fun t => (rel t).1))))) ∧
      (m.fpTraps fl = true → ∃ op, exec (.vfcmp r o) s = .next (trappedBo flagged m causeFpExc (fl.zeroExtend 64) op)))

/-! ### Memory -/

/-- R134, R132, R133, R217: `ld` and `st` of acting threads whose addresses all pass send one access for each distinct location,
a load to a pending delivery of VD, a store of the highest-indexed thread's bytes, or the largest value to a doorbell; memory
is as before until an access is performed. `pref` sends nothing; while a page of its threads is to be walked it waits, with PI at
the lowest such thread (R16, R309). With no acting thread nothing is sent. -/
def Obligations.GlobalBroadcast : Prop :=
  ∀ (s : State) (m : Me) (o : MOps) (l : List (Nat × Nat × Nat)),
    let w := widBytes o.wid
    let addrs := (m.acting s false).map fun t => (t, (m.st.regs.get o.sb
      + BitVec.ofNat 64 (w * (m.v o.vx.toNat t).toNat) + o.off32.signExtend 64).toNat)
    let id := (s.cluster m.c).nextId
    let after := fun (i : Instr) (what : List SentAccess) => ∃ t, exec i s = .next t ∧
      (Unstepped m o.hdr.stop → SameBytes s t ∧ ∃ st, t.strand? m.c m.k = some st ∧ Sent m st 0 what)
    (Ready s m (mUses o [destNames o] []) →
      (addrs = [] → after (.ld o) []) ∧
      (addrs ≠ [] → entriesOf (s.cluster m.c) m.k < Config.deliveryEntries → Reached s m .load w noAlso addrs l →
        after (.ld o) ((byLocation l).map fun p => (none, p.1, w, .load, isAcq o.ord, false, .delivery id p.2)))) ∧
    (Ready s m (mUses o [dataNames o o.vd] []) →
      (addrs = [] → after (.st o) []) ∧
      (addrs ≠ [] → Reached s m (.store (w == 8)) w noAlso addrs l →
        after (.st o) ((byLocation l).map fun p =>
          let vals := p.2.map fun t => threadData m o.vd o.wid t
          (none, p.1, w, if isBell p.1 then .bell (vals.foldl max 0) else .store ((leBytes w (vals.getLastD 0)).map some), false,
            isRel o.ord || isBell p.1, .none)))) ∧
    (Ready s m (mUses o [] []) →
      (prefWalk s m w addrs = none → after (.pref o) []) ∧
      (∀ t page, prefWalk s m w addrs = some (t, page) → ∃ u st, exec (.pref o) s = .next u ∧ SameBytes s u ∧
        u.strand? m.c m.k = some st ∧ st.pc = m.st.pc ∧ st.stall = some .engine ∧ st.wait = .walk page ∧
        st.regs = { m.st.regs with pi := piOf 1 t }))

/-- R135, R132, R217: `lds`, `sts` and `atoms` of acting threads whose addresses all pass send one access to the block's
scratchpad for each distinct location: a load or a read-modify-write to a pending delivery of VD, or a store of the
highest-indexed thread's bytes. With no acting thread nothing is sent. -/
def Obligations.ScratchpadBroadcast : Prop :=
  ∀ (s : State) (m : Me) (o : MOps),
    let w := widBytes o.wid
    let id := (s.cluster m.c).nextId
    let free := entriesOf (s.cluster m.c) m.k < Config.deliveryEntries
    let here := fun (l : List (Nat × Nat)) => byLocation (l.map fun q => (q.1, q.2, 0))
    let after := fun (i : Instr) (what : List SentAccess) => ∃ t, exec i s = .next t ∧
      (Unstepped m o.hdr.stop → SameBytes s t ∧ t.block? m.c m.st.block = some m.blk ∧ ∃ st, t.strand? m.c m.k = some st ∧
        Sent m st m.st.regs.pi what)
    let addrs := mAddrs o m s
    (Ready s m (mUses o [destNames o] []) →
      (addrs = [] → after (.lds o) []) ∧
      (addrs ≠ [] → InScratch s m true w addrs → free → after (.lds o) ((here addrs).map fun p =>
        (some m.st.block, p.1, w, .load, isAcq o.ord, false, .delivery id p.2)))) ∧
    (Ready s m (mUses o [dataNames o o.vd] []) →
      (addrs = [] → after (.sts o) []) ∧
      (addrs ≠ [] → InScratch s m false w addrs → after (.sts o) ((here addrs).map fun p =>
        (some m.st.block, p.1, w, .store ((leBytes w ((p.2.map fun t => threadData m o.vd o.wid t).getLastD 0)).map some), false,
          isRel o.ord, .none)))) ∧
    (Ready s m (mUses o (atomNames o) []) → let addrs := atomAddrs o m s
      (addrs = [] → after (.atoms o) []) ∧
      (addrs ≠ [] → InScratch s m true w addrs → free → after (.atoms o) ((here addrs).map fun p =>
        (some m.st.block, p.1, w, .rmw o.aop (p.2.map (atomMember o m)), isAcq o.ord, isRel o.ord, .delivery id p.2))))

/-- R136, R139: the scalar load, store and atomic send one access, with DST 0 to global memory and with DST 1 to the block's
scratchpad, and leave SD of a load or an atomic empty until it is performed; memory and scratchpad are as before. -/
def Obligations.ScalarMemory : Prop :=
  ∀ (s : State) (m : Me) (o : MOps) (pa leaf : Nat),
    let w := widBytes o.wid
    let r := m.st.regs
    let reg : SReg := o.vd.truncate 6
    let a := (r.get o.sb + o.off32.signExtend 64).toNat
    let v := (r.get reg).toNat % 2 ^ (8 * w)
    let member := (0, (r.get o.sx).toNat % 2 ^ (8 * w), if o.aop == .cas then v else 0)
    let reach := fun (need : Need) => if o.dst then InScratch s m (decide (need ≠ .store (w == 8))) w [(0, a)]
      else Reached s m need w noAlso [(0, a)] [(0, pa, leaf)]
    let at' := if o.dst then (some m.st.block, a) else (none, pa)
    let bell := o.dst = false ∧ isBell pa = true
    let next := fun (i : Instr) (what : Act × Bool × Bool × Dest) (late : Bool) => ∃ t st, exec i s = .next t ∧
      (Unstepped m o.hdr.stop → SameBytes s t ∧ t.strand? m.c m.k = some st ∧ t.block? m.c m.st.block = some m.blk ∧
        Sent m st r.pi [(at'.1, at'.2, w, what)] ∧
        (late = true → reg ≠ 0 → st.regs.isEmpty reg = true ∧ (st.late.get? reg.toNat).map Prod.snd = some none))
    (Ready s m (accUses o [] [reg]) → reach .load → next (.sld o) (.load, isAcq o.ord, false, .scalar reg) true) ∧
    (Ready s m (accUses o [(reg, o.hdr.wfc)] []) → reach (.store (w == 8)) →
      (¬bell → next (.sst o) (.store ((leBytes w v).map some), false, isRel o.ord, .none) false) ∧
      (bell → next (.sst o) (.bell v, false, true, .none) false)) ∧
    (Ready s m (accUses o ((o.sx, o.hdr.wfc) :: if o.aop == .cas then [(reg, o.hdr.wfc)] else []) [reg]) → reach .atomic →
      next (.satom o) (.rmw o.aop [member], isAcq o.ord, isRel o.ord, .scalar reg) true)

/-- R138, R137: `atom` sends one read-modify-write for each location, with its threads' data in ascending threads; `ldsc` sends
one load for each location, which the landing of this number counts, and raises PEND of its barrier word by the bytes it loads
and leaves ARR, with DST 1 as with DST 0. -/
def Obligations.BroadcastAtomics : Prop :=
  ∀ (s : State) (m : Me) (o : MOps) (l : List (Nat × Nat × Nat)),
    let w := widBytes o.wid
    let id := (s.cluster m.c).nextId
    let free := entriesOf (s.cluster m.c) m.k < Config.deliveryEntries
    (Ready s m (mUses o (atomNames o) []) → let addrs := atomAddrs o m s
      addrs ≠ [] → free → Reached s m .atomic w noAlso addrs l → ∃ t, exec (.atom o) s = .next t ∧
        (Unstepped m o.hdr.stop → SameBytes s t ∧ ∃ st, t.strand? m.c m.k = some st ∧ Sent m st 0 ((byLocation l).map fun p =>
          (none, p.1, w, .rmw o.aop (p.2.map (atomMember o m)), isAcq o.ord, isRel o.ord, .delivery id p.2)))) ∧
    (let b := (m.st.regs.get o.sx).toNat
     let addrs := mAddrs o m s
     let lands := if o.dst then landAddrs o m s else []
     let land := if o.dst then id else id + 1
     let old := readNat m.blk.scratch b 8
     Ready s m (ldscUses o) → addrs ≠ [] → (o.dst = false → free) → barrierAt m.blk b = true →
      Memory.wf m.blk.scratch = true → Reached s m .load w (landAlso o m s) addrs l →
      rangeBusy s m b 8 = false → sentBusy s m b 8 = false → m.st.fenced 1 = false →
      (∀ q ∈ lands, rangeBusy s m q.2 w = false ∧ sentBusy s m q.2 w = false) →
      barPend old + w * addrs.length < 2 ^ 31 → ∃ t, exec (.ldsc o) s = .next t ∧
        (Unstepped m o.hdr.stop → SameBytes s t ∧ ∃ st c, t.strand? m.c m.k = some st ∧
          Sent m st 0 ((byLocation l).map fun p => (none, p.1, w, .load, false, false, .landing land p.2)) ∧
          t.block? m.c m.st.block = some c ∧ barPend (readNat c.scratch b 8) = barPend old + w * addrs.length ∧
          barArr (readNat c.scratch b 8) = barArr old))

/-! ### Synchronisation -/

/-- R142, R141: an arrival raises ARR of its barrier word, and where ARR then equals EXP with PEND 0 the phase completes: ARR
and PEND become 0 and PHASE flips. `bara` goes on; `barw` goes on once PHASE differs from its argument and else stalls with
BARRIER; `baraw` goes on when its own arrival completes the phase, or at a later attempt once it has. One arrival more than EXP
traps ILLSYNC, an address outside the barrier region ACCESS. -/
def Obligations.BarrierWords : Prop :=
  ∀ (s : State) (m : Me) (o : MOps),
    let a := (m.st.regs.get o.sb + o.off32.signExtend 64).toNat
    let w := readNat m.blk.scratch a 8
    let last := barArr w + 1 = barExp w ∧ barPend w = 0
    let clear := barrierAt m.blk a = true ∧ RangeClear s m true a 8 ∧ wordFree s m a = true
    let done := fun (s' : State) => Host.Outcome.next (completed m false o.hdr.stop (successor m.st.pc) s')
    let after := fun (t : State) => Unstepped m o.hdr.stop → Memory.wf m.blk.scratch = true →
      ∃ b, t.block? m.c m.st.block = some b ∧
        (last → readNat b.scratch a 8 = barWord (barExp w) 0 (!barPhase w) 0) ∧
        (¬last → readNat b.scratch a 8 = barWord (barExp w) (barArr w + 1) (barPhase w) (barPend w)) ∧
        ∀ x, x < a ∨ a + 8 ≤ x → readByte b.scratch x = readByte m.blk.scratch x
    (Ready s m (smUses o [] []) → clear → barArr w < barExp w → m.mayArrive s a = true →
      (∃ t st, exec (.bara o) s = .next t ∧ after t ∧ (Unstepped m o.hdr.stop → t.strand? m.c m.k = some st ∧
        st.pc = successor m.st.pc)) ∧
      (m.st.wait = .none → ∃ t st, exec (.baraw o) s = .next t ∧ after t ∧ (Unstepped m o.hdr.stop →
        t.strand? m.c m.k = some st ∧ (last → st.pc = successor m.st.pc) ∧
        (¬last → st.pc = m.st.pc ∧ st.stall = some .barrier ∧ st.wait = .arrived a (barPhase w))))) ∧
    (Ready s m (smUses o [] []) → clear → barExp w ≤ barArr w →
      exec (.bara o) s = .next (trappedIn s m causeIllSync (BitVec.ofNat 64 0xCC) 0xCC)) ∧
    (Ready s m (smUses o [] []) → barrierAt m.blk a = false →
      exec (.bara o) s = .next (trappedIn s m causeAccess (addrInfo 0 a) 0xCC)) ∧
    (∀ p, Ready s m (smUses o [] []) → m.st.wait = .arrived a p → barPhase w ≠ p → exec (.baraw o) s = done (m.touchWord s a)) ∧
    (Ready s m (smUses o [(o.sx, o.hdr.wfc)] []) → clear →
      (barPhase w ≠ (m.st.regs.get o.sx).getLsbD 0 → exec (.barw o) s = done (m.touchWord s a)) ∧
      (barPhase w = (m.st.regs.get o.sx).getLsbD 0 → exec (.barw o) s =
        .next (s.modStrand m.c m.k fun st => { st with stall := some .barrier, waited := 0, pre := [] })))

/-- R140, R143, R145: `fence` goes on once no access of its predecessor set is outstanding; one of the package or the system, or
with a class of an engine, stalls with ENGINE until then, one of a narrower scope with the classes R and W alone stands among
the strand's accesses, and one at `.strand` orders nothing where the strand has no job or engine operation under way. `gbar` goes on once the round it arrived in is
complete, and outside a cooperative grid traps ILLSYNC; `waitv` arms the strand's watch, which has fired where the word differs
already. That a narrow fence is sent is the model's reading (log 23). -/
def Obligations.FencesAndWatches : Prop :=
  ∀ (s : State) (m : Me) (o : MOps) (pa leaf : Nat),
    let w := widBytes o.wid
    let a := (m.st.regs.get o.sb + o.off32.signExtend 64).toNat
    let v := (m.st.regs.get o.sx).toNat % 2 ^ (8 * w)
    let done := fun (s' : State) => Host.Outcome.next (completed m false o.hdr.stop (successor m.st.pc) s')
    let pred := o.off32.toNat % 256
    let succ := o.off32.toNat / 256 % 256
    let plain := pred < 4 ∧ succ < 4
    let wide := o.scope = .pkg ∨ o.scope = .sys
    let waits := ∃ i, i < 8 ∧ o.off32.getLsbD i = true ∧ classPending (s.cluster m.c) m i = true
    let unsent := ∃ i, i < 2 ∧ o.off32.getLsbD i = true ∧
      classPending (s.cluster m.c) { m with st := { m.st with out := [] } } i = true
    let alone := plain ∧ o.scope = .strand ∧ (s.cluster m.c).enginesOf m.k m.st.block = false
    (Ready s m { ord := true, mem := true } →
      (¬waits ∨ succ = 0 ∨ alone → exec (.fence o) s = done s) ∧
      (waits → succ ≠ 0 → ¬alone → wide ∨ ((¬plain ∨ unsent) ∧ (o.scope = .strand ∨ s.ahead = false)) →
        exec (.fence o) s = .next (s.modStrand m.c m.k fun st => { st with stall := some .engine, waited := 0, pre := [] })) ∧
      (waits → succ ≠ 0 → ¬alone → plain → ¬wide → ¬unsent → ∃ t st, exec (.fence o) s = .next t ∧
        (Unstepped m o.hdr.stop → SameBytes s t ∧ t.strand? m.c m.k = some st ∧
          Sent m st m.st.regs.pi [(none, 0, 0, .fence pred succ, false, false, .none)]))) ∧
    (Ready s m { ord := true } →
      (gridCoop s m.blk.grid = false → exec (.gbar o) s = .next (trappedIn s m causeIllSync (BitVec.ofNat 64 0xCF) 0xCF)) ∧
      (∀ r, gridCoop s m.blk.grid = true → m.inH = false → m.st.wait = .gbar r → r < gridRound s m.blk.grid →
        exec (.gbar o) s = done s)) ∧
    (Ready s m (smUses o [(o.sx, o.hdr.wfc)] []) →
      (o.dst = true → InScratch s m true w [(0, a)] → sentBusy s m a w = false → m.st.fenced 0 = false →
        let armed : Watch := ⟨true, a, w, v, false, decide (readNat m.blk.scratch a w ≠ v)⟩
        exec (.waitv o) s = done (m.setRegs s fun r => { r with watch := some armed })) ∧
      (o.dst = false → Reached s m .load w noAlso [(0, a)] [(0, pa, leaf)] → sentMeets s m pa w = false →
        m.st.fenced 0 = false → portReady s pa = true → linkFree s m.c pa = true → ∃ t st, exec (.waitv o) s = .next t ∧ (Unstepped m o.hdr.stop → t.strand? m.c m.k = some st ∧
          st.pc = successor m.st.pc ∧ st.regs.watch = some (⟨false, pa, w, v, false, decide (seenNat s pa w ≠ v)⟩ : Watch))))

/-- R144: `lock` takes a free lock and goes on, and else joins the queue of its word, stalls with LOCK and goes on once it is
the holder; `trylock` answers 1 where it took the lock and 0 where it did not; `unlock` of the holder passes the lock to the
oldest waiter, or frees it and its word reads 0. A lock that is taken has the strand as its holder and no waiter, and its word reads
HELD with the holder's context, cluster and slot. A holder that locks again, by either, and an `unlock` by another, trap ILLSYNC. -/
def Obligations.Locks : Prop :=
  ∀ (s : State) (m : Me) (o : MOps) (pa leaf : Nat),
    let a := (m.st.regs.get o.sb + o.off32.signExtend 64).toNat
    let l := s.lockAt pa
    let mine := m.asHolder
    let done := fun (s' : State) => Host.Outcome.next (completed m false o.hdr.stop (successor m.st.pc) s')
    Reached s m .lock 8 noAlso [(0, a)] [(0, pa, leaf)] → sentMeets s m pa 8 = false → portReady s pa = true →
    m.st.fenced 0 = false → m.st.fenced 1 = false → linkFree s m.c pa = true →
    (let t := takeLock s m pa a
     t.lockAt pa = { holder := some mine, waiters := [], va := a } ∧ t.mem = s.mem ∧
        (pa % 8 = 0 → isBell pa = false → seenNat t pa 8 = 1 + 2 ^ 30 * (m.k % 8) + 2 ^ 33 * (m.c % 512) + 2 ^ 42 * (m.ctx % 64))) ∧
    (Ready s m (smUses o [] []) →
      (m.st.wait = .none → l.holder = none → l.waiters = [] → exec (.lockW o) s = done (takeLock s m pa a)) ∧
      (m.st.wait = .none → l.holder ≠ some mine → l.free = false → sliceFull s pa = false →
        ∃ t st, exec (.lockW o) s = .next t ∧ SameBytes s t ∧ t.strand? m.c m.k = some st ∧ st.pc = m.st.pc ∧
          st.stall = some .lock ∧ st.wait = .queued pa ∧ (t.lockAt pa).holder = l.holder ∧
          (t.lockAt pa).waiters = l.waiters ++ [mine]) ∧
      (m.st.wait = .none → l.holder = some mine → exec (.lockW o) s = .next (trappedIn s m causeIllSync (BitVec.ofNat 64 0xD0) 0xD0)) ∧
      (m.st.wait = .queued pa → l.holder = some mine → exec (.lockW o) s = done s) ∧
      (l.holder = some mine → m.quiet s = true → ∃ t, exec (.unlockW o) s = .next t ∧ (Unstepped m o.hdr.stop →
        (∀ h rest, l.waiters = h :: rest → (t.lockAt pa).holder = some h ∧ (t.lockAt pa).waiters = rest ∧ SameBytes s t) ∧
        (l.waiters = [] → t.locks.get? pa = none ∧ (Memory.wf s.mem = true → readNat t.mem pa 8 = 0 ∧
          ∀ x, x < pa ∨ pa + 8 ≤ x → readByte t.mem x = readByte s.mem x)))) ∧
      (l.holder ≠ some mine → exec (.unlockW o) s = .next (trappedIn s m causeIllSync (BitVec.ofNat 64 0xD1) 0xD1))) ∧
    (Ready s m (smUses o [] [mReg o]) →
      (l.holder = some mine → exec (.trylock o) s = .next (trappedIn s m causeIllSync (BitVec.ofNat 64 0xD2) 0xD2)) ∧
      (l.holder = none → l.waiters = [] → exec (.trylock o) s = done (lateScalar (takeLock s m pa a) m (mReg o) (some 1))) ∧
      (∀ h, l.holder = some h → h ≠ mine → exec (.trylock o) s = done (lateScalar s m (mReg o) (some 0))))

/-! ### Tiles -/

/-- R154, R159, R155, R20, R38, R39: `mma` completes once its tile reasons do not hold, its tile is to be had, its arrays are
clear and its task is admitted. Each element of a row that has a responder becomes the element sum of the old one, 0 for ZA,
with the products of the row of A and the column of B, in the tile its name binds, in a fresh tile for ZA, or in the name's
shadow for SP; every other element is as before. An engine run begins, the strand's latch is set or cleared by RU, and all else
of the strand, of its block and of memory is as before. -/
def Obligations.MatrixProduct : Prop :=
  ∀ (s s' : State) (m : Me) (sat : Bool) (ty : MatTy) (o : TOps) (current : Nat),
    let p := (m.st.regs.get o.sb).toNat
    let q := (m.st.regs.get o.sx).toNat
    let a := m.matA s ty o
    let u := mmaUses s ty o m
    let shadows := (s.cluster m.c).blocks.foldl (fun n p => n + p.2.shadows.length) 0
    Ready s m u → mmaReason m.blk o = none → TileClear s m (tName o) (mmaReads m.blk o a) →
    (o.sp = true → m.blk.shadows.get? (tName o) ≠ none ∨ (shadows < Config.shadowTiles ∧ FreshTile s m)) →
    (o.sp = false → o.za = true → FreshTile s m) →
    ArraysClear s m true (matReads m ty o p q a) → Admitted s m o.th current s' →
    let t := completed m u.bo o.hdr.stop (successor m.st.pc) (m.setLatch (applyMat s' m sat ty o p q a current) o a)
    exec (.mma sat ty o) s = .next t ∧
    (Unstepped m o.hdr.stop → SameBytes s t ∧ ∃ b st, t.block? m.c m.st.block = some b ∧ t.strand? m.c m.k = some st ∧
      ProductDone m.blk m.seen b sat ty o p q a ∧ st.pc = successor m.st.pc ∧
      st.regs = { m.st.regs with latch := if o.ru then some a else none } ∧ st.stack = m.st.stack ∧
      (∀ x, x ≠ m.st.block → t.block? m.c x = s.block? m.c x) ∧ ∀ j, j ≠ m.k → t.strand? m.c j = s.strand? m.c j)

/-- R156-R158: a member that arrives at its rendezvous before the last waits there with RENDEZVOUS, its operands captured. The last
member to arrive completes the gang in its own attempt, once the tiles are to be had, the arrays are clear and the gang's task is
admitted, and else an attempt of any member does so then: the arrivals go and each member's part takes place, in ascending slot:
its product is applied to its name, its latch is set or cleared, it retires, and its next broadcast is of class 2 of this
completion. An arrival whose GANG is no gang of the issuer's traps GANGBROKEN with cause 1 and its slot. -/
def Obligations.GangProduct : Prop :=
  ∀ (s s' : State) (m : Me) (sat : Bool) (ty : MatTy) (o : TOps) (members : List Arrival) (current : Nat),
    let cl := s.cluster m.c
    let g := m.st.regs.gang.toNat % 256
    let p := (m.st.regs.get o.sb).toNat
    let q := (m.st.regs.get o.sx).toNat
    let u := mmaUses s ty o m
    let mine : Arrival := { slot := m.k, gang := g, sat := sat, ty := ty, ops := o, sb := p, sx := q, latch := m.matA s ty o }
    let shadows := cl.blocks.foldl (fun n p => n + p.2.shadows.length) 0
    let whole := fun (s1 : State) (n : Me) =>
      gangComplete (s1.cluster m.c) g = some members ∧ (∀ a ∈ members, sweeping s1 n (tName a.ops) = false) ∧
      gangLacks members (n.blk.tiles - (heldTiles (s1.cluster m.c) n.blk n.st.block + drainingTiles (s1.cluster m.c) n.st.block)) = none ∧
      (∀ a ∈ members.head?, ArraysClear s1 n true (matReads n a.ty a.ops a.sb a.sx a.latch)) ∧
      AdmittedAs s1 m.c (gangTask g) (gangHeader s1 m.c members) current s'
    (me? s = some m → m.st.wait = .gang → whole s m →
      exec (.mmag sat ty o) s = .next (completeGang s' m.c g members current)) ∧
    (gangComplete cl g = some members → members.map Arrival.slot = gangSlots g ∧
      ∀ a ∈ members, a ∈ cl.arrivals ∧ a.gang = g ∧ ∃ st, cl.strands.get? a.slot = some st ∧ st.wait = .gang) ∧
    (members ≠ [] →
      let shares := gangShares s m.c members current
      shares.map Prod.fst = members ∧ (shares.map Prod.snd).foldl (· + ·) 0 = current ∧
      completeGang s m.c g members current = shares.foldl (fun t x => gangMember t m.c (cl.nextId + 1) x.2 x.1)
        (s.setCluster m.c { cl with nextId := cl.nextId + 1
                                    arrivals := cl.arrivals.filter fun a => !(a.gang == g && members.contains a) })) ∧
    (∀ (k : Me) (c number share : Nat) (a : Arrival), meAt s c a.slot = some k → Unstepped k a.ops.hdr.stop →
      (a.ops.za = false → a.ops.sp = false → k.blk.acc.get? (tName a.ops) ≠ none) →
      let t := gangMember s c number share a
      ∃ st b, t.strand? c a.slot = some st ∧ st.pc = successor k.st.pc ∧ st.wait = .none ∧
        st.gangDone = number ∧ st.regs = { k.st.regs with latch := if a.ops.ru then some a.latch else none } ∧
        t.block? c k.st.block = some b ∧ ProductDone k.blk k.seen b a.sat a.ty a.ops a.sb a.sx a.latch ∧
        SameBytes s t ∧ (t.cluster c).arrivals = (s.cluster c).arrivals ∧ ∀ j, j ≠ a.slot → t.strand? c j = s.strand? c j) ∧
    (Ready s m u → m.st.wait = .none → m.inH = false → mmaReason m.blk o = none →
      TileClear s m (tName o) (mmaReads m.blk o mine.latch) →
      (o.sp = true → m.blk.shadows.get? (tName o) ≠ none ∨ (shadows < Config.shadowTiles ∧ FreshTile s m)) →
      (o.sp = false → o.za = true → FreshTile s m) →
      ArraysClear s m true (matReads m ty o p q mine.latch) → (∀ x ∈ cl.arrivals, x.slot ≠ m.k) →
      (gangBad cl m g = true → exec (.mmag sat ty o) s = .next
        ((if u.bo then trappedBo else trappedIn) s m causeGangBroken (payload [(8, 1), (8, m.k)]) 0xE0)) ∧
      (gangBad cl m g = false →
        (∀ x ∈ cl.arrivals, (bitOf x.gang m.k || bitOf g x.slot) = true → x.gang = g ∧ x.common = mine.common) →
        let n := { m with st := { m.st with wait := .gang } }
        whole ((s.setCluster m.c { cl with arrivals := cl.arrivals ++ [mine] }).modStrand m.c m.k fun st =>
          { st with wait := .gang }) n →
        exec (.mmag sat ty o) s = .next (let t := completeGang s' m.c g members current
          if u.bo then tookTurn t m else t)) ∧
      (gangBad cl m g = false →
        (∀ x ∈ cl.arrivals, (bitOf x.gang m.k || bitOf g x.slot) = true → x.gang = g ∧ x.common = mine.common) →
        (∃ i ∈ gangSlots g, i ≠ m.k ∧ ∀ x ∈ cl.arrivals, x.slot ≠ i) →
        ∃ t st, exec (.mmag sat ty o) s = .next t ∧ SameBytes s t ∧ t.strand? m.c m.k = some st ∧ st.pc = m.st.pc ∧
          st.wait = .gang ∧ st.stall = some .rendezvous ∧ st.regs = m.st.regs ∧
          (t.cluster m.c).arrivals = cl.arrivals ++ [mine]))

/-- R160, R148, R151: `tzero` and `tld` bind their name to a fresh tile of width W, of zeros or of the rows read; `tst` writes the
64 rows of its tile; all three retire, and `tld` and `tst` leave an engine access outstanding. Without a fresh tile and with
none draining they trap ACCESS with tile reason 0x09, and `tst` of an unbound name with 0x01. -/
def Obligations.TileTransfers : Prop :=
  ∀ (s u : State) (m : Me) (o : TOps) (phys : List (Nat × Nat × Nat)),
    let name := tName o
    let w := shpWidth o.shpn
    let r := m.st.regs
    let done := fun (s' : State) => Host.Outcome.next (completed m false o.hdr.stop (successor m.st.pc) s')
    let reason := fun (n op : Nat) =>
      Host.Outcome.next (trappedIn s m causeAccess (payload [(5, name), (43, 0), (8, n)]) op)
    let none' := ¬FreshTile s m ∧ drainingTiles (s.cluster m.c) m.st.block = 0
    (Ready s m {} → sweeping s m name = false → m.blk.shadows.get? name = none →
      (FreshTile s m → exec (.tzero o) s = done (bindTile s m.c m.st.block name (zeroTile w))) ∧
      (none' → exec (.tzero o) s = reason 0x09 0xE1)) ∧
    (Ready s m (rowUses o) → sweeping s m name = false →
      (m.blk.shadows.get? name = none → FreshTile s m → RowsPass s m o .load u phys →
        exec (.tld o) s = done (addTileOp (bindTile u m.c m.st.block name { zeroTile w with
          tile := (upto 64).map fun i => rowWords w (rowBytes u m.seen o r phys i) }) m name (rowRegions o r phys) true false 0)) ∧
      (m.blk.shadows.get? name = none → none' → exec (.tld o) s = reason 0x09 0xE2) ∧
      (∀ a, m.blk.acc.get? name = some a → a.mode.width = w → TileClear s m name (some name) →
        RowsPass s m o (.store false) u phys →
        exec (.tst o) s = done (addTileOp ((upto 64).foldl (fun s i => storeRow s m o phys i
          ((upto w).flatMap fun c => leBytes 4 (tileAt a.tile i c).toNat)) u) m name (rowRegions o r phys) false true 0)) ∧
      (m.blk.acc.get? name = none → exec (.tst o) s = reason 0x01 0xE3))

/-- R161, R162, R159, R9: `tmov` and `trow` deliver a row, or its reduction, to each responder and read the tile until the engine is
done; `tscale` multiplies a plain tile's rows in place; with no responder they retire and do nothing else. `tcommit` makes the
name's shadow its tile and answers 1, or answers 0; `tdiscard` drops the shadow. -/
def Obligations.TileReads : Prop :=
  ∀ (s : State) (m : Me) (o : TOps) (sum : Bool) (a : AccName),
    let name := tName o
    let ts := m.responders s
    let rows := ts.zip (upto ts.length)
    let w := a.mode.width
    let free := entriesOf (s.cluster m.c) m.k < Config.deliveryEntries
    let done := fun (bo : Bool) (s' : State) => Host.Outcome.next (completed m bo o.hdr.stop (successor m.st.pc) s')
    let delivers := fun (count : Nat) (data : SMap (List W32)) =>
      addTileOp (takeEntry s m o.va.toNat count ts data).1 m name [] false false 0
    let plain := (∃ v, a.mode = .plain v) ∧ m.blk.shadows.get? name = none
    let movs := tileUses m s o.va w true false
    let rowsU := tileUses m s o.va 1 true false
    let scales := tileUses m s o.va 1 false o.hdr.wfa
    (m.blk.acc.get? name = some a →
      (sweeping s m name = false → ts = [] → (Ready s m movs → exec (.tmov o) s = done true s) ∧
        (Ready s m rowsU → exec (.trow sum o) s = done true s) ∧ (Ready s m scales → plain → exec (.tscale o) s = done true s)) ∧
      (TileClear s m name (some name) → ts ≠ [] →
        (Ready s m movs → free → exec (.tmov o) s = done true (delivers w
          (rows.map fun q => (q.1, (upto w).map fun c => tileAt a.tile q.2 c)))) ∧
        (Ready s m rowsU → free → exec (.trow sum o) s = done true (delivers 1
          (rows.map fun q => (q.1, [rowReduce sum ((upto w).map fun c => tileAt a.tile q.2 c)])))) ∧
        (Ready s m scales → plain → exec (.tscale o) s = done true (putTile s m.c m.st.block name
          ((rows.map fun q => (upto w).map fun c =>
            BitVec.ofNat 32 (f32.mul .rne false (f32.read false (tileAt a.tile q.2 c).toNat)
              (f32.read false (m.v o.va.toNat q.1).toNat)).bits) ++ a.tile.drop ts.length))))) ∧
    (Ready s m { dst := [o.sx] } → sweeping s m name = false →
      (∀ x, m.blk.shadows.get? name = some x →
        exec (.tcommit o) s = done false (lateScalar (commitShadow s m name x) m o.sx (some 1))) ∧
      (m.blk.shadows.get? name = none → exec (.tcommit o) s = done false (lateScalar s m o.sx (some 0)))) ∧
    (Ready s m {} → ∃ t b, exec (.tdiscard o) s = .next t ∧ (Unstepped m o.hdr.stop →
      t.block? m.c m.st.block = some b ∧ b.shadows = m.blk.shadows.del name ∧ b.acc = m.blk.acc))

/-! ### Factor tiles -/

/-- R165-R167, R170: `fupd` and `fdwn` capture their vector from the responders and begin a sweep of their name; once it has
retired they retire too with PI clear, and an aborted one with TRL then traps FT_LOSTDEF, which is skipped by `tret`. With no
responder they are admitted and retire at once with PI clear. -/
def Obligations.FactorSweeps : Prop :=
  ∀ (s s' : State) (m : Me) (o : FOps) (current : Nat),
    ∀ p ∈ [(Instr.fupd o, false), (Instr.fdwn o, true)],
    let name := fName o
    let ts := m.responders s
    let t := factorTile m.blk name
    (me? s = some m → m.st.wait = .swept none →
      exec p.1 s = .next (completed m false o.hdr.stop (successor m.st.pc) (m.clearPi s))) ∧
    (∀ info, me? s = some m → m.st.wait = .swept (some info) → s.entryFree m.c m.k = true →
      (∀ x ∈ (s.cluster m.c).strands, x.2.trap = none) → m.st.regs.tvec ≠ 0 →
      targetOk s m.c m.ctx (m.st.regs.tvec.truncate 57) = true →
      ∃ u st, exec p.1 s = .next u ∧ u.strand? m.c m.k = some st ∧ st.pc = m.st.regs.tvec.truncate 57 ∧
        st.regs.tcause = BitVec.ofNat 64 0x20 ∧ st.regs.tinfo = BitVec.ofNat 64 info ∧
        st.regs.trpc = m.st.pc.zeroExtend 64 ∧ st.regs.tnpc = (successor m.st.pc).zeroExtend 64 ∧
        st.regs.tstate.getLsbD 0 = true ∧ st.regs.pi = 0) ∧
    (Ready s m (vxUses m s o false) → m.st.wait = .none → factorReason m.blk name true = none →
      (ts = [] → sweeping s m name = false → FreshTile s m → Admitted s m o.th current s' →
        exec p.1 s = .next (completed m true o.hdr.stop (successor m.st.pc) (m.clearPi (releaseCurrent s' m.c current)))) ∧
      (ts ≠ [] → TileClear s m name (some name) → FreshTile s m → Admitted s m o.th current s' →
        ∃ u st, exec p.1 s = .next u ∧ u.strand? m.c m.k = some st ∧
        st.pc = m.st.pc ∧ st.wait = .sweep ∧ st.regs = { m.st.regs with pi := 0 } ∧
        (u.cluster m.c).sweeps = (s.cluster m.c).sweeps ++
          [⟨m.k, m.st.block, name, p.2, o.trl, (upto t.1).map fun i => (ts[i]?.map fun j => m.v o.vx.toNat j).getD 0,
            t.2, 0, current⟩]))

/-- R163, R168, R169: `finit` binds its name to a fresh factor tile of the size its scalar gives, 1 to 64, with every element zero;
another size traps ACCESS with tile reason 0x08; `fstat` answers the status word of its name as a late scalar; `fsolv`, admitted
once, solves against its factor from PI's INDEX on and writes the elements to VX of the responders, all of them or as many as the
agenda gives the attempt, after which it stands at the next one and holds the population and the tile; a zero diagonal stops it
with FT_SINGULAR and the row in TINFO after the elements before it are written; with no responder it retires with PI clear. -/
def Obligations.FactorBindsAndSolves : Prop :=
  ∀ (s s' : State) (m : Me) (o : FOps),
    let name := o.at5.toNat
    let n := (m.st.regs.get o.sn).toNat
    let done := fun (s' : State) => Host.Outcome.next (completed m false o.hdr.stop (successor m.st.pc) s')
    (sweeping s m name = false →
      (Ready s m { src := [(o.sn, o.hdr.wfb)] } → m.blk.shadows.get? name = none →
        (1 ≤ n → n ≤ 64 → FreshTile s m → exec (.finit o) s = done (bindWith s m.c m.st.block name
          { mode := .factor n, tile := [], status := 0, k := 0, last := .none })) ∧
        ((n = 0 ∨ 64 < n) → exec (.finit o) s = .next (trappedIn s m causeAccess (payload [(5, name), (43, 0), (8, 0x08)]) 0xEA))) ∧
      (Ready s m { dst := [o.sn] } →
        exec (.fstat o) s = done (lateScalar s m o.sn (some (statusWord (m.blk.acc.get? name)))))) ∧
    (let ts := m.responders s
    let t := factorTile m.blk name
    let rows := (upto t.1).drop (solveIndex m)
    let now := match s.cap with | some q => rows.take q | none => rows
    let e := solveFrom o.dir t.1 t.2 now ((upto t.1).map fun i =>
      match ts[i]? with | some j => m.v o.vx.toNat j | none => 0)
    let wrote := m.putV s' o.vx.toNat (ts.zip e.1)
    let ends := fun (t : State) => t.modStrand m.c m.k fun st => { st with regs := { st.regs with pi := 0 }, solve := none }
    let stands := fun (k : Nat) => wrote.modStrand m.c m.k fun st =>
      { st with regs := { st.regs with pi := piOf 4 k }, solve := some name }
    let admitted := if m.st.solve.isSome && !m.inH then s' = s
      else ∃ u current, Admitted s m o.th current u ∧ s' = releaseCurrent u m.c current
    Ready s m (vxUses m s o true) → factorReason m.blk name false = none →
    (ts = [] → sweeping s m name = false → admitted →
      exec (.fsolv o) s = .next (completed m true o.hdr.stop (successor m.st.pc) (ends s'))) ∧
    (ts ≠ [] → TileClear s m name (some name) → admitted →
      (e.2 = none → rows.drop now.length = [] →
        exec (.fsolv o) s = .next (completed m true o.hdr.stop (successor m.st.pc) (ends wrote))) ∧
      (∀ k rest, e.2 = none → rows.drop now.length = k :: rest → exec (.fsolv o) s = .next (tookTurn ((stands k).modStrand m.c m.k
        fun st => { st with stall := some .engine, waited := 0, pre := [] }) m)) ∧
      (∀ k, e.2 = some k → exec (.fsolv o) s = .next (trappedBo (stands k) m
        causeSingular (BitVec.ofNat 64 (if o.dir then t.1 - 1 - k else k)) 0xED))))

/-! ### Jobs and the bank -/

/-- R178-R181: `job` whose card passes joins the jobs of the cluster, not started, with edges to the jobs it overlaps, takes the
block's next ticket and writes it to SD; a card that does not pass traps ACCESS with its reason. `jwait` goes on once its ticket
is not in flight and else stalls, `jpoll` answers 1 where it is not in flight and else 0, and a ticket not yet given traps
ILLSYNC. A job fault that the strand meets traps before any of the three, the lowest ticket's first; in a handler the strand meets
those alone of which no other was taken before it (log 33). -/
def Obligations.JobTickets : Prop :=
  ∀ (s s' : State) (m : Me) (o : EOps) (current : Nat),
    let cl := s.cluster m.c
    let card := (m.st.regs.get o.sc).toNat
    let bs := readBytes m.blk.scratch card 64
    let fp := 64 * fieldAt bs 4 2
    let size := fieldAt bs 48 2 * fieldAt bs 50 2 * fieldAt bs 52 2 * 2 ^ fieldAt bs 1 1
    let admitted := if size < 65536 then AdmittedAs s m.c m.task (0, 0) current s' else Admitted s m o.th current s'
    let ranges := fun (l : List Region) => (l.filter Region.scratch).length
    let read := card % 64 = 0 ∧ card + 64 ≤ m.blk.scratchLen ∧ RangeFree s m true card 16 ∧ RangeFree s m true (card + 48) 6 ∧
      fp + 64 ≤ m.blk.scratchLen ∧ RangeFree s m true fp 64
    let meets := m.st.jobFaults.filter fun f => !(m.inH && f.later)
    let noFault := meets = []
    let verdict := cardReason m.blk o.eng o.th.toNat bs (readBytes m.blk.scratch fp 64)
    let use : Uses := { ord := true, src := [(o.sc, o.hdr.wfa)] }
    let done := fun (s' : State) => Host.Outcome.next (completed m false o.hdr.stop (successor m.st.pc) s')
    (Ready s m { use with dst := [o.sd] } → noFault →
      (∀ r w, read → verdict = .inr (r, w) → cl.jobs.length < Config.schedulerJobs →
        (cl.jobs.map fun j => ranges j.writes).foldl (· + ·) 0 + ranges w ≤ Config.rangeEntries → admitted →
        ∃ t, exec (.job o) s = .next t ∧ (Unstepped m o.hdr.stop → ∃ st b j, t.strand? m.c m.k = some st ∧
          st.pc = successor m.st.pc ∧ (o.sd ≠ 0 → st.regs.get o.sd = BitVec.ofNat 64 (m.blk.tickets + 1)) ∧
          t.block? m.c m.st.block = some b ∧ b.tickets = m.blk.tickets + 1 ∧ b.scratch = m.blk.scratch ∧
          (t.cluster m.c).jobs = cl.jobs ++ [j] ∧ j.ticket = m.blk.tickets + 1 ∧ j.eng = o.eng ∧ j.started = false ∧
          j.reads = r ∧ j.writes = w ∧ j.edges = jobEdges cl m.ctx m.st.block r w ∧ j.current = current ∧ SameBytes s t)) ∧
      (∀ why, read → verdict = .inl why →
        exec (.job o) s = .next (trappedIn s m causeAccess (payload [(48, 0), (8, why)]) 0xEF)) ∧
      exec (.jpoll o) s = (if m.blk.tickets < card then .next (trappedIn s m causeIllSync (BitVec.ofNat 64 0xF1) 0xF1)
        else done (m.setRegs s fun r => r.put o.sd (if inFlight s m card then 0 else 1)))) ∧
    (Ready s m use → noFault →
      (m.blk.tickets < card → exec (.jwait o) s = .next (trappedIn s m causeIllSync (BitVec.ofNat 64 0xF0) 0xF0)) ∧
      (card ≤ m.blk.tickets → inFlight s m card = false → exec (.jwait o) s = done s) ∧
      (card ≤ m.blk.tickets → inFlight s m card = true → exec (.jwait o) s =
        .next (s.modStrand m.c m.k fun st => { st with stall := some .engine, waited := 0, pre := [] }))) ∧
    (∀ f, lowestFault meets = some f →
      (Ready s m use → exec (.jwait o) s = .next (trappedIn (dropFault s m f) m f.cause f.tinfo 0xF0)) ∧
      (Ready s m { use with dst := [o.sd] } →
        exec (.job o) s = .next (trappedIn (dropFault s m f) m f.cause f.tinfo 0xEF) ∧
        exec (.jpoll o) s = .next (trappedIn (dropFault s m f) m f.cause f.tinfo 0xF1))) ∧
    (∀ f, lowestFault m.st.jobFaults = some f → f ∈ m.st.jobFaults ∧ ∀ g ∈ m.st.jobFaults, f.ticket ≤ g.ticket)

/-- R183-R187: `bmv` whose descriptor, pages and arrays pass begins a run that captures its descriptor, its pages and, in register
mode, the previous y of the acting threads up to ROWS; the strand's own accesses to x, the scales and y do not hold it up. With no
such thread it accesses nothing past its descriptor: it is admitted, counted and over. A weight base past the address
space traps ACCESS, one that is not aligned to 128 MISALIGN, and a descriptor that breaks R185 ACCESS with its reason. The run
makes each y of scratchpad mode at YADR and 4 times its row; once every y is made it ends, its results go to the pending
delivery of register mode, and its current is released. -/
def Obligations.BankProduct : Prop :=
  ∀ (s s' : State) (m : Me) (sat : Bool) (ty : MatTy) (o : TOps) (l : List (Nat × Nat × Nat)) (current : Nat),
    let p := (m.st.regs.get o.sb).toNat
    let d := m.bankDesc o
    let u := bankUses s ty o m
    let pages := bankPages m.blk d
    let ts := m.bankThreads s d
    let bare := d.reg = true ∧ ts = []
    let free := ∀ a ∈ bankArrays m.blk ty d, a.len ≠ 0 →
      a.addr % a.align = 0 ∧ a.addr + a.len ≤ m.blk.scratchLen ∧ rangeBusy s m a.addr a.len = false
    let stops := fun (cause : Nat) (info : Word) => exec (.bmv sat ty o) s = .next (trappedIn s m cause info 0xE9)
    (Ready s m u → p % 8 = 0 → p + 32 ≤ m.blk.scratchLen → RangeFree s m true p 32 →
      (¬bare → 2 ^ 57 ≤ d.wbase → stops causeAccess (addrInfo 0 d.wbase)) ∧
      (¬bare → d.wbase < 2 ^ 57 → d.wbase % 128 ≠ 0 → stops causeMisalign (addrInfo 0 d.wbase)) ∧
      (bare ∨ (d.wbase < 2 ^ 57 ∧ d.wbase % 128 = 0) → ∀ r, bankReason m.blk ty o d = some r →
        stops causeAccess (payload [(48, 0), (8, r)])) ∧
      (bare → bankReason m.blk ty o d = none → Admitted s m o.th current s' → exec (.bmv sat ty o) s = .next
        (completed m true o.hdr.stop (successor m.st.pc)
          (releaseCurrent (countCensus s' m.c m.ctx [(m.siteKey s' o.hdr.stop, siteCounts [])]) m.c current))) ∧
      (¬bare → d.wbase < 2 ^ 57 → d.wbase % 128 = 0 → bankReason m.blk ty o d = none → free →
        translateAll s m .load 1 noAlso ((upto pages.length).zip pages) = .ok l →
        (∀ q ∈ l, bankPageBad m.blk d q.2.1 q.2.2 = false) →
        ((d.reg = true → entriesOf (s.cluster m.c) m.k < Config.deliveryEntries) → Admitted s m o.th current s' →
          ∃ t, exec (.bmv sat ty o) s = .next t ∧ (Unstepped m o.hdr.stop → SameBytes s t ∧ ∃ st op,
            t.strand? m.c m.k = some st ∧ st.pc = successor m.st.pc ∧
            (t.cluster m.c).bankOps = (s.cluster m.c).bankOps ++ [op] ∧ op.reg = d.reg ∧
            op.desc = readBytes m.blk.scratch p 32 ∧ op.pages = (l.map fun q => q.2.1 / 4096 * 4096) ∧ op.threads = ts ∧
            op.olds = (if d.reg then (upto ts.length).zip (ts.map fun i => (m.v o.va.toNat i).toNat) else []) ∧ op.ys = [] ∧
            op.rows = (if d.reg then ts.length else d.rows) ∧ op.delivery.isSome = d.reg ∧ op.current = current)))) ∧
    (∀ (c id : Nat) (op : BankOp) (b : Block), (s.cluster c).bankOps.find? (fun x => x.id == id) = some op →
      s.block? c op.block = some b →
      (∀ i, op.open' b (.row i) = true → bankBehind (s.cluster c) op = false → op.reg = false → Memory.wf b.scratch = true →
        let a := (bankDesc op.desc).yadr + 4 * i
        owedSoft s c 9 op.block (some op.block) a 4 = false → (∀ pa ∈ op.pages, linkFree s c pa = true) → bankPoison s c b op (.row i) = none →
        ∃ t b', bankPart c id (.row i) s = some t ∧ SameBytes s t ∧ t.block? c op.block = some b' ∧
          readNat b'.scratch a 4 = (bankRow s b op i).bits % 2 ^ 32 ∧
          ∀ x, x < a ∨ a + 4 ≤ x → readByte b'.scratch x = readByte b.scratch x) ∧
      (serialMode s c = false → op.ys.length = op.rows → (∀ x ∈ op.parts b, op.open' b x = false) →
        ∃ t, exec (.bankComputeDone c id) s = .next t ∧ SameBytes s t ∧
          (t.cluster c).bankOps = (s.cluster c).bankOps.filter (fun x => x.id != id) ∧
          (t.cluster c).power.infl = (s.cluster c).power.infl - op.current ∧
          (∀ e, op.delivery = some e → op.threads.Nodup → ∀ x ∈ (s.cluster c).deliveries, x.id = e →
            ∃ x' ∈ (t.cluster c).deliveries, x'.id = e ∧ ∀ (i j : Nat) (y : Rounded), op.threads[i]? = some j →
              op.results[i]? = some y → x'.data.get? j = some [BitVec.ofNat 32 y.bits])))

/-! ### What comes back to a strand -/

/-- R18, R19, R137: a pending delivery whose data has come writes every acting thread of its registers and frees its entry; a late
result fills its register and no other; the bytes of an `ldsc` land in the scratchpad and leave PEND of its barrier word. -/
def Obligations.RepliesArrive : Prop :=
  ∀ (s : State) (c : Nat),
    let cl := s.cluster c
    (∀ id d, cl.deliveries.find? (fun x => x.id == id) = some d →
      (∀ i ∈ d.threads, ((d.values cl).get? i).isSome = true) → replyTurn s c id = true → deliveryHeld s c d = false →
      (∀ l ∈ cl.landings, l.delivery = some id → scratchPoison s c l.block l.word 8 = none) →
      ∃ t, exec (.pendingDelivery c id) s = .next t ∧ SameBytes s t ∧
        (t.cluster c).deliveries = cl.deliveries.filter (fun x => x.id != id) ∧
        (d.discard = false → d.name + d.count ≤ 320 → ∀ b, s.block? c d.block = some b →
          ∃ b', t.block? c d.block = some b' ∧ ∀ i j, i < d.count → j ∈ d.threads →
            b'.reg d.window (d.name + i) j = ((((d.values cl).get? j).getD [])[i]?).getD 0)) ∧
    (∀ slot st (reg : SReg) n v, s.strand? c slot = some st → st.late.get? reg.toNat = some (n, some v) →
      replyTurn s c n = true → replyHeld s c slot (.scalar reg) = false → ∃ st',
        exec (.lateScalarResult c slot reg) s = .next (repliesCome (s.setStrand c slot st') c slot (.scalar reg)) ∧
        st'.regs.get reg = (if reg = 0 then 0 else v) ∧ st'.regs.isEmpty reg = false ∧ st'.late.get? reg.toNat = none ∧
        st'.pc = st.pc ∧ ∀ n, n ≠ reg → st'.regs.get n = st.regs.get n ∧ st'.regs.isEmpty n = st.regs.isEmpty n ∧
          st'.late.get? n.toNat = st.late.get? n.toNat) ∧
    (∀ id l i v b, cl.landings.find? (fun x => x.id == id && x.delivery.isNone) = some l →
      l.threads.find? (landable s c l) = some i → replyTurn s c id = true → scratchPoison s c l.block l.word 8 = none →
      replyHeld s c 0 (.landing id []) = false → l.data.get? i = some v → s.block? c l.block = some b →
      Memory.wf b.scratch = true → l.word % 8 = 0 →
      let a := l.dests.getD 0 i
      let w := readNat b.scratch l.word 8
      (a + l.bytes ≤ l.word ∨ l.word + 8 ≤ a) → l.bytes ≤ barPend w →
      ∃ t b', exec (.ldscByteLanding c id) s = .next t ∧ SameBytes s t ∧ t.block? c l.block = some b' ∧
        readNat b'.scratch a l.bytes = v % 2 ^ (8 * l.bytes) ∧
        (barPend w ≠ l.bytes → readNat b'.scratch l.word 8 =
          barWord (barExp w) (barArr w) (barPhase w) (barPend w - l.bytes)) ∧
        (barPend w = l.bytes → barArr w = barExp w → l.word / 8 < b.bars →
          readNat b'.scratch l.word 8 = barWord (barExp w) 0 (!barPhase w) 0))

/-- R140, R134, R135, R138, R217-R219, R302: an access of a strand whose order is kept is performed, in memory or in a block's
scratchpad: a load brings what its location holds to its destination and changes nothing, a store writes its bytes and no
others, and a read-modify-write leaves the value of its group on what it reads, or on what it has read before. An atomic to memory whose reply has not come 12,000 cc after the
stop of its cluster leaves its scalar lost, and no longer empty. -/
def Obligations.AccessesPerformed : Prop :=
  ∀ (s : State) (c slot id : Nat) (st : Strand) (a : Access),
    s.strand? c slot = some st → st.out.find? (fun x => x.id == id) = some a →
    let apart := fun (before after : List Host.Cell) (n : Nat) => ∀ x, x < a.pa ∨ a.pa + n ≤ x → readByte after x = readByte before x
    let brings := fun (t : State) (v : Nat) => ∃ st', t.strand? c slot = some st' ∧ st'.pc = st.pc ∧
      st'.out = st.out.filter (fun x => x.id != id) ∧ ∀ r n, a.dest = .scalar r → a.dropped = false →
        st.late.get? r.toNat = some (n, none) → st'.late.get? r.toNat = some (n, some (BitVec.ofNat 64 v))
    (orderedIn ((s.cluster c).enginesOf slot st.block) st.out a = true → accessReady s c slot (.strand st) a = true → accessPoison s c a = none →
      ∃ t, exec (.accessPerformed c slot id) s = .next t ∧
        (a.space = none →
          (a.act = .load → SameBytes s t ∧ brings t (seenNat s a.pa a.bytes)) ∧
          (∀ bs, a.act = .store bs → apart s.mem t.mem bs.length ∧ (Memory.wf s.mem = true → ∀ i v, bs[i]? = some (some v) →
            lockServes s (a.pa + i) = none → readByte t.mem (a.pa + i) = v)) ∧
          (∀ op l, a.act = .rmw op l → lockServes s a.pa = none → isBell a.pa = false → (a.bytes = 4 ∨ a.bytes = 8) →
            a.pa % a.bytes = 0 → Memory.wf s.mem = true → apart s.mem t.mem a.bytes ∧
            readNat t.mem a.pa a.bytes =
              (rmwOf op a.bytes (a.read.getD (readNat s.mem a.pa a.bytes)) l).2 % 2 ^ (8 * a.bytes))) ∧
        (∀ k b, a.space = some k → s.block? c k = some b → Memory.wf b.scratch = true → SameBytes s t ∧
          ∃ b', t.block? c k = some b' ∧
          (a.act = .load → b' = b ∧ brings t (readNat b.scratch a.pa a.bytes)) ∧
          (∀ bs, a.act = .store bs → apart b.scratch b'.scratch bs.length ∧
            ∀ i v, bs[i]? = some (some v) → readByte b'.scratch (a.pa + i) = v) ∧
          (∀ op l, a.act = .rmw op l → b.bars ≤ a.pa / 8 → apart b.scratch b'.scratch a.bytes ∧
            readNat b'.scratch a.pa a.bytes =
              (rmwOf op a.bytes (a.read.getD (readNat b.scratch a.pa a.bytes)) l).2 % 2 ^ (8 * a.bytes)))) ∧
    (∀ op l r, a.space = none → a.act = .rmw op l → a.dropped = false → a.dest = .scalar r → r ≠ 0 → slot < 8 →
      (s.cluster c).stopping ≠ none → 24000 ≤ (s.time - (s.cluster c).stopAt).toNat →
      ∃ t st', exec (.atomicReplyTimeout c slot id) s = .next t ∧ SameBytes s t ∧ t.strand? c slot = some st' ∧
        st'.regs.isLost r = true ∧ st'.regs.isEmpty r = false ∧ st'.late.get? r.toNat = none ∧
        ∀ n, st'.regs.get n = st.regs.get n)

/-- R308, R145, R97, R89, R301, R243, R244: a walk, of the page that a memory instruction waits for or of the strand's code
page, ends the wait with the leaf it found in the µTLB, or marks the page absent; a watch fires where its word differs or has
differed; the timeouts of `wait` and `spawn` pass; the timer traps TIMER at a boundary with EN cleared, no skip and ASYNC, and
TNPC the successor of TRPC; the trap that is next enters its handler. -/
def Obligations.StrandEvents : Prop :=
  ∀ (s : State) (c k : Nat) (m : Me), meAt s c k = some m →
    (∀ page, (∀ a ∈ tableLines s m.ctx (page * 4096), portReady s a = true ∧ linkFree s c a = true) → walkPoison s m.ctx (page * 4096) = none →
      let ends := fun (done : Strand → Prop) (mark : Strand → Strand) =>
        (∀ base leaf, walk s m.ctx (page * 4096) = some (base, leaf) → ∃ t st, exec (.pageWalkDone c k) s = .next t ∧
          t.strand? c k = some st ∧ done st ∧ st.pc = m.st.pc ∧
          (t.cluster c).utlb.head? = some ⟨m.ctx, base, leaf⟩ ∧ SameBytes s t) ∧
        (walk s m.ctx (page * 4096) = none → exec (.pageWalkDone c k) s = .next (s.modStrand c k mark))
      (m.st.wait = .walk page → ends (fun st => st.wait = .none) fun st => { st with wait := .walkFault page }) ∧
      ((∀ x, m.st.wait ≠ .walk x) → m.st.code = .walking page →
        ends (fun st => st.code = .none) fun st => { st with code := .absent page })) ∧
    (∀ w, m.st.regs.watch = some w → w.fired = false → w.seen = true ∨ watchSees s m.blk w ≠ w.value →
      exec (.watchFire c k) s = .next (m.setRegs s fun r => { r with watch := some { w with fired := true } })) ∧
    (∀ ext, m.st.wait = .asleep ext (some 0) →
      exec (.waitTimeout c k) s = .next (s.setStrand c k { m.st with wait := .timedOut })) ∧
    (m.st.wait = .search 0 → exec (.spawnSlotTimeout c k) s = .next (s.setStrand c k { m.st with wait := .noSlot })) ∧
    (m.st.regs.tvec ≠ 0 → targetOk s c m.ctx (m.st.regs.tvec.truncate 57) = true →
      (timerDue s m = true → atBoundary s m = true → s.entryFree c k = true →
        (∀ p ∈ (s.cluster c).strands, p.2.trap = none) → ∃ t st, exec (.timerFire c k) s = .next t ∧ t.strand? c k = some st ∧
        st.pc = m.st.regs.tvec.truncate 57 ∧ st.regs.tcause = 0x30 ∧
        st.regs.tinfo = (if m.st.regs.tmctl.getLsbD 1 then 1 else 0) ∧ st.regs.trpc = m.st.pc.zeroExtend 64 ∧
        st.regs.tnpc = (successor m.st.pc).zeroExtend 64 ∧ st.regs.tstate.getLsbD 0 = false ∧ st.regs.tstate.getLsbD 1 = true ∧
        st.regs.tmctl.getLsbD 0 = false ∧ (t.cluster c).handler = some k) ∧
      (∀ x, m.st.trap = some x → (s.cluster c).stopping = none → nextTrap s c = some k →
        ∃ t st, exec (.trapEntry c k) s = .next t ∧
        t.strand? c k = some st ∧ st.pc = m.st.regs.tvec.truncate 57 ∧ st.trap = none ∧
        st.regs.tcause = BitVec.ofNat 64 x.cause ∧ st.regs.tinfo = x.info ∧ st.regs.trpc = x.pc.zeroExtend 64 ∧
        st.regs.tnpc = x.next.zeroExtend 64 ∧ (t.cluster c).handler = some k))

/-- R176, R179-R182, R155, R165-R167, R201: a job starts once nothing holds it back and reads its descriptors; it makes an
access, and the element it reads is kept, or the value of the element it writes stands in the scratchpad or in memory;
descriptors that break R174, and an access that may not be made, stop it with a fault; it retires with its edges, its current
and its tracker entry released, its completion word signalled, and its faults in the issuer's hands; the end of a tile-engine
run releases its current; a sweep commits its working tile to its name, or leaves the tile and writes the status and the row; an
entry of the tracker that holds nothing is freed, and with the last one of a block that has no strands and no fold to make its
block retires. -/
def Obligations.EngineEvents : Prop :=
  ∀ (s : State) (c : Nat),
    let cl := s.cluster c
    (∀ b ticket j blk, jobAt s c b ticket = some j → s.block? c b = some blk → jobMayRun s c j = true →
      (j.started = false → j.edges = [] → sentBefore cl j = false → jobOwed s c j (some b) (j.card + 16) 48 = false →
        scratchPoison s c b (j.card + 16) 48 = none →
        ∃ t, exec (.jobStart c b ticket) s = .next t ∧ SameBytes s t ∧ jobAt t c b ticket = some { j with
          started := true, src := readBytes blk.scratch (j.card + 16) 24, dst := readBytes blk.scratch (j.card + 40) 24 }) ∧
      (j.started = true → j.faults = [] →
        (j.malformed = true → ∃ t, exec (.jobFault c b ticket) s = .next t ∧
          jobAt t c b ticket = some { j with faults := [(causeDesc, j.card)] }) ∧
        (j.malformed = false → ∀ p a, j.access p = some a →
          (∀ f, j.next = some p → jobPlace s c blk j a = .inr f → f.1 ≠ causeEcc →
            ∃ t, exec (.jobFault c b ticket) s = .next t ∧ jobAt t c b ticket = some { j with faults := [f] }) ∧
          (∀ pa shared, jobPlace s c blk j a = .inl (pa, shared) → jobWaits s c j a pa = false →
            let v := ((j.value p.element).getD (0, 0)).2
            ∃ t, jobPart c b ticket p s = some t ∧
              (a.write = false → SameBytes s t ∧ jobAt t c b ticket = some (j.after p
                (if a.scratch then readNat blk.scratch pa a.bytes else seenNat s pa a.bytes))) ∧
              (a.write = true → jobAt t c b ticket = some (j.after p 0) ∧
                (a.scratch = false → t.mem = (storeNat s pa a.bytes v).mem) ∧
                (a.scratch = true → Memory.wf blk.scratch = true → SameBytes s t ∧ ∃ b', t.block? c b = some b' ∧
                  readNat b'.scratch pa a.bytes = v % 2 ^ (8 * a.bytes) ∧
                  ∀ x, x < pa ∨ pa + a.bytes ≤ x → readByte b'.scratch x = readByte blk.scratch x))))) ∧
      (j.started = true → serialFirst s c j = true → completionReady s c j = true → completionPoison s c j = none →
        j.faults ≠ [] ∨ (j.malformed = false ∧ j.done = true) →
        ∃ t, exec (.jobRetire c b ticket) s = .next t ∧
          (∀ x ∈ (t.cluster c).jobs, x.id ≠ j.id ∧ j.id ∉ x.edges) ∧
          (t.cluster c).power.infl = cl.power.infl - j.current ∧ (∀ x ∈ (t.cluster c).tracker, j.id ∉ x.jobs) ∧
          (∀ pa leaf, j.cmpl = 2 → checkDirect s j.ctx (.store false) j.cpl = .ok pa leaf →
            t.mem = (storeNat s pa 8 ((seenNat s pa 8 + 1) % 2 ^ 64)).mem) ∧
          (j.cmpl = 0 → SameBytes s t ∧ t.block? c b = some blk ∧
            ∀ st, s.strand? c j.slot = some st → st.block = j.block → st.tailed = false → (∀ f ∈ st.frames, f.first ≤ j.id) →
              inSpans st.spans j.id = false → ∃ st', t.strand? c j.slot = some st' ∧
                st'.jobFaults = st.jobFaults ++ j.faults.map fun f => ⟨j.ticket, f.1, f.2, false, false, false⟩))) ∧
    (∀ id x, cl.tileOps.find? (fun y => y.id == id) = some x → serialMode s c = false →
      ∃ t, exec (.tileEngineDone c id) s = .next t ∧ SameBytes s t ∧
      (t.cluster c).tileOps = cl.tileOps.filter (fun y => y.id != id) ∧
      (t.cluster c).power.infl = cl.power.infl - x.current) ∧
    (∀ k w b st, cl.stopping = none → cl.sweeps.find? (fun x => x.slot == k) = some w → s.block? c w.block = some b → s.strand? c k = some st →
      let n := (factorTile b w.name).1
      let last := if w.down then Last.fdwn else .fupd
      ∃ t st' b', exec (.factorSweepRetire c k) s = .next t ∧ SameBytes s t ∧ t.strand? c k = some st' ∧
        t.block? c w.block = some b' ∧ (t.cluster c).sweeps = cl.sweeps.filter (fun x => x.slot != k) ∧
        (t.cluster c).power.infl = cl.power.infl - w.current ∧
        (∀ tile, sweep w.down b.tol n w.work w.x w.index = .commit tile → st'.wait = .swept none ∧
          b'.acc.get? w.name = some { mode := .factor n, tile := tile, status := 0, k := n, last := last }) ∧
        (∀ row why, sweep w.down b.tol n w.work w.x w.index = .abort row why →
          st'.wait = .swept (if w.trl then some (joinFields [(8, row), (8, why), (1, bit01 w.down)]) else none) ∧
          ∀ x, b.acc.get? w.name = some x → b'.acc.get? w.name = some { x with status := why, k := row, last := last })) ∧
    (∀ id x, cl.tracker.find? (fun y => y.id == id) = some x → x.empty = true →
      ∃ t, exec (.trackerEntryFree c id) s = .next t ∧ (t.cluster c).tracker = cl.tracker.filter (fun y => y.id != id) ∧
        ((∃ p ∈ cl.strands, p.2.block = x.block) → t.block? c x.block = s.block? c x.block) ∧
        ((∀ p ∈ cl.strands, p.2.block ≠ x.block) → (∀ y ∈ cl.tracker, y.id ≠ id → y.block ≠ x.block) →
          (∀ b, s.block? c x.block = some b → b.foldDue = []) → t.block? c x.block = none))

/-! ### Power, errors and the recorder -/

/-- R315-R317, R320-R322, R364, R365: at a control-interval boundary each ceiling steps by the mean draw of its regulator,
and each cluster takes REQ, EFF = min(REQ, ceiling) and a USED that restarts at its debt; the task that has waited longest is
charged once it fits; a droop in a cluster that is not retained counts and stretches the next six edges, after which 64
halved edges follow and then the full rate; an idle cluster enters retention, and leaves it as it was or, where parity fails,
with its state lost and its contexts killed. -/
def Obligations.PowerEvents : Prop :=
  ∀ (s : State) (c : Nat),
    let cl := s.cluster c
    let p := cl.power
    let with' := fun (q : Power) => Host.Outcome.next (s.setCluster c { cl with power := q })
    (∀ draws : List Nat, s.intervals < s.time.toNat / 2400 → ∃ t, exec (.controlIntervalBoundary draws) s = .next t ∧
      SameBytes s t ∧ t.intervals = s.time.toNat / 2400 ∧
      (∀ r, r < 4 → let old := s.ceil.toList.getD r 7
        t.ceil.toList.getD r 7 = (match draws[r]? with
          | none => old
          | some w => if 776 < w then old - 1 else if w < 720 then min 7 (old + 1) else old)) ∧
      (s.clusters.get? c ≠ none → (t.cluster c).power.req = requestedLevel s c ∧
        (t.cluster c).power.eff = min (requestedLevel s c) (t.ceil.toList.getD (clusterRail s c) 7) ∧
        ((s.clusters.map Prod.fst).Nodup → (t.cluster c).power.used = p.debt))) ∧
    (∀ k e i rest, p.waiting = (k, e, i) :: rest → cl.stopping = none → p.fits e i = true →
      exec (.taskAdmit c (taskSlot k)) s =
        with' { p with debt := p.used + e - energyBudget p.eff, used := p.used + e, infl := p.infl + i, waiting := rest,
                       admitted := p.admitted ++ [(k, i)] }) ∧
    (c < 384 → p.en = true → p.atEdge = true → cl.retained = false → ∃ t, exec (.droopTrip c) s = .next t ∧ SameBytes s t ∧
      (t.cluster c).power = { p with cnt := (p.cnt + 1) % 2 ^ 17, edges := 13, halved := 0 }) ∧
    (p.edges = 1 → exec (.droopStretchEnd c) s = with' { p with edges := 0, halved := 66 }) ∧
    (p.edges = 0 → p.halved = 1 → exec (.droopHalvingEnd c) s = with' { p with halved := 0 }) ∧
    (c < 384 → cl.retained = false → cl.stopping = none → cl.quiet = true → 38400 ≤ idleEdges s c →
      exec (.retentionEntry c) s = .next (s.setCluster c { cl with retained := true, idle := 38400 })) ∧
    (cl.retained = true → clusterWakes s c cl = true →
      exec (.retentionExit c true) s = .next (s.setCluster c { cl with retained := false, idle := 0 }) ∧
      ∃ t, exec (.retentionExit c false) s = .next t ∧ (t.cluster c).strands = [] ∧ (t.cluster c).blocks = [] ∧
        t.ready.getLsbD c = false ∧ ∀ x ∈ cl.residents, t.ctxLive x = false)

/-- R360-R363, R366, R367, R358: a kill removes every block, queue and grid of its context and leaves it not live; after the horizon
of a kill none of its accesses is left; the watchdog kills a context of which a strand has waited WDOG ticks and freezes the
hub; a corrected error counts in CORR and changes nothing else, an uncorrectable one poisons its granule, and of a held capsule
spoils the digest; an uncontained error
stops launches, clears READY but for recorder, signer and mailbox, and makes every live context due; a notice writes its
fields and then SEQ plus 1 to its 32 bytes and no others. -/
def Obligations.Containment : Prop :=
  ∀ (s : State),
    (∀ ctx, ctx ∈ s.killDue → ∃ t, exec (.contextKill ctx) s = .next t ∧ t.killDue = s.killDue.filter (fun x => x != ctx) ∧
      t.ctxLive ctx = false ∧ (s.ctxLive ctx = true → (∀ p ∈ t.clusters, p.2.blocksOf ctx = []) ∧
        (∀ p ∈ t.queues, p.2.ctx ≠ ctx) ∧ ∀ p ∈ t.grids, p.2.rec'.ctx ≠ ctx)) ∧
    (∀ ctx k, s.kills.find? (fun k => k.ctx == ctx && !k.horizon) = some k → (ctx = 255 → s.killDue = []) →
      (s.fnote = 0 → exec (.killHorizon ctx) s = .next { s with kills := s.kills.filter fun x => x != k }) ∧
      (s.fnote ≠ 0 → exec (.killHorizon ctx) s = .next { s with kills := s.kills.map fun x =>
        if x = k then { k with horizon := true, out := [] } else x })) ∧
    (∀ c k m, meAt s c k = some m → watchdogTicks s m.ctx ≤ m.st.age → ∃ t, exec (.watchdog c k) s = .next t ∧
      t.ctxLive m.ctx = false ∧ (s.ready.getLsbD 537 = true → t.freeze ≠ none ∧ (t.vault 388).frozen = true)) ∧
    (∀ site, errorSiteExists s site = true →
      (∃ t, exec (.softError site true) s = .next t ∧ SameBytes s t ∧ t.poison = s.poison ∧
        t.errsum.toNat % 2 ^ 32 = (s.errsum.toNat + 1) % 2 ^ 32 ∧ t.errsum.toNat / 2 ^ 32 = s.errsum.toNat / 2 ^ 32) ∧
      ((∀ u i, site ≠ .vault u i) → (∀ h w, site ≠ .strongroom h w ∧ site ≠ .nor h w) → ∃ t, exec (.softError site false) s = .next t ∧
        SameBytes s t ∧ site ∈ t.poison ∧ t.clusters = s.clusters) ∧
      (∀ h w x, site = .strongroom h w → s.capsule = some x → x.handle = h → ∃ t d, exec (.softError site false) s = .next t ∧
        SameBytes s t ∧ t.clusters = s.clusters ∧ t.capsule = some { x with digest := d } ∧ d ≠ x.digest)) ∧
    (∀ unit, unit < 389 → ∃ t, exec (.uncontainedHardwareError unit) s = .next t ∧ SameBytes s t ∧ t.dead = true ∧
      (∀ i, t.ready.getLsbD i = (s.ready.getLsbD i && (i == 537 || i == 538 || i == 539))) ∧
      t.killDue = (s.ctxs.filter fun p => !p.2.killed).map Prod.fst) ∧
    (∀ k, s.kills.find? Kill.horizon = some k → s.fnote ≠ 0 → s.serialNo.length = 16 → Memory.wf s.mem = true →
      ∃ t, exec .faultNotice s = .next t ∧ t.kills = s.kills.filter (fun x => x != k) ∧
        readNat t.mem (s.fnote + 16) 4 = k.capno % 2 ^ 32 ∧ readNat t.mem (s.fnote + 20) 1 = k.cause % 256 ∧
        readNat t.mem (s.fnote + 21) 1 = k.ctx % 256 ∧
        readNat t.mem (s.fnote + 24) 8 = (readNat s.mem (s.fnote + 24) 8 + 1) % 2 ^ 64 ∧
        ∀ a, a < s.fnote ∨ s.fnote + 32 ≤ a → readByte t.mem a = readByte s.mem a)

/-- R335, R337, R339-R343, R347, R348, R351-R356: the freeze of CAPFREEZE stops the hub's vault and takes a capsule number; the
token stops a vault; a GAP record reports the lowest dropped type and clears its count; EPOCH goes to every vault when
TIME[31:0] has passed 0; once every vault has stopped and the signer is ready the capsule is held, full or as a summary, and all
vaults thaw; its summary goes to NOR, which keeps 8; a barrier's fold counts, and logs its CRC where the context has a log; a
merge empties the census tables of its context. The last fold of a block without strands and tracker entries retires it. A CAPFREEZE during a freeze only adds a secondary fault to it (R350). -/
def Obligations.RecorderEvents : Prop :=
  ∀ (s : State),
    (s.ready.getLsbD 537 = true →
      (s.freeze = none → ∃ t, exec (.freezeVaults 388 0x82 0) s = .next t ∧ SameBytes s t ∧
        (t.vault 388).frozen = true ∧ t.freeze ≠ none ∧ t.clusters = s.clusters ∧ t.ctxs = s.ctxs ∧
        t.capno = (s.capno + 1) % 2 ^ 32) ∧
      (∀ f, s.freeze = some f → exec (.freezeVaults 388 0x82 0) s = .next { s with
        freeze := some (f.second { cause := 0x82, unit := 388, tlo := s.time.toNat % 2 ^ 32 }) })) ∧
    (∀ u f, s.freeze = some f → u < 389 → vaultDone s f u = false → s.ready.getLsbD 537 = true → f.starts ≠ [] →
      ∃ t, exec (.freezeToken u) s = .next t ∧
      SameBytes s t ∧ (t.vault u).frozen = true ∧ ∀ w, w ≠ u → t.vault w = s.vault w) ∧
    (∀ u ty n, (s.vault u).gapDue = some (ty, n) → (s.vault u).frozen = false → s.ready.getLsbD 537 = true →
      (s.vault u).gap < s.time.toNat / 128 → (s.vault u).port ≠ some s.time → ∃ t, exec (.gapRecord u) s = .next t ∧ (t.vault u).dropped.get? ty = none ∧
        (t.vault u).slots.get? (s.vault u).wptr = some ⟨s.time.toNat % 2 ^ 32, 0x3C, 0, 0, 0, payload [(32, n), (6, ty)]⟩) ∧
    (s.epochs < s.time.toNat / 2 ^ 32 → ∃ t, exec .epochRecord s = .next t ∧ t.epochs = s.time.toNat / 2 ^ 32 ∧
      ∀ u, u < 389 → s.ready.getLsbD 537 = true → (s.vault u).frozen = false → (s.vault u).queue = [] →
        (s.vault u).port ≠ some s.time → (t.vault u).slots.get? (s.vault u).wptr =
          some ⟨s.time.toNat % 2 ^ 32, 0x38, 0, 0, 0, payload [(32, s.time.toNat / 2 ^ 32)]⟩) ∧
    (∀ f, s.freeze = some f → s.ready.getLsbD 538 = true → (∀ u, u < 389 → vaultDone s f u = true) →
      ∃ t x, exec .capsuleAssembled s = .next t ∧ t.freeze = none ∧ (∀ u, u < 389 → (t.vault u).frozen = false) ∧
        x.fr = f ∧ t.norDue = s.norDue ++ [x] ∧ (s.capsule = none → t.capsule = some x ∧ x.summary = false) ∧
        (∀ y, s.capsule = some y → t.capsule = some y ∧ x.summary = true ∧ t.summaries.getLast? = some x)) ∧
    (∀ x rest, s.norDue = x :: rest → ∃ t, exec .capsuleNorSummary s = .next t ∧ t.norDue = rest ∧ t.norErr = s.errsum ∧
      t.nor.getLast? = some (some (x.norBytes s.serialNo)) ∧ (s.nor.length ≤ 8 → t.nor.length ≤ 8) ∧
      (s.norOpen = false → t.nor.dropLast = s.nor.drop (s.nor.length + 1 - 8))) ∧
    (∀ c b blk slot ph rest, s.block? c b = some blk → blk.foldDue = (slot, ph) :: rest →
      (∀ d ∈ (s.cluster c).deliveries, d.block ≠ b ∨ d.discard = true) → (s.cluster c).stopping = none → blockPoison s c b blk = none →
      let stays := rest ≠ [] ∨ (∃ p ∈ (s.cluster c).strands, p.2.block = b) ∨ ∃ x ∈ (s.cluster c).tracker, x.block = b
      ∃ t, exec (.barrierFold c b) s = .next t ∧
        (stays → t.block? c b = some { blk with foldDue := rest, folds := blk.folds + 1 }) ∧
        (¬stays → t.block? c b = none) ∧
        (stays → (s.ctx? blk.ctx).bind Context.log = none → SameBytes s t) ∧
        (∀ base n, stays → (s.ctx? blk.ctx).bind Context.log = some (base, n) → Memory.wf s.mem = true →
          let i := readNat s.mem base 8
          readNat t.mem base 8 = (i + 1) % 2 ^ 64 ∧
          readNat t.mem (base + 64 + 32 * (i % n) + 8) 8 = (crc64 (foldBytes blk)).toNat)) ∧
    (∀ ctx x, s.ctx? ctx = some x → x.merges < s.time.toNat / 2400000 → ∃ t, exec (.censusMerge ctx) s = .next t ∧
      t.ctx? ctx = some { x with merges := s.time.toNat / 2400000 } ∧ ∀ p ∈ t.clusters, ∀ e ∈ p.2.census, e.ctx ≠ ctx)

/-- R296-R299: a pre-emption stops every cluster with a block of its context, now: its shadows go, and a strand with a sweep
under way has PI at a row; once all that the image waits for has finished the context leaves those clusters, which go on,
with one image for each in order and their number in the save area's header; an image is restored, the oldest first, into a
cluster of the context's partition that has room, each strand in its slot with its registers, PC and sets. -/
def Obligations.ContextMoves : Prop :=
  ∀ (s : State) (ctx : Nat),
    (∀ rows, clustersOf s ctx ≠ [] → (∀ c ∈ clustersOf s ctx, (s.cluster c).stopping = none) →
      ∃ t, exec (.preemptRequest ctx rows) s = .next t ∧ SameBytes s t ∧ ∀ c ∈ clustersOf s ctx,
        (t.cluster c).stopping = some ctx ∧ (t.cluster c).stopAt = s.time ∧
        (t.cluster c).blocks = (s.cluster c).blocks.map (fun p => (p.1, { p.2 with shadows := [] })) ∧
        ∀ k st, s.strand? c k = some st → ∃ st', t.strand? c k = some st' ∧ st'.pc = st.pc ∧
          ((∀ w ∈ (s.cluster c).sweeps, w.slot ≠ k) → st'.regs = st.regs) ∧
          ((∃ w ∈ (s.cluster c).sweeps, w.slot = k) → ∃ kind index, st'.regs = { st.regs with pi := piOf kind index } ∧
            (kind = 2 ∨ kind = 3))) ∧
    (∀ x, let cs := (s.clusters.filter fun p => p.2.stopping == some ctx).map Prod.fst
      s.ctx? ctx = some x → cs ≠ [] → (s.clusters.map Prod.fst).Nodup →
      (∀ c ∈ cs, (s.cluster c).retained = false ∧ drained s c ctx = true) → ∃ t y,
        exec (.preemptImageCaptured ctx) s = .next t ∧ t.ctx? ctx = some y ∧ y.desc = x.desc ∧
        y.images.map Image.cluster = x.images.map Image.cluster ++ cs ∧
        (∀ c ∈ cs, (t.cluster c).stopping = none ∧ (t.cluster c).blocksOf ctx = []) ∧
        (Memory.wf s.mem = true → readNat t.mem x.desc.save.toNat 4 = y.images.length % 2 ^ 32 ∧
          ∀ i c, i < 384 → (y.images.map Image.cluster)[i]? = some c →
            readNat t.mem (x.desc.save.toNat + 8 + 8 * i) 8 = c % 2 ^ 64)) ∧
    (∀ x i rest c, s.ctx? ctx = some x → x.images = i :: rest →
      (walkClusters s (ctxPart s ctx)).find? (fun c => s.ready.getLsbD c && i.fitsIn (s.cluster c)) = some c → (i.strands.map Prod.fst).Nodup →
      ∃ t, exec (.contextRestore ctx) s = .next t ∧ SameBytes s t ∧ t.ctx? ctx = some { x with images := rest } ∧
        ∀ k st, i.strands.get? k = some st → ∃ st', t.strand? c k = some st' ∧ st'.pc = st.pc ∧ st'.regs = st.regs ∧
          st'.stack = st.stack ∧ st'.parked = st.parked ∧ st'.block = st.block + (s.cluster c).nextBlock)

/-! ### Queues and grids -/

/-- R278, R280, R281: every operation of the queue bytecode, for a packet that has executed fewer than 256 steps: register
operations, transfers to the index plus IMM, loops, window loads, stores and signals, waits, launches, `advance` and `fence`; an
operand outside its window ends the packet with WINDOW, and the 257th step with status 1. That `advance` ends its packet with
operation index 0 is the model's reading (log 37). -/
def Obligations.QueueOperations : Prop :=
  ∀ (s : State) (q : Nat) (r : Queue) (p : Packet) (o : QeOps),
    s.curQ = some q → s.queues.get? q = some r → r.packet = some p →
    let p' := if p.counted then p else { p with steps := p.steps + 1 }
    let go := fun (s' : State) (p'' : Packet) (next : Nat) =>
      Host.Outcome.next (putPacket s' q (({ p'' with counted := false, parked := false } : Packet).follow next))
    let waits := fun (s' : State) => Host.Outcome.next (putPacket s' q { p' with counted := true, parked := true })
    let hs := fun (va : Nat) => hubHolds s r.ctx va 8
    let i := p.index
    let a := p.get o.a
    let b := p.get o.b
    let imm : Word := o.imm.signExtend 64
    let all := [Instr.qeLdp o, .qeLdw o, .qeStw o, .qeLdi o, .qeMov o, .qeAdd o, .qeAddi o, .qeSub o, .qeAnd o, .qeOr o, .qeShl o,
      .qeShr o, .qeBeq o, .qeBne o, .qeBltu o, .qeBgeu o, .qeJmpf o, .qeLoop o, .qeWaitsig o, .qeLaunch o, .qeLaunchp o,
      .qeSignal o, .qeAdvance o, .qeFence o]
    (p.counted = false → 256 ≤ p.steps → ∀ x ∈ all, exec x s = .next (endPacket s q 1 i)) ∧
    ((p.counted = true ∨ p.steps < 256) →
      (∀ x ∈ [(Instr.qeLdp o, BitVec.ofNat 64 (fieldAt p.bytes o.imm.toNat 8)), (.qeLdi o, imm), (.qeMov o, a),
          (.qeAdd o, a + b), (.qeAddi o, a + imm), (.qeSub o, a - b), (.qeAnd o, a &&& b), (.qeOr o, a ||| b),
          (.qeShl o, a <<< (o.imm.toNat % 64)), (.qeShr o, a >>> (o.imm.toNat % 64))],
        exec x.1 s = go s (p'.put o.d x.2) (i + 1)) ∧
      (∀ x ∈ [(Instr.qeBeq o, decide (a = b)), (.qeBne o, decide (a ≠ b)), (.qeBltu o, a.ult b), (.qeBgeu o, b.ule a),
          (.qeJmpf o, true)],
        exec x.1 s = go s p' (if x.2 then i + o.imm.toNat else i + 1)) ∧
      exec (.qeLoop o) s = go s { p' with rep := some (i + 1, o.loopLen, o.loopN) } (i + 1) ∧
      exec (.qeFence o) s = go s p' (i + 1) ∧
      exec (.qeAdvance o) s = .next (endPacket s q 0 0) ∧
      (∀ va pa, windowPa s r p o 8 8 true false .load = some (va, pa) → portReady s pa = true → poisonedAt s pa = false →
        exec (.qeLdw o) s = go (hs va) (p'.put o.d (BitVec.ofNat 64 (seenNat s pa 8))) (i + 1) ∧
        exec (.qeWaitsig o) s = (if b.toNat ≤ seenNat s pa 8 then go (hs va) p' (i + 1) else waits (hs va))) ∧
      (∀ va pa, windowPa s r p o 8 8 false true (.store false) = some (va, pa) → portReady s pa = true →
        exec (.qeStw o) s = go (storeNat (hs va) pa 8 b.toNat) p' (i + 1)) ∧
      (∀ va pa, windowPa s r p o 8 8 true true .atomic = some (va, pa) → portReady s pa = true → poisonedAt s pa = false →
        exec (.qeSignal o) s = go (storeNat (hs va) pa 8 ((seenNat s pa 8 + b.toNat) % 2 ^ 64)) p' (i + 1)) ∧
      (windowPa s r p o 8 8 true false .load = none → exec (.qeLdw o) s = .next (endPacket s q 2 i) ∧
        exec (.qeWaitsig o) s = .next (endPacket s q 2 i)) ∧
      (windowPa s r p o 8 8 false true (.store false) = none → exec (.qeStw o) s = .next (endPacket s q 2 i)) ∧
      (windowPa s r p o 8 8 true true .atomic = none → exec (.qeSignal o) s = .next (endPacket s q 2 i)) ∧
      (windowPa s r p o 256 256 true false .load = none → exec (.qeLaunch o) s = .next (endPacket s q 2 i)) ∧
      (256 ≤ awaiting s → exec (.qeLaunchp o) s = waits s ∧
        ∀ va pa, windowPa s r p o 256 256 true false .load = some (va, pa) → portReady s pa = true →
          poisonedIn s pa 256 = none → exec (.qeLaunch o) s = waits s) ∧
      (awaiting s < 256 →
        let from' := fun (va : Nat) =>
          let x := launchFrom s r.ctx va (p.sub.map Prod.fst)
          go x.1 { p'.put o.d (BitVec.ofNat 64 x.2) with sub := none } (i + 1)
        let entry := r.rbase + 256 * (r.head.toNat % 2 ^ r.rlog)
        (launchReady s r.ctx entry = true → exec (.qeLaunchp o) s = from' entry) ∧
        ∀ va pa, windowPa s r p o 256 256 true false .load = some (va, pa) → portReady s pa = true →
          poisonedIn s pa 256 = none → launchReady s r.ctx va = true → exec (.qeLaunch o) s = from' va))

/-- R276, R278, R280, R284, R288, R289, R291: the waiting record first by PRI and age takes a free slot, or that of the idle
record used least recently; a packet starts with HEAD in q7 and its 256 bytes; one whose word has come runs on; a grid learns
its dimensions; its next block is placed in the first cluster of its partition from one past the last placement that has room; a
fill has copied its source, cleared the poison and raised its signal. -/
def Obligations.QueuesAndGrids : Prop :=
  ∀ (s : State),
    (∀ q i, nextUnmapped s = some q → freeSlot s = some i → s.queues.get? q ≠ none →
      ∃ t r, exec (.queueSlotMap q) s = .next t ∧ t.queues.get? q = some r ∧ r.slot = some i ∧ SameBytes s t) ∧
    (∀ q v r, nextUnmapped s = some q → freeSlot s = none → idleVictim s = some (v, r) → q ≠ v → s.queues.get? q ≠ none →
      ∃ t x, exec (.queueSlotMap q) s = .next t ∧ t.queues.get? q = some x ∧ x.slot = r.slot ∧
        (t.queues.get? v).bind Queue.slot = none) ∧
    (∀ q r, s.queues.get? q = some r → r.startable s = true → servedNow s q = true →
      (hubReady s r.ctx r.entry 256 = true → hubReady s r.ctx r.va 64 = true →
        rangeOk s r.ctx .load r.entry 256 = true → rangePoison s r.ctx r.entry 256 = none →
        ∃ t x p, exec (.packetStart q) s = .next t ∧ SameBytes s t ∧ t.queues.get? q = some x ∧ x.packet = some p ∧
          x.head = r.head ∧ p.index = 0 ∧ p.steps = 0 ∧ p.bytes = hubBytes s r.ctx r.entry 256 ∧
          (∀ n : BitVec 3, p.get n = if n = 7 then r.head else 0))) ∧
    (∀ q r p, s.queues.get? q = some r → r.packet = some p → waitHolds s r p = true → servedNow s q = true →
      ∃ t, exec (.waitsigConditionHolds q) s = .next t ∧ SameBytes s t ∧
        t.queues.get? q = some { r with packet := some { p with parked := false } }) ∧
    (∀ g gr gx gy gz, s.grids.get? g = some gr → gr.closed = false → gr.dims = none →
      dimsDue s gr.rec' = some (some (gx, gy, gz)) → gr.placed < gx * gy * gz →
      (gx ≤ 2 ^ 31 → (gr.rec'.coop = true → coopFits s gr.rec' (gx * gy * gz) = true) →
        ∃ t, exec (.indirectDimRead g) s = .next t ∧ SameBytes s t ∧
          t.grids.get? g = some { gr with dims := some (gx, gy, gz) })) ∧
    (∀ g gr c args, s.ready.getLsbD 535 = true → s.grids.get? g = some gr → firstToPlace s gr = true →
      argumentsReady s gr.rec' = true → gr.rec'.coop = false → gr.left ≠ 0 → clusterFor s gr.rec' = some c → argumentWords s gr.rec' = some args →
      ∃ t gr' b, exec (.blockPlace g) s = .next t ∧ SameBytes s t ∧ t.lastPlaced = c ∧ t.grids.get? g = some gr' ∧
        gr'.placed = gr.placed + 1 ∧ t.block? c (s.cluster c).nextBlock = some b ∧ b.index = gr.placed ∧ b.grid = g ∧
        b.ctx = gr.rec'.ctx ∧ b.n = gr.rec'.n ∧ b.roles = gr.rec'.roles ∧ b.regs = [] ∧
        (t.cluster c).nextBlock = (s.cluster c).nextBlock + 1) ∧
    (∀ id f, s.fills.find? (fun f => f.id == id) = some f → Memory.wf s.mem = true →
      let n := 4096 * f.count
      portsReady s f.source n = true → portReady s f.signal = true → (f.signal + 8 ≤ f.frame ∨ f.frame + n ≤ f.signal) → ∃ t, exec (.wsfillDone id) s = .next t ∧
        (∀ i, i < n → readByte t.mem (f.frame + i) = readByte s.mem (f.source + i)) ∧
        readNat t.mem f.signal 8 = (readNat s.mem f.signal 8 + 1) % 2 ^ 64 ∧
        (∀ a, (a < f.frame ∨ f.frame + n ≤ a) → (a < f.signal ∨ f.signal + 8 ≤ a) → readByte t.mem a = readByte s.mem a) ∧
        (∀ a, f.frame ≤ a → a < f.frame + n → ErrSite.weightStore a ∉ t.poison))

/-! ### The device and its host -/

/-- R208, R325, R328, R330, R313, R327, R370-R372, R347: a refresh changes nothing; the newest token of a sender, receiver
and class enters the cellar with a notice to its receiver, and the oldest leaves it; a snoop puts the pool's bytes in its line and no others; a doorbell
write raises the tail to the value where a record is bound to the word and is dropped elsewhere, and a host read answers the
tail, or 0; a function becomes ready after those it needs; a commit makes the whole staged table active or changes the status
alone; a staged entry takes PART and rail alone; a device reset clears READY, contexts, clusters, grids and queues and keeps
memory, vaults and NOR; a cold power-on keeps pooled memory and NOR alone; the ROM boots, once after a reset, the valid slot of the
higher VERSION, A among equals. -/
def Obligations.DeviceEvents : Prop :=
  ∀ (s : State),
    (∀ die group, die < 4 → group < 64 → refreshing s die group = true → exec (.refreshWindow die group) s = .next s) ∧
    (∀ a b reply tok,
      (a ≠ b → newestToken s a b reply = some tok → ∃ t, exec (.tokenSpill a b reply) s = .next t ∧
        t.cellar = s.cellar ++ [tok] ∧ t.clusters = s.clusters ∧ t.links = s.links ∧ SameBytes s t ∧
        ∃ n ∈ t.notices, n.sender = a ∧ n.receiver = b ∧ n.reply = reply ∧ 1 ≤ n.count) ∧
      (s.cellar.find? (fun x => x.sender == a && x.receiver == b && x.reply == reply) = some tok →
        exec (.tokenPull a b reply) s = .next { s with cellar := s.cellar.erase tok, notices := takeNotice s.notices tok })) ∧
    (∀ line bs, 128 * line < s.poolsz → bs.length ≤ 128 → Memory.wf s.mem = true →
      ∃ t, exec (.backInvalidate line bs) s = .next t ∧ line ∉ t.sharedLines ∧
        (∀ i v, bs[i]? = some v → readByte t.mem (128 * line + i) = v) ∧
        ∀ x, x < 128 * line ∨ 128 * line + bs.length ≤ x → readByte t.mem x = readByte s.mem x) ∧
    (∀ word value, word < 2 ^ 20 → let at' := 12 * 2 ^ 48 + 8 * word
      let old := (s.bells.get? at').getD 0
      (queueOfBell s at' = none → exec (.doorbellHostWrite word value) s = .next s) ∧
      (∀ x, queueOfBell s at' = some x → ∃ t, exec (.doorbellHostWrite word value) s = .next t ∧
        t.bells.get? at' = some (if old.ult value then value else old)) ∧
      leNat (barRead s (0x800000 + 8 * word) 8) = old.toNat) ∧
    (∀ bit, bit < 540 → s.ready.getLsbD bit = false → s.dead = false → readyAfter s bit = true →
      exec (.functionReady bit) s = .next { s with ready := s.ready ||| BitVec.twoPow 540 bit }) ∧
    (s.pstat.getLsbD 8 = true →
      ((∀ c, c < 384 → stagedStatus s c = 0) →
        exec (.partitionCommit 1) s = .next { s with active := s.staged, pstat := 0x100 }) ∧
      (∀ c, c < 384 → stagedStatus s c ≠ 0 → (∀ d, d < c → stagedStatus s d = 0) → exec (.partitionCommit 1) s =
        .next { s with pstat := payload [(8, stagedStatus s c), (1, 1), (9, c)] })) ∧
    (∀ c (value : Nat), c < 384 → ∃ t, exec (.registerWrite (0x51000 + 8 * c) 8 value) s = .next t ∧
      t.stagedEntry c = BitVec.ofNat 64 value &&& 0x303 ∧ (∀ d, d ≠ c → t.stagedEntry d = s.stagedEntry d) ∧ t.active = s.active) ∧
    (∃ t, exec .deviceReset s = .next t ∧ t.ready = 0 ∧ t.clusters = [] ∧ t.ctxs = [] ∧ t.grids = [] ∧ t.queues = [] ∧
      t.running = none ∧ t.mem = s.mem ∧ t.vaults = s.vaults ∧ t.nor = s.nor ∧ t.capsule = s.capsule ∧ t.pstat = 0x100) ∧
    (∃ t, exec .coldPowerOn s = .next t ∧ t.ready = 0 ∧ t.clusters = [] ∧ t.ctxs = [] ∧ t.vaults = [] ∧ t.capsule = none ∧
      t.errsum = 0 ∧ t.nor = s.nor ∧ ∀ a, isPooled a = true → readByte t.mem a = readByte s.mem a) ∧
    (s.booted = false → ∃ t, exec .firmwareBoot s = .next t ∧ t.boot = (s.boot + 1) % 2 ^ 32 ∧ t.booted = true ∧
      let a := imageValid s.minSvn s.fwA
      let b := imageValid s.minSvn s.fwB
      (a = true → b = true → t.running = some (decide (imageNat s.fwA 4 4 < imageNat s.fwB 4 4))) ∧
      (a = true → b = false → t.running = some false) ∧ (a = false → b = true → t.running = some true) ∧
      (a = false → b = false → t.running = none))

/-- R372-R374, R350, R366, R367: a command that needs the operator right ends with NORIGHT on page 1 and, but for FWSTAGE, with
NOTREADY where no firmware runs, and has no other effect; INFO reports the device; FWSTAGE writes the staging window into the
inactive slot; FWCOMMIT refuses an image that is not valid; ATTEST signs its report of the nonce; CAPLIST, CAPVIEW, CAPREAD and
CAPREL list, render, read and release capsules; CAPFREEZE freezes the hub's vault, or adds a secondary fault to the
freeze in progress; NORLIST lists the valid summaries of NOR, newest first; ERRREAD answers ERRSUM; FNOTE sets or clears the notice address. -/
def Obligations.DeviceCommands : Prop :=
  ∀ (s : State) (h : CmdHdr) (nonce : List Byte) (handle view offset ctx entries : Nat) (op raise' : Bool)
      (creds : List (Nat × List Byte)) (addr va base : Word) (d : CtxDesc),
    let fw := if s.running = some true then s.fwB else s.fwA
    let ends := fun (i : Instr) (status : Nat) (result : List Byte) (p : State → Prop) =>
      ∃ t, exec i s = .next t ∧ Answered t h status result ∧ p t
    let plain := fun (i : Instr) (status : Nat) => exec i s = .next (endCommand (wakeAll s) h status [])
    let operators := [Instr.fwcommit h raise', .caplist h, .capview h handle op creds, .caprel h handle, .capfreeze h, .errread h,
      .fnote h addr, .ctxset h ctx d, .mapPage h va base ctx, .unmapPage h va ctx, .qreg h va ctx, .qdereg h va ctx,
      .wsfill h va entries base addr, .cklog h ctx base entries, .censusCmd h ctx base entries]
    (h.page0 = false → plain (.fwstage h offset) 2 ∧ ∀ i ∈ operators, plain i 2) ∧
    (h.page0 = true → s.running = none → ∀ i ∈ operators, plain i 3) ∧
    ends (.infoCmd h) 0 (s.serialNo ++ leBytes 4 (imageNat fw 4 4) ++ leBytes 4 (imageNat fw 8 4) ++ leBytes 4 s.boot ++
      leBytes 2 384 ++ leBytes 1 (if s.running = some true then 1 else 0) ++ leBytes 1 0 ++ leBytes 8 s.errsum.toNat ++
      leBytes 8 s.poolsz) (fun _ => True) ∧
    (h.page0 = true → ends (.fwstage h offset) 0 [] fun t =>
      let b := s.running == some false
      (∀ i, i < 65536 → (t.slot b).getD 0 (offset + i) = s.fwWindow.getD 0 i) ∧ t.slot (!b) = s.slot (!b) ∧
        t.running = s.running) ∧
    (s.running ≠ none →
      (s.ready.getLsbD 538 = true → ends (.attest h nonce) 0 [] fun t => ∃ idx,
        t.attWindow = reportBytes s nonce idx ++ signDigest true idx (reportBytes s nonce idx)) ∧
      (∀ v, s.views.find? (fun v => v.id == view) = some v → offset % 65536 = 0 → ends (.capread h view offset) 0 [] fun t =>
        t.capWindow.length = 65536 ∧ ∀ i, i < 65536 → t.capWindow[i]? = some (v.bytes[offset + i]?.getD 0)) ∧
      ends (.norlist h) 0 ((s.nor.reverse.filterMap id).flatten) (fun t => t.nor = s.nor) ∧
      (h.page0 = true →
        let slot := if s.running = some false then s.fwB else s.fwA
        (imageValid s.minSvn slot = false → plain (.fwcommit h raise') 5) ∧
        (imageValid s.minSvn slot = true → ends (.fwcommit h raise') 0 [] fun t =>
          t.minSvn = (if raise' then imageNat slot 8 4 else s.minSvn) ∧ t.running = s.running) ∧
        ends (.caplist h) 0 (((heldCapsules s).map Capsule.listed).flatten) (fun _ => True) ∧
        (∀ x, s.ready.getLsbD 538 = true → (heldCapsules s).find? (fun c => c.handle == handle) = some x →
          ∃ t v idx, exec (.capview h handle op creds) s = .next t ∧ t.views = s.views ++ [v] ∧ v.handle = handle ∧
            v.bytes = viewBytes s.serialNo x op ((creds.filter fun p => credentialHolds x p.1 p.2).map Prod.fst) idx ∧
            Answered t h 0 (leBytes 8 v.id ++ leBytes 8 v.bytes.length)) ∧
        ((∃ x ∈ heldCapsules s, x.handle = handle) → ends (.caprel h handle) 0 [] fun t =>
          (∀ x ∈ heldCapsules t, x.handle ≠ handle) ∧ ∀ v ∈ t.views, v.handle ≠ handle) ∧
        (s.ready.getLsbD 537 = true → ends (.capfreeze h) 0 [] fun t =>
          (s.freeze = none → (t.vault 388).frozen = true ∧ t.freeze ≠ none) ∧
          (∀ f, s.freeze = some f → t.vaults = s.vaults ∧
            t.freeze = some (f.second { cause := 0x82, unit := 388, tlo := s.time.toNat % 2 ^ 32 }))) ∧
        ends (.errread h) 0 (leBytes 8 s.errsum.toNat) (fun t => t.errsum = s.errsum) ∧
        (addr = 0 → ends (.fnote h addr) 0 [] fun t => t.fnote = 0) ∧
        (addr ≠ 0 → pooledRange s addr.toNat 32 = true → ends (.fnote h addr) 0 [] fun t => t.fnote = addr.toNat)))

/-- R295, R307, R310, R276, R279, R291, R356, R374, R377: each command of a context completes. CTXSET defines a context that
holds no block and no image, and is BUSY otherwise; where it takes tables away it first clears the old top table and then
waits while accesses that went through it are to be performed. MAP waits while a fill writes a frame it names; else it answers
the first status that holds, and on success writes every entry of the page's run. UNMAP clears the entries of the leaf and removes
every µTLB entry that covers the address, and then waits while an access is to reach the page's frames. Each waits for the ports of
the memory that it reaches (R371). QREG registers a
record whose program breaks no rule, with its operations, HEAD and tail, and QDEREG removes one with its tail. WSFILL accepts
frames that are not mapped. CKLOG and CENSUS set the log and a cleared table. Log 19 (DESIGN CHOICE), 21, 47 and 48 (DEDUCED):
the forms of the results, what waits, and what CTXSET keeps are the model's. -/
def Obligations.ContextCommands : Prop :=
  ∀ (s : State) (h : CmdHdr) (ctx : Nat), h.page0 = true → s.running ≠ none → ctx < 64 →
    let w := wakeAll s
    let ends := fun (i : Instr) (status : Nat) (result : List Byte) (p : State → Prop) =>
      ∃ t, exec i s = .next t ∧ Answered t h status result ∧ p t
    let plain := fun (i : Instr) (status : Nat) => exec i s = .next (endCommand w h status [])
    (∀ d, descOk d = true →
      let begun := unmapAll s ctx
      let defined := fun (t : State) => ∃ x, t.ctx? ctx = some x ∧ x.desc = d ∧ x.killed = false
      let cleared := fun (t : State) => ∀ x i, s.ctx? ctx = some x → tableExists s.poolsz x.desc.ptroot.toNat 64 = true → i < 64 →
        Memory.wf s.mem = true → unmapStarted s ctx none = false → readByte t.mem (x.desc.ptroot.toNat + i) = 0
      (unmapStarted s ctx none = false →
        ((∃ p ∈ s.clusters, p.2.blocksOf ctx ≠ []) → plain (.ctxset h ctx d) 4) ∧
        (∀ x, s.ctx? ctx = some x → x.images ≠ [] → plain (.ctxset h ctx d) 4)) ∧
      ((∀ p ∈ s.clusters, p.2.blocksOf ctx = []) → (∀ x, s.ctx? ctx = some x → x.images = []) →
        (tablesStay s ctx d = true → ends (.ctxset h ctx d) 0 [] fun t => defined t ∧ SameBytes s t) ∧
        (tablesStay s ctx d = false →
          (ctxsetReady s ctx = false → exec (.ctxset h ctx d) s = .next s) ∧
          (ctxsetReady s ctx = true → unmapWaits begun = true → exec (.ctxset h ctx d) s = .next begun ∧ cleared begun) ∧
          (ctxsetReady s ctx = true → unmapWaits begun = false →
            ends (.ctxset h ctx d) 0 [] fun t => defined t ∧ cleared t ∧ t.unmapping = none)))) ∧
    (∀ va : Word,
      let i := Instr.unmapPage h va ctx
      (unmapReady s ctx va.toNat = false → exec i s = .next s) ∧
      (unmapReady s ctx va.toNat = true → unmapStarted s ctx (some va.toNat) = true →
        (unmapWaits s = true → exec i s = .next s) ∧ (unmapWaits s = false → ends i 0 [] fun t => t.unmapping = none)) ∧
      (unmapReady s ctx va.toNat = true → unmapStarted s ctx (some va.toNat) = false →
        (2 ^ 57 ≤ va.toNat ∨ walk s ctx va.toNat = none → plain i 0) ∧
        (∀ b l, va.toNat < 2 ^ 57 → walk s ctx va.toNat = some (b, l) →
          let begun := unmapPage s ctx va.toNat b l
          let cleared := fun (t : State) => (∀ c, ∀ e ∈ (t.cluster c).utlb, e.covers ctx va.toNat = false) ∧
            ∀ x table lo k rest i, s.ctx? ctx = some x → Memory.wf s.mem = true →
              pathTo s.mem s.poolsz b (naturalOf (pteSz l)) walkLevels x.desc.ptroot.toNat = .found table lo k rest →
              i < 4 ^ (pteSz l - naturalOf (pteSz l)) → readNat t.mem (entryAddress table b lo k + 8 * i) 8 = 0
          (unmapWaits begun = true → exec i s = .next begun ∧ cleared begun) ∧
          (unmapWaits begun = false → ends i 0 [] fun t => cleared t ∧ t.unmapping = none)))) ∧
    (∀ (va leaf : Word) (x : Context), s.ctx? ctx = some x → x.killed = false →
      let go := mapReady s ctx va.toNat leaf.toNat = true
      let sz := pteSz leaf.toNat
      let n := naturalOf sz
      let form := mapForm s.poolsz va.toNat leaf.toNat
      let ok := go ∧ form = true ∧ mapKind leaf.toNat = true ∧ mapWx leaf.toNat = true
      let scans := pteX leaf.toNat = false ∨ (s.ready.getLsbD 536 = true ∧ scanPage s.mem va.toNat leaf.toNat = none)
      (mapReady s ctx va.toNat leaf.toNat = false → exec (.mapPage h va leaf ctx) s = .next s) ∧
      (go → form = false → plain (.mapPage h va leaf ctx) 0x10) ∧
      (go → form = true → mapKind leaf.toNat = false → plain (.mapPage h va leaf ctx) 0x11) ∧
      (go → form = true → mapKind leaf.toNat = true → mapWx leaf.toNat = false → plain (.mapPage h va leaf ctx) 0x12) ∧
      (∀ r, ok → pteX leaf.toNat = true → s.ready.getLsbD 536 = true → scanPage s.mem va.toNat leaf.toNat = some r →
        exec (.mapPage h va leaf ctx) s = .next (endCommand w h 0x13 (scanBytes r))) ∧
      (ok → scans → (∀ e, writeLeaf w ctx x va.toNat leaf.toNat = .error e → plain (.mapPage h va leaf ctx) e) ∧
        (∀ u, writeLeaf w ctx x va.toNat leaf.toNat = .ok u →
          exec (.mapPage h va leaf ctx) s = .next (endCommand u h 0 []))) ∧
      (∀ table lo k rest, ok → scans → Memory.wf s.mem = true → tableExists s.poolsz x.desc.ptroot.toNat 64 = true →
        pathTo s.mem s.poolsz va.toNat n walkLevels x.desc.ptroot.toNat = .found table lo k rest →
        runHolds s.mem s.poolsz table va.toNat lo k sz rest ≠ none → ends (.mapPage h va leaf ctx) 0 [] fun t =>
          ∀ i, i < 4 ^ (sz - n) → readNat t.mem (entryAddress table va.toNat lo k + 8 * i) 8 =
            (leaf.toNat + i * pageBytes n) % 2 ^ 64)) ∧
    (∀ (x : Context) (va : Word), s.ctx? ctx = some x → x.killed = false →
      let a := va.toNat
      let bs := hubBytes s ctx a 128
      let prog := fieldAt bs 32 8
      let plen := fieldAt bs 40 2
      let ops := (upto plen).map fun i => hubNat s ctx (prog + 8 * i) 8
      let named := qregPorts s ctx a = true ∧ a % 128 = 0 ∧ rangeOk s ctx .load a 128 = true ∧ prog % 8 = 0 ∧ 1 ≤ plen ∧ plen ≤ 256
      (qregPorts s ctx a = false → exec (.qreg h va ctx) s = .next s) ∧
      (∀ door, named → recordDoor s ctx bs = some door → programReject (recordWindows bs) ops = none →
        ends (.qreg h va ctx) 0 [] fun t => t.bells.get? door = some (BitVec.ofNat 64 (fieldAt bs 24 8)) ∧
          ∃ q r, t.queues.get? q = some r ∧ r.va = a ∧ r.ctx = ctx ∧ r.door = door ∧
            r.ops = ops.map (BitVec.ofNat 64) ∧ r.head = BitVec.ofNat 64 (fieldAt bs 16 8)) ∧
      (∀ door rule index, named → recordDoor s ctx bs = some door →
        programReject (recordWindows bs) ops = some (rule, index) → exec (.qreg h va ctx) s =
          .next (endCommand (hubHolds (hubHolds w ctx a 128) ctx prog (8 * plen)) h 0x14
            (leBytes 8 a ++ leBytes 2 index ++ leBytes 1 rule))) ∧
      (hubReady s ctx a 128 = true → (∀ p ∈ s.queues, p.2.ctx = ctx → p.2.va ≠ a) → plain (.qdereg h va ctx) 0) ∧
      (∀ q r, s.queues.find? (fun p => p.2.ctx == ctx && p.2.va == a) = some (q, r) → s.queues.get? q = some r →
        hubReady s ctx a 128 = true → ends (.qdereg h va ctx) 0 [] fun t => t.queues.get? q = none ∧ t.bells.get? r.door = none)) ∧
    (∀ (va base signal : Word) (count : Nat), 1 ≤ count →
      fillForm s.poolsz va.toNat count base.toNat signal.toNat = true → (∀ d, d < 4 → s.ready.getLsbD (512 + d) = true) →
      ((∃ p ∈ s.mapCounts, va.toNat ≤ p.1 ∧ p.1 < va.toNat + 4096 * count ∧ p.2 ≠ 0) →
        plain (.wsfill h va count base signal) 0x15) ∧
      ((∀ p ∈ s.mapCounts, va.toNat ≤ p.1 → p.1 < va.toNat + 4096 * count → p.2 = 0) →
        ends (.wsfill h va count base signal) 0 [] fun t => t.mem = s.mem ∧
          t.fills = s.fills ++ [⟨s.fresh, va.toNat, count, base.toNat, signal.toNat⟩])) ∧
    (∀ (x : Context) (base : Word) (entries : Nat), s.ctx? ctx = some x → x.killed = false →
      (areaPorts s base.toNat 64 = true → ends (.cklog h ctx base 0) 0 [] fun t => t.ctx? ctx = some { x with log := none }) ∧
      (1 ≤ entries → entries = 2 ^ entries.log2 → pooledRange s base.toNat (64 + 32 * entries) = true →
        areaPorts s base.toNat (64 + 32 * entries) = true →
        Memory.wf s.mem = true → ends (.cklog h ctx base entries) 0 [] fun t =>
          t.ctx? ctx = some { x with log := some (base.toNat, entries) } ∧ readNat t.mem base.toNat 8 = 0 ∧
          ∀ a, a < base.toNat ∨ base.toNat + 8 ≤ a → readByte t.mem a = readByte s.mem a) ∧
      (1 ≤ entries → entries ≤ 65536 → pooledRange s base.toNat (64 + 48 * entries) = true → Memory.wf s.mem = true →
        areaPorts s base.toNat (64 + 48 * entries) = true → ends (.censusCmd h ctx base entries) 0 [] fun t =>
          t.ctx? ctx = some { x with merged := some (base.toNat, entries) } ∧ readNat t.mem base.toNat 4 = 1 ∧
          readNat t.mem (base.toNat + 64) 8 = 2 ^ 64 - 1 ∧
          ∀ i, i < 64 + 48 * entries → 4 ≤ i → (i < 64 ∨ 72 ≤ i) → readByte t.mem (base.toNat + i) = 0))

/-! ### Decoding -/

/-- R46-R56, R278: a few words written out from the tables decode to what they stand for: `add s3, s1, s2`; `blt s1, s2` to slot
1 two lines on; `srch.push.geu v4[7:0], 9` with SDC = s5; `vadd.u16x2 v3, v1, v2`; `ld.b32.acq.pkg v7, [v1 + s2 + 16]`; `mma.sat
a2, v8, s3` with formats 1 and 2, N = 64, SHPK 1, reusing A; `fupd.trl a1, v9`; `job` of the gather engine with its card at s4
and its ticket to s5; and of the bytecode `add q1, q2, q3`. -/
def Obligations.DecodeWords : Prop :=
  (∀ p ∈ [
    (3 * 2 ^ 16 + 1 * 2 ^ 22 + 2 * 2 ^ 28,
      Instr.add { hdr := ⟨false, false, false, false⟩, sd := 3, sa := 1, sb := 2, imm := false, w32 := false, imm32 := 0 }),
    (0x40 + 2 * 2 ^ 16 + 1 * 2 ^ 20 + 2 * 2 ^ 26 + 1 * 2 ^ 64 + 2 * 2 ^ 67,
      .branch .lt { hdr := ⟨false, false, false, false⟩, sa := 1, sb := 2, sd := 0, tslot := 1, loff := 2 }),
    (0x60 + 4 * 2 ^ 16 + 7 * 2 ^ 30 + 5 * 2 ^ 35 + 5 * 2 ^ 42 + 9 * 2 ^ 64,
      .srch { hdr := ⟨false, false, false, false⟩, va := 4, lo := 0, hi := 7, cmp := .geu, sop := .push, sdc := 5, sdf := 0,
              opd := .imm, sc := 0, imm32 := 9 }),
    (0x80 + 3 * 2 ^ 16 + 1 * 2 ^ 25 + 2 * 2 ^ 34 + 3 * 2 ^ 52,
      .vadd { hdr := ⟨false, false, false, false⟩, vd := 3, va := 1, vb := 2, vc := 0, ty := .u16x2, bsrc := .thread, sat := false,
              rnd := .rne, ftz := false, all := false, imm32 := 0 }),
    (0xC0 + 7 * 2 ^ 16 + 1 * 2 ^ 25 + 2 * 2 ^ 34 + 2 * 2 ^ 40 + 4 * 2 ^ 43 + 1 * 2 ^ 46 + 16 * 2 ^ 64,
      .ld { hdr := ⟨false, false, false, false⟩, vd := 7, vx := 1, sb := 2, wid := .b32, scope := .pkg, ord := .acq, dst := false,
            aop := .add, sx := 0, off32 := 16 }),
    (0xE0 + 1 * 2 ^ 12 + 2 * 2 ^ 16 + 8 * 2 ^ 21 + 3 * 2 ^ 30 + 1 * 2 ^ 36 + 2 * 2 ^ 39 + 2 * 2 ^ 42 + 1 * 2 ^ 44 + 1 * 2 ^ 46,
      .mma true .slot { hdr := ⟨false, false, false, false⟩, at5 := 2, va := 8, sb := 3, fsa := 1, fsb := 2, shpn := .n64, shpk := 1,
                        ru := true, sp := false, za := false, th := 0, sx := 0, off32 := 0 }),
    (0xEB + 1 * 2 ^ 16 + 9 * 2 ^ 21 + 1 * 2 ^ 36,
      .fupd { hdr := ⟨false, false, false, false⟩, at5 := 1, vx := 9, sn := 0, trl := true, dir := false, th := 0 }),
    (0xEF + 4 * 2 ^ 16 + 1 * 2 ^ 22 + 5 * 2 ^ 25,
      .job { hdr := ⟨false, false, false, false⟩, sc := 4, eng := .gather, sd := 5, th := 0, sx := 0 })],
    decodeTableWord 96 p.1 = some p.2) ∧
  decodeTableWord 64 (0x06 + 1 * 2 ^ 8 + 2 * 2 ^ 11 + 3 * 2 ^ 14) = some (.qeAdd { d := 1, a := 2, b := 3, w := 0, imm := 0 })

/-- R46-R57, R64, R70-R73, R278: decoding and encoding agree. A well-formed instruction with a slot word, or an operation with a
word of the bytecode, is decoded from its word, with every operand; and a word that decodes to an instruction is that
instruction's word. -/
def Obligations.DecodeEncode : Prop :=
  (∀ (i : Instr) (w : Nat), i.wf = true → encodeWord i = some w →
    decodeWord w = .ok i ∧ decodeTableWord 96 w = some i) ∧
  (∀ (i : Instr) (w : Nat), i.wf = true → encodeOp i = some w → decodeOp w = .ok i ∧ decodeTableWord 64 w = some i) ∧
  (∀ (i : Instr) (w : Nat), w < 2 ^ 96 → decodeWord w = .ok i → i.wf = true ∧ encodeWord i = some w) ∧
  (∀ (i : Instr) (w : Nat), w < 2 ^ 64 → decodeOp w = .ok i → i.wf = true ∧ encodeOp i = some w)

/-! ### The machine -/

/-- R18, R302, R245, R247, R251: an instruction that reads an empty scalar traps FE_EMPTY where its WF bit is set and otherwise
stalls with FE_WAIT, one that reads a lost scalar traps ATOMLOST, and an instruction on the population stalls while another
strand's handler runs, with TRAP where it has no earlier reason (R239), each with no other effect; with stepping on, an
instruction with STOP retires and traps STEP; a cause below 0x40 in a handler is DOUBLE and ends the context. -/
def Obligations.StopsBeforeEffect : Prop :=
  ∀ (s : State) (m : Me) (o : SOps) (q : QOps), me? s = some m →
    let r := m.st.regs
    let stall := fun (why : Stall) => Host.Outcome.next
      (s.modStrand m.c m.k fun st => { st with stall := some why, waited := 0, pre := [] })
    (o.sa ≠ 0 → r.lost.getLsbD o.sa.toNat = false → r.empty.getLsbD o.sa.toNat = true →
      (o.hdr.wfa = true → exec (.add o) s = .next (trappedIn s m causeFeEmpty (BitVec.ofNat 64 (o.sa.toNat + 512)) 0x00)) ∧
      (o.hdr.wfa = false → exec (.add o) s = stall .feWait)) ∧
    (o.sa ≠ 0 → r.lost.getLsbD o.sa.toNat = true →
      exec (.add o) s = .next (trappedIn s m causeAtomLost (BitVec.ofNat 64 (o.sa.toNat + 512)) 0x00)) ∧
    (∀ j, (s.cluster m.c).handler = some j → j ≠ m.k →
      (∃ why : Stall, exec (.mark q) s = .next (s.modStrand m.c m.k fun st => { st with stall := some why }) ∨
        exec (.mark q) s = stall why) ∧
      (gate s m (setUses q) = none → foldHeld (s.cluster m.c) m.st.block = false → pairHeld s m.c m.k = false →
        ((s.cluster m.c).power.edges ≠ 0 ∨ (s.cluster m.c).power.halved < 2 ∨ (s.cluster m.c).power.halved % 2 = 1) →
        exec (.mark q) s = .next (s.modStrand m.c m.k fun st => { st with stall := some .trap }))) ∧
    (Ready s m {} → o.hdr.stop = true → r.dbg.getLsbD 0 = true → s.entryFree m.c m.k = true →
      (∀ p ∈ (s.cluster m.c).strands, p.2.trap = none) → r.tvec ≠ 0 →
      targetOk s m.c m.ctx (r.tvec.truncate 57) = true → ∃ t st, exec (.nop o) s = .next t ∧
        t.strand? m.c m.k = some st ∧ st.pc = r.tvec.truncate 57 ∧ st.regs.tcause = 0x02 ∧ st.regs.tinfo = 0 ∧
        st.regs.trpc = m.st.pc.zeroExtend 64 ∧ st.regs.tnpc = (successor m.st.pc).zeroExtend 64 ∧
        st.regs.tstate.getLsbD 0 = true ∧ (t.cluster m.c).handler = some m.k) ∧
    (∀ cause op info, m.inH = true → cause < 0x40 →
      (raise s m cause info op).ctxLive m.ctx = false ∧
        (s.ready.getLsbD 537 = true → ((raise s m cause info op).vault m.c).frozen = true))

/-- The step that the agenda names runs the instruction that its bytes decode to: for a strand that may be attempted, at an
instruction boundary where no trap falls, the slot at its PC, fetched from memory through its page (R45, R66), alone or as the
second slot of a pair right after the first (R235); for a queue, the operation at the packet's index (R278, R280); and an event
itself. An attempt that takes an opportunity passes the other strands over (R233). The cycle that follows adds 2 to TIME and
leaves memory and contexts alone. -/
def Obligations.StepRunsDecoded : Prop :=
  ∀ (s : State) (rest : List Choice),
    let s0 := { s with agenda := rest }
    (∀ c k m, s.agenda = .issue c k :: rest → meAt s0 c k = some m → mayIssue s0 m = true → boundaryTrap s0 m = none →
      let ps := prospects s0 c
      let point := ps.any fun p => p.slot == k && p.point
      mayGo s0 c k ps = true → (point = true → ∀ p ∈ ps, p.slot = k → p.strand.yielded = false) →
      let after := fun (t : State) => Host.Outcome.next (if point then passOver s0 c k ps t else t)
      let fetches := fun (s1 : State) (n : Me) (i : Instr) => ∃ pa, let line := readBytes s1.mem pa 64
        fetchWait s1 n = none ∧ (n.st.entering = true → targetOk s1 c n.ctx n.st.pc = true) ∧
          fetchLine s1 c n.ctx n.st.pc = .line pa line ∧ parityOk line (pcSlot n.st.pc) = true ∧
          comparator s1 n (slotWordOf line (pcSlot n.st.pc)) = none ∧ decodeWord (slotWordOf line (pcSlot n.st.pc)) = .ok i
      (∀ i, fetches s0 m i → m.pairFirst s0 = false →
        step s = afterStep s (match exec i { s0 with cur := some (c, k) } with
          | .next t => after { t with cur := none, curQ := none }
          | .fault f => .fault f
          | .refused r => .refused r)) ∧
      (∀ i t1 n j t2, fetches s0 m i → exec i { s0 with cur := some (c, k) } = .next t1 →
        let s1 := { t1 with cur := none, curQ := none }
        ∀ s2, pairSecond s0 s1 m = some (s2, n) → fetches s2 n j → exec j { s2 with cur := some (c, k) } = .next t2 →
        let t := { t2 with cur := none, curQ := none }
        captured t n = true ∨ (∀ r, prospectIn s2 t c k n.st ≠ .waits r ∧ prospectIn s2 t c k n.st ≠ .moves r) →
        step s = afterStep s (after t))) ∧
    (∀ q r p w i, s.agenda = .engine q :: rest → s.queues.get? q = some r → r.packet = some p → p.parked = false →
      r.ops[p.index]? = some w → decodeOp w.toNat = .ok i →
      step s = afterStep s (settleCur (exec i { s0 with curQ := some q }))) ∧
    (∀ i, s.agenda = .event i :: rest → step s = afterStep s (settleCur (exec i s0))) ∧
    (∀ t, ∃ u, afterStep s (.next t) = .next u ∧ u.time = t.time + 2 ∧ u.mem = t.mem ∧ u.ctxs = t.ctxs)

/-- Every step keeps physical memory in its canonical form: addresses rise strictly and no listed byte reads as an unlisted one. The
form is the model's own. -/
def Obligations.MemoryFormKept : Prop := ∀ (s t : State), MemInv s → step s = .next t → MemInv t

/-- R369, R373, R313, R315, R377: the state after reset: every READY bit clear, both mailbox pages done with status OK and nothing
counted, PSTAT 0x100, ACTIVE and STAGED with the rail of each cluster's die, every ceiling 7, no context, cluster, grid or
queue; and its memory has the canonical form. -/
def Obligations.ResetState : Prop :=
  State.reset.ready = 0 ∧ State.reset.page0.status = 0x100 ∧ State.reset.page1.status = 0x100 ∧
    State.reset.page0.errcnt = 0 ∧ State.reset.pstat = 0x100 ∧ (∀ r, r < 4 → State.reset.ceil.toList.getD r 0 = 7) ∧
    (∀ c, State.reset.activeEntry c = BitVec.ofNat 64 (c / 96) ∧ State.reset.stagedEntry c = BitVec.ofNat 64 (c / 96)) ∧
    (∀ c, State.reset.ctx? c = none) ∧ State.reset.clusters = [] ∧ State.reset.grids = [] ∧ State.reset.queues = [] ∧
    State.reset.freeze = none ∧ State.reset.running = none ∧ MemInv State.reset

/-- R313, R315, R319, R369-R373, R348: no instruction of a strand and no operation of a queue changes the partition tables,
their status, the ceilings, the READY bits, the firmware slots, the running slot, the security version, NOR, the device's number
or the mailbox: these are the hub's and the host's alone. -/
def Obligations.HubStateKept : Prop :=
  ∀ (s t : State) (i : Instr), encodeWord i ≠ none ∨ encodeOp i ≠ none → exec i s = .next t →
    t.active = s.active ∧ t.staged = s.staged ∧ t.pstat = s.pstat ∧ t.ceil = s.ceil ∧ t.ready = s.ready ∧ t.fwA = s.fwA ∧
      t.fwB = s.fwB ∧ t.running = s.running ∧ t.minSvn = s.minSvn ∧ t.boot = s.boot ∧ t.nor = s.nor ∧
      t.serialNo = s.serialNo ∧ t.poolsz = s.poolsz ∧ t.page0 = s.page0 ∧ t.page1 = s.page1 ∧ t.server = s.server
end

