-- ==== Sys2Proof/Laws/Access.lean ====
section
/-!
SUPPORT. Requests over die links: what bounds them, whatever slices their lines have (25 R324).
-/
namespace Sys2Proof.Machine

/-- There are no more locations than threads. -/
theorem byLocation_length (l : List (Nat × Nat × Nat)) : (byLocation l).length ≤ l.length := by
  induction l with
  | nil => exact Nat.le_refl 0
  | cons x rest ih =>
    simp only [byLocation]
    split
    · exact Nat.succ_le_succ ((List.length_filter_le _ _).trans ih)
    · exact Nat.succ_le_succ ih

theorem newRequests_le (c : Nat) (l : List (Nat × Nat × Nat)) : newRequests c l ≤ l.length :=
  (List.length_filter_le _ _).trans (byLocation_length l)

/-- A die has room for as many requests as leave it within its bound. -/
theorem requestsFull_of_le {s : State} {c n : Nat} (h : dieRequestsOut s (dieOf c) + n ≤ Config.dieRequests) :
    requestsFull s c n = false := by
  simp only [requestsFull, Bool.and_eq_false_iff, decide_eq_false_iff_not]
  exact .inr (by omega)

/-- An access finds its way where its die has room for one request more and the cellars are empty. -/
theorem linkFree_of {s : State} {c : Nat} (pa : Nat) (h : dieRequestsOut s (dieOf c) + 1 ≤ Config.dieRequests)
    (he : s.cellar = []) : linkFree s c pa = true := by
  simp [linkFree, requestsFull_of_le h, he]

end Sys2Proof.Machine
end

