-- ==== Sys2Proof/Laws/Arms.lean ====
section
/-!
SUPPORT. The arms of exec, so that no proof unfolds its whole match: each instruction means its own definition.
-/
namespace Sys2Proof.Machine

@[simp] theorem exec_add (o : SOps) (s : State) :
    exec (.add o) s = execAdd o s := rfl
@[simp] theorem exec_sub (o : SOps) (s : State) :
    exec (.sub o) s = execSub o s := rfl
@[simp] theorem exec_mul (o : SOps) (s : State) :
    exec (.mul o) s = execMul o s := rfl
@[simp] theorem exec_mulh (o : SOps) (s : State) :
    exec (.mulh o) s = execMulh o s := rfl
@[simp] theorem exec_mulhu (o : SOps) (s : State) :
    exec (.mulhu o) s = execMulhu o s := rfl
@[simp] theorem exec_div (o : SOps) (s : State) :
    exec (.div o) s = execDiv o s := rfl
@[simp] theorem exec_divu (o : SOps) (s : State) :
    exec (.divu o) s = execDivu o s := rfl
@[simp] theorem exec_rem (o : SOps) (s : State) :
    exec (.rem o) s = execRem o s := rfl
@[simp] theorem exec_remu (o : SOps) (s : State) :
    exec (.remu o) s = execRemu o s := rfl
@[simp] theorem exec_andI (o : SOps) (s : State) :
    exec (.andI o) s = execAndI o s := rfl
@[simp] theorem exec_orI (o : SOps) (s : State) :
    exec (.orI o) s = execOrI o s := rfl
@[simp] theorem exec_xorI (o : SOps) (s : State) :
    exec (.xorI o) s = execXorI o s := rfl
@[simp] theorem exec_andn (o : SOps) (s : State) :
    exec (.andn o) s = execAndn o s := rfl
@[simp] theorem exec_shl (o : SOps) (s : State) :
    exec (.shl o) s = execShl o s := rfl
@[simp] theorem exec_shr (o : SOps) (s : State) :
    exec (.shr o) s = execShr o s := rfl
@[simp] theorem exec_sra (o : SOps) (s : State) :
    exec (.sra o) s = execSra o s := rfl
@[simp] theorem exec_rol (o : SOps) (s : State) :
    exec (.rol o) s = execRol o s := rfl
@[simp] theorem exec_minI (o : SOps) (s : State) :
    exec (.minI o) s = execMinI o s := rfl
@[simp] theorem exec_maxI (o : SOps) (s : State) :
    exec (.maxI o) s = execMaxI o s := rfl
@[simp] theorem exec_minu (o : SOps) (s : State) :
    exec (.minu o) s = execMinu o s := rfl
@[simp] theorem exec_maxu (o : SOps) (s : State) :
    exec (.maxu o) s = execMaxu o s := rfl
@[simp] theorem exec_clz (o : SOps) (s : State) :
    exec (.clz o) s = execClz o s := rfl
@[simp] theorem exec_ctz (o : SOps) (s : State) :
    exec (.ctz o) s = execCtz o s := rfl
@[simp] theorem exec_popc (o : SOps) (s : State) :
    exec (.popc o) s = execPopc o s := rfl
@[simp] theorem exec_bfx (o : SOps) (s : State) :
    exec (.bfx o) s = execBfx o s := rfl
@[simp] theorem exec_bfi (o : SOps) (s : State) :
    exec (.bfi o) s = execBfi o s := rfl
@[simp] theorem exec_sel (o : SOps) (s : State) :
    exec (.sel o) s = execSel o s := rfl
@[simp] theorem exec_seqI (o : SOps) (s : State) :
    exec (.seqI o) s = execSeqI o s := rfl
@[simp] theorem exec_slt (o : SOps) (s : State) :
    exec (.slt o) s = execSlt o s := rfl
@[simp] theorem exec_sltu (o : SOps) (s : State) :
    exec (.sltu o) s = execSltu o s := rfl
@[simp] theorem exec_liI (o : SOps) (s : State) :
    exec (.liI o) s = execLiI o s := rfl
@[simp] theorem exec_liHi (o : SOps) (s : State) :
    exec (.liHi o) s = execLiHi o s := rfl
@[simp] theorem exec_mov (o : SOps) (s : State) :
    exec (.mov o) s = execMov o s := rfl
@[simp] theorem exec_fadd (o : SOps) (s : State) :
    exec (.fadd o) s = execFadd o s := rfl
@[simp] theorem exec_fsub (o : SOps) (s : State) :
    exec (.fsub o) s = execFsub o s := rfl
@[simp] theorem exec_fmul (o : SOps) (s : State) :
    exec (.fmul o) s = execFmul o s := rfl
@[simp] theorem exec_ffma (o : SOps) (s : State) :
    exec (.ffma o) s = execFfma o s := rfl
@[simp] theorem exec_fdiv (o : SOps) (s : State) :
    exec (.fdiv o) s = execFdiv o s := rfl
@[simp] theorem exec_fsqrt (o : SOps) (s : State) :
    exec (.fsqrt o) s = execFsqrt o s := rfl
@[simp] theorem exec_fmin (o : SOps) (s : State) :
    exec (.fmin o) s = execFmin o s := rfl
@[simp] theorem exec_fmax (o : SOps) (s : State) :
    exec (.fmax o) s = execFmax o s := rfl
@[simp] theorem exec_fcmp (r : FRel) (o : SOps) (s : State) :
    exec (.fcmp r o) s = execFcmp r o s := rfl
@[simp] theorem exec_fcvt (k : FCvt) (o : SOps) (s : State) :
    exec (.fcvt k o) s = execFcvt k o s := rfl
@[simp] theorem exec_sysr (o : SOps) (s : State) :
    exec (.sysr o) s = execSysr o s := rfl
@[simp] theorem exec_sysw (o : SOps) (s : State) :
    exec (.sysw o) s = execSysw o s := rfl
@[simp] theorem exec_timeI (o : SOps) (s : State) :
    exec (.timeI o) s = execTimeI o s := rfl
@[simp] theorem exec_cyc (o : SOps) (s : State) :
    exec (.cyc o) s = execCyc o s := rfl
@[simp] theorem exec_perf (o : SOps) (s : State) :
    exec (.perf o) s = execPerf o s := rfl
@[simp] theorem exec_thra (o : SOps) (s : State) :
    exec (.thra o) s = execThra o s := rfl
@[simp] theorem exec_ermark (o : SOps) (s : State) :
    exec (.ermark o) s = execErmark o s := rfl
@[simp] theorem exec_quota (o : SOps) (s : State) :
    exec (.quota o) s = execQuota o s := rfl
@[simp] theorem exec_gang (o : SOps) (s : State) :
    exec (.gang o) s = execGang o s := rfl
@[simp] theorem exec_cksum (o : SOps) (s : State) :
    exec (.cksum o) s = execCksum o s := rfl
@[simp] theorem exec_nop (o : SOps) (s : State) :
    exec (.nop o) s = execNop o s := rfl
@[simp] theorem exec_branch (c : BCond) (o : BOps) (s : State) :
    exec (.branch c o) s = execBranch c o s := rfl
@[simp] theorem exec_bcnt (c : CntCond) (o : BOps) (s : State) :
    exec (.bcnt c o) s = execBcnt c o s := rfl
@[simp] theorem exec_jmp (o : BOps) (s : State) :
    exec (.jmp o) s = execJmp o s := rfl
@[simp] theorem exec_jmpr (o : SOps) (s : State) :
    exec (.jmpr o) s = execJmpr o s := rfl
@[simp] theorem exec_call (o : BOps) (s : State) :
    exec (.call o) s = execCall o s := rfl
@[simp] theorem exec_ret (o : SOps) (s : State) :
    exec (.ret o) s = execRet o s := rfl
@[simp] theorem exec_loopI (o : BOps) (s : State) :
    exec (.loopI o) s = execLoopI o s := rfl
@[simp] theorem exec_spawn (o : BOps) (s : State) :
    exec (.spawn o) s = execSpawn o s := rfl
@[simp] theorem exec_joinI (o : SOps) (s : State) :
    exec (.joinI o) s = execJoinI o s := rfl
@[simp] theorem exec_tail (o : SOps) (s : State) :
    exec (.tail o) s = execTail o s := rfl
@[simp] theorem exec_halt (o : SOps) (s : State) :
    exec (.halt o) s = execHalt o s := rfl
@[simp] theorem exec_launchI (o : SOps) (s : State) :
    exec (.launchI o) s = execLaunchI o s := rfl
@[simp] theorem exec_trapI (o : SOps) (s : State) :
    exec (.trapI o) s = execTrapI o s := rfl
@[simp] theorem exec_tret (o : SOps) (s : State) :
    exec (.tret o) s = execTret o s := rfl
@[simp] theorem exec_bkpt (o : SOps) (s : State) :
    exec (.bkpt o) s = execBkpt o s := rfl
@[simp] theorem exec_waitInt (o : SOps) (s : State) :
    exec (.waitInt o) s = execWaitInt o s := rfl
@[simp] theorem exec_waitExt (o : SOps) (s : State) :
    exec (.waitExt o) s = execWaitExt o s := rfl
@[simp] theorem exec_yield (o : SOps) (s : State) :
    exec (.yield o) s = execYield o s := rfl
@[simp] theorem exec_srch (o : QOps) (s : State) :
    exec (.srch o) s = execSrch o s := rfl
@[simp] theorem exec_srchk (o : QOps) (s : State) :
    exec (.srchk o) s = execSrchk o s := rfl
@[simp] theorem exec_srchv (o : QOps) (s : State) :
    exec (.srchv o) s = execSrchv o s := rfl
@[simp] theorem exec_pushAll (o : QOps) (s : State) :
    exec (.pushAll o) s = execPushAll o s := rfl
@[simp] theorem exec_pop (o : QOps) (s : State) :
    exec (.pop o) s = execPop o s := rfl
@[simp] theorem exec_popn (o : QOps) (s : State) :
    exec (.popn o) s = execPopn o s := rfl
@[simp] theorem exec_elseSet (o : QOps) (s : State) :
    exec (.elseSet o) s = execElseSet o s := rfl
@[simp] theorem exec_fold (o : QOps) (s : State) :
    exec (.fold o) s = execFold o s := rfl
@[simp] theorem exec_firstSet (o : QOps) (s : State) :
    exec (.firstSet o) s = execFirstSet o s := rfl
@[simp] theorem exec_nextSet (o : QOps) (s : State) :
    exec (.nextSet o) s = execNextSet o s := rfl
@[simp] theorem exec_gcnt (o : QOps) (s : State) :
    exec (.gcnt o) s = execGcnt o s := rfl
@[simp] theorem exec_rdset (o : QOps) (s : State) :
    exec (.rdset o) s = execRdset o s := rfl
@[simp] theorem exec_wrset (o : QOps) (s : State) :
    exec (.wrset o) s = execWrset o s := rfl
@[simp] theorem exec_mark (o : QOps) (s : State) :
    exec (.mark o) s = execMark o s := rfl
@[simp] theorem exec_vadd (o : VOps) (s : State) :
    exec (.vadd o) s = execVadd o s := rfl
@[simp] theorem exec_vsub (o : VOps) (s : State) :
    exec (.vsub o) s = execVsub o s := rfl
@[simp] theorem exec_vmul (o : VOps) (s : State) :
    exec (.vmul o) s = execVmul o s := rfl
@[simp] theorem exec_vmulh (o : VOps) (s : State) :
    exec (.vmulh o) s = execVmulh o s := rfl
@[simp] theorem exec_vmad (o : VOps) (s : State) :
    exec (.vmad o) s = execVmad o s := rfl
@[simp] theorem exec_vadds (o : VOps) (s : State) :
    exec (.vadds o) s = execVadds o s := rfl
@[simp] theorem exec_vsubs (o : VOps) (s : State) :
    exec (.vsubs o) s = execVsubs o s := rfl
@[simp] theorem exec_vand (o : VOps) (s : State) :
    exec (.vand o) s = execVand o s := rfl
@[simp] theorem exec_vor (o : VOps) (s : State) :
    exec (.vor o) s = execVor o s := rfl
@[simp] theorem exec_vxor (o : VOps) (s : State) :
    exec (.vxor o) s = execVxor o s := rfl
@[simp] theorem exec_vnot (o : VOps) (s : State) :
    exec (.vnot o) s = execVnot o s := rfl
@[simp] theorem exec_vshl (o : VOps) (s : State) :
    exec (.vshl o) s = execVshl o s := rfl
@[simp] theorem exec_vshr (o : VOps) (s : State) :
    exec (.vshr o) s = execVshr o s := rfl
@[simp] theorem exec_vsra (o : VOps) (s : State) :
    exec (.vsra o) s = execVsra o s := rfl
@[simp] theorem exec_vmin (o : VOps) (s : State) :
    exec (.vmin o) s = execVmin o s := rfl
@[simp] theorem exec_vminu (o : VOps) (s : State) :
    exec (.vminu o) s = execVminu o s := rfl
@[simp] theorem exec_vmax (o : VOps) (s : State) :
    exec (.vmax o) s = execVmax o s := rfl
@[simp] theorem exec_vmaxu (o : VOps) (s : State) :
    exec (.vmaxu o) s = execVmaxu o s := rfl
@[simp] theorem exec_vabs (o : VOps) (s : State) :
    exec (.vabs o) s = execVabs o s := rfl
@[simp] theorem exec_vneg (o : VOps) (s : State) :
    exec (.vneg o) s = execVneg o s := rfl
@[simp] theorem exec_vclz (o : VOps) (s : State) :
    exec (.vclz o) s = execVclz o s := rfl
@[simp] theorem exec_vpopc (o : VOps) (s : State) :
    exec (.vpopc o) s = execVpopc o s := rfl
@[simp] theorem exec_vbfx (o : VOps) (s : State) :
    exec (.vbfx o) s = execVbfx o s := rfl
@[simp] theorem exec_vbfi (o : VOps) (s : State) :
    exec (.vbfi o) s = execVbfi o s := rfl
@[simp] theorem exec_vsel (o : VOps) (s : State) :
    exec (.vsel o) s = execVsel o s := rfl
@[simp] theorem exec_vmov (o : VOps) (s : State) :
    exec (.vmov o) s = execVmov o s := rfl
@[simp] theorem exec_vcmp (r : VRel) (o : VOps) (s : State) :
    exec (.vcmp r o) s = execVcmp r o s := rfl
@[simp] theorem exec_vrd (o : VOps) (s : State) :
    exec (.vrd o) s = execVrd o s := rfl
@[simp] theorem exec_vrdFirst (o : VOps) (s : State) :
    exec (.vrdFirst o) s = execVrdFirst o s := rfl
@[simp] theorem exec_vwr (o : VOps) (s : State) :
    exec (.vwr o) s = execVwr o s := rfl
@[simp] theorem exec_vred (f : RedOp) (o : VOps) (s : State) :
    exec (.vred f o) s = execVred f o s := rfl
@[simp] theorem exec_vscan (f : RedOp) (o : VOps) (s : State) :
    exec (.vscan f o) s = execVscan f o s := rfl
@[simp] theorem exec_vperm (o : VOps) (s : State) :
    exec (.vperm o) s = execVperm o s := rfl
@[simp] theorem exec_vlut (o : VOps) (s : State) :
    exec (.vlut o) s = execVlut o s := rfl
@[simp] theorem exec_vfadd (o : VOps) (s : State) :
    exec (.vfadd o) s = execVfadd o s := rfl
@[simp] theorem exec_vfsub (o : VOps) (s : State) :
    exec (.vfsub o) s = execVfsub o s := rfl
@[simp] theorem exec_vfmul (o : VOps) (s : State) :
    exec (.vfmul o) s = execVfmul o s := rfl
@[simp] theorem exec_vffma (o : VOps) (s : State) :
    exec (.vffma o) s = execVffma o s := rfl
@[simp] theorem exec_vfmin (o : VOps) (s : State) :
    exec (.vfmin o) s = execVfmin o s := rfl
@[simp] theorem exec_vfmax (o : VOps) (s : State) :
    exec (.vfmax o) s = execVfmax o s := rfl
@[simp] theorem exec_vfabs (o : VOps) (s : State) :
    exec (.vfabs o) s = execVfabs o s := rfl
@[simp] theorem exec_vfneg (o : VOps) (s : State) :
    exec (.vfneg o) s = execVfneg o s := rfl
@[simp] theorem exec_vfdiv (o : VOps) (s : State) :
    exec (.vfdiv o) s = execVfdiv o s := rfl
@[simp] theorem exec_vfsqrt (o : VOps) (s : State) :
    exec (.vfsqrt o) s = execVfsqrt o s := rfl
@[simp] theorem exec_vfrcp (o : VOps) (s : State) :
    exec (.vfrcp o) s = execVfrcp o s := rfl
@[simp] theorem exec_vfrsq (o : VOps) (s : State) :
    exec (.vfrsq o) s = execVfrsq o s := rfl
@[simp] theorem exec_vfexp2 (o : VOps) (s : State) :
    exec (.vfexp2 o) s = execVfexp2 o s := rfl
@[simp] theorem exec_vflog2 (o : VOps) (s : State) :
    exec (.vflog2 o) s = execVflog2 o s := rfl
@[simp] theorem exec_vfcmp (r : VFRel) (o : VOps) (s : State) :
    exec (.vfcmp r o) s = execVfcmp r o s := rfl
@[simp] theorem exec_vfclass (o : VOps) (s : State) :
    exec (.vfclass o) s = execVfclass o s := rfl
@[simp] theorem exec_vhadd (o : VOps) (s : State) :
    exec (.vhadd o) s = execVhadd o s := rfl
@[simp] theorem exec_vhmul (o : VOps) (s : State) :
    exec (.vhmul o) s = execVhmul o s := rfl
@[simp] theorem exec_vhfma (o : VOps) (s : State) :
    exec (.vhfma o) s = execVhfma o s := rfl
@[simp] theorem exec_vcvtEnc (o : VOps) (s : State) :
    exec (.vcvtEnc o) s = execVcvtEnc o s := rfl
@[simp] theorem exec_vcvtDec (o : VOps) (s : State) :
    exec (.vcvtDec o) s = execVcvtDec o s := rfl
@[simp] theorem exec_vcvt (k : HCvt) (o : VOps) (s : State) :
    exec (.vcvt k o) s = execVcvt k o s := rfl
@[simp] theorem exec_vcvti (k : ICvt) (o : VOps) (s : State) :
    exec (.vcvti k o) s = execVcvti k o s := rfl
@[simp] theorem exec_vpack (o : VOps) (s : State) :
    exec (.vpack o) s = execVpack o s := rfl
@[simp] theorem exec_vunpk (o : VOps) (s : State) :
    exec (.vunpk o) s = execVunpk o s := rfl
@[simp] theorem exec_ld (o : MOps) (s : State) :
    exec (.ld o) s = execLd o s := rfl
@[simp] theorem exec_st (o : MOps) (s : State) :
    exec (.st o) s = execSt o s := rfl
@[simp] theorem exec_lds (o : MOps) (s : State) :
    exec (.lds o) s = execLds o s := rfl
@[simp] theorem exec_sts (o : MOps) (s : State) :
    exec (.sts o) s = execSts o s := rfl
@[simp] theorem exec_ldsc (o : MOps) (s : State) :
    exec (.ldsc o) s = execLdsc o s := rfl
@[simp] theorem exec_sld (o : MOps) (s : State) :
    exec (.sld o) s = execSld o s := rfl
@[simp] theorem exec_sst (o : MOps) (s : State) :
    exec (.sst o) s = execSst o s := rfl
@[simp] theorem exec_pref (o : MOps) (s : State) :
    exec (.pref o) s = execPref o s := rfl
@[simp] theorem exec_atom (o : MOps) (s : State) :
    exec (.atom o) s = execAtom o s := rfl
@[simp] theorem exec_atoms (o : MOps) (s : State) :
    exec (.atoms o) s = execAtoms o s := rfl
@[simp] theorem exec_satom (o : MOps) (s : State) :
    exec (.satom o) s = execSatom o s := rfl
@[simp] theorem exec_fence (o : MOps) (s : State) :
    exec (.fence o) s = execFence o s := rfl
@[simp] theorem exec_bara (o : MOps) (s : State) :
    exec (.bara o) s = execBara o s := rfl
@[simp] theorem exec_barw (o : MOps) (s : State) :
    exec (.barw o) s = execBarw o s := rfl
@[simp] theorem exec_baraw (o : MOps) (s : State) :
    exec (.baraw o) s = execBaraw o s := rfl
@[simp] theorem exec_gbar (o : MOps) (s : State) :
    exec (.gbar o) s = execGbar o s := rfl
@[simp] theorem exec_lockW (o : MOps) (s : State) :
    exec (.lockW o) s = execLockW o s := rfl
@[simp] theorem exec_unlockW (o : MOps) (s : State) :
    exec (.unlockW o) s = execUnlockW o s := rfl
@[simp] theorem exec_trylock (o : MOps) (s : State) :
    exec (.trylock o) s = execTrylock o s := rfl
@[simp] theorem exec_waitv (o : MOps) (s : State) :
    exec (.waitv o) s = execWaitv o s := rfl
@[simp] theorem exec_mma (sat : Bool) (ty : MatTy) (o : TOps) (s : State) :
    exec (.mma sat ty o) s = execMma sat ty o s := rfl
@[simp] theorem exec_mmag (sat : Bool) (ty : MatTy) (o : TOps) (s : State) :
    exec (.mmag sat ty o) s = execMmag sat ty o s := rfl
@[simp] theorem exec_tzero (o : TOps) (s : State) :
    exec (.tzero o) s = execTzero o s := rfl
@[simp] theorem exec_tld (o : TOps) (s : State) :
    exec (.tld o) s = execTld o s := rfl
@[simp] theorem exec_tst (o : TOps) (s : State) :
    exec (.tst o) s = execTst o s := rfl
@[simp] theorem exec_tmov (o : TOps) (s : State) :
    exec (.tmov o) s = execTmov o s := rfl
@[simp] theorem exec_tscale (o : TOps) (s : State) :
    exec (.tscale o) s = execTscale o s := rfl
@[simp] theorem exec_trow (sum : Bool) (o : TOps) (s : State) :
    exec (.trow sum o) s = execTrow sum o s := rfl
@[simp] theorem exec_tcommit (o : TOps) (s : State) :
    exec (.tcommit o) s = execTcommit o s := rfl
@[simp] theorem exec_tdiscard (o : TOps) (s : State) :
    exec (.tdiscard o) s = execTdiscard o s := rfl
@[simp] theorem exec_bmv (sat : Bool) (ty : MatTy) (o : TOps) (s : State) :
    exec (.bmv sat ty o) s = execBmv sat ty o s := rfl
@[simp] theorem exec_finit (o : FOps) (s : State) :
    exec (.finit o) s = execFinit o s := rfl
@[simp] theorem exec_fupd (o : FOps) (s : State) :
    exec (.fupd o) s = execFupd o s := rfl
@[simp] theorem exec_fdwn (o : FOps) (s : State) :
    exec (.fdwn o) s = execFdwn o s := rfl
@[simp] theorem exec_fsolv (o : FOps) (s : State) :
    exec (.fsolv o) s = execFsolv o s := rfl
@[simp] theorem exec_fstat (o : FOps) (s : State) :
    exec (.fstat o) s = execFstat o s := rfl
@[simp] theorem exec_job (o : EOps) (s : State) :
    exec (.job o) s = execJob o s := rfl
@[simp] theorem exec_jwait (o : EOps) (s : State) :
    exec (.jwait o) s = execJwait o s := rfl
@[simp] theorem exec_jpoll (o : EOps) (s : State) :
    exec (.jpoll o) s = execJpoll o s := rfl
@[simp] theorem exec_pendingDelivery (c id : Nat) (s : State) :
    exec (.pendingDelivery c id) s = execPendingDelivery c id s := rfl
@[simp] theorem exec_lateScalarResult (c slot : Nat) (reg : SReg) (s : State) :
    exec (.lateScalarResult c slot reg) s = execLateScalarResult c slot reg s := rfl
@[simp] theorem exec_ldscByteLanding (c id : Nat) (s : State) :
    exec (.ldscByteLanding c id) s = execLdscByteLanding c id s := rfl
@[simp] theorem exec_jobStart (c b ticket : Nat) (s : State) :
    exec (.jobStart c b ticket) s = execJobStart c b ticket s := rfl
@[simp] theorem exec_jobRetire (c b ticket : Nat) (s : State) :
    exec (.jobRetire c b ticket) s = execJobRetire c b ticket s := rfl
@[simp] theorem exec_jobFault (c b ticket : Nat) (s : State) :
    exec (.jobFault c b ticket) s = execJobFault c b ticket s := rfl
@[simp] theorem exec_tileEngineDone (c id : Nat) (s : State) :
    exec (.tileEngineDone c id) s = execTileEngineDone c id s := rfl
@[simp] theorem exec_factorSweepRetire (c slot : Nat) (s : State) :
    exec (.factorSweepRetire c slot) s = execFactorSweepRetire c slot s := rfl
@[simp] theorem exec_watchFire (c slot : Nat) (s : State) :
    exec (.watchFire c slot) s = execWatchFire c slot s := rfl
@[simp] theorem exec_waitTimeout (c slot : Nat) (s : State) :
    exec (.waitTimeout c slot) s = execWaitTimeout c slot s := rfl
@[simp] theorem exec_spawnSlotTimeout (c slot : Nat) (s : State) :
    exec (.spawnSlotTimeout c slot) s = execSpawnSlotTimeout c slot s := rfl
@[simp] theorem exec_timerFire (c slot : Nat) (s : State) :
    exec (.timerFire c slot) s = execTimerFire c slot s := rfl
@[simp] theorem exec_trapEntry (c slot : Nat) (s : State) :
    exec (.trapEntry c slot) s = execTrapEntry c slot s := rfl
@[simp] theorem exec_controlIntervalBoundary (draws : List Nat) (s : State) :
    exec (.controlIntervalBoundary draws) s = execControlIntervalBoundary draws s := rfl
@[simp] theorem exec_taskAdmit (c slot : Nat) (s : State) :
    exec (.taskAdmit c slot) s = execTaskAdmit c slot s := rfl
@[simp] theorem exec_droopStretchEnd (c : Nat) (s : State) :
    exec (.droopStretchEnd c) s = execDroopStretchEnd c s := rfl
@[simp] theorem exec_droopHalvingEnd (c : Nat) (s : State) :
    exec (.droopHalvingEnd c) s = execDroopHalvingEnd c s := rfl
@[simp] theorem exec_contextKill (ctx : Nat) (s : State) :
    exec (.contextKill ctx) s = execContextKill ctx s := rfl
@[simp] theorem exec_killHorizon (ctx : Nat) (s : State) :
    exec (.killHorizon ctx) s = execKillHorizon ctx s := rfl
@[simp] theorem exec_watchdog (c slot : Nat) (s : State) :
    exec (.watchdog c slot) s = execWatchdog c slot s := rfl
@[simp] theorem exec_freezeVaults (unit cause : Nat) (info : Word) (s : State) :
    exec (.freezeVaults unit cause info) s = execFreezeVaults unit cause info s := rfl
@[simp] theorem exec_freezeToken (unit : Nat) (s : State) :
    exec (.freezeToken unit) s = execFreezeToken unit s := rfl
@[simp] theorem exec_gapRecord (unit : Nat) (s : State) :
    exec (.gapRecord unit) s = execGapRecord unit s := rfl
@[simp] theorem exec_barrierFold (c b : Nat) (s : State) :
    exec (.barrierFold c b) s = execBarrierFold c b s := rfl
@[simp] theorem exec_censusMerge (ctx : Nat) (s : State) :
    exec (.censusMerge ctx) s = execCensusMerge ctx s := rfl
@[simp] theorem exec_queueSlotMap (q : Nat) (s : State) :
    exec (.queueSlotMap q) s = execQueueSlotMap q s := rfl
@[simp] theorem exec_packetStart (q : Nat) (s : State) :
    exec (.packetStart q) s = execPacketStart q s := rfl
@[simp] theorem exec_qeLdp (o : QeOps) (s : State) :
    exec (.qeLdp o) s = execQeLdp o s := rfl
@[simp] theorem exec_qeLdw (o : QeOps) (s : State) :
    exec (.qeLdw o) s = execQeLdw o s := rfl
@[simp] theorem exec_qeStw (o : QeOps) (s : State) :
    exec (.qeStw o) s = execQeStw o s := rfl
@[simp] theorem exec_qeLdi (o : QeOps) (s : State) :
    exec (.qeLdi o) s = execQeLdi o s := rfl
@[simp] theorem exec_qeMov (o : QeOps) (s : State) :
    exec (.qeMov o) s = execQeMov o s := rfl
@[simp] theorem exec_qeAdd (o : QeOps) (s : State) :
    exec (.qeAdd o) s = execQeAdd o s := rfl
@[simp] theorem exec_qeAddi (o : QeOps) (s : State) :
    exec (.qeAddi o) s = execQeAddi o s := rfl
@[simp] theorem exec_qeSub (o : QeOps) (s : State) :
    exec (.qeSub o) s = execQeSub o s := rfl
@[simp] theorem exec_qeAnd (o : QeOps) (s : State) :
    exec (.qeAnd o) s = execQeAnd o s := rfl
@[simp] theorem exec_qeOr (o : QeOps) (s : State) :
    exec (.qeOr o) s = execQeOr o s := rfl
@[simp] theorem exec_qeShl (o : QeOps) (s : State) :
    exec (.qeShl o) s = execQeShl o s := rfl
@[simp] theorem exec_qeShr (o : QeOps) (s : State) :
    exec (.qeShr o) s = execQeShr o s := rfl
@[simp] theorem exec_qeBeq (o : QeOps) (s : State) :
    exec (.qeBeq o) s = execQeBeq o s := rfl
@[simp] theorem exec_qeBne (o : QeOps) (s : State) :
    exec (.qeBne o) s = execQeBne o s := rfl
@[simp] theorem exec_qeBltu (o : QeOps) (s : State) :
    exec (.qeBltu o) s = execQeBltu o s := rfl
@[simp] theorem exec_qeBgeu (o : QeOps) (s : State) :
    exec (.qeBgeu o) s = execQeBgeu o s := rfl
@[simp] theorem exec_qeJmpf (o : QeOps) (s : State) :
    exec (.qeJmpf o) s = execQeJmpf o s := rfl
@[simp] theorem exec_qeLoop (o : QeOps) (s : State) :
    exec (.qeLoop o) s = execQeLoop o s := rfl
@[simp] theorem exec_qeWaitsig (o : QeOps) (s : State) :
    exec (.qeWaitsig o) s = execQeWaitsig o s := rfl
@[simp] theorem exec_qeLaunch (o : QeOps) (s : State) :
    exec (.qeLaunch o) s = execQeLaunch o s := rfl
@[simp] theorem exec_qeLaunchp (o : QeOps) (s : State) :
    exec (.qeLaunchp o) s = execQeLaunchp o s := rfl
@[simp] theorem exec_qeSignal (o : QeOps) (s : State) :
    exec (.qeSignal o) s = execQeSignal o s := rfl
@[simp] theorem exec_qeAdvance (o : QeOps) (s : State) :
    exec (.qeAdvance o) s = execQeAdvance o s := rfl
@[simp] theorem exec_qeFence (o : QeOps) (s : State) :
    exec (.qeFence o) s = execQeFence o s := rfl
@[simp] theorem exec_indirectDimRead (grid : Nat) (s : State) :
    exec (.indirectDimRead grid) s = execIndirectDimRead grid s := rfl
@[simp] theorem exec_blockPlace (grid : Nat) (s : State) :
    exec (.blockPlace grid) s = execBlockPlace grid s := rfl
@[simp] theorem exec_trackerEntryFree (c id : Nat) (s : State) :
    exec (.trackerEntryFree c id) s = execTrackerEntryFree c id s := rfl
@[simp] theorem exec_wsfillDone (id : Nat) (s : State) :
    exec (.wsfillDone id) s = execWsfillDone id s := rfl
@[simp] theorem exec_accessPerformed (c slot id : Nat) (s : State) :
    exec (.accessPerformed c slot id) s = execAccessPerformed c slot id s := rfl
@[simp] theorem exec_pageWalkDone (c slot : Nat) (s : State) :
    exec (.pageWalkDone c slot) s = execPageWalkDone c slot s := rfl
@[simp] theorem exec_bankComputeDone (c id : Nat) (s : State) :
    exec (.bankComputeDone c id) s = execBankComputeDone c id s := rfl
@[simp] theorem exec_waitsigConditionHolds (q : Nat) (s : State) :
    exec (.waitsigConditionHolds q) s = execWaitsigConditionHolds q s := rfl
@[simp] theorem exec_droopTrip (c : Nat) (s : State) :
    exec (.droopTrip c) s = execDroopTrip c s := rfl
@[simp] theorem exec_preemptRequest (ctx rows : Nat) (s : State) :
    exec (.preemptRequest ctx rows) s = execPreemptRequest ctx rows s := rfl
@[simp] theorem exec_preemptImageCaptured (ctx : Nat) (s : State) :
    exec (.preemptImageCaptured ctx) s = execPreemptImageCaptured ctx s := rfl
@[simp] theorem exec_atomicReplyTimeout (c slot id : Nat) (s : State) :
    exec (.atomicReplyTimeout c slot id) s = execAtomicReplyTimeout c slot id s := rfl
@[simp] theorem exec_contextRestore (ctx : Nat) (s : State) :
    exec (.contextRestore ctx) s = execContextRestore ctx s := rfl
@[simp] theorem exec_retentionEntry (c : Nat) (s : State) :
    exec (.retentionEntry c) s = execRetentionEntry c s := rfl
@[simp] theorem exec_retentionExit (c : Nat) (parityOk : Bool) (s : State) :
    exec (.retentionExit c parityOk) s = execRetentionExit c parityOk s := rfl
@[simp] theorem exec_softError (site : ErrSite) (correctable : Bool) (s : State) :
    exec (.softError site correctable) s = execSoftError site correctable s := rfl
@[simp] theorem exec_refreshWindow (die group : Nat) (s : State) :
    exec (.refreshWindow die group) s = execRefreshWindow die group s := rfl
@[simp] theorem exec_tokenPull (sender receiver : Nat) (reply : Bool) (s : State) :
    exec (.tokenPull sender receiver reply) s = execTokenPull sender receiver reply s := rfl
@[simp] theorem exec_tokenSpill (sender receiver : Nat) (reply : Bool) (s : State) :
    exec (.tokenSpill sender receiver reply) s = execTokenSpill sender receiver reply s := rfl
@[simp] theorem exec_backInvalidate (line : Nat) (bytes : List Byte) (s : State) :
    exec (.backInvalidate line bytes) s = execBackInvalidate line bytes s := rfl
@[simp] theorem exec_doorbellHostWrite (word : Nat) (value : Word) (s : State) :
    exec (.doorbellHostWrite word value) s = execDoorbellHostWrite word value s := rfl
@[simp] theorem exec_functionReady (bit : Nat) (s : State) :
    exec (.functionReady bit) s = execFunctionReady bit s := rfl
@[simp] theorem exec_partitionCommit (value : Word) (s : State) :
    exec (.partitionCommit value) s = execPartitionCommit value s := rfl
@[simp] theorem exec_registerWrite (offset bytes value : Nat) (s : State) :
    exec (.registerWrite offset bytes value) s = execRegisterWrite offset bytes value s := rfl
@[simp] theorem exec_uncontainedHardwareError (unit : Nat) (s : State) :
    exec (.uncontainedHardwareError unit) s = execUncontainedHardwareError unit s := rfl
@[simp] theorem exec_infoCmd (h : CmdHdr) (s : State) :
    exec (.infoCmd h) s = execInfoCmd h s := rfl
@[simp] theorem exec_ctxset (h : CmdHdr) (ctx : Nat) (d : CtxDesc) (s : State) :
    exec (.ctxset h ctx d) s = execCtxset h ctx d s := rfl
@[simp] theorem exec_mapPage (h : CmdHdr) (va leaf : Word) (ctx : Nat) (s : State) :
    exec (.mapPage h va leaf ctx) s = execMapPage h va leaf ctx s := rfl
@[simp] theorem exec_unmapPage (h : CmdHdr) (va : Word) (ctx : Nat) (s : State) :
    exec (.unmapPage h va ctx) s = execUnmapPage h va ctx s := rfl
@[simp] theorem exec_qreg (h : CmdHdr) (va : Word) (ctx : Nat) (s : State) :
    exec (.qreg h va ctx) s = execQreg h va ctx s := rfl
@[simp] theorem exec_qdereg (h : CmdHdr) (va : Word) (ctx : Nat) (s : State) :
    exec (.qdereg h va ctx) s = execQdereg h va ctx s := rfl
@[simp] theorem exec_wsfill (h : CmdHdr) (frame : Word) (count : Nat) (source signal : Word) (s : State) :
    exec (.wsfill h frame count source signal) s = execWsfill h frame count source signal s := rfl
@[simp] theorem exec_attest (h : CmdHdr) (nonce : List Byte) (s : State) :
    exec (.attest h nonce) s = execAttest h nonce s := rfl
@[simp] theorem exec_fwstage (h : CmdHdr) (offset : Nat) (s : State) :
    exec (.fwstage h offset) s = execFwstage h offset s := rfl
@[simp] theorem exec_fwcommit (h : CmdHdr) (raise : Bool) (s : State) :
    exec (.fwcommit h raise) s = execFwcommit h raise s := rfl
@[simp] theorem exec_caplist (h : CmdHdr) (s : State) :
    exec (.caplist h) s = execCaplist h s := rfl
@[simp] theorem exec_capview (h : CmdHdr) (handle : Nat) (operator : Bool) (creds : List (Nat × List Byte)) (s : State) :
    exec (.capview h handle operator creds) s = execCapview h handle operator creds s := rfl
@[simp] theorem exec_capread (h : CmdHdr) (view offset : Nat) (s : State) :
    exec (.capread h view offset) s = execCapread h view offset s := rfl
@[simp] theorem exec_caprel (h : CmdHdr) (handle : Nat) (s : State) :
    exec (.caprel h handle) s = execCaprel h handle s := rfl
@[simp] theorem exec_capfreeze (h : CmdHdr) (s : State) :
    exec (.capfreeze h) s = execCapfreeze h s := rfl
@[simp] theorem exec_norlist (h : CmdHdr) (s : State) :
    exec (.norlist h) s = execNorlist h s := rfl
@[simp] theorem exec_cklog (h : CmdHdr) (ctx : Nat) (base : Word) (entries : Nat) (s : State) :
    exec (.cklog h ctx base entries) s = execCklog h ctx base entries s := rfl
@[simp] theorem exec_censusCmd (h : CmdHdr) (ctx : Nat) (base : Word) (entries : Nat) (s : State) :
    exec (.censusCmd h ctx base entries) s = execCensusCmd h ctx base entries s := rfl
@[simp] theorem exec_errread (h : CmdHdr) (s : State) :
    exec (.errread h) s = execErrread h s := rfl
@[simp] theorem exec_fnote (h : CmdHdr) (addr : Word) (s : State) :
    exec (.fnote h addr) s = execFnote h addr s := rfl
@[simp] theorem exec_faultNotice (s : State) :
    exec .faultNotice s = execFaultNotice s := rfl
@[simp] theorem exec_capsuleAssembled (s : State) :
    exec .capsuleAssembled s = execCapsuleAssembled s := rfl
@[simp] theorem exec_capsuleNorSummary (s : State) :
    exec .capsuleNorSummary s = execCapsuleNorSummary s := rfl
@[simp] theorem exec_epochRecord (s : State) :
    exec .epochRecord s = execEpochRecord s := rfl
@[simp] theorem exec_deviceReset (s : State) :
    exec .deviceReset s = execDeviceReset s := rfl
@[simp] theorem exec_coldPowerOn (s : State) :
    exec .coldPowerOn s = execColdPowerOn s := rfl
@[simp] theorem exec_firmwareBoot (s : State) :
    exec .firmwareBoot s = execFirmwareBoot s := rfl

end Sys2Proof.Machine
end

