-- ==== Sys2Proof/Laws/Maps.lean ====
section
/-!
SUPPORT. Finite maps: what a map reads after an update. None of these laws asks for the sorted form.
-/
namespace Sys2Proof.SMap

variable {α : Type}

@[simp] theorem get?_nil (k : Nat) : get? ([] : SMap α) k = none := rfl

@[simp] theorem get?_set_self (m : SMap α) (k : Nat) (v : α) : (m.set k v).get? k = some v := by
  induction m with
  | nil => simp [set, get?]
  | cons p r ih =>
    obtain ⟨k', w⟩ := p
    simp only [set]
    split
    · simp [get?]
    · split
      · simp [get?]
      · rename_i h
        have : k' ≠ k := fun e => h e.symm
        simp [get?, this, ih]

theorem get?_set_ne (m : SMap α) {k j : Nat} (v : α) (h : j ≠ k) : (m.set k v).get? j = m.get? j := by
  induction m with
  | nil => simp [set, get?, h.symm]
  | cons p r ih =>
    obtain ⟨k', w⟩ := p
    simp only [set]
    split
    · simp [get?, h.symm]
    · split
      · rename_i h'
        subst h'
        simp [get?, h.symm]
      · simp [get?, ih]

theorem get?_set (m : SMap α) (k j : Nat) (v : α) : (m.set k v).get? j = if j = k then some v else m.get? j := by
  split
  · rename_i h
    rw [h, get?_set_self]
  · rename_i h
    exact get?_set_ne m v h

@[simp] theorem get?_del_self (m : SMap α) (k : Nat) : (m.del k).get? k = none := by
  induction m with
  | nil => rfl
  | cons p r ih =>
    obtain ⟨k', w⟩ := p
    simp only [del]
    split
    · exact ih
    · rename_i h
      simp [get?, h, ih]

theorem get?_del_ne (m : SMap α) {k j : Nat} (h : j ≠ k) : (m.del k).get? j = m.get? j := by
  induction m with
  | nil => rfl
  | cons p r ih =>
    obtain ⟨k', w⟩ := p
    simp only [del]
    split
    · rename_i h'
      subst h'
      simp [get?, h.symm, ih]
    · simp [get?, ih]

theorem get?_modify (m : SMap α) (k j : Nat) (f : α → α) :
    (m.modify k f).get? j = if j = k then (m.get? k).map f else m.get? j := by
  unfold modify
  split
  · rename_i h
    split
    · rename_i h'
      simp [h', h]
    · rfl
  · rename_i v h
    simp only [get?_set, h, Option.map_some]

/-- A value that a map has at a key is one of its entries. -/
theorem mem_of_get? {m : SMap α} {k : Nat} {v : α} (h : m.get? k = some v) : (k, v) ∈ m := by
  induction m with
  | nil => simp at h
  | cons p r ih =>
    obtain ⟨k', w⟩ := p
    simp only [get?] at h
    split at h
    · rename_i h'
      obtain rfl := Option.some.inj h
      simp [h']
    · exact List.mem_cons_of_mem _ (ih h)

/-- The keys after an update are the old ones and the new one. -/
theorem mem_set {m : SMap α} {k : Nat} {v : α} {p : Nat × α} (h : p ∈ m.set k v) : p = (k, v) ∨ p ∈ m := by
  induction m with
  | nil => simpa [set] using h
  | cons q r ih =>
    obtain ⟨k', w⟩ := q
    simp only [set] at h
    split at h
    · simpa using h
    · split at h
      · rcases List.mem_cons.mp h with h | h
        · exact .inl h
        · exact .inr (List.mem_cons_of_mem _ h)
      · rcases List.mem_cons.mp h with h | h
        · exact .inr (by simp [h])
        · exact (ih h).imp id (List.mem_cons_of_mem _)

end Sys2Proof.SMap
end

