-- ==== Sys2Proof/Laws/State.lean ====
section
/-!
SUPPORT. The fields of the state after each named update of it, and what a cluster, a strand and a block read after one.
-/
namespace Sys2Proof.Machine.State

/-! ### Fields that an update leaves -/

section
variable (s : State) (c : Nat) (cl : Cluster)

@[simp] theorem setCluster_time : (s.setCluster c cl).time = s.time := rfl
@[simp] theorem setCluster_mem : (s.setCluster c cl).mem = s.mem := rfl
@[simp] theorem setCluster_poolsz : (s.setCluster c cl).poolsz = s.poolsz := rfl
@[simp] theorem setCluster_ports : (s.setCluster c cl).ports = s.ports := rfl
@[simp] theorem setCluster_ctxs : (s.setCluster c cl).ctxs = s.ctxs := rfl
@[simp] theorem setCluster_code : (s.setCluster c cl).code = s.code := rfl
@[simp] theorem setCluster_bells : (s.setCluster c cl).bells = s.bells := rfl
@[simp] theorem setCluster_queues : (s.setCluster c cl).queues = s.queues := rfl
@[simp] theorem setCluster_grids : (s.setCluster c cl).grids = s.grids := rfl
@[simp] theorem setCluster_lastPlaced : (s.setCluster c cl).lastPlaced = s.lastPlaced := rfl
@[simp] theorem setCluster_approved : (s.setCluster c cl).approved = s.approved := rfl
@[simp] theorem setCluster_mapCounts : (s.setCluster c cl).mapCounts = s.mapCounts := rfl
@[simp] theorem setCluster_dtlb : (s.setCluster c cl).dtlb = s.dtlb := rfl
@[simp] theorem setCluster_locks : (s.setCluster c cl).locks = s.locks := rfl
@[simp] theorem setCluster_sharedLines : (s.setCluster c cl).sharedLines = s.sharedLines := rfl
@[simp] theorem setCluster_fills : (s.setCluster c cl).fills = s.fills := rfl
@[simp] theorem setCluster_ready : (s.setCluster c cl).ready = s.ready := rfl
@[simp] theorem setCluster_active : (s.setCluster c cl).active = s.active := rfl
@[simp] theorem setCluster_staged : (s.setCluster c cl).staged = s.staged := rfl
@[simp] theorem setCluster_pstat : (s.setCluster c cl).pstat = s.pstat := rfl
@[simp] theorem setCluster_ceil : (s.setCluster c cl).ceil = s.ceil := rfl
@[simp] theorem setCluster_page0 : (s.setCluster c cl).page0 = s.page0 := rfl
@[simp] theorem setCluster_page1 : (s.setCluster c cl).page1 = s.page1 := rfl
@[simp] theorem setCluster_server : (s.setCluster c cl).server = s.server := rfl
@[simp] theorem setCluster_vaults : (s.setCluster c cl).vaults = s.vaults := rfl
@[simp] theorem setCluster_freeze : (s.setCluster c cl).freeze = s.freeze := rfl
@[simp] theorem setCluster_capsule : (s.setCluster c cl).capsule = s.capsule := rfl
@[simp] theorem setCluster_summaries : (s.setCluster c cl).summaries = s.summaries := rfl
@[simp] theorem setCluster_views : (s.setCluster c cl).views = s.views := rfl
@[simp] theorem setCluster_nor : (s.setCluster c cl).nor = s.nor := rfl
@[simp] theorem setCluster_norOpen : (s.setCluster c cl).norOpen = s.norOpen := rfl
@[simp] theorem setCluster_norDue : (s.setCluster c cl).norDue = s.norDue := rfl
@[simp] theorem setCluster_capno : (s.setCluster c cl).capno = s.capno := rfl
@[simp] theorem setCluster_nextIndex : (s.setCluster c cl).nextIndex = s.nextIndex := rfl
@[simp] theorem setCluster_reserved : (s.setCluster c cl).reserved = s.reserved := rfl
@[simp] theorem setCluster_idNext : (s.setCluster c cl).idNext = s.idNext := rfl
@[simp] theorem setCluster_idReserved : (s.setCluster c cl).idReserved = s.idReserved := rfl
@[simp] theorem setCluster_capWindow : (s.setCluster c cl).capWindow = s.capWindow := rfl
@[simp] theorem setCluster_attWindow : (s.setCluster c cl).attWindow = s.attWindow := rfl
@[simp] theorem setCluster_fwWindow : (s.setCluster c cl).fwWindow = s.fwWindow := rfl
@[simp] theorem setCluster_fwA : (s.setCluster c cl).fwA = s.fwA := rfl
@[simp] theorem setCluster_fwB : (s.setCluster c cl).fwB = s.fwB := rfl
@[simp] theorem setCluster_running : (s.setCluster c cl).running = s.running := rfl
@[simp] theorem setCluster_booted : (s.setCluster c cl).booted = s.booted := rfl
@[simp] theorem setCluster_boot : (s.setCluster c cl).boot = s.boot := rfl
@[simp] theorem setCluster_minSvn : (s.setCluster c cl).minSvn = s.minSvn := rfl
@[simp] theorem setCluster_serialNo : (s.setCluster c cl).serialNo = s.serialNo := rfl
@[simp] theorem setCluster_errsum : (s.setCluster c cl).errsum = s.errsum := rfl
@[simp] theorem setCluster_norErr : (s.setCluster c cl).norErr = s.norErr := rfl
@[simp] theorem setCluster_fnote : (s.setCluster c cl).fnote = s.fnote := rfl
@[simp] theorem setCluster_kills : (s.setCluster c cl).kills = s.kills := rfl
@[simp] theorem setCluster_killDue : (s.setCluster c cl).killDue = s.killDue := rfl
@[simp] theorem setCluster_links : (s.setCluster c cl).links = s.links := rfl
@[simp] theorem setCluster_cellar : (s.setCluster c cl).cellar = s.cellar := rfl
@[simp] theorem setCluster_notices : (s.setCluster c cl).notices = s.notices := rfl
@[simp] theorem setCluster_debts : (s.setCluster c cl).debts = s.debts := rfl
@[simp] theorem setCluster_poison : (s.setCluster c cl).poison = s.poison := rfl
@[simp] theorem setCluster_phases : (s.setCluster c cl).phases = s.phases := rfl
@[simp] theorem setCluster_dead : (s.setCluster c cl).dead = s.dead := rfl
@[simp] theorem setCluster_unmapping : (s.setCluster c cl).unmapping = s.unmapping := rfl
@[simp] theorem setCluster_upAt : (s.setCluster c cl).upAt = s.upAt := rfl
@[simp] theorem setCluster_fresh : (s.setCluster c cl).fresh = s.fresh := rfl
@[simp] theorem setCluster_freeCount : (s.setCluster c cl).freeCount = s.freeCount := rfl
@[simp] theorem setCluster_intervals : (s.setCluster c cl).intervals = s.intervals := rfl
@[simp] theorem setCluster_epochs : (s.setCluster c cl).epochs = s.epochs := rfl
@[simp] theorem setCluster_agenda : (s.setCluster c cl).agenda = s.agenda := rfl
@[simp] theorem setCluster_cur : (s.setCluster c cl).cur = s.cur := rfl
@[simp] theorem setCluster_curQ : (s.setCluster c cl).curQ = s.curQ := rfl
@[simp] theorem setCluster_cap : (s.setCluster c cl).cap = s.cap := rfl
@[simp] theorem setCluster_ahead : (s.setCluster c cl).ahead = s.ahead := rfl
end

section
variable (s : State) (c : Nat) (f : Cluster → Cluster)

@[simp] theorem modCluster_time : (s.modCluster c f).time = s.time := rfl
@[simp] theorem modCluster_mem : (s.modCluster c f).mem = s.mem := rfl
@[simp] theorem modCluster_poolsz : (s.modCluster c f).poolsz = s.poolsz := rfl
@[simp] theorem modCluster_ports : (s.modCluster c f).ports = s.ports := rfl
@[simp] theorem modCluster_ctxs : (s.modCluster c f).ctxs = s.ctxs := rfl
@[simp] theorem modCluster_code : (s.modCluster c f).code = s.code := rfl
@[simp] theorem modCluster_bells : (s.modCluster c f).bells = s.bells := rfl
@[simp] theorem modCluster_queues : (s.modCluster c f).queues = s.queues := rfl
@[simp] theorem modCluster_grids : (s.modCluster c f).grids = s.grids := rfl
@[simp] theorem modCluster_lastPlaced : (s.modCluster c f).lastPlaced = s.lastPlaced := rfl
@[simp] theorem modCluster_approved : (s.modCluster c f).approved = s.approved := rfl
@[simp] theorem modCluster_mapCounts : (s.modCluster c f).mapCounts = s.mapCounts := rfl
@[simp] theorem modCluster_dtlb : (s.modCluster c f).dtlb = s.dtlb := rfl
@[simp] theorem modCluster_locks : (s.modCluster c f).locks = s.locks := rfl
@[simp] theorem modCluster_sharedLines : (s.modCluster c f).sharedLines = s.sharedLines := rfl
@[simp] theorem modCluster_fills : (s.modCluster c f).fills = s.fills := rfl
@[simp] theorem modCluster_ready : (s.modCluster c f).ready = s.ready := rfl
@[simp] theorem modCluster_active : (s.modCluster c f).active = s.active := rfl
@[simp] theorem modCluster_staged : (s.modCluster c f).staged = s.staged := rfl
@[simp] theorem modCluster_pstat : (s.modCluster c f).pstat = s.pstat := rfl
@[simp] theorem modCluster_ceil : (s.modCluster c f).ceil = s.ceil := rfl
@[simp] theorem modCluster_page0 : (s.modCluster c f).page0 = s.page0 := rfl
@[simp] theorem modCluster_page1 : (s.modCluster c f).page1 = s.page1 := rfl
@[simp] theorem modCluster_server : (s.modCluster c f).server = s.server := rfl
@[simp] theorem modCluster_vaults : (s.modCluster c f).vaults = s.vaults := rfl
@[simp] theorem modCluster_freeze : (s.modCluster c f).freeze = s.freeze := rfl
@[simp] theorem modCluster_capsule : (s.modCluster c f).capsule = s.capsule := rfl
@[simp] theorem modCluster_summaries : (s.modCluster c f).summaries = s.summaries := rfl
@[simp] theorem modCluster_views : (s.modCluster c f).views = s.views := rfl
@[simp] theorem modCluster_nor : (s.modCluster c f).nor = s.nor := rfl
@[simp] theorem modCluster_norOpen : (s.modCluster c f).norOpen = s.norOpen := rfl
@[simp] theorem modCluster_norDue : (s.modCluster c f).norDue = s.norDue := rfl
@[simp] theorem modCluster_capno : (s.modCluster c f).capno = s.capno := rfl
@[simp] theorem modCluster_nextIndex : (s.modCluster c f).nextIndex = s.nextIndex := rfl
@[simp] theorem modCluster_reserved : (s.modCluster c f).reserved = s.reserved := rfl
@[simp] theorem modCluster_idNext : (s.modCluster c f).idNext = s.idNext := rfl
@[simp] theorem modCluster_idReserved : (s.modCluster c f).idReserved = s.idReserved := rfl
@[simp] theorem modCluster_capWindow : (s.modCluster c f).capWindow = s.capWindow := rfl
@[simp] theorem modCluster_attWindow : (s.modCluster c f).attWindow = s.attWindow := rfl
@[simp] theorem modCluster_fwWindow : (s.modCluster c f).fwWindow = s.fwWindow := rfl
@[simp] theorem modCluster_fwA : (s.modCluster c f).fwA = s.fwA := rfl
@[simp] theorem modCluster_fwB : (s.modCluster c f).fwB = s.fwB := rfl
@[simp] theorem modCluster_running : (s.modCluster c f).running = s.running := rfl
@[simp] theorem modCluster_booted : (s.modCluster c f).booted = s.booted := rfl
@[simp] theorem modCluster_boot : (s.modCluster c f).boot = s.boot := rfl
@[simp] theorem modCluster_minSvn : (s.modCluster c f).minSvn = s.minSvn := rfl
@[simp] theorem modCluster_serialNo : (s.modCluster c f).serialNo = s.serialNo := rfl
@[simp] theorem modCluster_errsum : (s.modCluster c f).errsum = s.errsum := rfl
@[simp] theorem modCluster_norErr : (s.modCluster c f).norErr = s.norErr := rfl
@[simp] theorem modCluster_fnote : (s.modCluster c f).fnote = s.fnote := rfl
@[simp] theorem modCluster_kills : (s.modCluster c f).kills = s.kills := rfl
@[simp] theorem modCluster_killDue : (s.modCluster c f).killDue = s.killDue := rfl
@[simp] theorem modCluster_links : (s.modCluster c f).links = s.links := rfl
@[simp] theorem modCluster_cellar : (s.modCluster c f).cellar = s.cellar := rfl
@[simp] theorem modCluster_notices : (s.modCluster c f).notices = s.notices := rfl
@[simp] theorem modCluster_debts : (s.modCluster c f).debts = s.debts := rfl
@[simp] theorem modCluster_poison : (s.modCluster c f).poison = s.poison := rfl
@[simp] theorem modCluster_phases : (s.modCluster c f).phases = s.phases := rfl
@[simp] theorem modCluster_dead : (s.modCluster c f).dead = s.dead := rfl
@[simp] theorem modCluster_unmapping : (s.modCluster c f).unmapping = s.unmapping := rfl
@[simp] theorem modCluster_upAt : (s.modCluster c f).upAt = s.upAt := rfl
@[simp] theorem modCluster_fresh : (s.modCluster c f).fresh = s.fresh := rfl
@[simp] theorem modCluster_freeCount : (s.modCluster c f).freeCount = s.freeCount := rfl
@[simp] theorem modCluster_intervals : (s.modCluster c f).intervals = s.intervals := rfl
@[simp] theorem modCluster_epochs : (s.modCluster c f).epochs = s.epochs := rfl
@[simp] theorem modCluster_agenda : (s.modCluster c f).agenda = s.agenda := rfl
@[simp] theorem modCluster_cur : (s.modCluster c f).cur = s.cur := rfl
@[simp] theorem modCluster_curQ : (s.modCluster c f).curQ = s.curQ := rfl
@[simp] theorem modCluster_cap : (s.modCluster c f).cap = s.cap := rfl
@[simp] theorem modCluster_ahead : (s.modCluster c f).ahead = s.ahead := rfl
end

section
variable (s : State) (c k : Nat) (st : Strand)

@[simp] theorem setStrand_time : (s.setStrand c k st).time = s.time := rfl
@[simp] theorem setStrand_mem : (s.setStrand c k st).mem = s.mem := rfl
@[simp] theorem setStrand_poolsz : (s.setStrand c k st).poolsz = s.poolsz := rfl
@[simp] theorem setStrand_ports : (s.setStrand c k st).ports = s.ports := rfl
@[simp] theorem setStrand_ctxs : (s.setStrand c k st).ctxs = s.ctxs := rfl
@[simp] theorem setStrand_code : (s.setStrand c k st).code = s.code := rfl
@[simp] theorem setStrand_bells : (s.setStrand c k st).bells = s.bells := rfl
@[simp] theorem setStrand_queues : (s.setStrand c k st).queues = s.queues := rfl
@[simp] theorem setStrand_grids : (s.setStrand c k st).grids = s.grids := rfl
@[simp] theorem setStrand_lastPlaced : (s.setStrand c k st).lastPlaced = s.lastPlaced := rfl
@[simp] theorem setStrand_approved : (s.setStrand c k st).approved = s.approved := rfl
@[simp] theorem setStrand_mapCounts : (s.setStrand c k st).mapCounts = s.mapCounts := rfl
@[simp] theorem setStrand_dtlb : (s.setStrand c k st).dtlb = s.dtlb := rfl
@[simp] theorem setStrand_locks : (s.setStrand c k st).locks = s.locks := rfl
@[simp] theorem setStrand_sharedLines : (s.setStrand c k st).sharedLines = s.sharedLines := rfl
@[simp] theorem setStrand_fills : (s.setStrand c k st).fills = s.fills := rfl
@[simp] theorem setStrand_ready : (s.setStrand c k st).ready = s.ready := rfl
@[simp] theorem setStrand_active : (s.setStrand c k st).active = s.active := rfl
@[simp] theorem setStrand_staged : (s.setStrand c k st).staged = s.staged := rfl
@[simp] theorem setStrand_pstat : (s.setStrand c k st).pstat = s.pstat := rfl
@[simp] theorem setStrand_ceil : (s.setStrand c k st).ceil = s.ceil := rfl
@[simp] theorem setStrand_page0 : (s.setStrand c k st).page0 = s.page0 := rfl
@[simp] theorem setStrand_page1 : (s.setStrand c k st).page1 = s.page1 := rfl
@[simp] theorem setStrand_server : (s.setStrand c k st).server = s.server := rfl
@[simp] theorem setStrand_vaults : (s.setStrand c k st).vaults = s.vaults := rfl
@[simp] theorem setStrand_freeze : (s.setStrand c k st).freeze = s.freeze := rfl
@[simp] theorem setStrand_capsule : (s.setStrand c k st).capsule = s.capsule := rfl
@[simp] theorem setStrand_summaries : (s.setStrand c k st).summaries = s.summaries := rfl
@[simp] theorem setStrand_views : (s.setStrand c k st).views = s.views := rfl
@[simp] theorem setStrand_nor : (s.setStrand c k st).nor = s.nor := rfl
@[simp] theorem setStrand_norOpen : (s.setStrand c k st).norOpen = s.norOpen := rfl
@[simp] theorem setStrand_norDue : (s.setStrand c k st).norDue = s.norDue := rfl
@[simp] theorem setStrand_capno : (s.setStrand c k st).capno = s.capno := rfl
@[simp] theorem setStrand_nextIndex : (s.setStrand c k st).nextIndex = s.nextIndex := rfl
@[simp] theorem setStrand_reserved : (s.setStrand c k st).reserved = s.reserved := rfl
@[simp] theorem setStrand_idNext : (s.setStrand c k st).idNext = s.idNext := rfl
@[simp] theorem setStrand_idReserved : (s.setStrand c k st).idReserved = s.idReserved := rfl
@[simp] theorem setStrand_capWindow : (s.setStrand c k st).capWindow = s.capWindow := rfl
@[simp] theorem setStrand_attWindow : (s.setStrand c k st).attWindow = s.attWindow := rfl
@[simp] theorem setStrand_fwWindow : (s.setStrand c k st).fwWindow = s.fwWindow := rfl
@[simp] theorem setStrand_fwA : (s.setStrand c k st).fwA = s.fwA := rfl
@[simp] theorem setStrand_fwB : (s.setStrand c k st).fwB = s.fwB := rfl
@[simp] theorem setStrand_running : (s.setStrand c k st).running = s.running := rfl
@[simp] theorem setStrand_booted : (s.setStrand c k st).booted = s.booted := rfl
@[simp] theorem setStrand_boot : (s.setStrand c k st).boot = s.boot := rfl
@[simp] theorem setStrand_minSvn : (s.setStrand c k st).minSvn = s.minSvn := rfl
@[simp] theorem setStrand_serialNo : (s.setStrand c k st).serialNo = s.serialNo := rfl
@[simp] theorem setStrand_errsum : (s.setStrand c k st).errsum = s.errsum := rfl
@[simp] theorem setStrand_norErr : (s.setStrand c k st).norErr = s.norErr := rfl
@[simp] theorem setStrand_fnote : (s.setStrand c k st).fnote = s.fnote := rfl
@[simp] theorem setStrand_kills : (s.setStrand c k st).kills = s.kills := rfl
@[simp] theorem setStrand_killDue : (s.setStrand c k st).killDue = s.killDue := rfl
@[simp] theorem setStrand_links : (s.setStrand c k st).links = s.links := rfl
@[simp] theorem setStrand_cellar : (s.setStrand c k st).cellar = s.cellar := rfl
@[simp] theorem setStrand_notices : (s.setStrand c k st).notices = s.notices := rfl
@[simp] theorem setStrand_debts : (s.setStrand c k st).debts = s.debts := rfl
@[simp] theorem setStrand_poison : (s.setStrand c k st).poison = s.poison := rfl
@[simp] theorem setStrand_phases : (s.setStrand c k st).phases = s.phases := rfl
@[simp] theorem setStrand_dead : (s.setStrand c k st).dead = s.dead := rfl
@[simp] theorem setStrand_unmapping : (s.setStrand c k st).unmapping = s.unmapping := rfl
@[simp] theorem setStrand_upAt : (s.setStrand c k st).upAt = s.upAt := rfl
@[simp] theorem setStrand_fresh : (s.setStrand c k st).fresh = s.fresh := rfl
@[simp] theorem setStrand_freeCount : (s.setStrand c k st).freeCount = s.freeCount := rfl
@[simp] theorem setStrand_intervals : (s.setStrand c k st).intervals = s.intervals := rfl
@[simp] theorem setStrand_epochs : (s.setStrand c k st).epochs = s.epochs := rfl
@[simp] theorem setStrand_agenda : (s.setStrand c k st).agenda = s.agenda := rfl
@[simp] theorem setStrand_cur : (s.setStrand c k st).cur = s.cur := rfl
@[simp] theorem setStrand_curQ : (s.setStrand c k st).curQ = s.curQ := rfl
@[simp] theorem setStrand_cap : (s.setStrand c k st).cap = s.cap := rfl
@[simp] theorem setStrand_ahead : (s.setStrand c k st).ahead = s.ahead := rfl
end

section
variable (s : State) (c b : Nat) (bl : Block)

@[simp] theorem setBlock_time : (s.setBlock c b bl).time = s.time := rfl
@[simp] theorem setBlock_mem : (s.setBlock c b bl).mem = s.mem := rfl
@[simp] theorem setBlock_poolsz : (s.setBlock c b bl).poolsz = s.poolsz := rfl
@[simp] theorem setBlock_ports : (s.setBlock c b bl).ports = s.ports := rfl
@[simp] theorem setBlock_ctxs : (s.setBlock c b bl).ctxs = s.ctxs := rfl
@[simp] theorem setBlock_code : (s.setBlock c b bl).code = s.code := rfl
@[simp] theorem setBlock_bells : (s.setBlock c b bl).bells = s.bells := rfl
@[simp] theorem setBlock_queues : (s.setBlock c b bl).queues = s.queues := rfl
@[simp] theorem setBlock_grids : (s.setBlock c b bl).grids = s.grids := rfl
@[simp] theorem setBlock_lastPlaced : (s.setBlock c b bl).lastPlaced = s.lastPlaced := rfl
@[simp] theorem setBlock_approved : (s.setBlock c b bl).approved = s.approved := rfl
@[simp] theorem setBlock_mapCounts : (s.setBlock c b bl).mapCounts = s.mapCounts := rfl
@[simp] theorem setBlock_dtlb : (s.setBlock c b bl).dtlb = s.dtlb := rfl
@[simp] theorem setBlock_locks : (s.setBlock c b bl).locks = s.locks := rfl
@[simp] theorem setBlock_sharedLines : (s.setBlock c b bl).sharedLines = s.sharedLines := rfl
@[simp] theorem setBlock_fills : (s.setBlock c b bl).fills = s.fills := rfl
@[simp] theorem setBlock_ready : (s.setBlock c b bl).ready = s.ready := rfl
@[simp] theorem setBlock_active : (s.setBlock c b bl).active = s.active := rfl
@[simp] theorem setBlock_staged : (s.setBlock c b bl).staged = s.staged := rfl
@[simp] theorem setBlock_pstat : (s.setBlock c b bl).pstat = s.pstat := rfl
@[simp] theorem setBlock_ceil : (s.setBlock c b bl).ceil = s.ceil := rfl
@[simp] theorem setBlock_page0 : (s.setBlock c b bl).page0 = s.page0 := rfl
@[simp] theorem setBlock_page1 : (s.setBlock c b bl).page1 = s.page1 := rfl
@[simp] theorem setBlock_server : (s.setBlock c b bl).server = s.server := rfl
@[simp] theorem setBlock_vaults : (s.setBlock c b bl).vaults = s.vaults := rfl
@[simp] theorem setBlock_freeze : (s.setBlock c b bl).freeze = s.freeze := rfl
@[simp] theorem setBlock_capsule : (s.setBlock c b bl).capsule = s.capsule := rfl
@[simp] theorem setBlock_summaries : (s.setBlock c b bl).summaries = s.summaries := rfl
@[simp] theorem setBlock_views : (s.setBlock c b bl).views = s.views := rfl
@[simp] theorem setBlock_nor : (s.setBlock c b bl).nor = s.nor := rfl
@[simp] theorem setBlock_norOpen : (s.setBlock c b bl).norOpen = s.norOpen := rfl
@[simp] theorem setBlock_norDue : (s.setBlock c b bl).norDue = s.norDue := rfl
@[simp] theorem setBlock_capno : (s.setBlock c b bl).capno = s.capno := rfl
@[simp] theorem setBlock_nextIndex : (s.setBlock c b bl).nextIndex = s.nextIndex := rfl
@[simp] theorem setBlock_reserved : (s.setBlock c b bl).reserved = s.reserved := rfl
@[simp] theorem setBlock_idNext : (s.setBlock c b bl).idNext = s.idNext := rfl
@[simp] theorem setBlock_idReserved : (s.setBlock c b bl).idReserved = s.idReserved := rfl
@[simp] theorem setBlock_capWindow : (s.setBlock c b bl).capWindow = s.capWindow := rfl
@[simp] theorem setBlock_attWindow : (s.setBlock c b bl).attWindow = s.attWindow := rfl
@[simp] theorem setBlock_fwWindow : (s.setBlock c b bl).fwWindow = s.fwWindow := rfl
@[simp] theorem setBlock_fwA : (s.setBlock c b bl).fwA = s.fwA := rfl
@[simp] theorem setBlock_fwB : (s.setBlock c b bl).fwB = s.fwB := rfl
@[simp] theorem setBlock_running : (s.setBlock c b bl).running = s.running := rfl
@[simp] theorem setBlock_booted : (s.setBlock c b bl).booted = s.booted := rfl
@[simp] theorem setBlock_boot : (s.setBlock c b bl).boot = s.boot := rfl
@[simp] theorem setBlock_minSvn : (s.setBlock c b bl).minSvn = s.minSvn := rfl
@[simp] theorem setBlock_serialNo : (s.setBlock c b bl).serialNo = s.serialNo := rfl
@[simp] theorem setBlock_errsum : (s.setBlock c b bl).errsum = s.errsum := rfl
@[simp] theorem setBlock_norErr : (s.setBlock c b bl).norErr = s.norErr := rfl
@[simp] theorem setBlock_fnote : (s.setBlock c b bl).fnote = s.fnote := rfl
@[simp] theorem setBlock_kills : (s.setBlock c b bl).kills = s.kills := rfl
@[simp] theorem setBlock_killDue : (s.setBlock c b bl).killDue = s.killDue := rfl
@[simp] theorem setBlock_links : (s.setBlock c b bl).links = s.links := rfl
@[simp] theorem setBlock_cellar : (s.setBlock c b bl).cellar = s.cellar := rfl
@[simp] theorem setBlock_notices : (s.setBlock c b bl).notices = s.notices := rfl
@[simp] theorem setBlock_debts : (s.setBlock c b bl).debts = s.debts := rfl
@[simp] theorem setBlock_poison : (s.setBlock c b bl).poison = s.poison := rfl
@[simp] theorem setBlock_phases : (s.setBlock c b bl).phases = s.phases := rfl
@[simp] theorem setBlock_dead : (s.setBlock c b bl).dead = s.dead := rfl
@[simp] theorem setBlock_unmapping : (s.setBlock c b bl).unmapping = s.unmapping := rfl
@[simp] theorem setBlock_upAt : (s.setBlock c b bl).upAt = s.upAt := rfl
@[simp] theorem setBlock_fresh : (s.setBlock c b bl).fresh = s.fresh := rfl
@[simp] theorem setBlock_freeCount : (s.setBlock c b bl).freeCount = s.freeCount := rfl
@[simp] theorem setBlock_intervals : (s.setBlock c b bl).intervals = s.intervals := rfl
@[simp] theorem setBlock_epochs : (s.setBlock c b bl).epochs = s.epochs := rfl
@[simp] theorem setBlock_agenda : (s.setBlock c b bl).agenda = s.agenda := rfl
@[simp] theorem setBlock_cur : (s.setBlock c b bl).cur = s.cur := rfl
@[simp] theorem setBlock_curQ : (s.setBlock c b bl).curQ = s.curQ := rfl
@[simp] theorem setBlock_cap : (s.setBlock c b bl).cap = s.cap := rfl
@[simp] theorem setBlock_ahead : (s.setBlock c b bl).ahead = s.ahead := rfl
end

section
variable (s : State) (n : Nat) (x : Context)

@[simp] theorem setCtx_time : (s.setCtx n x).time = s.time := rfl
@[simp] theorem setCtx_mem : (s.setCtx n x).mem = s.mem := rfl
@[simp] theorem setCtx_poolsz : (s.setCtx n x).poolsz = s.poolsz := rfl
@[simp] theorem setCtx_ports : (s.setCtx n x).ports = s.ports := rfl
@[simp] theorem setCtx_clusters : (s.setCtx n x).clusters = s.clusters := rfl
@[simp] theorem setCtx_code : (s.setCtx n x).code = s.code := rfl
@[simp] theorem setCtx_bells : (s.setCtx n x).bells = s.bells := rfl
@[simp] theorem setCtx_queues : (s.setCtx n x).queues = s.queues := rfl
@[simp] theorem setCtx_grids : (s.setCtx n x).grids = s.grids := rfl
@[simp] theorem setCtx_lastPlaced : (s.setCtx n x).lastPlaced = s.lastPlaced := rfl
@[simp] theorem setCtx_approved : (s.setCtx n x).approved = s.approved := rfl
@[simp] theorem setCtx_mapCounts : (s.setCtx n x).mapCounts = s.mapCounts := rfl
@[simp] theorem setCtx_dtlb : (s.setCtx n x).dtlb = s.dtlb := rfl
@[simp] theorem setCtx_locks : (s.setCtx n x).locks = s.locks := rfl
@[simp] theorem setCtx_sharedLines : (s.setCtx n x).sharedLines = s.sharedLines := rfl
@[simp] theorem setCtx_fills : (s.setCtx n x).fills = s.fills := rfl
@[simp] theorem setCtx_ready : (s.setCtx n x).ready = s.ready := rfl
@[simp] theorem setCtx_active : (s.setCtx n x).active = s.active := rfl
@[simp] theorem setCtx_staged : (s.setCtx n x).staged = s.staged := rfl
@[simp] theorem setCtx_pstat : (s.setCtx n x).pstat = s.pstat := rfl
@[simp] theorem setCtx_ceil : (s.setCtx n x).ceil = s.ceil := rfl
@[simp] theorem setCtx_page0 : (s.setCtx n x).page0 = s.page0 := rfl
@[simp] theorem setCtx_page1 : (s.setCtx n x).page1 = s.page1 := rfl
@[simp] theorem setCtx_server : (s.setCtx n x).server = s.server := rfl
@[simp] theorem setCtx_vaults : (s.setCtx n x).vaults = s.vaults := rfl
@[simp] theorem setCtx_freeze : (s.setCtx n x).freeze = s.freeze := rfl
@[simp] theorem setCtx_capsule : (s.setCtx n x).capsule = s.capsule := rfl
@[simp] theorem setCtx_summaries : (s.setCtx n x).summaries = s.summaries := rfl
@[simp] theorem setCtx_views : (s.setCtx n x).views = s.views := rfl
@[simp] theorem setCtx_nor : (s.setCtx n x).nor = s.nor := rfl
@[simp] theorem setCtx_norOpen : (s.setCtx n x).norOpen = s.norOpen := rfl
@[simp] theorem setCtx_norDue : (s.setCtx n x).norDue = s.norDue := rfl
@[simp] theorem setCtx_capno : (s.setCtx n x).capno = s.capno := rfl
@[simp] theorem setCtx_nextIndex : (s.setCtx n x).nextIndex = s.nextIndex := rfl
@[simp] theorem setCtx_reserved : (s.setCtx n x).reserved = s.reserved := rfl
@[simp] theorem setCtx_idNext : (s.setCtx n x).idNext = s.idNext := rfl
@[simp] theorem setCtx_idReserved : (s.setCtx n x).idReserved = s.idReserved := rfl
@[simp] theorem setCtx_capWindow : (s.setCtx n x).capWindow = s.capWindow := rfl
@[simp] theorem setCtx_attWindow : (s.setCtx n x).attWindow = s.attWindow := rfl
@[simp] theorem setCtx_fwWindow : (s.setCtx n x).fwWindow = s.fwWindow := rfl
@[simp] theorem setCtx_fwA : (s.setCtx n x).fwA = s.fwA := rfl
@[simp] theorem setCtx_fwB : (s.setCtx n x).fwB = s.fwB := rfl
@[simp] theorem setCtx_running : (s.setCtx n x).running = s.running := rfl
@[simp] theorem setCtx_booted : (s.setCtx n x).booted = s.booted := rfl
@[simp] theorem setCtx_boot : (s.setCtx n x).boot = s.boot := rfl
@[simp] theorem setCtx_minSvn : (s.setCtx n x).minSvn = s.minSvn := rfl
@[simp] theorem setCtx_serialNo : (s.setCtx n x).serialNo = s.serialNo := rfl
@[simp] theorem setCtx_errsum : (s.setCtx n x).errsum = s.errsum := rfl
@[simp] theorem setCtx_norErr : (s.setCtx n x).norErr = s.norErr := rfl
@[simp] theorem setCtx_fnote : (s.setCtx n x).fnote = s.fnote := rfl
@[simp] theorem setCtx_kills : (s.setCtx n x).kills = s.kills := rfl
@[simp] theorem setCtx_killDue : (s.setCtx n x).killDue = s.killDue := rfl
@[simp] theorem setCtx_links : (s.setCtx n x).links = s.links := rfl
@[simp] theorem setCtx_cellar : (s.setCtx n x).cellar = s.cellar := rfl
@[simp] theorem setCtx_notices : (s.setCtx n x).notices = s.notices := rfl
@[simp] theorem setCtx_debts : (s.setCtx n x).debts = s.debts := rfl
@[simp] theorem setCtx_poison : (s.setCtx n x).poison = s.poison := rfl
@[simp] theorem setCtx_phases : (s.setCtx n x).phases = s.phases := rfl
@[simp] theorem setCtx_dead : (s.setCtx n x).dead = s.dead := rfl
@[simp] theorem setCtx_unmapping : (s.setCtx n x).unmapping = s.unmapping := rfl
@[simp] theorem setCtx_upAt : (s.setCtx n x).upAt = s.upAt := rfl
@[simp] theorem setCtx_fresh : (s.setCtx n x).fresh = s.fresh := rfl
@[simp] theorem setCtx_freeCount : (s.setCtx n x).freeCount = s.freeCount := rfl
@[simp] theorem setCtx_intervals : (s.setCtx n x).intervals = s.intervals := rfl
@[simp] theorem setCtx_epochs : (s.setCtx n x).epochs = s.epochs := rfl
@[simp] theorem setCtx_agenda : (s.setCtx n x).agenda = s.agenda := rfl
@[simp] theorem setCtx_cur : (s.setCtx n x).cur = s.cur := rfl
@[simp] theorem setCtx_curQ : (s.setCtx n x).curQ = s.curQ := rfl
@[simp] theorem setCtx_cap : (s.setCtx n x).cap = s.cap := rfl
@[simp] theorem setCtx_ahead : (s.setCtx n x).ahead = s.ahead := rfl
end

section
variable (s : State) (n : Nat) (f : Context → Context)

@[simp] theorem modCtx_time : (s.modCtx n f).time = s.time := rfl
@[simp] theorem modCtx_mem : (s.modCtx n f).mem = s.mem := rfl
@[simp] theorem modCtx_poolsz : (s.modCtx n f).poolsz = s.poolsz := rfl
@[simp] theorem modCtx_ports : (s.modCtx n f).ports = s.ports := rfl
@[simp] theorem modCtx_clusters : (s.modCtx n f).clusters = s.clusters := rfl
@[simp] theorem modCtx_code : (s.modCtx n f).code = s.code := rfl
@[simp] theorem modCtx_bells : (s.modCtx n f).bells = s.bells := rfl
@[simp] theorem modCtx_queues : (s.modCtx n f).queues = s.queues := rfl
@[simp] theorem modCtx_grids : (s.modCtx n f).grids = s.grids := rfl
@[simp] theorem modCtx_lastPlaced : (s.modCtx n f).lastPlaced = s.lastPlaced := rfl
@[simp] theorem modCtx_approved : (s.modCtx n f).approved = s.approved := rfl
@[simp] theorem modCtx_mapCounts : (s.modCtx n f).mapCounts = s.mapCounts := rfl
@[simp] theorem modCtx_dtlb : (s.modCtx n f).dtlb = s.dtlb := rfl
@[simp] theorem modCtx_locks : (s.modCtx n f).locks = s.locks := rfl
@[simp] theorem modCtx_sharedLines : (s.modCtx n f).sharedLines = s.sharedLines := rfl
@[simp] theorem modCtx_fills : (s.modCtx n f).fills = s.fills := rfl
@[simp] theorem modCtx_ready : (s.modCtx n f).ready = s.ready := rfl
@[simp] theorem modCtx_active : (s.modCtx n f).active = s.active := rfl
@[simp] theorem modCtx_staged : (s.modCtx n f).staged = s.staged := rfl
@[simp] theorem modCtx_pstat : (s.modCtx n f).pstat = s.pstat := rfl
@[simp] theorem modCtx_ceil : (s.modCtx n f).ceil = s.ceil := rfl
@[simp] theorem modCtx_page0 : (s.modCtx n f).page0 = s.page0 := rfl
@[simp] theorem modCtx_page1 : (s.modCtx n f).page1 = s.page1 := rfl
@[simp] theorem modCtx_server : (s.modCtx n f).server = s.server := rfl
@[simp] theorem modCtx_vaults : (s.modCtx n f).vaults = s.vaults := rfl
@[simp] theorem modCtx_freeze : (s.modCtx n f).freeze = s.freeze := rfl
@[simp] theorem modCtx_capsule : (s.modCtx n f).capsule = s.capsule := rfl
@[simp] theorem modCtx_summaries : (s.modCtx n f).summaries = s.summaries := rfl
@[simp] theorem modCtx_views : (s.modCtx n f).views = s.views := rfl
@[simp] theorem modCtx_nor : (s.modCtx n f).nor = s.nor := rfl
@[simp] theorem modCtx_norOpen : (s.modCtx n f).norOpen = s.norOpen := rfl
@[simp] theorem modCtx_norDue : (s.modCtx n f).norDue = s.norDue := rfl
@[simp] theorem modCtx_capno : (s.modCtx n f).capno = s.capno := rfl
@[simp] theorem modCtx_nextIndex : (s.modCtx n f).nextIndex = s.nextIndex := rfl
@[simp] theorem modCtx_reserved : (s.modCtx n f).reserved = s.reserved := rfl
@[simp] theorem modCtx_idNext : (s.modCtx n f).idNext = s.idNext := rfl
@[simp] theorem modCtx_idReserved : (s.modCtx n f).idReserved = s.idReserved := rfl
@[simp] theorem modCtx_capWindow : (s.modCtx n f).capWindow = s.capWindow := rfl
@[simp] theorem modCtx_attWindow : (s.modCtx n f).attWindow = s.attWindow := rfl
@[simp] theorem modCtx_fwWindow : (s.modCtx n f).fwWindow = s.fwWindow := rfl
@[simp] theorem modCtx_fwA : (s.modCtx n f).fwA = s.fwA := rfl
@[simp] theorem modCtx_fwB : (s.modCtx n f).fwB = s.fwB := rfl
@[simp] theorem modCtx_running : (s.modCtx n f).running = s.running := rfl
@[simp] theorem modCtx_booted : (s.modCtx n f).booted = s.booted := rfl
@[simp] theorem modCtx_boot : (s.modCtx n f).boot = s.boot := rfl
@[simp] theorem modCtx_minSvn : (s.modCtx n f).minSvn = s.minSvn := rfl
@[simp] theorem modCtx_serialNo : (s.modCtx n f).serialNo = s.serialNo := rfl
@[simp] theorem modCtx_errsum : (s.modCtx n f).errsum = s.errsum := rfl
@[simp] theorem modCtx_norErr : (s.modCtx n f).norErr = s.norErr := rfl
@[simp] theorem modCtx_fnote : (s.modCtx n f).fnote = s.fnote := rfl
@[simp] theorem modCtx_kills : (s.modCtx n f).kills = s.kills := rfl
@[simp] theorem modCtx_killDue : (s.modCtx n f).killDue = s.killDue := rfl
@[simp] theorem modCtx_links : (s.modCtx n f).links = s.links := rfl
@[simp] theorem modCtx_cellar : (s.modCtx n f).cellar = s.cellar := rfl
@[simp] theorem modCtx_notices : (s.modCtx n f).notices = s.notices := rfl
@[simp] theorem modCtx_debts : (s.modCtx n f).debts = s.debts := rfl
@[simp] theorem modCtx_poison : (s.modCtx n f).poison = s.poison := rfl
@[simp] theorem modCtx_phases : (s.modCtx n f).phases = s.phases := rfl
@[simp] theorem modCtx_dead : (s.modCtx n f).dead = s.dead := rfl
@[simp] theorem modCtx_unmapping : (s.modCtx n f).unmapping = s.unmapping := rfl
@[simp] theorem modCtx_upAt : (s.modCtx n f).upAt = s.upAt := rfl
@[simp] theorem modCtx_fresh : (s.modCtx n f).fresh = s.fresh := rfl
@[simp] theorem modCtx_freeCount : (s.modCtx n f).freeCount = s.freeCount := rfl
@[simp] theorem modCtx_intervals : (s.modCtx n f).intervals = s.intervals := rfl
@[simp] theorem modCtx_epochs : (s.modCtx n f).epochs = s.epochs := rfl
@[simp] theorem modCtx_agenda : (s.modCtx n f).agenda = s.agenda := rfl
@[simp] theorem modCtx_cur : (s.modCtx n f).cur = s.cur := rfl
@[simp] theorem modCtx_curQ : (s.modCtx n f).curQ = s.curQ := rfl
@[simp] theorem modCtx_cap : (s.modCtx n f).cap = s.cap := rfl
@[simp] theorem modCtx_ahead : (s.modCtx n f).ahead = s.ahead := rfl
end

section
variable (s : State) (g : Nat) (f : Grid → Grid)

@[simp] theorem modGrid_time : (s.modGrid g f).time = s.time := rfl
@[simp] theorem modGrid_mem : (s.modGrid g f).mem = s.mem := rfl
@[simp] theorem modGrid_poolsz : (s.modGrid g f).poolsz = s.poolsz := rfl
@[simp] theorem modGrid_ports : (s.modGrid g f).ports = s.ports := rfl
@[simp] theorem modGrid_clusters : (s.modGrid g f).clusters = s.clusters := rfl
@[simp] theorem modGrid_ctxs : (s.modGrid g f).ctxs = s.ctxs := rfl
@[simp] theorem modGrid_code : (s.modGrid g f).code = s.code := rfl
@[simp] theorem modGrid_bells : (s.modGrid g f).bells = s.bells := rfl
@[simp] theorem modGrid_queues : (s.modGrid g f).queues = s.queues := rfl
@[simp] theorem modGrid_lastPlaced : (s.modGrid g f).lastPlaced = s.lastPlaced := rfl
@[simp] theorem modGrid_approved : (s.modGrid g f).approved = s.approved := rfl
@[simp] theorem modGrid_mapCounts : (s.modGrid g f).mapCounts = s.mapCounts := rfl
@[simp] theorem modGrid_dtlb : (s.modGrid g f).dtlb = s.dtlb := rfl
@[simp] theorem modGrid_locks : (s.modGrid g f).locks = s.locks := rfl
@[simp] theorem modGrid_sharedLines : (s.modGrid g f).sharedLines = s.sharedLines := rfl
@[simp] theorem modGrid_fills : (s.modGrid g f).fills = s.fills := rfl
@[simp] theorem modGrid_ready : (s.modGrid g f).ready = s.ready := rfl
@[simp] theorem modGrid_active : (s.modGrid g f).active = s.active := rfl
@[simp] theorem modGrid_staged : (s.modGrid g f).staged = s.staged := rfl
@[simp] theorem modGrid_pstat : (s.modGrid g f).pstat = s.pstat := rfl
@[simp] theorem modGrid_ceil : (s.modGrid g f).ceil = s.ceil := rfl
@[simp] theorem modGrid_page0 : (s.modGrid g f).page0 = s.page0 := rfl
@[simp] theorem modGrid_page1 : (s.modGrid g f).page1 = s.page1 := rfl
@[simp] theorem modGrid_server : (s.modGrid g f).server = s.server := rfl
@[simp] theorem modGrid_vaults : (s.modGrid g f).vaults = s.vaults := rfl
@[simp] theorem modGrid_freeze : (s.modGrid g f).freeze = s.freeze := rfl
@[simp] theorem modGrid_capsule : (s.modGrid g f).capsule = s.capsule := rfl
@[simp] theorem modGrid_summaries : (s.modGrid g f).summaries = s.summaries := rfl
@[simp] theorem modGrid_views : (s.modGrid g f).views = s.views := rfl
@[simp] theorem modGrid_nor : (s.modGrid g f).nor = s.nor := rfl
@[simp] theorem modGrid_norOpen : (s.modGrid g f).norOpen = s.norOpen := rfl
@[simp] theorem modGrid_norDue : (s.modGrid g f).norDue = s.norDue := rfl
@[simp] theorem modGrid_capno : (s.modGrid g f).capno = s.capno := rfl
@[simp] theorem modGrid_nextIndex : (s.modGrid g f).nextIndex = s.nextIndex := rfl
@[simp] theorem modGrid_reserved : (s.modGrid g f).reserved = s.reserved := rfl
@[simp] theorem modGrid_idNext : (s.modGrid g f).idNext = s.idNext := rfl
@[simp] theorem modGrid_idReserved : (s.modGrid g f).idReserved = s.idReserved := rfl
@[simp] theorem modGrid_capWindow : (s.modGrid g f).capWindow = s.capWindow := rfl
@[simp] theorem modGrid_attWindow : (s.modGrid g f).attWindow = s.attWindow := rfl
@[simp] theorem modGrid_fwWindow : (s.modGrid g f).fwWindow = s.fwWindow := rfl
@[simp] theorem modGrid_fwA : (s.modGrid g f).fwA = s.fwA := rfl
@[simp] theorem modGrid_fwB : (s.modGrid g f).fwB = s.fwB := rfl
@[simp] theorem modGrid_running : (s.modGrid g f).running = s.running := rfl
@[simp] theorem modGrid_booted : (s.modGrid g f).booted = s.booted := rfl
@[simp] theorem modGrid_boot : (s.modGrid g f).boot = s.boot := rfl
@[simp] theorem modGrid_minSvn : (s.modGrid g f).minSvn = s.minSvn := rfl
@[simp] theorem modGrid_serialNo : (s.modGrid g f).serialNo = s.serialNo := rfl
@[simp] theorem modGrid_errsum : (s.modGrid g f).errsum = s.errsum := rfl
@[simp] theorem modGrid_norErr : (s.modGrid g f).norErr = s.norErr := rfl
@[simp] theorem modGrid_fnote : (s.modGrid g f).fnote = s.fnote := rfl
@[simp] theorem modGrid_kills : (s.modGrid g f).kills = s.kills := rfl
@[simp] theorem modGrid_killDue : (s.modGrid g f).killDue = s.killDue := rfl
@[simp] theorem modGrid_links : (s.modGrid g f).links = s.links := rfl
@[simp] theorem modGrid_cellar : (s.modGrid g f).cellar = s.cellar := rfl
@[simp] theorem modGrid_notices : (s.modGrid g f).notices = s.notices := rfl
@[simp] theorem modGrid_debts : (s.modGrid g f).debts = s.debts := rfl
@[simp] theorem modGrid_poison : (s.modGrid g f).poison = s.poison := rfl
@[simp] theorem modGrid_phases : (s.modGrid g f).phases = s.phases := rfl
@[simp] theorem modGrid_dead : (s.modGrid g f).dead = s.dead := rfl
@[simp] theorem modGrid_unmapping : (s.modGrid g f).unmapping = s.unmapping := rfl
@[simp] theorem modGrid_upAt : (s.modGrid g f).upAt = s.upAt := rfl
@[simp] theorem modGrid_fresh : (s.modGrid g f).fresh = s.fresh := rfl
@[simp] theorem modGrid_freeCount : (s.modGrid g f).freeCount = s.freeCount := rfl
@[simp] theorem modGrid_intervals : (s.modGrid g f).intervals = s.intervals := rfl
@[simp] theorem modGrid_epochs : (s.modGrid g f).epochs = s.epochs := rfl
@[simp] theorem modGrid_agenda : (s.modGrid g f).agenda = s.agenda := rfl
@[simp] theorem modGrid_cur : (s.modGrid g f).cur = s.cur := rfl
@[simp] theorem modGrid_curQ : (s.modGrid g f).curQ = s.curQ := rfl
@[simp] theorem modGrid_cap : (s.modGrid g f).cap = s.cap := rfl
@[simp] theorem modGrid_ahead : (s.modGrid g f).ahead = s.ahead := rfl
end

section
variable (s : State) (q : Nat) (f : Queue → Queue)

@[simp] theorem modQueue_time : (s.modQueue q f).time = s.time := rfl
@[simp] theorem modQueue_mem : (s.modQueue q f).mem = s.mem := rfl
@[simp] theorem modQueue_poolsz : (s.modQueue q f).poolsz = s.poolsz := rfl
@[simp] theorem modQueue_ports : (s.modQueue q f).ports = s.ports := rfl
@[simp] theorem modQueue_clusters : (s.modQueue q f).clusters = s.clusters := rfl
@[simp] theorem modQueue_ctxs : (s.modQueue q f).ctxs = s.ctxs := rfl
@[simp] theorem modQueue_code : (s.modQueue q f).code = s.code := rfl
@[simp] theorem modQueue_bells : (s.modQueue q f).bells = s.bells := rfl
@[simp] theorem modQueue_grids : (s.modQueue q f).grids = s.grids := rfl
@[simp] theorem modQueue_lastPlaced : (s.modQueue q f).lastPlaced = s.lastPlaced := rfl
@[simp] theorem modQueue_approved : (s.modQueue q f).approved = s.approved := rfl
@[simp] theorem modQueue_mapCounts : (s.modQueue q f).mapCounts = s.mapCounts := rfl
@[simp] theorem modQueue_dtlb : (s.modQueue q f).dtlb = s.dtlb := rfl
@[simp] theorem modQueue_locks : (s.modQueue q f).locks = s.locks := rfl
@[simp] theorem modQueue_sharedLines : (s.modQueue q f).sharedLines = s.sharedLines := rfl
@[simp] theorem modQueue_fills : (s.modQueue q f).fills = s.fills := rfl
@[simp] theorem modQueue_ready : (s.modQueue q f).ready = s.ready := rfl
@[simp] theorem modQueue_active : (s.modQueue q f).active = s.active := rfl
@[simp] theorem modQueue_staged : (s.modQueue q f).staged = s.staged := rfl
@[simp] theorem modQueue_pstat : (s.modQueue q f).pstat = s.pstat := rfl
@[simp] theorem modQueue_ceil : (s.modQueue q f).ceil = s.ceil := rfl
@[simp] theorem modQueue_page0 : (s.modQueue q f).page0 = s.page0 := rfl
@[simp] theorem modQueue_page1 : (s.modQueue q f).page1 = s.page1 := rfl
@[simp] theorem modQueue_server : (s.modQueue q f).server = s.server := rfl
@[simp] theorem modQueue_vaults : (s.modQueue q f).vaults = s.vaults := rfl
@[simp] theorem modQueue_freeze : (s.modQueue q f).freeze = s.freeze := rfl
@[simp] theorem modQueue_capsule : (s.modQueue q f).capsule = s.capsule := rfl
@[simp] theorem modQueue_summaries : (s.modQueue q f).summaries = s.summaries := rfl
@[simp] theorem modQueue_views : (s.modQueue q f).views = s.views := rfl
@[simp] theorem modQueue_nor : (s.modQueue q f).nor = s.nor := rfl
@[simp] theorem modQueue_norOpen : (s.modQueue q f).norOpen = s.norOpen := rfl
@[simp] theorem modQueue_norDue : (s.modQueue q f).norDue = s.norDue := rfl
@[simp] theorem modQueue_capno : (s.modQueue q f).capno = s.capno := rfl
@[simp] theorem modQueue_nextIndex : (s.modQueue q f).nextIndex = s.nextIndex := rfl
@[simp] theorem modQueue_reserved : (s.modQueue q f).reserved = s.reserved := rfl
@[simp] theorem modQueue_idNext : (s.modQueue q f).idNext = s.idNext := rfl
@[simp] theorem modQueue_idReserved : (s.modQueue q f).idReserved = s.idReserved := rfl
@[simp] theorem modQueue_capWindow : (s.modQueue q f).capWindow = s.capWindow := rfl
@[simp] theorem modQueue_attWindow : (s.modQueue q f).attWindow = s.attWindow := rfl
@[simp] theorem modQueue_fwWindow : (s.modQueue q f).fwWindow = s.fwWindow := rfl
@[simp] theorem modQueue_fwA : (s.modQueue q f).fwA = s.fwA := rfl
@[simp] theorem modQueue_fwB : (s.modQueue q f).fwB = s.fwB := rfl
@[simp] theorem modQueue_running : (s.modQueue q f).running = s.running := rfl
@[simp] theorem modQueue_booted : (s.modQueue q f).booted = s.booted := rfl
@[simp] theorem modQueue_boot : (s.modQueue q f).boot = s.boot := rfl
@[simp] theorem modQueue_minSvn : (s.modQueue q f).minSvn = s.minSvn := rfl
@[simp] theorem modQueue_serialNo : (s.modQueue q f).serialNo = s.serialNo := rfl
@[simp] theorem modQueue_errsum : (s.modQueue q f).errsum = s.errsum := rfl
@[simp] theorem modQueue_norErr : (s.modQueue q f).norErr = s.norErr := rfl
@[simp] theorem modQueue_fnote : (s.modQueue q f).fnote = s.fnote := rfl
@[simp] theorem modQueue_kills : (s.modQueue q f).kills = s.kills := rfl
@[simp] theorem modQueue_killDue : (s.modQueue q f).killDue = s.killDue := rfl
@[simp] theorem modQueue_links : (s.modQueue q f).links = s.links := rfl
@[simp] theorem modQueue_cellar : (s.modQueue q f).cellar = s.cellar := rfl
@[simp] theorem modQueue_notices : (s.modQueue q f).notices = s.notices := rfl
@[simp] theorem modQueue_debts : (s.modQueue q f).debts = s.debts := rfl
@[simp] theorem modQueue_poison : (s.modQueue q f).poison = s.poison := rfl
@[simp] theorem modQueue_phases : (s.modQueue q f).phases = s.phases := rfl
@[simp] theorem modQueue_dead : (s.modQueue q f).dead = s.dead := rfl
@[simp] theorem modQueue_unmapping : (s.modQueue q f).unmapping = s.unmapping := rfl
@[simp] theorem modQueue_upAt : (s.modQueue q f).upAt = s.upAt := rfl
@[simp] theorem modQueue_fresh : (s.modQueue q f).fresh = s.fresh := rfl
@[simp] theorem modQueue_freeCount : (s.modQueue q f).freeCount = s.freeCount := rfl
@[simp] theorem modQueue_intervals : (s.modQueue q f).intervals = s.intervals := rfl
@[simp] theorem modQueue_epochs : (s.modQueue q f).epochs = s.epochs := rfl
@[simp] theorem modQueue_agenda : (s.modQueue q f).agenda = s.agenda := rfl
@[simp] theorem modQueue_cur : (s.modQueue q f).cur = s.cur := rfl
@[simp] theorem modQueue_curQ : (s.modQueue q f).curQ = s.curQ := rfl
@[simp] theorem modQueue_cap : (s.modQueue q f).cap = s.cap := rfl
@[simp] theorem modQueue_ahead : (s.modQueue q f).ahead = s.ahead := rfl
end

section
variable (s : State) (u : Nat) (v : Vault)

@[simp] theorem setVault_time : (s.setVault u v).time = s.time := rfl
@[simp] theorem setVault_mem : (s.setVault u v).mem = s.mem := rfl
@[simp] theorem setVault_poolsz : (s.setVault u v).poolsz = s.poolsz := rfl
@[simp] theorem setVault_ports : (s.setVault u v).ports = s.ports := rfl
@[simp] theorem setVault_clusters : (s.setVault u v).clusters = s.clusters := rfl
@[simp] theorem setVault_ctxs : (s.setVault u v).ctxs = s.ctxs := rfl
@[simp] theorem setVault_code : (s.setVault u v).code = s.code := rfl
@[simp] theorem setVault_bells : (s.setVault u v).bells = s.bells := rfl
@[simp] theorem setVault_queues : (s.setVault u v).queues = s.queues := rfl
@[simp] theorem setVault_grids : (s.setVault u v).grids = s.grids := rfl
@[simp] theorem setVault_lastPlaced : (s.setVault u v).lastPlaced = s.lastPlaced := rfl
@[simp] theorem setVault_approved : (s.setVault u v).approved = s.approved := rfl
@[simp] theorem setVault_mapCounts : (s.setVault u v).mapCounts = s.mapCounts := rfl
@[simp] theorem setVault_dtlb : (s.setVault u v).dtlb = s.dtlb := rfl
@[simp] theorem setVault_locks : (s.setVault u v).locks = s.locks := rfl
@[simp] theorem setVault_sharedLines : (s.setVault u v).sharedLines = s.sharedLines := rfl
@[simp] theorem setVault_fills : (s.setVault u v).fills = s.fills := rfl
@[simp] theorem setVault_ready : (s.setVault u v).ready = s.ready := rfl
@[simp] theorem setVault_active : (s.setVault u v).active = s.active := rfl
@[simp] theorem setVault_staged : (s.setVault u v).staged = s.staged := rfl
@[simp] theorem setVault_pstat : (s.setVault u v).pstat = s.pstat := rfl
@[simp] theorem setVault_ceil : (s.setVault u v).ceil = s.ceil := rfl
@[simp] theorem setVault_page0 : (s.setVault u v).page0 = s.page0 := rfl
@[simp] theorem setVault_page1 : (s.setVault u v).page1 = s.page1 := rfl
@[simp] theorem setVault_server : (s.setVault u v).server = s.server := rfl
@[simp] theorem setVault_freeze : (s.setVault u v).freeze = s.freeze := rfl
@[simp] theorem setVault_capsule : (s.setVault u v).capsule = s.capsule := rfl
@[simp] theorem setVault_summaries : (s.setVault u v).summaries = s.summaries := rfl
@[simp] theorem setVault_views : (s.setVault u v).views = s.views := rfl
@[simp] theorem setVault_nor : (s.setVault u v).nor = s.nor := rfl
@[simp] theorem setVault_norOpen : (s.setVault u v).norOpen = s.norOpen := rfl
@[simp] theorem setVault_norDue : (s.setVault u v).norDue = s.norDue := rfl
@[simp] theorem setVault_capno : (s.setVault u v).capno = s.capno := rfl
@[simp] theorem setVault_nextIndex : (s.setVault u v).nextIndex = s.nextIndex := rfl
@[simp] theorem setVault_reserved : (s.setVault u v).reserved = s.reserved := rfl
@[simp] theorem setVault_idNext : (s.setVault u v).idNext = s.idNext := rfl
@[simp] theorem setVault_idReserved : (s.setVault u v).idReserved = s.idReserved := rfl
@[simp] theorem setVault_capWindow : (s.setVault u v).capWindow = s.capWindow := rfl
@[simp] theorem setVault_attWindow : (s.setVault u v).attWindow = s.attWindow := rfl
@[simp] theorem setVault_fwWindow : (s.setVault u v).fwWindow = s.fwWindow := rfl
@[simp] theorem setVault_fwA : (s.setVault u v).fwA = s.fwA := rfl
@[simp] theorem setVault_fwB : (s.setVault u v).fwB = s.fwB := rfl
@[simp] theorem setVault_running : (s.setVault u v).running = s.running := rfl
@[simp] theorem setVault_booted : (s.setVault u v).booted = s.booted := rfl
@[simp] theorem setVault_boot : (s.setVault u v).boot = s.boot := rfl
@[simp] theorem setVault_minSvn : (s.setVault u v).minSvn = s.minSvn := rfl
@[simp] theorem setVault_serialNo : (s.setVault u v).serialNo = s.serialNo := rfl
@[simp] theorem setVault_errsum : (s.setVault u v).errsum = s.errsum := rfl
@[simp] theorem setVault_norErr : (s.setVault u v).norErr = s.norErr := rfl
@[simp] theorem setVault_fnote : (s.setVault u v).fnote = s.fnote := rfl
@[simp] theorem setVault_kills : (s.setVault u v).kills = s.kills := rfl
@[simp] theorem setVault_killDue : (s.setVault u v).killDue = s.killDue := rfl
@[simp] theorem setVault_links : (s.setVault u v).links = s.links := rfl
@[simp] theorem setVault_cellar : (s.setVault u v).cellar = s.cellar := rfl
@[simp] theorem setVault_notices : (s.setVault u v).notices = s.notices := rfl
@[simp] theorem setVault_debts : (s.setVault u v).debts = s.debts := rfl
@[simp] theorem setVault_poison : (s.setVault u v).poison = s.poison := rfl
@[simp] theorem setVault_phases : (s.setVault u v).phases = s.phases := rfl
@[simp] theorem setVault_dead : (s.setVault u v).dead = s.dead := rfl
@[simp] theorem setVault_unmapping : (s.setVault u v).unmapping = s.unmapping := rfl
@[simp] theorem setVault_upAt : (s.setVault u v).upAt = s.upAt := rfl
@[simp] theorem setVault_fresh : (s.setVault u v).fresh = s.fresh := rfl
@[simp] theorem setVault_freeCount : (s.setVault u v).freeCount = s.freeCount := rfl
@[simp] theorem setVault_intervals : (s.setVault u v).intervals = s.intervals := rfl
@[simp] theorem setVault_epochs : (s.setVault u v).epochs = s.epochs := rfl
@[simp] theorem setVault_agenda : (s.setVault u v).agenda = s.agenda := rfl
@[simp] theorem setVault_cur : (s.setVault u v).cur = s.cur := rfl
@[simp] theorem setVault_curQ : (s.setVault u v).curQ = s.curQ := rfl
@[simp] theorem setVault_cap : (s.setVault u v).cap = s.cap := rfl
@[simp] theorem setVault_ahead : (s.setVault u v).ahead = s.ahead := rfl
end

section
variable (s : State) (c k : Nat) (f : Strand → Strand)

@[simp] theorem modStrand_time : (s.modStrand c k f).time = s.time := by
  unfold modStrand; split <;> rfl
@[simp] theorem modStrand_mem : (s.modStrand c k f).mem = s.mem := by
  unfold modStrand; split <;> rfl
@[simp] theorem modStrand_poolsz : (s.modStrand c k f).poolsz = s.poolsz := by
  unfold modStrand; split <;> rfl
@[simp] theorem modStrand_ports : (s.modStrand c k f).ports = s.ports := by
  unfold modStrand; split <;> rfl
@[simp] theorem modStrand_ctxs : (s.modStrand c k f).ctxs = s.ctxs := by
  unfold modStrand; split <;> rfl
@[simp] theorem modStrand_code : (s.modStrand c k f).code = s.code := by
  unfold modStrand; split <;> rfl
@[simp] theorem modStrand_bells : (s.modStrand c k f).bells = s.bells := by
  unfold modStrand; split <;> rfl
@[simp] theorem modStrand_queues : (s.modStrand c k f).queues = s.queues := by
  unfold modStrand; split <;> rfl
@[simp] theorem modStrand_grids : (s.modStrand c k f).grids = s.grids := by
  unfold modStrand; split <;> rfl
@[simp] theorem modStrand_lastPlaced : (s.modStrand c k f).lastPlaced = s.lastPlaced := by
  unfold modStrand; split <;> rfl
@[simp] theorem modStrand_approved : (s.modStrand c k f).approved = s.approved := by
  unfold modStrand; split <;> rfl
@[simp] theorem modStrand_mapCounts : (s.modStrand c k f).mapCounts = s.mapCounts := by
  unfold modStrand; split <;> rfl
@[simp] theorem modStrand_dtlb : (s.modStrand c k f).dtlb = s.dtlb := by
  unfold modStrand; split <;> rfl
@[simp] theorem modStrand_locks : (s.modStrand c k f).locks = s.locks := by
  unfold modStrand; split <;> rfl
@[simp] theorem modStrand_sharedLines : (s.modStrand c k f).sharedLines = s.sharedLines := by
  unfold modStrand; split <;> rfl
@[simp] theorem modStrand_fills : (s.modStrand c k f).fills = s.fills := by
  unfold modStrand; split <;> rfl
@[simp] theorem modStrand_ready : (s.modStrand c k f).ready = s.ready := by
  unfold modStrand; split <;> rfl
@[simp] theorem modStrand_active : (s.modStrand c k f).active = s.active := by
  unfold modStrand; split <;> rfl
@[simp] theorem modStrand_staged : (s.modStrand c k f).staged = s.staged := by
  unfold modStrand; split <;> rfl
@[simp] theorem modStrand_pstat : (s.modStrand c k f).pstat = s.pstat := by
  unfold modStrand; split <;> rfl
@[simp] theorem modStrand_ceil : (s.modStrand c k f).ceil = s.ceil := by
  unfold modStrand; split <;> rfl
@[simp] theorem modStrand_page0 : (s.modStrand c k f).page0 = s.page0 := by
  unfold modStrand; split <;> rfl
@[simp] theorem modStrand_page1 : (s.modStrand c k f).page1 = s.page1 := by
  unfold modStrand; split <;> rfl
@[simp] theorem modStrand_server : (s.modStrand c k f).server = s.server := by
  unfold modStrand; split <;> rfl
@[simp] theorem modStrand_vaults : (s.modStrand c k f).vaults = s.vaults := by
  unfold modStrand; split <;> rfl
@[simp] theorem modStrand_freeze : (s.modStrand c k f).freeze = s.freeze := by
  unfold modStrand; split <;> rfl
@[simp] theorem modStrand_capsule : (s.modStrand c k f).capsule = s.capsule := by
  unfold modStrand; split <;> rfl
@[simp] theorem modStrand_summaries : (s.modStrand c k f).summaries = s.summaries := by
  unfold modStrand; split <;> rfl
@[simp] theorem modStrand_views : (s.modStrand c k f).views = s.views := by
  unfold modStrand; split <;> rfl
@[simp] theorem modStrand_nor : (s.modStrand c k f).nor = s.nor := by
  unfold modStrand; split <;> rfl
@[simp] theorem modStrand_norOpen : (s.modStrand c k f).norOpen = s.norOpen := by
  unfold modStrand; split <;> rfl
@[simp] theorem modStrand_norDue : (s.modStrand c k f).norDue = s.norDue := by
  unfold modStrand; split <;> rfl
@[simp] theorem modStrand_capno : (s.modStrand c k f).capno = s.capno := by
  unfold modStrand; split <;> rfl
@[simp] theorem modStrand_nextIndex : (s.modStrand c k f).nextIndex = s.nextIndex := by
  unfold modStrand; split <;> rfl
@[simp] theorem modStrand_reserved : (s.modStrand c k f).reserved = s.reserved := by
  unfold modStrand; split <;> rfl
@[simp] theorem modStrand_idNext : (s.modStrand c k f).idNext = s.idNext := by
  unfold modStrand; split <;> rfl
@[simp] theorem modStrand_idReserved : (s.modStrand c k f).idReserved = s.idReserved := by
  unfold modStrand; split <;> rfl
@[simp] theorem modStrand_capWindow : (s.modStrand c k f).capWindow = s.capWindow := by
  unfold modStrand; split <;> rfl
@[simp] theorem modStrand_attWindow : (s.modStrand c k f).attWindow = s.attWindow := by
  unfold modStrand; split <;> rfl
@[simp] theorem modStrand_fwWindow : (s.modStrand c k f).fwWindow = s.fwWindow := by
  unfold modStrand; split <;> rfl
@[simp] theorem modStrand_fwA : (s.modStrand c k f).fwA = s.fwA := by
  unfold modStrand; split <;> rfl
@[simp] theorem modStrand_fwB : (s.modStrand c k f).fwB = s.fwB := by
  unfold modStrand; split <;> rfl
@[simp] theorem modStrand_running : (s.modStrand c k f).running = s.running := by
  unfold modStrand; split <;> rfl
@[simp] theorem modStrand_booted : (s.modStrand c k f).booted = s.booted := by
  unfold modStrand; split <;> rfl
@[simp] theorem modStrand_boot : (s.modStrand c k f).boot = s.boot := by
  unfold modStrand; split <;> rfl
@[simp] theorem modStrand_minSvn : (s.modStrand c k f).minSvn = s.minSvn := by
  unfold modStrand; split <;> rfl
@[simp] theorem modStrand_serialNo : (s.modStrand c k f).serialNo = s.serialNo := by
  unfold modStrand; split <;> rfl
@[simp] theorem modStrand_errsum : (s.modStrand c k f).errsum = s.errsum := by
  unfold modStrand; split <;> rfl
@[simp] theorem modStrand_norErr : (s.modStrand c k f).norErr = s.norErr := by
  unfold modStrand; split <;> rfl
@[simp] theorem modStrand_fnote : (s.modStrand c k f).fnote = s.fnote := by
  unfold modStrand; split <;> rfl
@[simp] theorem modStrand_kills : (s.modStrand c k f).kills = s.kills := by
  unfold modStrand; split <;> rfl
@[simp] theorem modStrand_killDue : (s.modStrand c k f).killDue = s.killDue := by
  unfold modStrand; split <;> rfl
@[simp] theorem modStrand_links : (s.modStrand c k f).links = s.links := by
  unfold modStrand; split <;> rfl
@[simp] theorem modStrand_cellar : (s.modStrand c k f).cellar = s.cellar := by
  unfold modStrand; split <;> rfl
@[simp] theorem modStrand_notices : (s.modStrand c k f).notices = s.notices := by
  unfold modStrand; split <;> rfl
@[simp] theorem modStrand_debts : (s.modStrand c k f).debts = s.debts := by
  unfold modStrand; split <;> rfl
@[simp] theorem modStrand_poison : (s.modStrand c k f).poison = s.poison := by
  unfold modStrand; split <;> rfl
@[simp] theorem modStrand_phases : (s.modStrand c k f).phases = s.phases := by
  unfold modStrand; split <;> rfl
@[simp] theorem modStrand_dead : (s.modStrand c k f).dead = s.dead := by
  unfold modStrand; split <;> rfl
@[simp] theorem modStrand_unmapping : (s.modStrand c k f).unmapping = s.unmapping := by
  unfold modStrand; split <;> rfl
@[simp] theorem modStrand_upAt : (s.modStrand c k f).upAt = s.upAt := by
  unfold modStrand; split <;> rfl
@[simp] theorem modStrand_fresh : (s.modStrand c k f).fresh = s.fresh := by
  unfold modStrand; split <;> rfl
@[simp] theorem modStrand_freeCount : (s.modStrand c k f).freeCount = s.freeCount := by
  unfold modStrand; split <;> rfl
@[simp] theorem modStrand_intervals : (s.modStrand c k f).intervals = s.intervals := by
  unfold modStrand; split <;> rfl
@[simp] theorem modStrand_epochs : (s.modStrand c k f).epochs = s.epochs := by
  unfold modStrand; split <;> rfl
@[simp] theorem modStrand_agenda : (s.modStrand c k f).agenda = s.agenda := by
  unfold modStrand; split <;> rfl
@[simp] theorem modStrand_cur : (s.modStrand c k f).cur = s.cur := by
  unfold modStrand; split <;> rfl
@[simp] theorem modStrand_curQ : (s.modStrand c k f).curQ = s.curQ := by
  unfold modStrand; split <;> rfl
@[simp] theorem modStrand_cap : (s.modStrand c k f).cap = s.cap := by
  unfold modStrand; split <;> rfl
@[simp] theorem modStrand_ahead : (s.modStrand c k f).ahead = s.ahead := by
  unfold modStrand; split <;> rfl
end

section
variable (s : State) (c b : Nat) (f : Block → Block)

@[simp] theorem modBlock_time : (s.modBlock c b f).time = s.time := by
  unfold modBlock; split <;> rfl
@[simp] theorem modBlock_mem : (s.modBlock c b f).mem = s.mem := by
  unfold modBlock; split <;> rfl
@[simp] theorem modBlock_poolsz : (s.modBlock c b f).poolsz = s.poolsz := by
  unfold modBlock; split <;> rfl
@[simp] theorem modBlock_ports : (s.modBlock c b f).ports = s.ports := by
  unfold modBlock; split <;> rfl
@[simp] theorem modBlock_ctxs : (s.modBlock c b f).ctxs = s.ctxs := by
  unfold modBlock; split <;> rfl
@[simp] theorem modBlock_code : (s.modBlock c b f).code = s.code := by
  unfold modBlock; split <;> rfl
@[simp] theorem modBlock_bells : (s.modBlock c b f).bells = s.bells := by
  unfold modBlock; split <;> rfl
@[simp] theorem modBlock_queues : (s.modBlock c b f).queues = s.queues := by
  unfold modBlock; split <;> rfl
@[simp] theorem modBlock_grids : (s.modBlock c b f).grids = s.grids := by
  unfold modBlock; split <;> rfl
@[simp] theorem modBlock_lastPlaced : (s.modBlock c b f).lastPlaced = s.lastPlaced := by
  unfold modBlock; split <;> rfl
@[simp] theorem modBlock_approved : (s.modBlock c b f).approved = s.approved := by
  unfold modBlock; split <;> rfl
@[simp] theorem modBlock_mapCounts : (s.modBlock c b f).mapCounts = s.mapCounts := by
  unfold modBlock; split <;> rfl
@[simp] theorem modBlock_dtlb : (s.modBlock c b f).dtlb = s.dtlb := by
  unfold modBlock; split <;> rfl
@[simp] theorem modBlock_locks : (s.modBlock c b f).locks = s.locks := by
  unfold modBlock; split <;> rfl
@[simp] theorem modBlock_sharedLines : (s.modBlock c b f).sharedLines = s.sharedLines := by
  unfold modBlock; split <;> rfl
@[simp] theorem modBlock_fills : (s.modBlock c b f).fills = s.fills := by
  unfold modBlock; split <;> rfl
@[simp] theorem modBlock_ready : (s.modBlock c b f).ready = s.ready := by
  unfold modBlock; split <;> rfl
@[simp] theorem modBlock_active : (s.modBlock c b f).active = s.active := by
  unfold modBlock; split <;> rfl
@[simp] theorem modBlock_staged : (s.modBlock c b f).staged = s.staged := by
  unfold modBlock; split <;> rfl
@[simp] theorem modBlock_pstat : (s.modBlock c b f).pstat = s.pstat := by
  unfold modBlock; split <;> rfl
@[simp] theorem modBlock_ceil : (s.modBlock c b f).ceil = s.ceil := by
  unfold modBlock; split <;> rfl
@[simp] theorem modBlock_page0 : (s.modBlock c b f).page0 = s.page0 := by
  unfold modBlock; split <;> rfl
@[simp] theorem modBlock_page1 : (s.modBlock c b f).page1 = s.page1 := by
  unfold modBlock; split <;> rfl
@[simp] theorem modBlock_server : (s.modBlock c b f).server = s.server := by
  unfold modBlock; split <;> rfl
@[simp] theorem modBlock_vaults : (s.modBlock c b f).vaults = s.vaults := by
  unfold modBlock; split <;> rfl
@[simp] theorem modBlock_freeze : (s.modBlock c b f).freeze = s.freeze := by
  unfold modBlock; split <;> rfl
@[simp] theorem modBlock_capsule : (s.modBlock c b f).capsule = s.capsule := by
  unfold modBlock; split <;> rfl
@[simp] theorem modBlock_summaries : (s.modBlock c b f).summaries = s.summaries := by
  unfold modBlock; split <;> rfl
@[simp] theorem modBlock_views : (s.modBlock c b f).views = s.views := by
  unfold modBlock; split <;> rfl
@[simp] theorem modBlock_nor : (s.modBlock c b f).nor = s.nor := by
  unfold modBlock; split <;> rfl
@[simp] theorem modBlock_norOpen : (s.modBlock c b f).norOpen = s.norOpen := by
  unfold modBlock; split <;> rfl
@[simp] theorem modBlock_norDue : (s.modBlock c b f).norDue = s.norDue := by
  unfold modBlock; split <;> rfl
@[simp] theorem modBlock_capno : (s.modBlock c b f).capno = s.capno := by
  unfold modBlock; split <;> rfl
@[simp] theorem modBlock_nextIndex : (s.modBlock c b f).nextIndex = s.nextIndex := by
  unfold modBlock; split <;> rfl
@[simp] theorem modBlock_reserved : (s.modBlock c b f).reserved = s.reserved := by
  unfold modBlock; split <;> rfl
@[simp] theorem modBlock_idNext : (s.modBlock c b f).idNext = s.idNext := by
  unfold modBlock; split <;> rfl
@[simp] theorem modBlock_idReserved : (s.modBlock c b f).idReserved = s.idReserved := by
  unfold modBlock; split <;> rfl
@[simp] theorem modBlock_capWindow : (s.modBlock c b f).capWindow = s.capWindow := by
  unfold modBlock; split <;> rfl
@[simp] theorem modBlock_attWindow : (s.modBlock c b f).attWindow = s.attWindow := by
  unfold modBlock; split <;> rfl
@[simp] theorem modBlock_fwWindow : (s.modBlock c b f).fwWindow = s.fwWindow := by
  unfold modBlock; split <;> rfl
@[simp] theorem modBlock_fwA : (s.modBlock c b f).fwA = s.fwA := by
  unfold modBlock; split <;> rfl
@[simp] theorem modBlock_fwB : (s.modBlock c b f).fwB = s.fwB := by
  unfold modBlock; split <;> rfl
@[simp] theorem modBlock_running : (s.modBlock c b f).running = s.running := by
  unfold modBlock; split <;> rfl
@[simp] theorem modBlock_booted : (s.modBlock c b f).booted = s.booted := by
  unfold modBlock; split <;> rfl
@[simp] theorem modBlock_boot : (s.modBlock c b f).boot = s.boot := by
  unfold modBlock; split <;> rfl
@[simp] theorem modBlock_minSvn : (s.modBlock c b f).minSvn = s.minSvn := by
  unfold modBlock; split <;> rfl
@[simp] theorem modBlock_serialNo : (s.modBlock c b f).serialNo = s.serialNo := by
  unfold modBlock; split <;> rfl
@[simp] theorem modBlock_errsum : (s.modBlock c b f).errsum = s.errsum := by
  unfold modBlock; split <;> rfl
@[simp] theorem modBlock_norErr : (s.modBlock c b f).norErr = s.norErr := by
  unfold modBlock; split <;> rfl
@[simp] theorem modBlock_fnote : (s.modBlock c b f).fnote = s.fnote := by
  unfold modBlock; split <;> rfl
@[simp] theorem modBlock_kills : (s.modBlock c b f).kills = s.kills := by
  unfold modBlock; split <;> rfl
@[simp] theorem modBlock_killDue : (s.modBlock c b f).killDue = s.killDue := by
  unfold modBlock; split <;> rfl
@[simp] theorem modBlock_links : (s.modBlock c b f).links = s.links := by
  unfold modBlock; split <;> rfl
@[simp] theorem modBlock_cellar : (s.modBlock c b f).cellar = s.cellar := by
  unfold modBlock; split <;> rfl
@[simp] theorem modBlock_notices : (s.modBlock c b f).notices = s.notices := by
  unfold modBlock; split <;> rfl
@[simp] theorem modBlock_debts : (s.modBlock c b f).debts = s.debts := by
  unfold modBlock; split <;> rfl
@[simp] theorem modBlock_poison : (s.modBlock c b f).poison = s.poison := by
  unfold modBlock; split <;> rfl
@[simp] theorem modBlock_phases : (s.modBlock c b f).phases = s.phases := by
  unfold modBlock; split <;> rfl
@[simp] theorem modBlock_dead : (s.modBlock c b f).dead = s.dead := by
  unfold modBlock; split <;> rfl
@[simp] theorem modBlock_unmapping : (s.modBlock c b f).unmapping = s.unmapping := by
  unfold modBlock; split <;> rfl
@[simp] theorem modBlock_upAt : (s.modBlock c b f).upAt = s.upAt := by
  unfold modBlock; split <;> rfl
@[simp] theorem modBlock_fresh : (s.modBlock c b f).fresh = s.fresh := by
  unfold modBlock; split <;> rfl
@[simp] theorem modBlock_freeCount : (s.modBlock c b f).freeCount = s.freeCount := by
  unfold modBlock; split <;> rfl
@[simp] theorem modBlock_intervals : (s.modBlock c b f).intervals = s.intervals := by
  unfold modBlock; split <;> rfl
@[simp] theorem modBlock_epochs : (s.modBlock c b f).epochs = s.epochs := by
  unfold modBlock; split <;> rfl
@[simp] theorem modBlock_agenda : (s.modBlock c b f).agenda = s.agenda := by
  unfold modBlock; split <;> rfl
@[simp] theorem modBlock_cur : (s.modBlock c b f).cur = s.cur := by
  unfold modBlock; split <;> rfl
@[simp] theorem modBlock_curQ : (s.modBlock c b f).curQ = s.curQ := by
  unfold modBlock; split <;> rfl
@[simp] theorem modBlock_cap : (s.modBlock c b f).cap = s.cap := by
  unfold modBlock; split <;> rfl
@[simp] theorem modBlock_ahead : (s.modBlock c b f).ahead = s.ahead := by
  unfold modBlock; split <;> rfl
end

/-! ### What is set and what is written -/

@[simp] theorem setCluster_clusters (s : State) (c : Nat) (cl : Cluster) : (s.setCluster c cl).clusters = s.clusters.set c cl := rfl
@[simp] theorem setCtx_ctxs (s : State) (n : Nat) (x : Context) : (s.setCtx n x).ctxs = s.ctxs.set n x := rfl
@[simp] theorem modCtx_ctxs (s : State) (n : Nat) (f : Context → Context) : (s.modCtx n f).ctxs = s.ctxs.modify n f := rfl
@[simp] theorem modGrid_grids (s : State) (g : Nat) (f : Grid → Grid) : (s.modGrid g f).grids = s.grids.modify g f := rfl
@[simp] theorem modQueue_queues (s : State) (q : Nat) (f : Queue → Queue) : (s.modQueue q f).queues = s.queues.modify q f := rfl
@[simp] theorem setVault_vaults (s : State) (u : Nat) (v : Vault) : (s.setVault u v).vaults = s.vaults.set u v := rfl

/-! ### Clusters -/

@[simp] theorem cluster_setCluster (s : State) (c : Nat) (cl : Cluster) : (s.setCluster c cl).cluster c = cl := by
  simp [cluster]

theorem cluster_setCluster_ne (s : State) {c d : Nat} (cl : Cluster) (h : d ≠ c) :
    (s.setCluster c cl).cluster d = s.cluster d := by
  simp [cluster, SMap.get?_set_ne _ _ h]

@[simp] theorem cluster_modCluster (s : State) (c : Nat) (f : Cluster → Cluster) :
    (s.modCluster c f).cluster c = f (s.cluster c) := cluster_setCluster s c _

theorem cluster_modCluster_ne (s : State) {c d : Nat} (f : Cluster → Cluster) (h : d ≠ c) :
    (s.modCluster c f).cluster d = s.cluster d := cluster_setCluster_ne s _ h

/-- A cluster that is written twice is as it was written last. -/
theorem setCluster_setCluster (s : State) (c : Nat) (x y : Cluster) : (s.setCluster c x).setCluster c y = s.setCluster c y := by
  have h : ∀ m : SMap Cluster, (m.set c x).set c y = m.set c y := by
    intro m
    induction m with
    | nil => simp [SMap.set]
    | cons p r ih =>
      obtain ⟨k, w⟩ := p
      simp only [SMap.set]
      split
      · simp [SMap.set]
      · split
        · simp [SMap.set]
        · rename_i h1 h2
          simp [SMap.set, h1, h2, ih]
  simp [setCluster, h]

/-! ### Strands -/

@[simp] theorem cluster_setStrand (s : State) (c k : Nat) (st : Strand) :
    (s.setStrand c k st).cluster c = { s.cluster c with strands := (s.cluster c).strands.set k st } := cluster_modCluster s c _

@[simp] theorem strand?_setStrand (s : State) (c k : Nat) (st : Strand) : (s.setStrand c k st).strand? c k = some st := by
  simp [strand?]

theorem strand?_setStrand_ne (s : State) {c k j : Nat} (st : Strand) (h : j ≠ k) :
    (s.setStrand c k st).strand? c j = s.strand? c j := by
  simp [strand?, SMap.get?_set_ne _ _ h]

@[simp] theorem block?_setStrand (s : State) (c k b : Nat) (st : Strand) :
    (s.setStrand c k st).block? c b = s.block? c b := by
  simp [block?]

/-- An update of a strand that is there. -/
theorem modStrand_of (s : State) {c k : Nat} {st : Strand} (f : Strand → Strand) (h : s.strand? c k = some st) :
    s.modStrand c k f = s.setStrand c k (f st) := by
  simp [modStrand, h]

theorem strand?_modStrand (s : State) {c k : Nat} {st : Strand} (f : Strand → Strand) (h : s.strand? c k = some st) :
    (s.modStrand c k f).strand? c k = some (f st) := by
  rw [modStrand_of s f h, strand?_setStrand]

theorem strand?_modStrand_ne (s : State) {c k j : Nat} (f : Strand → Strand) (h : j ≠ k) :
    (s.modStrand c k f).strand? c j = s.strand? c j := by
  unfold modStrand
  split
  · rfl
  · exact strand?_setStrand_ne s _ h

theorem cluster_modStrand (s : State) (c k : Nat) (f : Strand → Strand) :
    (s.modStrand c k f).cluster c = { s.cluster c with strands := ((s.modStrand c k f).cluster c).strands } := by
  unfold modStrand
  split
  · rfl
  · simp

theorem cluster_modStrand_ne (s : State) {c d k : Nat} (f : Strand → Strand) (h : d ≠ c) :
    (s.modStrand c k f).cluster d = s.cluster d := by
  unfold modStrand
  split
  · rfl
  · exact cluster_modCluster_ne s _ h

@[simp] theorem block?_modStrand (s : State) (c k b : Nat) (f : Strand → Strand) :
    (s.modStrand c k f).block? c b = s.block? c b := by
  unfold modStrand
  split
  · rfl
  · exact block?_setStrand s c k b _

/-! ### Blocks -/

@[simp] theorem cluster_setBlock (s : State) (c b : Nat) (bl : Block) :
    (s.setBlock c b bl).cluster c = { s.cluster c with blocks := (s.cluster c).blocks.set b bl } := cluster_modCluster s c _

@[simp] theorem block?_setBlock (s : State) (c b : Nat) (bl : Block) : (s.setBlock c b bl).block? c b = some bl := by
  simp [block?]

theorem block?_setBlock_ne (s : State) {c b d : Nat} (bl : Block) (h : d ≠ b) :
    (s.setBlock c b bl).block? c d = s.block? c d := by
  simp [block?, SMap.get?_set_ne _ _ h]

@[simp] theorem strand?_setBlock (s : State) (c b k : Nat) (bl : Block) :
    (s.setBlock c b bl).strand? c k = s.strand? c k := by
  simp [strand?]

theorem modBlock_of (s : State) {c b : Nat} {bl : Block} (f : Block → Block) (h : s.block? c b = some bl) :
    s.modBlock c b f = s.setBlock c b (f bl) := by
  simp [modBlock, h]

theorem block?_modBlock (s : State) {c b : Nat} {bl : Block} (f : Block → Block) (h : s.block? c b = some bl) :
    (s.modBlock c b f).block? c b = some (f bl) := by
  rw [modBlock_of s f h, block?_setBlock]

theorem block?_modBlock_ne (s : State) {c b d : Nat} (f : Block → Block) (h : d ≠ b) :
    (s.modBlock c b f).block? c d = s.block? c d := by
  unfold modBlock
  split
  · rfl
  · exact block?_setBlock_ne s _ h

@[simp] theorem strand?_modBlock (s : State) (c b k : Nat) (f : Block → Block) :
    (s.modBlock c b f).strand? c k = s.strand? c k := by
  unfold modBlock
  split
  · rfl
  · exact strand?_setBlock s c b k _

/-! ### Contexts, vaults and maps of the hub -/

@[simp] theorem ctx?_setCtx (s : State) (n : Nat) (x : Context) : (s.setCtx n x).ctx? n = some x := by
  simp [ctx?]

theorem ctx?_setCtx_ne (s : State) {n j : Nat} (x : Context) (h : j ≠ n) : (s.setCtx n x).ctx? j = s.ctx? j := by
  simp [ctx?, SMap.get?_set_ne _ _ h]

@[simp] theorem vault_setVault (s : State) (u : Nat) (v : Vault) : (s.setVault u v).vault u = v := by
  simp [vault]

theorem vault_setVault_ne (s : State) {u w : Nat} (v : Vault) (h : w ≠ u) : (s.setVault u v).vault w = s.vault w := by
  simp [vault, SMap.get?_set_ne _ _ h]

end Sys2Proof.Machine.State
end

