-- ==== Sys2Proof/Laws/Issue.lean ====
section
/-!
SUPPORT. What the shared operations of a strand do: the current strand, the gate, what an attempt comes to, retiring, and a
trap that enters its handler.
-/
namespace Sys2Proof.Machine

/-! ### The current strand -/

theorem meAt_some {s : State} {c k : Nat} {m : Me} (h : meAt s c k = some m) :
    m.c = c ∧ m.k = k ∧ s.strand? c k = some m.st ∧ s.block? c m.st.block = some m.blk ∧
      m.inH = ((s.cluster c).handler == some k) := by
  unfold meAt at h
  split at h
  · cases h
  · rename_i st hst
    split at h
    · cases h
    · rename_i b hb
      obtain rfl := Option.some.inj h
      exact ⟨rfl, rfl, hst, hb, rfl⟩

theorem meAt_of {s : State} {c k : Nat} {st : Strand} {b : Block} (hst : s.strand? c k = some st)
    (hb : s.block? c st.block = some b) :
    meAt s c k = some { c := c, k := k, st := st, blk := b, inH := (s.cluster c).handler == some k } := by
  simp [meAt, hst, hb]

theorem me?_some {s : State} {m : Me} (h : me? s = some m) :
    s.cur = some (m.c, m.k) ∧ s.strand? m.c m.k = some m.st ∧ s.block? m.c m.st.block = some m.blk ∧
      m.inH = ((s.cluster m.c).handler == some m.k) := by
  unfold me? at h
  split at h
  · cases h
  · rename_i c k hc
    obtain ⟨rfl, rfl, h1, h2, h3⟩ := meAt_some h
    exact ⟨hc, h1, h2, h3⟩

theorem me?_meAt {s : State} {m : Me} (h : me? s = some m) : meAt s m.c m.k = some m := by
  have hc := (me?_some h).1
  simpa [me?, hc] using h

/-! ### Registers -/

@[simp] theorem Regs.get_zero (r : Regs) : r.get 0 = 0 := by simp [Regs.get]

theorem Regs.get_put_self (r : Regs) {n : SReg} (v : Word) (h : n ≠ 0) : (r.put n v).get n = v := by
  unfold Regs.get Regs.put
  rw [if_neg h, if_neg h]
  simp

theorem Regs.get_put_ne (r : Regs) {n j : SReg} (v : Word) (h : j ≠ n) : (r.put n v).get j = r.get j := by
  by_cases hn : n = 0
  · unfold Regs.put
    rw [if_pos hn]
  · by_cases hj : j = 0
    · rw [hj, Regs.get_zero, Regs.get_zero]
    · have hne : n.toNat ≠ j.toNat := fun e => h (BitVec.eq_of_toNat_eq e.symm)
      unfold Regs.get Regs.put
      rw [if_neg hj, if_neg hj, if_neg hn]
      exact Vector.getElem_set_ne n.isLt j.isLt hne

/-- s0 is never written. -/
@[simp] theorem Regs.put_zero (r : Regs) (v : Word) : r.put 0 v = r := by simp [Regs.put]

theorem Me.setRegs_of {s : State} {m : Me} (h : me? s = some m) (f : Regs → Regs) :
    m.setRegs s f = s.setStrand m.c m.k { m.st with regs := f m.st.regs } :=
  State.modStrand_of s _ (me?_some h).2.1

@[simp] theorem Me.block?_setRegs (s : State) (m : Me) (f : Regs → Regs) (c b : Nat) (h : c = m.c) :
    (m.setRegs s f).block? c b = s.block? c b := by
  subst h
  exact State.block?_modStrand s m.c m.k b _

/-! ### The gate -/

theorem namesTrap_none {m : Me} {l : List NameUse} (h : ∀ u ∈ l, ∀ n ∈ u.list, useTrap m u n = none) : namesTrap m l = none := by
  induction l with
  | nil => rfl
  | cons u l ih =>
    have hu : (u.list.findSome? fun n => (useTrap m u n).map fun c => (c, n)) = none :=
      List.findSome?_eq_none_iff.mpr fun n hn => by simp [h u (List.mem_cons_self ..) n hn]
    simp only [namesTrap, hu, Option.none_or]
    exact ih fun x hx => h x (List.mem_cons_of_mem _ hx)

/-- Names that raise no trap. -/
theorem useTrap_of {m : Me} {l : List NameUse} (h : namesTrap m l = none) : ∀ u ∈ l, ∀ n ∈ u.list, useTrap m u n = none := by
  induction l with
  | nil => simp
  | cons u l ih =>
    intro x hx n hn
    simp only [namesTrap, Option.or_eq_none_iff] at h
    rcases List.mem_cons.mp hx with rfl | hx
    · simpa using List.findSome?_eq_none_iff.mp h.1 n hn
    · exact ih h.2 x hx n hn

theorem gateScalars_none {s : State} {r : Regs} {l : List (SReg × Bool)}
    (h : ∀ x ∈ l, r.isLost x.1 = false ∧ r.isEmpty x.1 = false) : gateScalars s r l = none := by
  induction l with
  | nil => rfl
  | cons x l ih =>
    obtain ⟨n, wf⟩ := x
    have hx := h (n, wf) (List.mem_cons_self ..)
    simp only [gateScalars, hx.1, hx.2, Bool.false_eq_true, if_false]
    exact ih fun x hx => h x (List.mem_cons_of_mem _ hx)

theorem gateNames_none {s : State} {m : Me} {x : TSet} {l : List NameUse}
    (hp : ∀ u ∈ l, ∀ n ∈ u.list, namePending s m n = false)
    (hs : ∀ u ∈ l, u.write = false → ∀ n ∈ u.list, nameLost m x n = false ∧ namePoison s m x n = none) :
    gateNames s m x l = none := by
  induction l with
  | nil => rfl
  | cons u l ih =>
    have hrest := ih (fun v hv => hp v (List.mem_cons_of_mem _ hv)) (fun v hv => hs v (List.mem_cons_of_mem _ hv))
    have h1 : u.list.find? (namePending s m) = none :=
      List.find?_eq_none.mpr fun n hn => by simp [hp u (List.mem_cons_self ..) n hn]
    simp only [gateNames, h1]
    split
    · exact hrest
    · rename_i hw
      have hw : u.write = false := by simpa using hw
      have h2 : u.list.find? (nameLost m x) = none :=
        List.find?_eq_none.mpr fun n hn => by simp [(hs u (List.mem_cons_self ..) hw n hn).1]
      have h3 : u.list.findSome? (namePoison s m x) = none :=
        List.findSome?_eq_none_iff.mpr fun n hn => (hs u (List.mem_cons_self ..) hw n hn).2
      simp only [h2, h3]
      exact hrest

/-- An instruction that is ready passes the gate. -/
theorem Ready.gate_none {s : State} {m : Me} {u : Uses} (h : Ready s m u) : gate s m u = none := by
  have hord : (u.ord && m.acquiring s u.mem) = false := by
    cases ho : u.ord
    · rfl
    · simp [h.acquired ho]
  have hsets : (u.sets && m.st.setsGone) = false := by
    cases hs : u.sets
    · rfl
    · simp [h.live hs]
  have hdst : u.dst.any m.st.regs.isEmpty = false := by
    simp only [List.any_eq_false]
    exact fun r hr => by simp [h.free r hr]
  simp only [gate, hord, hsets, namesTrap_none h.named, gateScalars_none h.full, hdst, h.clean, gateNames_none h.arrived h.sound,
    Bool.false_eq_true, if_false]

theorem Ready.unblocked {s : State} {m : Me} {u : Uses} (h : Ready s m u) : (if u.bo then boBlocked s m else none) = none := by
  split
  · exact h.population ‹_›
  · rfl

/-- Scalars that the gate lets through are full. -/
theorem gateScalars_of {s : State} {r : Regs} {l : List (SReg × Bool)} (h : gateScalars s r l = none) :
    ∀ x ∈ l, r.isLost x.1 = false ∧ r.isEmpty x.1 = false := by
  induction l with
  | nil => simp
  | cons y l ih =>
    intro x hx
    unfold gateScalars at h
    split at h
    · cases h
    rename_i h1
    split at h
    · cases h
    rename_i h2
    rcases List.mem_cons.mp hx with rfl | hx
    · exact ⟨by simpa using h1, by simpa using h2⟩
    · exact ih h x hx

/-- Names that the gate lets through have arrived, and what is read is neither lost nor poisoned. -/
theorem gateNames_of {s : State} {m : Me} {x : TSet} {l : List NameUse} (h : gateNames s m x l = none) :
    ∀ u ∈ l, (∀ n ∈ u.list, namePending s m n = false) ∧
      (u.write = false → ∀ n ∈ u.list, nameLost m x n = false ∧ namePoison s m x n = none) := by
  induction l with
  | nil => simp
  | cons y l ih =>
    intro u hu
    unfold gateNames at h
    split at h
    · cases h
    rename_i h1
    have hp : ∀ n ∈ y.list, namePending s m n = false := fun n hn => by
      simpa using List.find?_eq_none.mp h1 n hn
    split at h
    · rename_i hw
      rcases List.mem_cons.mp hu with rfl | hu
      · exact ⟨hp, fun hf => by simp [hf] at hw⟩
      · exact ih h u hu
    · split at h
      · cases h
      rename_i h2
      split at h
      · cases h
      rename_i h3
      rcases List.mem_cons.mp hu with rfl | hu
      · exact ⟨hp, fun _ n hn => ⟨by simpa using List.find?_eq_none.mp h2 n hn, List.findSome?_eq_none_iff.mp h3 n hn⟩⟩
      · exact ih h u hu

/-- What the gate lets through is ready where the population is to be had. -/
theorem ready_of_gate {s : State} {m : Me} {u : Uses} (hm : me? s = some m) (hb : u.bo = true → boBlocked s m = none)
    (h : gate s m u = none) : Ready s m u := by
  unfold gate at h
  split at h
  · cases h
  rename_i hord
  split at h
  · cases h
  rename_i hsets
  split at h
  · cases h
  rename_i hnames
  split at h
  · cases h
  rename_i hsrc
  split at h
  · cases h
  rename_i hdst
  split at h
  · cases h
  rename_i hclean
  have hn := gateNames_of h
  refine ⟨hm, hb, fun hs => ?_, useTrap_of hnames, gateScalars_of hsrc, fun r hr => ?_, fun x hx => (hn x hx).1,
    fun x hx => (hn x hx).2, hclean, fun ho => ?_⟩
  · simpa [hs] using hsets
  · simp only [Bool.not_eq_true, List.any_eq_false] at hdst
    simpa using hdst r hr
  · simpa [ho] using hord

/-- An instruction is ready just where a strand is the current one, the gate lets it through, and the population is to be had. -/
theorem ready_iff {s : State} {m : Me} {u : Uses} :
    Ready s m u ↔ me? s = some m ∧ gate s m u = none ∧ (u.bo = true → boBlocked s m = none) :=
  ⟨fun h => ⟨h.here, h.gate_none, h.population⟩, fun h => ready_of_gate h.1 h.2.2 h.2.1⟩

/-- An attempt of an instruction that is ready comes to its effect. -/
theorem issueBy_ready {s : State} {m : Me} {op : Nat} {stop : Bool} {u : Me → Uses} {k : Me → Eff} (h : Ready s m (u m)) :
    issueBy s op stop u k = .next (settleTurn m (u m).bo (k m) (finish m op stop s (k m))) := by
  simp [issueBy, h.here, h.gate_none, h.unblocked]

theorem issue_ready {s : State} {m : Me} {op : Nat} {stop : Bool} {u : Uses} {k : Me → Eff} (h : Ready s m u) :
    issue s op stop u k = .next (settleTurn m u.bo (k m) (finish m op stop s (k m))) :=
  issueBy_ready (u := fun _ => u) h

/-- An instruction that is ready and done is completed. -/
theorem issueBy_done {s : State} {m : Me} {op : Nat} {stop : Bool} {u : Me → Uses} {k : Me → Eff} {s' : State}
    (h : Ready s m (u m)) (hk : k m = .done s') :
    issueBy s op stop u k = .next (completed m (u m).bo stop (successor m.st.pc) s') := by
  rw [issueBy_ready h, hk]
  cases (u m).bo <;> rfl

theorem issue_done {s : State} {m : Me} {op : Nat} {stop : Bool} {u : Uses} {k : Me → Eff} {s' : State} (h : Ready s m u)
    (hk : k m = .done s') : issue s op stop u k = .next (completed m u.bo stop (successor m.st.pc) s') :=
  issueBy_done (u := fun _ => u) h hk

theorem issue_jump {s : State} {m : Me} {op : Nat} {stop : Bool} {u : Uses} {k : Me → Eff} {s' : State} {pc : PC}
    (h : Ready s m u) (hk : k m = .jump s' pc) : issue s op stop u k = .next (completed m u.bo stop pc s') := by
  rw [issue_ready h, hk]
  cases hb : u.bo <;> simp [settleTurn, finish, completed]

/-- An instruction that is ready and traps raises its cause; one with a `bo` point took its opportunity. -/
theorem issueBy_trap {s : State} {m : Me} {op : Nat} {stop : Bool} {u : Me → Uses} {k : Me → Eff} {cause : Nat} {info : Word}
    {s' : State} (h : Ready s m (u m)) (hk : k m = .trap cause info s') :
    issueBy s op stop u k = .next (if (u m).bo then trappedBo s' m cause info op else trappedIn s' m cause info op) := by
  rw [issueBy_ready h, hk]
  cases (u m).bo <;> rfl

/-- An attempt answers a next state in every case but one: no strand is the current agent. What it comes to is what the gate says
or the effect, and a wait for the population in place of it. -/
theorem issueBy_next {s t : State} {op : Nat} {stop : Bool} {u : Me → Uses} {k : Me → Eff}
    (h : issueBy s op stop u k = .next t) : ∃ m e, me? s = some m ∧ e = (gate s m (u m)).getD (k m) ∧
      ((((u m).bo = true → boBlocked s m = none) ∧ t = settleTurn m (u m).bo e (finish m op stop s e)) ∨
        ∃ b, (u m).bo = true ∧ boBlocked s m = some b ∧ t = holdBack s m op stop b e) := by
  unfold issueBy at h
  split at h
  · cases h
  · rename_i m hm
    refine ⟨m, _, hm, rfl, ?_⟩
    cases hb : (u m).bo
    · exact .inl ⟨by simp, by simpa [hb] using h.symm⟩
    · cases hq : boBlocked s m
      · exact .inl ⟨fun _ => rfl, by simpa [hb, hq] using h.symm⟩
      · exact .inr ⟨_, rfl, rfl, by simpa [hb, hq] using h.symm⟩

/-! ### Records -/

/-- A record changes a vault and nothing else. -/
theorem record_eq (s : State) (u ty ctx slot ord : Nat) (pay : Word) :
    record s u ty ctx slot ord pay = { s with vaults := (record s u ty ctx slot ord pay).vaults } := by
  unfold record
  split <;> rfl

@[simp] theorem record_clusters (s : State) (u ty ctx slot ord : Nat) (pay : Word) :
    (record s u ty ctx slot ord pay).clusters = s.clusters := by rw [record_eq]
@[simp] theorem record_mem (s : State) (u ty ctx slot ord : Nat) (pay : Word) :
    (record s u ty ctx slot ord pay).mem = s.mem := by rw [record_eq]
@[simp] theorem record_cluster (s : State) (u ty ctx slot ord : Nat) (pay : Word) (c : Nat) :
    (record s u ty ctx slot ord pay).cluster c = s.cluster c := by simp [State.cluster]
@[simp] theorem record_strand? (s : State) (u ty ctx slot ord : Nat) (pay : Word) (c k : Nat) :
    (record s u ty ctx slot ord pay).strand? c k = s.strand? c k := by simp [State.strand?]
@[simp] theorem record_block? (s : State) (u ty ctx slot ord : Nat) (pay : Word) (c b : Nat) :
    (record s u ty ctx slot ord pay).block? c b = s.block? c b := by simp [State.block?]

/-- The record of a stop site changes a vault and nothing else. -/
theorem noteSite_eq (s : State) (m : Me) (stop : Bool) : noteSite s m stop = { s with vaults := (noteSite s m stop).vaults } := by
  unfold noteSite
  split
  · exact record_eq ..
  · rfl

/-! ### Retiring -/

/-- The strand after a retirement, with a STEP trap due where `step` says so. -/
def retired (s : State) (m : Me) (stop step : Bool) (next : PC) (st : Strand) : Strand :=
  { st with
    pc := next, wait := .none, stall := none, waited := 0, age := 0, bpinh := false, pre := []
    alone := if st.alone = some m.st.pc then st.alone else none, entering := false
    jobFaults := faultsDue st.jobFaults, site := m.st.siteAfter stop s.time
    stepDue := if step then some (m.st.pc, next) else st.stepDue }

/-- The state with that strand, which issued last, and the record of its stop site. -/
def retiredState (s : State) (m : Me) (stop step : Bool) (next : PC) (st : Strand) : State :=
  noteSite ((s.setStrand m.c m.k (retired s m stop step next st)).modCluster m.c fun cl => { cl with turn := m.k }) m stop

theorem retireAt_eq {s : State} {m : Me} {stop step : Bool} {next : PC} {st : Strand} (hst : s.strand? m.c m.k = some st) :
    retireAt s m stop step next = retiredState s m stop step next st := by
  unfold retireAt
  rw [hst]
  rfl

/-- Retiring: the strand goes on, and traps STEP where stepping is on. -/
theorem retire_eq {s : State} {m : Me} {stop : Bool} {next : PC} {st : Strand} (hst : s.strand? m.c m.k = some st) :
    retire s m stop next =
      (if (stop && !m.inH && st.regs.dbg.getLsbD 0) = true then
        takeTrap (retiredState s m stop false next st) m.c m.k (stepTrap m.st.pc next)
      else retiredState s m stop false next st) := by
  unfold retire
  rw [hst, retireAt_eq hst]

/-- A strand that does not trap STEP. -/
theorem retire_unstepped {s : State} {m : Me} {stop : Bool} {next : PC} {st : Strand} (hst : s.strand? m.c m.k = some st)
    (hstep : (stop && !m.inH && st.regs.dbg.getLsbD 0) = false) :
    retire s m stop next = retiredState s m stop false next st := by
  rw [retire_eq hst, if_neg (by rw [hstep]; exact Bool.false_ne_true)]

section
variable (s : State) (m : Me) (stop step : Bool) (next : PC) (st : Strand)

/-- Of the machine a retirement changes the cluster's strands, whose turn the last was, and the recorder's vaults. -/
theorem retiredState_eq : retiredState s m stop step next st =
    { ((s.setStrand m.c m.k (retired s m stop step next st)).modCluster m.c fun cl => { cl with turn := m.k }) with
      vaults := (retiredState s m stop step next st).vaults } := noteSite_eq ..

@[simp] theorem retiredState_mem : (retiredState s m stop step next st).mem = s.mem := by
  rw [retiredState_eq]
  rfl

theorem retiredState_clusters : (retiredState s m stop step next st).clusters =
    ((s.setStrand m.c m.k (retired s m stop step next st)).modCluster m.c fun cl => { cl with turn := m.k }).clusters := by
  rw [retiredState_eq]

theorem retiredState_cluster : (retiredState s m stop step next st).cluster m.c = { s.cluster m.c with
    strands := (s.cluster m.c).strands.set m.k (retired s m stop step next st), turn := m.k } := by
  have h := retiredState_clusters s m stop step next st
  simp only [State.cluster] at *
  rw [h]
  simp [State.modCluster, State.setStrand, State.cluster]

theorem retiredState_cluster_ne {d : Nat} (h : d ≠ m.c) : (retiredState s m stop step next st).cluster d = s.cluster d := by
  have h' := retiredState_clusters s m stop step next st
  simp only [State.cluster] at *
  rw [h']
  simp [State.modCluster, State.setStrand, SMap.get?_set_ne _ _ h]

@[simp] theorem retiredState_strand? :
    (retiredState s m stop step next st).strand? m.c m.k = some (retired s m stop step next st) := by
  simp [State.strand?, retiredState_cluster]

theorem retiredState_strand?_ne {j : Nat} (h : j ≠ m.k) :
    (retiredState s m stop step next st).strand? m.c j = s.strand? m.c j := by
  simp [State.strand?, retiredState_cluster, SMap.get?_set_ne _ _ h]

@[simp] theorem retiredState_block? (b : Nat) : (retiredState s m stop step next st).block? m.c b = s.block? m.c b := by
  simp [State.block?, retiredState_cluster]
end

/-! ### Completing -/

/-- A broadcast that has issued changes of its strand at most whether its gang has completed and whether it issues first after a
restore. -/
theorem tookTurn_strand? {s : State} {m : Me} {st : Strand} (h : s.strand? m.c m.k = some st) :
    ∃ g, (tookTurn s m).strand? m.c m.k = some { st with gangDone := g, resumed := false } := by
  have h' : (s.modCluster m.c fun cl => { cl with lastSlot := m.k }).strand? m.c m.k = some st := by
    simpa [State.strand?] using h
  exact ⟨_, State.strand?_modStrand _ _ h'⟩

@[simp] theorem tookTurn_mem (s : State) (m : Me) : (tookTurn s m).mem = s.mem := by simp [tookTurn]

@[simp] theorem tookTurn_block? (s : State) (m : Me) (b : Nat) : (tookTurn s m).block? m.c b = s.block? m.c b := by
  refine (State.block?_modStrand ..).trans ?_
  simp [State.block?]

/-- An instruction of a strand that does not trap STEP completes: the strand goes on at `next` with the registers and sets its
effect left, and memory and the blocks are as its effect left them. -/
theorem completed_unstepped {s' : State} {m : Me} {bo stop : Bool} {next : PC} {st : Strand}
    (hst : s'.strand? m.c m.k = some st) (hdbg : st.regs.dbg = m.st.regs.dbg) (hu : Unstepped m stop) :
    ∃ st', (completed m bo stop next s').strand? m.c m.k = some st' ∧ st'.pc = next ∧ st'.regs = st.regs ∧
      st'.stack = st.stack ∧ st'.parked = st.parked ∧ st'.out = st.out ∧ st'.frames = st.frames ∧ st'.late = st.late ∧
      st'.wait = .none ∧ (completed m bo stop next s').mem = s'.mem ∧
      ∀ b, (completed m bo stop next s').block? m.c b = s'.block? m.c b := by
  have hstep : (stop && !m.inH && st.regs.dbg.getLsbD 0) = false := by
    cases hs : stop
    · rfl
    · rcases hu hs with h | h
      · rw [hdbg, h]
        simp
      · simp [h]
  unfold completed
  rw [retire_unstepped hst hstep]
  cases bo
  · exact ⟨_, retiredState_strand? .., rfl, rfl, rfl, rfl, rfl, rfl, rfl, rfl, by simp, by simp⟩
  · obtain ⟨g, hg⟩ := tookTurn_strand? (retiredState_strand? s' m stop false next st)
    exact ⟨_, hg, rfl, rfl, rfl, rfl, rfl, rfl, rfl, rfl, by simp, by simp⟩

/-! ### Traps -/

/-- What a fetch and the check of a target see of the machine: a cluster's µTLB, and nothing of its strands, blocks and vaults. -/
theorem targetOk_congr {s : State} {cs : SMap Cluster} {v : SMap Vault} {c : Nat}
    (h : (State.cluster { s with clusters := cs, vaults := v } c).utlb = (s.cluster c).utlb) (ctx : Nat) (pc : PC) :
    targetOk { s with clusters := cs, vaults := v } c ctx pc = targetOk s c ctx pc := by
  unfold targetOk fetchLine fetchEntry tlbFind
  rw [h]
  rfl

@[simp] theorem cluster_note (s : State) (m : Me) (ty : Nat) (pay : Word) (c : Nat) :
    (m.note s ty pay).cluster c = s.cluster c := by simp [Me.note]

@[simp] theorem note_strand? (s : State) (m : Me) (ty : Nat) (pay : Word) (c k : Nat) :
    (m.note s ty pay).strand? c k = s.strand? c k := by simp [Me.note]

@[simp] theorem note_block? (s : State) (m : Me) (ty : Nat) (pay : Word) (c b : Nat) :
    (m.note s ty pay).block? c b = s.block? c b := by simp [Me.note]

theorem note_eq (s : State) (m : Me) (ty : Nat) (pay : Word) :
    m.note s ty pay = { s with vaults := (m.note s ty pay).vaults } := record_eq ..

@[simp] theorem meAt_note (s : State) (m : Me) (ty : Nat) (pay : Word) (c k : Nat) :
    meAt (m.note s ty pay) c k = meAt s c k := by simp [meAt]

/-- The strand as its trap leaves it (15 R243). -/
def enteredStrand (m : Me) (t : Trap) : Strand :=
  { m.st with
    regs := m.st.regs.trapped m.blk.n (m.unparked m.st.stack.top) (tstateOf m.st t) t
    trap := none, wait := .none, pc := m.st.regs.tvec.truncate 57, stall := none, waited := 0, entering := false, resumed := false
    pre := [] }

/-- The state in which the handler of that strand runs. -/
def enteredState (s : State) (m : Me) (t : Trap) : State :=
  (s.setStrand m.c m.k (enteredStrand m t)).modCluster m.c fun cl =>
    { cl with handler := some m.k, hstack := Stack.init m.st.stack.top 15, hlatch := m.st.regs.latch }

/-- A trap whose strand has a handler at a legal target enters it (15 R243). -/
theorem enterHandler_eq {s : State} {m : Me} (t : Trap) (hm : meAt s m.c m.k = some m) (hv : m.st.regs.tvec ≠ 0)
    (hx : targetOk s m.c m.ctx (m.st.regs.tvec.truncate 57) = true) :
    enterHandler s m.c m.k t = enteredState s m t := by
  have hx' : targetOk (enteredState s m t) m.c m.ctx (m.st.regs.tvec.truncate 57) = true := by
    rw [← hx]
    exact targetOk_congr (s := s) (cs := (enteredState s m t).clusters) (v := s.vaults)
      (by show ((enteredState s m t).cluster m.c).utlb = _; simp [enteredState]) _ _
  unfold enterHandler
  rw [hm]
  dsimp only
  rw [if_neg hv]
  exact if_pos hx'

/-- Whether the population is free for a handler is nothing of the recorder's. -/
theorem entryFree_vaults (s : State) (v : SMap Vault) (c k : Nat) :
    State.entryFree { s with vaults := v } c k = s.entryFree c k := rfl

@[simp] theorem entryFree_note (s : State) (m : Me) (ty : Nat) (pay : Word) (c k : Nat) :
    (m.note s ty pay).entryFree c k = s.entryFree c k := by
  rw [note_eq]
  exact entryFree_vaults ..

/-- A trap raised in a cluster where no handler runs, none waits and the population is free enters its own at once, once its TRAP
record is written. -/
theorem takeTrap_eq {s : State} {m : Me} (t : Trap) (hm : meAt s m.c m.k = some m) (hh : s.entryFree m.c m.k = true)
    (hw : ∀ p ∈ (s.cluster m.c).strands, p.2.trap = none) (hv : m.st.regs.tvec ≠ 0)
    (hx : targetOk s m.c m.ctx (m.st.regs.tvec.truncate 57) = true) :
    takeTrap s m.c m.k t = enteredState (m.note s 0x08 (payload [(56, t.info.toNat), (8, t.cause)])) m t := by
  have hx' : targetOk (m.note s 0x08 (payload [(56, t.info.toNat), (8, t.cause)])) m.c m.ctx (m.st.regs.tvec.truncate 57)
      = true := by
    rw [← hx, note_eq]
    exact targetOk_congr (s := s) (cs := s.clusters) rfl _ _
  have hw' : ((s.cluster m.c).strands.any fun p => p.2.trap.isSome) = false :=
    List.any_eq_false.mpr fun p hp => by simp [hw p hp]
  unfold takeTrap
  rw [hm]
  dsimp only
  rw [if_pos (by simp [hh, hw']), enterHandler_eq t (by simpa using hm) hv hx']

@[simp] theorem enteredState_strand? (s : State) (m : Me) (t : Trap) :
    (enteredState s m t).strand? m.c m.k = some (enteredStrand m t) := by
  simp [enteredState, State.strand?]

@[simp] theorem enteredState_cluster (s : State) (m : Me) (t : Trap) : (enteredState s m t).cluster m.c =
    { s.cluster m.c with strands := (s.cluster m.c).strands.set m.k (enteredStrand m t), handler := some m.k
                         hstack := Stack.init m.st.stack.top 15, hlatch := m.st.regs.latch } := by
  simp [enteredState]

@[simp] theorem enteredState_mem (s : State) (m : Me) (t : Trap) : (enteredState s m t).mem = s.mem := rfl

end Sys2Proof.Machine
end

