-- ==== Sys2Proof/Laws/Memory.lean ====
section
/-!
SUPPORT. Byte memory: what a read answers after a write, and that every memory operation keeps the canonical form.
-/
namespace Sys2Proof.Machine

/-! ### The canonical form -/

/-- A memory whose addresses lie above `lo`. -/
def aboveCell (lo : Option Nat) (k : Nat) : Prop := ∀ b, lo = some b → b < k

theorem cellsFrom_cons {lo : Option Nat} {k : Nat} {v : Byte} {r : List Host.Cell} :
    cellsFrom lo ((k, v) :: r) = true ↔ aboveCell lo k ∧ v ≠ blankByte ∧ cellsFrom (some k) r = true := by
  cases lo <;> simp [cellsFrom, aboveCell, and_assoc]

theorem cellsFrom_weaken {lo lo' : Option Nat} {m : List Host.Cell} (hlo : ∀ k, aboveCell lo k → aboveCell lo' k)
    (h : cellsFrom lo m = true) : cellsFrom lo' m = true := by
  cases m with
  | nil => rfl
  | cons p r =>
    obtain ⟨k, v⟩ := p
    rw [cellsFrom_cons] at h ⊢
    exact ⟨hlo k h.1, h.2⟩

theorem readByte_below {m : List Host.Cell} {k a : Nat} (h : cellsFrom (some k) m = true) (ha : a ≤ k) :
    readByte m a = blankByte := by
  induction m generalizing k with
  | nil => rfl
  | cons p r ih =>
    obtain ⟨k', v⟩ := p
    rw [cellsFrom_cons] at h
    have hk : k < k' := h.1 k rfl
    have : k' ≠ a := by omega
    simp only [readByte, this, if_false]
    exact ih h.2.2 (by omega)

theorem cellsFrom_dropByte {m : List Host.Cell} {lo : Option Nat} (a : Nat) (h : cellsFrom lo m = true) :
    cellsFrom lo (dropByte m a) = true := by
  induction m generalizing lo with
  | nil => rfl
  | cons p r ih =>
    obtain ⟨k, v⟩ := p
    rw [cellsFrom_cons] at h
    simp only [dropByte]
    split
    · exact cellsFrom_weaken (fun j hj b hb => Nat.lt_trans (h.1 b hb) (hj k rfl)) h.2.2
    · rw [cellsFrom_cons]
      exact ⟨h.1, h.2.1, ih h.2.2⟩

theorem cellsFrom_putByte {m : List Host.Cell} {lo : Option Nat} {a : Nat} {b : Byte} (ha : aboveCell lo a)
    (hb : b ≠ blankByte) (h : cellsFrom lo m = true) : cellsFrom lo (putByte m a b) = true := by
  induction m generalizing lo with
  | nil =>
    rw [putByte, cellsFrom_cons]
    exact ⟨ha, hb, rfl⟩
  | cons p r ih =>
    obtain ⟨k, v⟩ := p
    have h' := cellsFrom_cons.mp h
    simp only [putByte]
    split
    · rename_i hak
      rw [cellsFrom_cons, cellsFrom_cons]
      exact ⟨ha, hb, fun b' hb' => by cases hb'; exact hak, h'.2⟩
    · split
      · rename_i hka
        subst hka
        rw [cellsFrom_cons]
        exact ⟨h'.1, hb, h'.2.2⟩
      · rename_i h1 h2
        rw [cellsFrom_cons]
        exact ⟨h'.1, h'.2.1, ih (fun b' hb' => by cases hb'; omega) h'.2.2⟩

/-- A write keeps the canonical form. -/
theorem wf_writeByte {m : List Host.Cell} (a : Nat) (b : Byte) (h : Memory.wf m = true) :
    Memory.wf (writeByte m a b) = true := by
  unfold writeByte Memory.wf
  split
  · exact cellsFrom_dropByte a h
  · rename_i hb
    exact cellsFrom_putByte (fun _ hn => by cases hn) hb h

theorem wf_writeBytes {m : List Host.Cell} (a : Nat) (bs : List Byte) (h : Memory.wf m = true) :
    Memory.wf (writeBytes m a bs) = true := by
  induction bs generalizing m a with
  | nil => exact h
  | cons b bs ih => exact ih (a + 1) (wf_writeByte a b h)

theorem wf_writeNat {m : List Host.Cell} (a n v : Nat) (h : Memory.wf m = true) : Memory.wf (writeNat m a n v) = true :=
  wf_writeBytes a _ h

/-- A fold of updates that each keep the canonical form keeps it. -/
theorem wf_foldl {α : Type} {f : List Host.Cell → α → List Host.Cell}
    (hf : ∀ m x, Memory.wf m = true → Memory.wf (f m x) = true) (l : List α) {m : List Host.Cell} (h : Memory.wf m = true) :
    Memory.wf (l.foldl f m) = true := by
  induction l generalizing m with
  | nil => exact h
  | cons x l ih => exact ih (hf m x h)

/-! ### What a read answers -/

theorem readByte_dropByte_self {m : List Host.Cell} {lo : Option Nat} (a : Nat) (h : cellsFrom lo m = true) :
    readByte (dropByte m a) a = blankByte := by
  induction m generalizing lo with
  | nil => rfl
  | cons p r ih =>
    obtain ⟨k, v⟩ := p
    rw [cellsFrom_cons] at h
    simp only [dropByte]
    split
    · rename_i hk
      subst hk
      exact readByte_below h.2.2 (Nat.le_refl _)
    · rename_i hk
      simp only [readByte, hk, if_false]
      exact ih h.2.2

theorem readByte_dropByte_ne (m : List Host.Cell) {a x : Nat} (hx : x ≠ a) : readByte (dropByte m a) x = readByte m x := by
  induction m with
  | nil => rfl
  | cons p r ih =>
    obtain ⟨k, v⟩ := p
    simp only [dropByte]
    split
    · rename_i hk
      subst hk
      simp [readByte, hx.symm]
    · simp only [readByte, ih]

theorem readByte_putByte_self (m : List Host.Cell) (a : Nat) (b : Byte) : readByte (putByte m a b) a = b := by
  induction m with
  | nil => simp [putByte, readByte]
  | cons p r ih =>
    obtain ⟨k, v⟩ := p
    simp only [putByte]
    split
    · simp [readByte]
    · split
      · simp [readByte]
      · rename_i hk
        simp only [readByte, hk, if_false, ih]

theorem readByte_putByte_ne (m : List Host.Cell) {a x : Nat} (b : Byte) (hx : x ≠ a) :
    readByte (putByte m a b) x = readByte m x := by
  induction m with
  | nil => simp [putByte, readByte, hx.symm]
  | cons p r ih =>
    obtain ⟨k, v⟩ := p
    simp only [putByte]
    split
    · simp [readByte, hx.symm]
    · split
      · rename_i hk
        subst hk
        simp [readByte, hx.symm]
      · simp only [readByte, ih]

/-- A byte written reads back in a memory of the canonical form. -/
theorem readByte_writeByte_self {m : List Host.Cell} (a : Nat) (b : Byte) (h : Memory.wf m = true) :
    readByte (writeByte m a b) a = b := by
  unfold writeByte
  split
  · rename_i hb
    rw [hb]
    exact readByte_dropByte_self a h
  · exact readByte_putByte_self m a b

/-- A write leaves every other byte alone. -/
theorem readByte_writeByte_ne (m : List Host.Cell) {a x : Nat} (b : Byte) (hx : x ≠ a) :
    readByte (writeByte m a b) x = readByte m x := by
  unfold writeByte
  split
  · exact readByte_dropByte_ne m hx
  · exact readByte_putByte_ne m b hx

theorem readByte_writeBytes_apart (m : List Host.Cell) (a : Nat) (bs : List Byte) {x : Nat}
    (hx : x < a ∨ a + bs.length ≤ x) : readByte (writeBytes m a bs) x = readByte m x := by
  induction bs generalizing m a with
  | nil => rfl
  | cons b bs ih =>
    simp only [List.length_cons] at hx
    simp only [writeBytes]
    rw [ih _ _ (by omega), readByte_writeByte_ne _ _ (by omega)]

theorem readByte_writeBytes {m : List Host.Cell} (a : Nat) (bs : List Byte) (h : Memory.wf m = true) {i : Nat} {v : Byte}
    (hi : bs[i]? = some v) : readByte (writeBytes m a bs) (a + i) = v := by
  induction bs generalizing m a i with
  | nil => simp at hi
  | cons b bs ih =>
    simp only [writeBytes]
    cases i with
    | zero =>
      simp only [List.getElem?_cons_zero, Option.some.injEq] at hi
      subst hi
      rw [readByte_writeBytes_apart _ _ _ (by omega)]
      exact readByte_writeByte_self a b h
    | succ i =>
      rw [List.getElem?_cons_succ] at hi
      have := ih (a + 1) (wf_writeByte a b h) hi
      rwa [show a + (i + 1) = a + 1 + i by omega]

@[simp] theorem length_readBytes (m : List Host.Cell) (a n : Nat) : (readBytes m a n).length = n := by
  induction n generalizing a with
  | zero => rfl
  | succ n ih => simp [readBytes, ih]

theorem readBytes_congr {m m' : List Host.Cell} {a n : Nat} (h : ∀ x, a ≤ x → x < a + n → readByte m x = readByte m' x) :
    readBytes m a n = readBytes m' a n := by
  induction n generalizing a with
  | zero => rfl
  | succ n ih =>
    simp only [readBytes]
    rw [h a (by omega) (by omega), ih fun x h1 h2 => h x (by omega) (by omega)]

theorem readBytes_writeBytes {m : List Host.Cell} (a : Nat) (bs : List Byte) (h : Memory.wf m = true) :
    readBytes (writeBytes m a bs) a bs.length = bs := by
  induction bs generalizing m a with
  | nil => rfl
  | cons b bs ih =>
    simp only [List.length_cons, readBytes, writeBytes]
    rw [ih (a + 1) (wf_writeByte a b h), readByte_writeBytes_apart _ _ _ (by omega), readByte_writeByte_self a b h]

/-- A wide read that no byte of a write lies in. -/
theorem readNat_writeBytes_apart (m : List Host.Cell) (a : Nat) (bs : List Byte) {x n : Nat}
    (hx : x + n ≤ a ∨ a + bs.length ≤ x) : readNat (writeBytes m a bs) x n = readNat m x n := by
  unfold readNat
  rw [readBytes_congr fun y h1 h2 => readByte_writeBytes_apart m a bs (x := y) (by omega)]

@[simp] theorem length_leBytes (k n : Nat) : (leBytes k n).length = k := by
  induction k generalizing n with
  | zero => rfl
  | succ k ih => simp [leBytes, ih]

/-- The bytes of a number give it back, less what does not fit. -/
theorem leNat_leBytes (k n : Nat) : leNat (leBytes k n) = n % 2 ^ (8 * k) := by
  induction k generalizing n with
  | zero => simp [leBytes, leNat, Nat.mod_one]
  | succ k ih =>
    simp only [leBytes, leNat, ih, BitVec.toNat_ofNat]
    rw [show 8 * (k + 1) = 8 + 8 * k by omega, Nat.pow_add, Nat.mod_mul]

/-- A number written reads back in a memory of the canonical form. -/
theorem readNat_writeNat {m : List Host.Cell} (a n v : Nat) (h : Memory.wf m = true) :
    readNat (writeNat m a n v) a n = v % 2 ^ (8 * n) := by
  have := readBytes_writeBytes a (leBytes n v) h
  rw [length_leBytes] at this
  rw [readNat, writeNat, this, leNat_leBytes]

end Sys2Proof.Machine
end

