-- ==== Sys2Proof/Laws/Translate.lean ====
section
/-!
SUPPORT. Translation: addresses of one 4 KiB page walk alike.
-/
namespace Sys2Proof.Machine

theorem div_of_page {va vb d : Nat} (h : va / 4096 = vb / 4096) (hd : 4096 ∣ d) : va / d = vb / d := by
  obtain ⟨e, rfl⟩ := hd
  rw [← Nat.div_div_eq_div_mul, ← Nat.div_div_eq_div_mul, h]

theorem page_dvd_pow {lo : Nat} (h : 12 ≤ lo) : 4096 ∣ 2 ^ lo := Nat.pow_dvd_pow 2 (m := 12) h

theorem page_dvd_pageBytes (sz : Nat) : 4096 ∣ pageBytes sz := Nat.dvd_mul_right 4096 _

theorem leafAt_same_page {poolsz va vb e lo n : Nat} (h : va / 4096 = vb / 4096) (hlo : 12 ≤ lo) :
    leafAt poolsz va e lo n = leafAt poolsz vb e lo n := by
  simp only [leafAt, div_of_page h (page_dvd_pow hlo), div_of_page h (page_dvd_pageBytes _)]

/-- Two addresses of one page take the same way through tables of levels above the page. -/
theorem walkFrom_same_page {mem : List Host.Cell} {poolsz va vb : Nat} (h : va / 4096 = vb / 4096) :
    ∀ (ls : List (Nat × Nat × Option Nat)) (table : Nat), (∀ l ∈ ls, 12 ≤ l.1) →
      walkFrom mem poolsz va table ls = walkFrom mem poolsz vb table ls := by
  intro ls
  induction ls with
  | nil => intro _ _; rfl
  | cons l rest ih =>
    obtain ⟨lo, k, nat⟩ := l
    intro table hl
    have hlo : 12 ≤ lo := hl (lo, k, nat) (List.mem_cons_self ..)
    have hn : ∀ e, nat.bind (leafAt poolsz va e lo) = nat.bind (leafAt poolsz vb e lo) := fun e => by
      cases nat with
      | none => rfl
      | some n => exact leafAt_same_page h hlo
    have hr := fun t => ih t fun l hm => hl l (List.mem_cons_of_mem _ hm)
    cases rest with
    | nil => simp only [walkFrom, div_of_page h (page_dvd_pow hlo), hn]
    | cons p q =>
      simp only [walkFrom] at hr ⊢
      simp only [div_of_page h (page_dvd_pow hlo), hn, hr]

/-- Two addresses of one page have the same leaf. -/
theorem walk_same_page {s : State} {ctx va vb : Nat} (h : va / 4096 = vb / 4096) : walk s ctx va = walk s ctx vb := by
  unfold walk
  split
  · rfl
  · rw [walkFrom_same_page h _ _ (by decide)]

/-- What the hub reads in one page that may be read. -/
theorem hubBytes_of_page {s : State} {ctx va n base leaf : Nat} (hw : walk s ctx va = some (base, leaf))
    (hp : va % 4096 + n ≤ 4096) (hv : va + n ≤ 2 ^ 57) (hr : pteR leaf = true) :
    hubBytes s ctx va n = (upto n).map fun i => (seenBytes s (pteFrame leaf + (va + i - base)) 1).headD 0 := by
  unfold hubBytes
  refine List.map_congr_left fun i hi => ?_
  have hi : i < n := List.mem_range.mp hi
  have same : (va + i) / 4096 = va / 4096 := by omega
  have : ¬2 ^ 57 ≤ va + i := by omega
  simp only [hubPa, checkDirect, this, if_false, walk_same_page same, hw, checkLeaf, Need.writes, Need.granted, Need.rings, hr]
  simp

end Sys2Proof.Machine
end

