-- ==== Sys2Proof/Tests/Slice0.lean ====
section
/-!
SUPPORT. The model's own tests: words of the spec's encodings that decode to what they stand for, ill-formed instructions that
WellFormed refuses, single steps, and for every statement with hypotheses a state and operands that meet them together.
-/
set_option Elab.async false
namespace Sys2Proof.Tests
open Sys2Proof Sys2Proof.Machine

/-! ### A small machine -/

/-- Page tables that map page 1 (readable, executable) and pages 2 and 3 (readable, writable) to themselves, and the line of
the code page whose slot 0 is a legal target. -/
def tables : List Host.Cell :=
  [(0x103C, 1),
   (0x10000, 1), (0x10001, 2), (0x10002, 1), (0x10200, 1), (0x10201, 4), (0x10202, 1), (0x10400, 1), (0x10401, 6), (0x10402, 1),
   (0x10600, 1), (0x10601, 8), (0x10602, 1), (0x10800, 1), (0x10801, 10), (0x10802, 1), (0x10A00, 1), (0x10A01, 12), (0x10A02, 1),
   (0x10C00, 1), (0x10C01, 14), (0x10C02, 1),
   (0x10E08, 11), (0x10E09, 0x10), (0x10E10, 7), (0x10E11, 0x20), (0x10E18, 7), (0x10E19, 0x30)]

/-- Scalars with the values given. -/
def scalars (rs : List (Nat × Nat)) : Vector Word 64 :=
  rs.foldl (fun v p => v.setIfInBounds p.1 (BitVec.ofNat 64 p.2)) (Vector.replicate 64 0)

/-- A strand at the code page, and its handler, with the threads 0 to 3 in its base level. -/
def strand (rs : List (Nat × Nat)) : Strand :=
  { newStrand (BitVec.ofNat 57 0x1000) (newRegs (scalars rs) 0x1000 4 0xF) 0xF 15 0 0 none 0 0 with entering := false }

/-- A block of four threads. -/
def block : Block :=
  { stageBlock with n := 4, bars := 4, tiles := 4, scales := Vector.replicate 8 0x3F800000, fmts := Vector.replicate 8 0x8205 }

/-- Cluster 0 with that block and a strand in slot 0; its pages are in the TLB. -/
def cluster (st : Strand) (b : Block) : Cluster :=
  { Cluster.reset with
    strands := [(0, st)], blocks := [(0, b)], nextBlock := 1
    utlb := [⟨0, 0x1000, 0x1000 + 11⟩, ⟨0, 0x2000, 0x2000 + 7⟩, ⟨0, 0x3000, 0x3000 + 7⟩] }

/-- A machine in which the strand in slot 0 of cluster 0 is the current one, and everything is ready. -/
def machine (cl : Cluster) : State :=
  { State.reset with
    mem := tables, clusters := [(0, cl)], approved := [0x1000], ready := BitVec.allOnes 540, cur := some (0, 0)
    ctxs := [(0, { stageContext with desc := { stageDesc with ptroot := 0x10000 } })] }

/-- The small machine with its strand, block and cluster changed. -/
def world' (rs : List (Nat × Nat)) (f : Strand → Strand) (g : Block → Block) (h : Cluster → Cluster) : State :=
  machine (h (cluster (f (strand rs)) (g block)))

def world (rs : List (Nat × Nat)) : State := world' rs id id id

/-- The small machine whose strand runs the cluster's handler. -/
def handling (rs : List (Nat × Nat)) : State := world' rs id id fun cl => { cl with handler := some 0, hstack := Stack.init 0xF 15 }

/-- The small machine with an empty set on top. -/
def idle : State := world' [(2, 0x2000)] (fun st => { st with stack := { levels := [0, 0xF], base := 0, limit := 15 } }) id id

/-- The view of the current strand. -/
def me (s : State) : Me := (me? s).getD ⟨0, 0, stageStrand, stageBlock, false⟩

/-- The current strand passes every check before the effect of an instruction. -/
def passes (s : State) (u : Uses) : Bool :=
  (me? s).any fun m => (gate s m u).isNone && (!u.bo || (boBlocked s m).isNone)

theorem ready {s : State} {u : Uses} (h : passes s u = true) : Ready s (me s) u := by
  unfold passes at h
  unfold me
  cases hm : me? s with
  | none => simp [hm] at h
  | some m =>
    simp only [hm, Option.any_some, Bool.and_eq_true, Bool.or_eq_true, Bool.not_eq_true', Option.isNone_iff_eq_none] at h
    exact ready_of_gate hm (fun hb => h.2.resolve_left (by simp [hb])) h.1

/-- The state an outcome answers. -/
def after (o : Host.Outcome State Fault Refusal) : State := match o with | .next s => s | _ => State.reset

/-- An outcome is a next state. -/
def goesOn (o : Host.Outcome State Fault Refusal) : Bool := match o with | .next _ => true | _ => false

theorem answers {o : Host.Outcome State Fault Refusal} (h : goesOn o = true) : o = .next (after o) := by
  cases o <;> first | rfl | cases h

/-- No STEP trap can follow a slot without STOP. -/
theorem unstepped (m : Me) : Unstepped m false := fun h => by cases h

/-! ### Operands -/

def h0 : Hdr := ⟨false, false, false, false⟩
def so : SOps := { hdr := h0, sd := 3, sa := 1, sb := 2, imm := false, w32 := false, imm32 := 0 }
def bo : BOps := { hdr := h0, sa := 1, sb := 2, sd := 4, tslot := 0, loff := 0 }
def qo : QOps := { hdr := h0, va := 4, lo := 0, hi := 7, cmp := .eq, sop := .push, sdc := 5, sdf := 6, opd := .imm, sc := 7, imm32 := 0 }
def vo : VOps :=
  { hdr := h0, vd := 3, va := 1, vb := 2, vc := 4, ty := .i32, bsrc := .thread, sat := false, rnd := .rne, ftz := false,
    all := false, imm32 := 0 }
def mo : MOps :=
  { hdr := h0, vd := 3, vx := 1, sb := 2, wid := .b32, scope := .pkg, ord := .relaxed, dst := false, aop := .add, sx := 4, off32 := 0 }
def to' : TOps :=
  { hdr := h0, at5 := 1, va := 8, sb := 3, fsa := 0, fsb := 0, shpn := .n16, shpk := 0, ru := false, sp := false, za := false,
    th := 0, sx := 4, off32 := 0 }
def fo : FOps := { hdr := h0, at5 := 1, vx := 9, sn := 5, trl := false, dir := false, th := 0 }
def eo : EOps := { hdr := h0, sc := 4, eng := .copy, sd := 5, th := 0, sx := 0 }

/-! ### What every statement asks can be met -/

theorem test_witness_ScalarIntegerResults :
    Ready (world [(1, 5), (2, 0)]) (me (world [(1, 5), (2, 0)])) (sUses so true true true false) ∧
    Ready (world [(1, 5)]) (me (world [(1, 5)])) (sUses { so with imm := true, imm32 := 0xFFFFFFFF } true true true false) := by
  and_intros <;> exact ready (by decide +kernel)

theorem test_witness_ScalarMoveResults : let s := world [(1, 5), (3, 1)]
    Ready s (me s) (sUses so true true false false) ∧ Ready s (me s) (sUses so true true true true) ∧
    Ready s (me s) (sUses so true false false false) ∧ Ready s (me s) (sUses so true false false true) := by
  and_intros <;> exact ready (by decide +kernel)

/-- 1 / 0 raises DZ, which FPTRAP 2 enables. -/
def divByZero : State := world' [(1, 0x3F800000), (2, 0)] (fun st => { st with regs := { st.regs with fptrap := 0x1F } }) id id

theorem test_witness_ScalarFloatResults :
    Ready divByZero (me divByZero) (sUses so true true true false) ∧
    Ready divByZero (me divByZero) (sUses so true true true true) ∧
    Ready divByZero (me divByZero) (sUses so true true false false) ∧
    (me divByZero).fpTraps (f32.div .rne false (f32Of 0x3F800000) (f32Of 0)).flags = true ∧
    (me divByZero).fpTraps (f32.add .rne false (f32Of 0x3F800000) (f32Of 0)).flags = false := by
  and_intros <;> first | exact ready (by decide +kernel) | decide +kernel

theorem test_witness_ScalarFrame : let s := world [(1, 5)]
    Ready s (me s) (sUses so true true true false) ∧ Unstepped (me s) false ∧ (me s).st.regs.fptrap = 0 ∧
    exec (.add so) s = .next (after (exec (.add so) s)) ∧
    Ready (handling []) (me (handling [])) (sUses so true true false false) ∧ (me (handling [])).inH = true ∧
    exec (.fcvt .f32I64 so) (handling []) = .next (after (exec (.fcvt .f32I64 so) (handling []))) := by
  and_intros <;> first | exact ready (by decide +kernel) | exact answers (by decide +kernel) | exact unstepped _ | decide +kernel

theorem test_witness_SystemRegisterReads : let s := world []
    Ready s (me s) (sUses so true false false false) ∧ so.imm32.toNat % 4096 = 0x000 ∧
    sysRead (me s) s (BitVec.toNat (0xFFF : W32) % 4096) = none := by
  and_intros <;> first | exact ready (by decide +kernel) | decide +kernel

theorem test_witness_SystemRegisterWrites : let s := world [(1, 0x35800000)]
    Ready s (me s) (sUses so false true false false) ∧
    tolOk (((me s).st.regs.get 1).truncate 32) = true ∧
    tolOk (((me (world [(1, 0x7FC00000)])).st.regs.get 1).truncate 32) = false := by
  and_intros <;> first | exact ready (by decide +kernel) | decide +kernel

theorem test_witness_SystemResults : let s := world [(1, 9)]
    Ready s (me s) (sUses so true false false false) ∧ Ready s (me s) (sUses so true true false false) ∧
    Ready s (me s) (sUses so false true false false) ∧ Ready s (me s) {} := by
  and_intros <;> exact ready (by decide +kernel)

/-- A block of two roles, the windows of 64 and so many names, the second freed or not. -/
def twoRoles (w : Nat) (gone : Bool) (b : Block) : Block :=
  { b with roles := [{ window := 64, freed := false, entry := 0, handler := 0, lo := 0, hi := 0, strands := 1 },
                     { window := w, freed := gone, entry := 0, handler := 0, lo := 0, hi := 0, strands := 1 }] }

/-- FROM, TO and N. -/
def quotaOps (src dst n : Nat) : SOps := { so with imm32 := BitVec.ofNat 32 (src + 16 * dst + 256 * n) }

theorem test_witness_QuotaAndChecksum :
    (∀ w ∈ [32, 256], ∀ gone ∈ [false, true], let s := world' [(1, 4095), (2, 1)] id (twoRoles w gone) id;
      passes s { bo := true, ord := true } = true ∧ (me s).blk.roles[0]? = some ⟨64, false, 0, 0, 0, 0, 1⟩ ∧
      (me s).blk.roles[1]? = some ⟨w, gone, 0, 0, 0, 0, 1⟩ ∧ (me s).blk.roles[2]? = none ∧
      quotaPending s (me s) 0 1 2 = false ∧ 64 < 32 * 3 ∧ ¬64 < 32 * 2 ∧ ((w = 256 ∧ gone = false) ↔ (gone = false ∧ 256 < w + 32 * 2))) ∧
    (∀ p ∈ [(4096, 0), (4095, 1), (4096, 1)],
      passes (world [(1, p.1), (2, p.2)]) { sUses so true true true false with ord := true } = true) ∧
    (let s := world [(1, 4095), (2, 1)];
      RangeFree s (me s) true 4095 1 ∧ ((me s).st.regs.get 1).toNat + ((me s).st.regs.get 2).toNat ≤ (me s).blk.scratchLen) ∧
    (let s := world [(1, 4096), (2, 1)];
      (me s).blk.scratchLen < ((me s).st.regs.get 1).toNat + ((me s).st.regs.get 2).toNat) := by
  and_intros <;> decide +kernel

theorem test_witness_TransferResults :
    let s := world [(1, 1), (2, 2), (4, 1)]
    let m := me s
    let far : BOps := { bo with tslot := 5, loff := 64 }
    Ready s m (bUses bo true true) ∧ ((m.st.regs.get 1).slt (m.st.regs.get 2) = true) ∧ (m.st.regs.get 1 = m.st.regs.get 1) ∧
    samePage m.st.pc (directTarget m.st.pc bo.tslot bo.loff) = true ∧
    samePage m.st.pc (directTarget m.st.pc far.tslot far.loff) = false ∧
    targetOk s m.c m.ctx (directTarget m.st.pc far.tslot far.loff) = false ∧
    targetOk s m.c m.ctx (directTarget m.st.pc 0 64) = true ∧
    Ready s m (bUses bo false false) ∧ Ready s m (bUses bo true false) ∧ m.st.regs.rsc = 4 ∧ Ready s m {} ∧
    Ready s m { dst := [63] } ∧ Ready s m { src := [(bo.sd, false)], dst := [bo.sd] } ∧ m.st.regs.get bo.sd - 1 = 0 ∧
    (me (world [(4, 2)])).st.regs.get bo.sd - 1 ≠ 0 ∧ Ready s m (sUses so false true false false) ∧
    targetOk s m.c m.ctx 0x1000 = true ∧ targetOk s m.c m.ctx 0x1005 = false ∧
    Ready s m { src := [(63, false)] } ∧ ¬(m.st.isCallee = true ∧ m.st.regs.cdepth = 0) := by
  and_intros <;> first | exact ready (by decide +kernel) | decide +kernel

/-- A frame of an inline callee. -/
def aFrame (inH : Bool) : Frame :=
  { regs := (strand []).regs, base := 0, limit := 15, parked := 0, resume := 0x1001, inHandler := inH, first := 0, spans := [],
    jobFaults := [], step := none }

theorem test_witness_SpawnAndJoin :
    let s := world []
    let u : Uses := { bo := true, ord := true }
    let full := world' [] (fun st => { st with wait := .noSlot, frames := List.replicate 4 (aFrame false) }) id id
    let inline' := world' [] (fun st => { st with wait := .noSlot }) id id
    Ready s (me s) u ∧ (me s).st.late = [] ∧ (me s).st.regs.children < 15 ∧ (me s).inH = false ∧
    (me s).st.wait ≠ .noSlot ∧ s.strand? (me s).c 1 = none ∧ (∀ j, j < 1 → s.strand? (me s).c j ≠ none) ∧
    Ready (handling []) (me (handling [])) u ∧ (me (handling [])).inH = true ∧ (me (handling [])).st.frames.length < 4 ∧
    Ready inline' (me inline') u ∧ (me inline').st.wait = .noSlot ∧ (me inline').st.frames.length < 4 ∧
    Ready full (me full) u ∧ (me full).inH = false ∧ (me full).st.wait = .noSlot ∧ 4 ≤ (me full).st.frames.length ∧
    childrenDone s (me s) = true := by
  and_intros <;> first | exact ready (by decide +kernel) | decide +kernel

/-- A job fault that waits. -/
def aFault : JobFault := ⟨1, 0x41, 0, false, false, false⟩

/-- The small machine with another strand in slot 1. -/
def beside (st : Strand) : State := world' [] id id fun cl => { cl with strands := cl.strands.set 1 st }

/-- An entry of the tracker that holds nothing. -/
def aTracked (b : Nat) (parent : Option (Nat × Nat)) : Tracked :=
  { id := 3, block := b, strand := 9, parent := parent, ids := [], jobs := [], landings := [], tiles := [], banks := [] }

theorem test_witness_StrandEnds :
    let u : Uses := { bo := true, ord := true }
    let child := world' [] (fun st => { st with parent := some (7, 0) }) id id
    let inline' := world' [] (fun st => { st with frames := [aFrame false] }) id id
    (∀ s ∈ [world [], child, inline'], passes s u = true ∧ (me s).st.jobFaults = [] ∧ (trackedOf s (me s)).empty = true ∧
      (me s).inH = false ∧ childrenDone s (me s) = true ∧ (me s).st.regs.cdepth = 0) ∧
    (me (world [])).st.isCallee = false ∧ (me (world [])).st.frames = [] ∧ (me child).st.isCallee = true ∧
    (me child).st.frames = [] ∧ (me child).st.parent ≠ none ∧ (me inline').st.frames = aFrame false :: [] ∧
    (let s := world' [] (fun st => { st with jobFaults := [aFault] }) id id;
      passes s u = true ∧ (me s).inH = false ∧ lowestFault (me s).st.jobFaults = some aFault) ∧
    (∀ p ∈ [(world [], false), (beside { strand [] with parent := some (0, 0) }, true)],
      passes p.1 u = true ∧ (p.1.cluster 0).arrivals = [] ∧ (p.1.cluster 0).tracker = [] ∧ p.1.cap = none ∧
      roleRemains (p.1.cluster 0) 0 0 0 = p.2 ∧ ((∃ x ∈ (p.1.cluster 0).strands, x.2.parent = some (0, 0)) ↔ p.2 = true)) ∧
    (let s := world' [] (fun st => { st with parent := some (7, 0) }) id fun cl => { cl with tracker := [aTracked 0 (some (0, 0))] };
      passes s u = true ∧ (∃ x ∈ (s.cluster 0).tracker, x.block = 0 ∧ x.parent = some (0, 0)) ∧ (me s).st.isCallee = true ∧
      (me s).st.regs.cdepth = 0) := by
  decide +kernel

/-- A ring of one entry in page 2 for `launch`, consumed so far, with one submission so far. -/
def deviceRing (head : Nat) : Queue :=
  { stageQueue 0 with dev := true, rbase := 0x2000, rlog := 0, head := BitVec.ofNat 64 head, door := bellAddress 0, packet := none }

def ringed (s : State) (head : Nat) : State := { s with queues := [(4, deviceRing head)], bells := [(bellAddress 0, 1)] }

theorem test_witness_LaunchSubmits :
    let s := world [(1, 0x2000)]
    let m := me s
    Ready s m { sUses so true true false false with ord := true } ∧ (m.st.regs.get so.sa).toNat % 256 = 0 ∧
    checkDirect s m.ctx .load (m.st.regs.get so.sa).toNat = .ok 0x2000 (0x2000 + 7) ∧ poisonedAt s 0x2000 = false ∧
    poisonedAt s 0x2080 = false ∧ m.blk.depth < 10 ∧ m.quiet s = true ∧ owed s m.c m.k m.st.block none 0x2000 256 = false ∧
    launchPorts s m 0x2000 = true ∧ s.queues = [] ∧
    (∀ head ∈ [0, 1], let t := ringed s head; launchPorts t m 0x2000 = true ∧ m.quiet t = true ∧
      t.queues.find? (fun p => p.2.ctx == m.ctx && p.2.dev) = some (4, deviceRing head) ∧
      ((t.bells.get? (deviceRing head).door).getD 0).toNat = 1 ∧ (deviceRing head).door % 8 = 0 ∧
      (1 - (deviceRing head).head.toNat = 2 ^ (deviceRing head).rlog ↔ head = 0)) ∧
    hubPa s 0 (.store false) 0x2000 ≠ none ∧ hubPa s 0 (.store false) 0x9000 = none ∧
    ((me (world [(1, 0x2001)])).st.regs.get so.sa).toNat % 256 ≠ 0 := by
  and_intros <;> first | exact ready (by decide +kernel) | decide +kernel

theorem test_witness_TrapEntry : let s := world []
    me? s = some (me s) ∧ (me s).inH = false ∧ 0x3F < 0x40 ∧ s.entryFree (me s).c (me s).k = true ∧
    (∀ p ∈ (s.cluster (me s).c).strands, p.2.trap = none) ∧
    (me s).st.regs.tvec ≠ 0 ∧ targetOk s (me s).c (me s).ctx ((me s).st.regs.tvec.truncate 57) = true := by
  decide +kernel

/-- A handler that goes on behind its trap. -/
def skipping : State :=
  world' [] (fun st => { st with regs := { st.regs with tstate := 1, tnpc := 0x1001 } }) id fun cl => { cl with handler := some 0 }

theorem test_witness_TrapInstructions :
    (∀ s ∈ [world [], handling [], skipping], passes s {} = true) ∧ (me (world [])).inH = false ∧ (me (handling [])).inH = true ∧
    (me (handling [])).st.regs.tstate.getLsbD 0 = false ∧ (me skipping).inH = true ∧ (me skipping).st.regs.tstate.getLsbD 0 = true ∧
    so.hdr.stop = false := by
  decide +kernel

/-- A watch on a scratchpad word. -/
def aWatch (fired : Bool) : Watch := ⟨true, 0, 4, 1, fired, fired⟩
def watching (fired : Bool) (w : Wait) : State :=
  world' [] (fun st => { st with regs := { st.regs with watch := some (aWatch fired) }, wait := w }) id id

theorem test_witness_WaitAndYield :
    let u := sUses so true true false false
    passes (world []) u = true ∧ (me (world [])).st.regs.watch = none ∧ passes (world []) {} = true ∧
    ∀ p ∈ [(true, Wait.none), (false, .timedOut), (false, .none)], let s := watching p.1 p.2
      passes s u = true ∧ (me s).st.regs.watch = some (aWatch p.1) ∧ (aWatch p.1).fired = p.1 ∧ (me s).st.wait = p.2 := by
  decide +kernel

/-- The strand's stack with one level above the base level. -/
def twoLevels (st : Strand) : Strand := { st with stack := { levels := [0x3, 0xF], base := 0, limit := 15 } }

theorem test_witness_SearchResults :
    let q : QOps := { qo with va := 448 }
    let u := qUses q [qName q.va false] false
    let s := world []
    let full := world' [] (fun st => { st with stack := Stack.init 0xF 0 }) id id
    let deep := world' [] twoLevels id id
    q.lo.toNat ≤ q.hi.toNat ∧ Ready s (me s) u ∧ Ready s (me s) (qUses q [] false) ∧
    Ready s (me s) (qUses q [qName q.va false, qName (q.imm32.truncate 9) false] false) ∧
    Ready s (me s) (qUses { q with opd := .scalar } [qName q.va false] true) ∧
    ((me s).stack s).depth ≠ ((me s).stack s).limit ∧
    filterSet 4 ((me s).unparked ((me s).stack s).top) (fun t => cmpHolds .eq 8 ((me s).v 448 t).toNat 0) ≠ 0 ∧
    filterSet 4 ((me s).unparked ((me s).stack s).top) (fun t => cmpHolds .eq 8 ((me s).v 448 t).toNat 9) = 0 ∧
    Ready full (me full) u ∧ ((me full).stack full).depth = ((me full).stack full).limit ∧
    Ready deep (me deep) u ∧ ((me deep).stack deep).depth ≠ 0 ∧ ((me s).stack s).depth = 0 := by
  and_intros <;> first | exact ready (by decide +kernel) | decide +kernel

theorem test_witness_SetResults :
    let u : Uses := { bo := true, sets := true, ord := true, dst := [qo.sdc, qo.sdf] }
    let s := world []
    let k := (me s).stack s
    let deep := world' [] (fun st => { st with stack := { levels := [0x1, 0x3, 0xF], base := 0, limit := 15 } }) id id
    let d := (me deep).stack deep
    let none' := world' [] (fun st => { st with stack := Stack.init 0 15 }) id id
    Ready s (me s) u ∧ k.depth ≠ k.limit ∧ k.top ≠ 0 ∧ k.depth = 0 ∧ firstSet 4 ((me s).unparked k.top) ≠ 0 ∧
    (0 : W32).toNat % 16 ≤ k.depth ∧ k.depth < (1 : W32).toNat % 16 ∧ Ready deep (me deep) u ∧ 2 ≤ d.depth ∧ d.depth ≠ 0 ∧
    (2 : W32).toNat % 16 ≤ d.depth ∧ firstSet 4 ((me deep).unparked d.top) ≠ 0 ∧ Ready none' (me none') u ∧
    firstSet 4 ((me none').unparked ((me none').stack none').top) = 0 ∧
    Ready s (me s) (belowUses qo) ∧ Ready deep (me deep) (belowUses qo) ∧ ((me none').stack none').top = 0 ∧
    ((me none').stack none').depth ≠ ((me none').stack none').limit ∧
    (let full := world' [] (fun st => { st with stack := Stack.init 0xF 0 }) id id;
      Ready full (me full) u ∧ ((me full).stack full).depth = ((me full).stack full).limit) := by
  and_intros <;> first | exact ready (by decide +kernel) | decide +kernel

theorem test_witness_SetCounts : let s := world []
    me? s = some (me s) ∧ (me s).blk.n ≤ 4096 ∧ qo.sdc ≠ 0 ∧ qo.sdf ≠ 0 ∧ qo.sdc ≠ qo.sdf := by
  decide +kernel

theorem test_witness_KeyAndMapResults :
    let s := world' [(7, 3968)] twoLevels (fun b => { b with scratch := writeNat [] 3584 1 3 }) id
    let m := me s
    let t := world' [(7, 3584)] twoLevels (fun b => { b with scratch := writeNat [] 3584 1 3 }) id
    let n := me t
    Ready s m (setUses qo) ∧ Ready s m { setUses qo with src := [(qo.sc, qo.hdr.wfb)], names := [qName qo.va qo.hdr.wfa] } ∧
    (m.st.regs.get 7).toNat % 2 = 0 ∧ (m.st.regs.get 7).toNat + 128 ≤ m.blk.scratchLen ∧ RangeFree s m false 3968 128 ∧
    Ready t n { setUses qo with src := [(qo.sc, qo.hdr.wfb)] } ∧ (n.st.regs.get 7).toNat % 8 = 0 ∧
    (n.st.regs.get 7).toNat + 512 ≤ n.blk.scratchLen ∧ RangeFree t n false 3584 512 ∧ RangeFree t n true 3584 512 ∧
    (n.stack t).depth ≠ 0 ∧
    (n.unparked (n.stack t).parent &&& BitVec.ofNat 4096 (readNat n.blk.scratch 3584 512)) ||| ((n.stack t).top &&& n.st.parked) ≠ 0 ∧
    (∀ p ∈ [(3584, 3, 3584), (3585, 0, 3585), (4000, 0, 4000)],
      let w := world' [(7, p.1)] twoLevels (fun b => { b with scratch := writeNat [] 3584 1 (if p.2.1 = 3 then 0 else 3) }) id
      passes w { belowUses qo with src := [(qo.sc, qo.hdr.wfb)] } = true ∧ ((me w).st.regs.get 7).toNat = p.2.2 ∧
        ((me w).stack w).depth ≠ 0 ∧ (me w).blk.scratchLen = 4096) ∧
    (let w := world' [(7, 3584)] twoLevels id id;
      ((me w).unparked ((me w).stack w).parent &&& BitVec.ofNat 4096 (readNat (me w).blk.scratch 3584 512)) |||
        (((me w).stack w).top &&& (me w).st.parked) = 0) ∧
    (let w := world [(7, 3584)]; passes w { belowUses qo with src := [(qo.sc, qo.hdr.wfb)] } = true ∧ ((me w).stack w).depth = 0) := by
  and_intros <;> first | exact ready (by decide +kernel) | decide +kernel

theorem test_witness_LaneResults : let s := world []
    Ready s (me s) (vUses vo true true true false) ∧ Ready s (me s) (vUses vo true true true true) ∧
    Ready s (me s) (vUses vo true true false false) ∧ Ready s (me s) (vUses vo true false true false) ∧
    Ready s (me s) { vUses vo true true true false with keys := [vo.vc.toNat % 8] } := by
  and_intros <;> exact ready (by decide +kernel)

theorem test_witness_LaneArithmetic : 0 < laneCount .i32 ∧ 3 < laneCount .u8x4 ∧ 1 < laneCount .i16x2 := by decide

theorem test_witness_LaneFrame : let s := world []
    Ready s (me s) (vUses vo true true true false) ∧ Unstepped (me s) vo.hdr.stop ∧
    exec (.vadd vo) s = .next (after (exec (.vadd vo) s)) := by
  and_intros <;> first | exact ready (by decide +kernel) | exact answers (by decide +kernel) | exact unstepped _

/-- `vrd` and `vwr` of the thread with this index. -/
def laneIndex (i : Nat) : VOps := { vo with bsrc := .imm, imm32 := BitVec.ofNat 32 i }

theorem test_witness_LaneMoves :
    let s := world []
    let m := me s
    Ready s m (vUses vo false true true false) ∧
    Ready s m (oneUses (laneIndex 3) m 3 vo.va false true false [scalarOf vo.vd]) ∧ 3 < m.blk.n ∧ m.st.parked.getLsbD 3 = false ∧
    Ready s m (oneUses (laneIndex 4) m 4 vo.va false true false [scalarOf vo.vd]) ∧ ¬4 < m.blk.n ∧
    Ready s m (oneUses vo m m.st.regs.rfr.toNat vo.va false false false [scalarOf vo.vd]) ∧ m.st.regs.rfr.toNat < m.blk.n ∧
    Ready idle (me idle) (oneUses vo (me idle) 0 vo.va false false false [scalarOf vo.vd]) ∧
    Ready s m (oneUses (laneIndex 3) m 3 vo.vd true true true []) ∧ Ready s m (oneUses (laneIndex 4) m 4 vo.vd true true true []) := by
  and_intros <;> first | exact ready (by decide +kernel) | decide +kernel

theorem test_witness_AcrossThreads :
    let s := world [(2, 4092)]
    let m := me s
    let run := redRun .add true vo.ftz vo.rnd none ((m.acting s vo.all).map fun t => (t, m.v vo.va.toNat t))
    let one := world' [(2, 4092)] (fun st => { st with stack := Stack.init 1 15 }) id id
    Ready s m { vUses vo false true false false with dst := [scalarOf vo.vd] } ∧ m.fpTraps run.2 = false ∧
    (me idle).acting idle vo.all = [] ∧ Ready idle (me idle) { vUses vo false true false false with dst := [scalarOf vo.vd] } ∧
    run.1.getLast? = some (3, 0) ∧ Ready s m (vUses vo true true false false) ∧ Ready s m (vUses vo true true true false) ∧
    Ready one (me one) { vUses vo true true false false with src := [(scalarOf vo.vb, vo.hdr.wfb)] } ∧
    ((me one).st.regs.get (scalarOf vo.vb)).toNat % lutWidth vo = 0 ∧
    (∀ t ∈ (me one).acting one vo.all, ∀ x ∈ lutAddrs vo 4092 ((me one).v vo.va.toNat t), x + lutWidth vo ≤ (me one).blk.scratchLen ∧
      RangeFree one (me one) true x (lutWidth vo)) ∧
    (me one).acting one vo.all ≠ [] := by
  and_intros <;> first | exact ready (by decide +kernel) | decide +kernel | (unfold RangeFree RangeClear; decide +kernel)

theorem test_witness_FloatLaneResults :
    let s := world []
    let v : VOps := { vo with vc := 0 }
    Ready s (me s) (vUses vo true true true false) ∧ Ready s (me s) (vUses vo true true true true) ∧
    Ready s (me s) (vUses vo true true false false) ∧ Ready s (me s) (vUses v true true (scaleRead ((me s).slotOf v).1) false) ∧
    Ready s (me s) { vUses v true true false false with
      names := { name := v.vd, count := 1, write := false, wf := false } :: (vUses v true true false false).names } ∧
    Ready s (me s) (vUses vo false true true false) ∧ (me s).fpTraps 0x1F = false ∧
    Ready divByZero (me divByZero) (vUses vo true true true false) ∧ (me divByZero).fpTraps 0x10 = true := by
  and_intros <;> first | exact ready (by decide +kernel) | decide +kernel

/-- The last four words of page 2. -/
def ends : List (Nat × Nat) := [(0, 0x2FF0), (1, 0x2FF4), (2, 0x2FF8), (3, 0x2FFC)]
def endsAt : List (Nat × Nat × Nat) := ends.map fun p => (p.1, p.2, 0x2007)

/-- A memory instruction whose threads index by their own number. -/
def byThread (o : MOps) : MOps := { o with vx := 448 }

/-- Everything that the addresses of an access must pass. -/
def clears (s : State) (need : Need) (w : Nat) (also : Nat → Option Nat) (addrs : List (Nat × Nat)) (l : List (Nat × Nat × Nat)) :
    Bool :=
  (match translateAll s (me s) need w also addrs with | .ok x => decide (x = l) | _ => false) &&
  l.all (fun q => !tileMeets s (me s) q.2.1 w && !poisonedAt s q.2.1) && decide (dieRequestsOut s (dieOf (me s).c) + l.length ≤ Config.dieRequests)

theorem reaches {s : State} {need : Need} {w : Nat} {also : Nat → Option Nat} {addrs : List (Nat × Nat)}
    {l : List (Nat × Nat × Nat)} (h : clears s need w also addrs l = true) : Reached s (me s) need w also addrs l := by
  simp only [clears, Bool.and_eq_true, List.all_eq_true, Bool.not_eq_true'] at h
  obtain ⟨⟨h1, h2⟩, h3⟩ := h
  refine ⟨?_, fun q hq => (h2 q hq).1, fun _ q hq => (h2 q hq).2,
    requestsFull_of_le ((Nat.add_le_add_left (newRequests_le _ l) _).trans (of_decide_eq_true h3))⟩
  split at h1
  · rename_i e; rw [e, of_decide_eq_true h1]
  · cases h1

theorem test_witness_GlobalBroadcast :
    let s := world [(2, 0x2FF0)]
    let o := byThread mo
    Ready s (me s) (mUses o [destNames o] []) ∧ mAddrs o (me s) s = ends ∧
    entriesOf (s.cluster (me s).c) (me s).k < Config.deliveryEntries ∧ Reached s (me s) .load 4 noAlso ends endsAt ∧
    Ready idle (me idle) (mUses o [destNames o] []) ∧ mAddrs o (me idle) idle = [] ∧
    Ready s (me s) (mUses o [dataNames o o.vd] []) ∧ Reached s (me s) (.store false) 4 noAlso ends endsAt ∧
    Ready idle (me idle) (mUses o [dataNames o o.vd] []) ∧ Ready s (me s) (mUses o [] []) ∧
    prefWalk s (me s) 4 ends = none ∧
    (let t := world' [(2, 0x2FF0)] id id fun cl => { cl with utlb := cl.utlb.take 1 };
      Ready t (me t) (mUses o [] []) ∧ prefWalk t (me t) 4 (mAddrs o (me t) t) = some (0, 2)) := by
  and_intros <;> first | exact ready (by decide +kernel) | exact reaches (by decide +kernel) | decide +kernel

theorem test_witness_ScratchpadBroadcast :
    let s := world [(2, 4080)]
    let o := byThread mo
    (∀ reads ∈ [false, true], ∀ l ∈ [mAddrs o (me s) s, atomAddrs o (me s) s], l ≠ [] ∧ InScratch s (me s) reads 4 l) ∧
    (∀ u ∈ [mUses o [destNames o] [], mUses o [dataNames o o.vd] [], mUses o (atomNames o) []],
      passes s u = true ∧ passes idle u = true) ∧
    mAddrs o (me idle) idle = [] ∧ atomAddrs o (me idle) idle = [] ∧
    entriesOf (s.cluster (me s).c) (me s).k < Config.deliveryEntries := by
  unfold InScratch RangeClear
  and_intros <;> decide +kernel

/-- The small machine whose page 3 is a doorbell page. -/
def belled : State :=
  world' [(2, 0x3008)] id id fun cl => { cl with utlb := [⟨0, 0x1000, 0x1000 + 11⟩, ⟨0, 0x3000, 12 * 2 ^ 48 + 0x807⟩] }

theorem test_witness_ScalarMemory :
    let s := world [(2, 0x2FFC)]
    let t := world [(2, 4088)]
    let o : MOps := { mo with wid := .b64 }
    let r : SReg := mo.vd.truncate 6
    let pa := 12 * 2 ^ 48 + 8
    r ≠ 0 ∧ ((me s).st.regs.get 2).toNat = 0x2FFC ∧
    (∀ p ∈ [(s, mo), (t, { mo with dst := true })], passes p.1 (accUses p.2 [] [r]) = true ∧
      passes p.1 (accUses p.2 [(r, false)] []) = true ∧ passes p.1 (accUses p.2 [(mo.sx, false)] [r]) = true) ∧
    Reached s (me s) .load 4 noAlso [(0, 0x2FFC)] [(0, 0x2FFC, 0x2007)] ∧
    Reached s (me s) (.store false) 4 noAlso [(0, 0x2FFC)] [(0, 0x2FFC, 0x2007)] ∧
    Reached s (me s) .atomic 4 noAlso [(0, 0x2FFC)] [(0, 0x2FFC, 0x2007)] ∧ isBell 0x2FFC = false ∧
    (∀ reads ∈ [false, true], InScratch t (me t) reads 4 [(0, 4088)]) ∧
    Ready belled (me belled) (accUses o [(r, false)] []) ∧
    Reached belled (me belled) (.store true) 8 noAlso [(0, 0x3008)] [(0, pa, 12 * 2 ^ 48 + 0x807)] ∧ isBell pa = true := by
  unfold InScratch RangeClear
  and_intros <;> first | exact ready (by decide +kernel) | exact reaches (by decide +kernel) | decide +kernel

/-- A barrier word that expects two arrivals at address 24, with so many arrived. -/
def barrier (arr : Nat) (ph : Bool) (b : Block) : Block := { b with scratch := writeNat [] 24 8 (barWord 2 arr ph 0) }

theorem test_witness_BroadcastAtomics :
    let s := world [(2, 0x2FF0)]
    let o := byThread mo
    let l := world' [(2, 0x2FF0), (3, 4000), (4, 24)] id (barrier 0 false) id
    let k := me l
    Ready s (me s) (mUses o (atomNames o) []) ∧ atomAddrs o (me s) s = ends ∧
    entriesOf (s.cluster (me s).c) (me s).k < Config.deliveryEntries ∧ Reached s (me s) .atomic 4 noAlso ends endsAt ∧
    Ready l k (ldscUses o) ∧ Ready l k (ldscUses { o with dst := true }) ∧ mAddrs o k l = ends ∧
    entriesOf (l.cluster k.c) k.k < Config.deliveryEntries ∧ barrierAt k.blk (k.st.regs.get o.sx).toNat = true ∧
    Memory.wf k.blk.scratch = true ∧ Reached l k .load 4 (landAlso o k l) ends endsAt ∧
    Reached l k .load 4 (landAlso { o with dst := true } k l) ends endsAt ∧ rangeBusy l k 24 8 = false ∧ sentBusy l k 24 8 = false ∧
    k.st.fenced 1 = false ∧ (landAddrs { o with dst := true } k l).length = 4 ∧
    (∀ q ∈ landAddrs { o with dst := true } k l, rangeBusy l k q.2 4 = false ∧ sentBusy l k q.2 4 = false) ∧
    barPend (readNat k.blk.scratch 24 8) + 4 * ends.length < 2 ^ 31 := by
  and_intros <;> first | exact ready (by decide +kernel) | exact reaches (by decide +kernel) | decide +kernel

theorem test_witness_BarrierWords :
    let w := fun arr st => world' [(2, 24), (4, 1)] (fun s => { s with wait := st }) (barrier arr false) id
    let u := smUses mo [] []
    let clear := fun (s : State) => barrierAt (me s).blk 24 = true ∧ RangeClear s (me s) true 24 8 ∧
      wordFree s (me s) 24 = true ∧ Memory.wf (me s).blk.scratch = true
    (∀ a ∈ [0, 1], passes (w a .none) u = true ∧ clear (w a .none) ∧ (me (w a .none)).mayArrive (w a .none) 24 = true ∧
      a < barExp (readNat (me (w a .none)).blk.scratch 24 8)) ∧
    passes (w 2 .none) u = true ∧ clear (w 2 .none) ∧ barExp (readNat (me (w 2 .none)).blk.scratch 24 8) ≤ 2 ∧
    passes (world [(2, 32)]) u = true ∧ barrierAt (me (world [(2, 32)])).blk 32 = false ∧
    passes (w 0 (.arrived 24 true)) u = true ∧ barPhase (readNat (me (w 0 (.arrived 24 true))).blk.scratch 24 8) ≠ true ∧
    (∀ x ∈ [4, 5], passes (w 0 .none) (smUses mo [(x, false)] []) = true) ∧ clear (w 0 .none) ∧
    barPhase (readNat (me (w 0 .none)).blk.scratch 24 8) = ((me (w 0 .none)).st.regs.get 5).getLsbD 0 ∧
    barPhase (readNat (me (w 0 .none)).blk.scratch 24 8) ≠ ((me (w 0 .none)).st.regs.get 4).getLsbD 0 := by
  unfold RangeClear
  and_intros <;> decide +kernel

/-- A launch record of blocks of four threads, cooperative or not. -/
def launch (coop : Bool) : Launch :=
  { code := 0, argp := 0, taskp := 0, sigp := 0, grid := 0, bx := 4, by' := 1, bz := 1, coop := coop, ind := false, depth := 0,
    scratch := 1, bars := 4, shared := 64, tiles := 4, pri := 0, ctx := 0, fmts := Vector.replicate 8 0,
    scales := Vector.replicate 8 0, roles := stageBlock.roles }

/-- Its grid of two blocks. -/
def grid (coop : Bool) : Grid :=
  { rec' := launch coop, va := 0, dims := some (2, 1, 1), parent := none, children := 0, placed := 1, retired := 0, closed := false,
    status := 0, accepted := 0, gseq := 0, round := 1 }

/-- The small machine whose block is of a cooperative grid. -/
def together (w : Wait) : State :=
  { world' [] (fun s => { s with wait := w }) id id with grids := [(0, grid true)] }

/-- A store on its way. -/
def aStore (space : Option Nat) (pa : Nat) : Access :=
  ⟨1, 1, space, pa, 4, .store [some 9, some 9, some 9, some 9], .none, false, false, .pkg, false, false, none⟩

/-- The small machine whose strand has a store outstanding. -/
def storing : State := world' [] (fun st => { st with out := [aStore none 0x2000] }) id id

/-- A job of the small machine's strand that copies the byte at 512 of the scratchpad. -/
def aJob : Job :=
  { id := 0, block := 0, ctx := 0, ticket := 1, slot := 0, eng := .copy, card := 64, opc := 1, esz := 0, cmpl := 0, ixb := 0,
    cpl := 0, reads := [⟨true, 512, 64⟩], writes := [⟨true, 576, 64⟩, ⟨false, 0x2000, 64⟩], origin := 0, site := 0, edges := [],
    started := false, src := [], dst := [], ixs := [], got := [], wrote := [], faults := [], current := 0, th := 0 }

/-- A fence with these classes in its predecessor and successor sets. -/
def fenceOps (scope : Scope) (pred succ : Nat) : MOps := { mo with scope := scope, off32 := BitVec.ofNat 32 (pred + 256 * succ) }

/-- An `ldsc` of the word at 24 that has one word to land. -/
def aLanding : Landing :=
  { id := 6, slot := 0, block := 0, word := 24, bytes := 4, dests := [(0, 64)], threads := [0], data := [(0, 7)], delivery := none }

theorem test_witness_FencesAndWatches :
    let s := world [(2, 4088), (4, 7)]
    let g := together (.gbar 0)
    let t := world [(2, 0x2FF8), (4, 7)]
    let o := { mo with wid := .b64 }
    let landing := world' [] id id fun cl => { cl with landings := [aLanding] }
    let waits := fun (s : State) (o : MOps) =>
      ∃ i, i < 8 ∧ o.off32.getLsbD i = true ∧ classPending (s.cluster (me s).c) (me s) i = true
    let unsent := fun (s : State) (o : MOps) => ∃ i, i < 2 ∧ o.off32.getLsbD i = true ∧
      classPending (s.cluster (me s).c) { me s with st := { (me s).st with out := [] } } i = true
    (∀ x ∈ [s, storing, landing], passes x { ord := true, mem := true } = true) ∧
    ¬waits s (fenceOps .block 3 3) ∧ waits storing (fenceOps .block 3 3) ∧ waits landing (fenceOps .block 2 1) ∧
    ¬unsent storing (fenceOps .block 3 3) ∧ unsent landing (fenceOps .block 2 1) ∧ storing.ahead = false ∧
    (storing.cluster 0).enginesOf (me storing).k (me storing).st.block = false ∧
    (let job := world' [] id id fun cl => { cl with jobs := [aJob] };
      passes job { ord := true, mem := true } = true ∧ (job.cluster 0).enginesOf 0 0 = true ∧ waits job (fenceOps .strand 1 1) ∧
      unsent job (fenceOps .strand 1 1)) ∧
    (∀ x ∈ [s, g], passes x { ord := true } = true) ∧ gridCoop s (me s).blk.grid = false ∧
    gridCoop g (me g).blk.grid = true ∧ (me g).inH = false ∧ (me g).st.wait = .gbar 0 ∧ 0 < gridRound g (me g).blk.grid ∧
    Ready s (me s) (smUses { o with dst := true } [(o.sx, false)] []) ∧ InScratch s (me s) true 8 [(0, 4088)] ∧
    sentBusy s (me s) 4088 8 = false ∧ (me s).st.fenced 0 = false ∧ (me t).st.fenced 0 = false ∧
    linkFree t 0 0x2FF8 = true ∧ Ready t (me t) (smUses o [(o.sx, false)] []) ∧
    Reached t (me t) .load 8 noAlso [(0, 0x2FF8)] [(0, 0x2FF8, 0x2007)] ∧ sentMeets t (me t) 0x2FF8 8 = false ∧
    portReady t 0x2FF8 = true := by
  unfold InScratch RangeClear
  and_intros <;> first | exact ready (by decide +kernel) | exact reaches (by decide +kernel) | decide +kernel

theorem test_witness_Locks :
    let w := fun st (l : SMap Lock) => { world' [(2, 0x2FF8)] (fun s => { s with wait := st }) id id with locks := l }
    let mine : Holder := ⟨0, 0, 0, 0⟩
    let other : Holder := ⟨0, 0, 5, 5⟩
    let word := fun (h : Holder) (q : List Holder) => [(0x2FF8, (⟨some h, q, 0x2FF8⟩ : Lock))]
    let free := w .none []
    let held := w .none (word mine [])
    let asked := w .none (word mine [other])
    let got := w (.queued 0x2FF8) (word mine [])
    let taken := w .none (word other [])
    (∀ s ∈ [free, held, asked, got, taken], passes s (smUses mo [] []) = true ∧ passes s (smUses mo [] [mReg mo]) = true ∧
      clears s .lock 8 noAlso [(0, 0x2FF8)] [(0, 0x2FF8, 0x2007)] = true ∧ sentMeets s (me s) 0x2FF8 8 = false ∧
      portReady s 0x2FF8 = true ∧ sliceFull s 0x2FF8 = false ∧ (me s).quiet s = true ∧ Memory.wf s.mem = true ∧
      (me s).asHolder = mine ∧ (me s).st.fenced 0 = false ∧ (me s).st.fenced 1 = false ∧
      linkFree s 0 0x2FF8 = true) ∧ isBell 0x2FF8 = false ∧
    free.lockAt 0x2FF8 = ⟨none, [], 0⟩ ∧ held.lockAt 0x2FF8 = ⟨some mine, [], 0x2FF8⟩ ∧
    asked.lockAt 0x2FF8 = ⟨some mine, [other], 0x2FF8⟩ ∧ got.lockAt 0x2FF8 = ⟨some mine, [], 0x2FF8⟩ ∧
    (me got).st.wait = .queued 0x2FF8 ∧ taken.lockAt 0x2FF8 = ⟨some other, [], 0x2FF8⟩ ∧ other ≠ mine ∧
    (taken.lockAt 0x2FF8).free = false := by
  decide +kernel

/-- A task with the header (0, 0) is admitted at once. -/
theorem admits' {s : State} {c k : Nat} {h : Nat × Nat}
    (e : ((s.cluster c).power.admitted.find? fun a => a.1 == k) = none ∧ (s.cluster c).power.header k h = (0, 0)) :
    AdmittedAs s c k h 0 s :=
  .inr (.inl ⟨e.1, e.2, rfl, rfl⟩)

theorem admits {s t : State} {m : Me} {th : BitVec 4} (ht : headerRead s m.blk m.st.role th.toNat = t)
    (e : ((t.cluster m.c).power.admitted.find? fun a => a.1 == m.task) = none ∧
      (t.cluster m.c).power.header m.task (m.header s th) = (0, 0)) : Admitted s m th 0 t := by
  subst ht
  exact admits' e

/-- The small machine whose strand waits and whose tile 1 is bound so, with a shadow of name 2. -/
def tiled (rs : List (Nat × Nat)) (w : Wait) (a : AccName) : State :=
  world' rs (fun s => { s with wait := w })
    (fun b => { b with acc := [(1, a)], shadows := [(2, { width := 16, tile := [], counts := [] })] }) id

/-- A factor tile of two rows. -/
def factor (d : W32) : AccName := { mode := .factor 2, tile := [[0x3F800000, 0], [0, d]], status := 0, k := 2, last := .fupd }

theorem test_witness_MatrixProduct :
    let s := tiled [(3, 0), (4, 0)] .none (zeroTile 16)
    let m := me s
    (∀ o ∈ [to', { to' with sp := true }, { to' with za := true }], passes s (mmaUses s .slot o m) = true ∧ mmaReason m.blk o = none ∧
      TileClear s m (tName o) (mmaReads m.blk o (m.matA s .slot o)) ∧
      ArraysClear s m true (matReads m .slot o 0 0 (m.matA s .slot o)) ∧ m.header s o.th = (0, 0)) ∧
    Admitted s m 0 0 (headerRead s m.blk m.st.role 0) ∧
    (s.cluster m.c).blocks.foldl (fun n p => n + p.2.shadows.length) 0 < Config.shadowTiles ∧ FreshTile s m := by
  unfold ArraysClear TileClear FreshTile
  and_intros <;> first | exact admits rfl (by decide +kernel) | decide +kernel

/-- A gang of the strands in slots 0 and 1 whose other member has arrived, the first strand waiting so. -/
def gang (w : Wait) (both : Bool) : State :=
  let arrive := fun k => (⟨k, 3, false, .slot, to', 0, 0, ⟨latchKey .slot to', []⟩⟩ : Arrival)
  world' [(3, 0), (4, 0)] (fun s => { s with wait := w, regs := { s.regs with gang := 3 } })
    (fun b => { b with acc := [(1, zeroTile 16)] })
    fun cl => { cl with strands := (cl.strands.set 1 { (cl.strands.get? 0).getD stageStrand with wait := .gang })
                        arrivals := (if both then [arrive 0] else []) ++ [arrive 1] }

theorem test_witness_GangProduct :
    let s := gang .gang true
    let members := (s.cluster 0).arrivals
    let lone := world' [(3, 0), (4, 0)] id (fun b => { b with acc := [(1, zeroTile 16)] }) id
    let first := { gang .none false with clusters := [(0, { (gang .none false).cluster 0 with arrivals := [] })] }
    let may := fun (t : State) => (me t).st.wait = .none ∧ (me t).inH = false ∧ mmaReason (me t).blk to' = none ∧
      TileClear t (me t) 1 (mmaReads (me t).blk to' ((me t).matA t .slot to')) ∧ FreshTile t (me t) ∧
      ArraysClear t (me t) true (matReads (me t) .slot to' 0 0 ((me t).matA t .slot to')) ∧
      ∀ x ∈ (t.cluster 0).arrivals, x.slot ≠ (me t).k
    me? s = some (me s) ∧ (me s).st.wait = .gang ∧ gangComplete (s.cluster 0) 3 = some members ∧ members.length = 2 ∧
    (∀ a ∈ members, sweeping s (me s) (tName a.ops) = false) ∧
    gangLacks members ((me s).blk.tiles - (heldTiles (s.cluster 0) (me s).blk 0 + drainingTiles (s.cluster 0) 0)) = none ∧
    (∀ a ∈ members.head?, ArraysClear s (me s) true (matReads (me s) a.ty a.ops a.sb a.sx a.latch)) ∧
    AdmittedAs s 0 (gangTask 3) (gangHeader s 0 members) 0 s ∧
    (∀ a ∈ members, (meAt s 0 a.slot).isSome = true ∧ ((me s).blk.acc.get? (tName a.ops)).isSome = true) ∧
    passes lone (mmaUses lone .slot to' (me lone)) = true ∧ may lone ∧ gangBad (lone.cluster 0) (me lone) 0 = true ∧
    passes first (mmaUses first .slot to' (me first)) = true ∧ may first ∧ gangBad (first.cluster 0) (me first) 3 = false ∧
    (∀ x ∈ (first.cluster 0).arrivals, (bitOf x.gang 0 || bitOf 3 x.slot) = true → x.gang = 3) ∧
    (1 ∈ gangSlots 3 ∧ ∀ x ∈ (first.cluster 0).arrivals, x.slot ≠ 1) := by
  unfold ArraysClear TileClear FreshTile
  and_intros <;> first | exact admits' (by decide +kernel) | decide +kernel

theorem test_witness_TileTransfers :
    let rows : List (Nat × Nat) := [(3, 0), (4, 2 ^ 32 + 64)]
    let s := tiled rows .none (zeroTile 16)
    let m := me s
    let g := tiled [(3, 0x2000), (4, 64)] .none (zeroTile 16)
    let full := world' rows id (fun b => { b with tiles := 0 }) id
    let o := { to' with at5 := 3 }
    (∀ x ∈ [s, full], passes x {} = true ∧ passes x (rowUses o) = true ∧ drainingTiles (x.cluster 0) 0 = 0 ∧
      ∀ i ∈ [1, 3], sweeping x (me x) i = false ∧ (me x).blk.shadows.get? i = none) ∧
    FreshTile s m ∧ ¬FreshTile full (me full) ∧ passes g (rowUses o) = true ∧ FreshTile g (me g) ∧
    m.blk.acc.get? 1 = some (zeroTile 16) ∧ (zeroTile 16).mode.width = 16 ∧ TileClear s m 1 (some 1) ∧ m.blk.acc.get? 3 = none ∧
    ∀ q ∈ [(o, Need.load), (to', .store false)], RowsPass s m q.1 q.2 s [] ∧
      RowsPass g (me g) q.1 q.2 g ((upto 64).map fun i => (0x2000 + 64 * i, 64, 0x2000 + 64 * i)) := by
  unfold TileClear FreshTile
  and_intros <;> first
    | decide +kernel
    | intro q h
      simp only [List.mem_cons, List.not_mem_nil, or_false] at h
      obtain rfl | rfl := h <;> exact
        ⟨.inl ⟨by decide +kernel, rfl, rfl, by unfold ArraysClear; decide +kernel⟩,
          .inr ⟨by decide +kernel, (upto 64).map fun i => (i, 0x2000 + 64 * i, 0x2007), by decide +kernel, by decide +kernel,
            by decide +kernel, by decide +kernel⟩⟩

theorem test_witness_TileReads :
    let s := tiled [] .none (zeroTile 16)
    let e := { idle with clusters := [(0, cluster (me idle).st { block with acc := [(1, zeroTile 16)] })] }
    let o := { to' with at5 := 2 }
    (∀ x ∈ [s, e], (me x).blk.acc.get? 1 = some (zeroTile 16) ∧ TileClear x (me x) 1 (some 1) ∧ (me x).blk.shadows.get? 1 = none ∧
      ∀ u ∈ [tileUses (me x) x to'.va 16 true false, tileUses (me x) x to'.va 1 true false, tileUses (me x) x to'.va 1 false false],
        passes x u = true) ∧
    (zeroTile 16).mode = .plain 16 ∧ (me e).responders e = [] ∧ (me s).responders s ≠ [] ∧
    entriesOf (s.cluster (me s).c) (me s).k < Config.deliveryEntries ∧ passes s { dst := [o.sx] } = true ∧
    ((me s).blk.shadows.get? 2).isSome = true ∧ sweeping s (me s) 2 = false ∧ passes s {} = true := by
  unfold TileClear
  and_intros <;> decide +kernel

/-- With a handler at the code page. -/
def handled (s : State) : State :=
  s.modStrand 0 0 fun st => { st with regs := { st.regs with tvec := 0x1000 } }

theorem test_witness_FactorSweeps :
    let w := fun x => handled (tiled [] x (factor 0x3F800000))
    let s := w .none
    let e := handled { idle with clusters := [(0, cluster (me idle).st { block with acc := [(1, factor 0)] })] }
    let t := w (.swept (some 5))
    me? (w (.swept none)) = some (me (w (.swept none))) ∧ (me (w (.swept none))).st.wait = .swept none ∧
    me? t = some (me t) ∧ (me t).st.wait = .swept (some 5) ∧ t.entryFree 0 0 = true ∧
    (∀ x ∈ (t.cluster 0).strands, x.2.trap = none) ∧ (me t).st.regs.tvec ≠ 0 ∧
    targetOk t 0 (me t).ctx ((me t).st.regs.tvec.truncate 57) = true ∧
    (∀ x ∈ [s, e], passes x (vxUses (me x) x fo false) = true ∧ (me x).st.wait = .none ∧ factorReason (me x).blk 1 true = none ∧
      TileClear x (me x) 1 (some 1)) ∧
    FreshTile s (me s) ∧ (me s).responders s ≠ [] ∧ Admitted s (me s) fo.th 0 (headerRead s (me s).blk (me s).st.role fo.th.toNat) ∧
    Admitted e (me e) fo.th 0 (headerRead e (me e).blk (me e).st.role fo.th.toNat) ∧ sweeping e (me e) 1 = false ∧ FreshTile e (me e) ∧
    (me e).responders e = [] := by
  unfold TileClear FreshTile
  and_intros <;> first | exact admits rfl (by decide +kernel) | decide +kernel

theorem test_witness_FactorBindsAndSolves :
    let w := fun n d => tiled [(5, n)] .none (factor d)
    let o := { fo with at5 := 3 }
    let e := { idle with clusters := [(0, cluster (me idle).st { block with acc := [(1, factor 0)] })] }
    (∀ n ∈ [0, 1, 64, 65], passes (w n 0) { src := [(o.sn, false)] } = true ∧ ((me (w n 0)).st.regs.get o.sn).toNat = n ∧
      sweeping (w n 0) (me (w n 0)) 3 = false ∧ (me (w n 0)).blk.shadows.get? 3 = none ∧ FreshTile (w n 0) (me (w n 0))) ∧
    (∀ s ∈ [w 1 0, w 1 0x3F800000, e], passes s { dst := [fo.sn] } = true ∧ passes s (vxUses (me s) s fo true) = true ∧
      factorReason (me s).blk 1 false = none ∧ TileClear s (me s) 1 (some 1) ∧ (me s).header s fo.th = (0, 0)) ∧
    (me (w 1 0)).responders (w 1 0) ≠ [] ∧ (me e).responders e = [] ∧ Admitted e (me e) fo.th 0 (headerRead e (me e).blk (me e).st.role fo.th.toNat) ∧
    (solveFrom false 2 (factorTile (me (w 1 0)).blk 1).2 [0, 1] [0, 0]).2 = some 1 ∧
    (solveFrom false 2 (factorTile (me (w 1 0x3F800000)).blk 1).2 [0, 1] [0, 0]).2 = none ∧
    (let s := { w 1 0x3F800000 with cap := some 1 };
      (upto 2).drop (solveIndex (me s)) = [0, 1] ∧ ((upto 2).take 1).length = 1 ∧ passes s (vxUses (me s) s fo true) = true ∧
        (solveFrom false 2 (factorTile (me s).blk 1).2 [0] [0, 0]).2 = none) ∧
    (let s := world' [(5, 1)] (fun st => { st with solve := some 1, regs := { st.regs with pi := piOf 4 1 } })
        (fun b => { b with acc := [(1, factor 0x3F800000)] }) id;
      (me s).st.solve.isSome = true ∧ (me s).inH = false ∧ solveIndex (me s) = 1 ∧ passes s (vxUses (me s) s fo true) = true ∧
        TileClear s (me s) 1 (some 1) ∧ (me s).responders s ≠ []) := by
  unfold TileClear FreshTile
  and_intros <;> first | exact admits rfl (by decide +kernel) | decide +kernel

/-- A job card at 64 that copies one byte, its footprint at 128, and so many of its opcode. -/
def card (opc : Nat) : List Host.Cell :=
  writeNat (writeNat (writeNat [] 64 1 opc) 68 2 2) 112 6 0x0001_0001_0001

def carded (v opc : Nat) (w : List JobFault) (g : Block → Block) : State :=
  world' [(4, v)] (fun s => { s with jobFaults := w }) (fun b => g { b with scratch := card opc }) id

/-- The descriptor of one byte at a place. -/
def oneByte (scratch : Bool) (base : Nat) : List Byte :=
  leBytes 8 ((if scratch then 2 ^ 63 else 0) + base) ++ leBytes 8 0x0001_0001_0001 ++ leBytes 8 0

theorem test_witness_JobTickets :
    let use : Uses := { ord := true, src := [(eo.sc, false)] }
    (∀ opc ∈ [1, 9], let s := carded 64 opc [] id;
      passes s { use with dst := [eo.sd] } = true ∧ (me s).st.jobFaults = [] ∧
      64 * fieldAt (readBytes (me s).blk.scratch 64 64) 4 2 = 128 ∧ 128 + 64 ≤ (me s).blk.scratchLen ∧
      (∀ r ∈ [(64, 16), (112, 6), (128, 64)], RangeFree s (me s) true r.1 r.2) ∧
      cardReason (me s).blk eo.eng 0 (readBytes (me s).blk.scratch 64 64) (readBytes (me s).blk.scratch 128 64) =
        (if opc = 1 then .inr ([], []) else .inl 0x10) ∧
      (s.cluster 0).jobs.length < Config.schedulerJobs) ∧
    AdmittedAs (carded 64 1 [] id) 0 (me (carded 64 1 [] id)).task (0, 0) 0 (carded 64 1 [] id) ∧
    Admitted (carded 64 1 [] id) (me (carded 64 1 [] id)) eo.th 0
      (headerRead (carded 64 1 [] id) (me (carded 64 1 [] id)).blk (me (carded 64 1 [] id)).st.role eo.th.toNat) ∧
    (∀ n ∈ [0, 1, 2], let s := carded 1 1 [] fun b => { b with tickets := n };
      passes s use = true ∧ passes s { use with dst := [eo.sd] } = true ∧ (me s).st.jobFaults = [] ∧ inFlight s (me s) 1 = false) ∧
    (let s := world' [(4, 1)] id (fun b => { b with tickets := 1 }) fun cl => { cl with jobs := [aJob] };
      passes s use = true ∧ inFlight s (me s) 1 = true) ∧
    (let s := carded 1 1 [⟨1, 0x41, 0, false, false, false⟩] id;
      passes s use = true ∧ passes s { use with dst := [eo.sd] } = true ∧ (me s).inH = false ∧
        lowestFault ((me s).st.jobFaults.filter fun f => !((me s).inH && f.later)) = some ⟨1, 0x41, 0, false, false, false⟩) ∧
    (∀ later ∈ [false, true], let f : JobFault := ⟨1, 0x41, 0, false, false, later⟩
      let s := world' [(4, 0)] (fun st => { st with jobFaults := [f] }) id fun cl => { cl with handler := some 0 }
      passes s use = true ∧ (me s).inH = true ∧
        lowestFault ((me s).st.jobFaults.filter fun f => !((me s).inH && f.later)) = if later then none else some f) := by
  unfold RangeFree RangeClear
  and_intros <;> first | exact admits rfl (by decide +kernel) | exact admits' (by decide +kernel) | decide +kernel

/-- A bank descriptor at 0: its weight base, x at 64, y at 256, so many rows of 128 columns, and its mode. -/
def bank (base rows mode : Nat) : List Host.Cell :=
  writeNat (writeNat (writeNat (writeNat (writeNat (writeNat [] 0 8 base) 8 4 64) 12 4 256) 16 4 rows) 20 4 128) 29 1 mode

/-- The small machine with that descriptor, s3 = 0, so many threads and a page of weights of 8 bits at 0x4000. -/
def banked (base rows mode : Nat) (any : Bool) : State :=
  world' [(3, 0)] (fun st => { st with stack := { levels := [if any then 0xF else 0, 0xF], base := 0, limit := 15 } })
    (fun b => { b with scratch := bank base rows mode, fmts := Vector.replicate 8 0x3DC })
    fun cl => { cl with utlb := cl.utlb ++ [⟨0, 0x4000, 8 * 2 ^ 48 + 0x303⟩] }

/-- A run of it that has been issued, every x and scale read, and its y made or not. -/
def aBank (reg made : Bool) : BankOp :=
  { id := 5, slot := 0, block := 0, reg := reg, rows := 1, desc := readBytes (bank 0x4000 1 (if reg then 1 else 0)) 0 32,
    pages := [8 * 2 ^ 48], site := 0, ops := to', sat := false, ty := .slot, threads := if reg then [0] else [],
    delivery := if reg then some 4 else none, xs := (upto 128).map fun i => (i, 0), scs := (upto 8).map fun i => (i, 0),
    olds := if reg then [(0, 0)] else [], ys := if made then [(0, 0, 0)] else [], current := 0 }

/-- A pending delivery of v3 to thread 0, not all of its data there. -/
def aDelivery (data : SMap (List W32)) : Delivery :=
  { id := 4, slot := 0, block := 0, window := 0, name := 3, count := 1, threads := [0], data := data, discard := false }

/-- The small machine with that run under way. -/
def running (reg made : Bool) : State :=
  world' [] id (fun b => { b with scratch := bank 0x4000 1 (if reg then 1 else 0) })
    fun cl => { cl with bankOps := [aBank reg made], deliveries := [aDelivery []] }

theorem test_witness_BankProduct :
    let page := 8 * 2 ^ 48 + 0x303
    let desc := fun s => (me s).bankDesc to'
    (∀ x ∈ [(2 ^ 57, 1, 0), (0x4001, 1, 0), (0x4000, 0, 0), (0x4000, 1, 0), (0x4000, 1, 1)], let s := banked x.1 x.2.1 x.2.2 true;
      passes s (bankUses s .slot to' (me s)) = true ∧ RangeFree s (me s) true 0 32 ∧ (me s).header s to'.th = (0, 0) ∧
      (desc s).wbase = x.1 ∧ ((bankReason (me s).blk .slot to' (desc s)).isSome = true ↔ x.2.1 = 0)) ∧
    (∀ mode ∈ [0, 1], ∀ any ∈ [false, true], let s := banked 0x4000 1 mode any;
      passes s (bankUses s .slot to' (me s)) = true ∧ bankReason (me s).blk .slot to' (desc s) = none ∧ (desc s).reg = (mode == 1) ∧
      ArraysClear s (me s) true (bankArrays (me s).blk .slot (desc s)) ∧ bankPages (me s).blk (desc s) = [0x4000] ∧
      (match translateAll s (me s) .load 1 noAlso [(0, 0x4000)] with | .ok l => l == [(0, 8 * 2 ^ 48, page)] | _ => false) = true ∧
      bankPageBad (me s).blk (desc s) (8 * 2 ^ 48) page = false ∧ ((me s).bankThreads s (desc s) = [] ↔ mode = 0 ∨ any = false) ∧
      entriesOf (s.cluster 0) 0 < Config.deliveryEntries) ∧
    (∀ reg ∈ [false, true], ∀ made ∈ [false, true], let s := running reg made;
      (s.cluster 0).bankOps.find? (fun x => x.id == 5) = some (aBank reg made) ∧ s.block? 0 0 = some (me s).blk ∧
      bankPoison s 0 (me s).blk (aBank reg made) (.row 0) = none ∧ Memory.wf (me s).blk.scratch = true ∧
      bankBehind (s.cluster 0) (aBank reg made) = false ∧ owedSoft s 0 9 0 (some 0) 256 4 = false ∧ (∀ pa ∈ (aBank reg made).pages, linkFree s 0 pa = true) ∧
      (aBank reg made).open' (me s).blk (.row 0) = !made ∧ ((aBank reg made).ys.length = 1 ↔ made = true) ∧ serialMode s 0 = false ∧
      (made = true → ∀ x ∈ (aBank reg made).parts (me s).blk, (aBank reg made).open' (me s).blk x = false) ∧
      (aBank reg made).threads.Nodup ∧ (aDelivery []).id = 4) := by
  unfold ArraysClear RangeFree RangeClear
  and_intros <;> decide +kernel

theorem test_witness_RepliesArrive :
    let w := fun pend => world' [] (fun s => { s with late := [(3, 2, some 7)] })
      (fun b => { b with scratch := writeNat [] 24 8 (barWord 2 2 false pend) })
      fun cl => { cl with deliveries := [aDelivery [(0, [9])]], landings := [aLanding] }
    (w 4).strand? 0 0 = some (me (w 4)).st ∧ (me (w 4)).st.late.get? 3 = some (2, some 7) ∧
    ((w 4).cluster 0).deliveries.find? (fun x => x.id == 4) = some (aDelivery [(0, [9])]) ∧
    (((aDelivery [(0, [9])]).values ((w 4).cluster 0)).get? 0).isSome = true ∧ (∀ i ∈ [2, 4, 6], replyTurn (w 4) 0 i = true) ∧
    deliveryHeld (w 4) 0 (aDelivery [(0, [9])]) = false ∧ replyHeld (w 4) 0 0 (.scalar 3) = false ∧
    ∀ pend ∈ [4, 8], let s := w pend;
      (s.cluster 0).landings.find? (fun x => x.id == 6 && x.delivery.isNone) = some aLanding ∧
      aLanding.threads.find? (landable s 0 aLanding) = some 0 ∧ scratchPoison s 0 0 24 8 = none ∧
      replyHeld s 0 0 (.landing 6 []) = false ∧ s.block? 0 0 = some (me s).blk ∧ Memory.wf (me s).blk.scratch = true ∧
      barPend (readNat (me s).blk.scratch 24 8) = pend ∧ barArr (readNat (me s).blk.scratch 24 8) = 2 ∧
      barExp (readNat (me s).blk.scratch 24 8) = 2 := by
  decide +kernel

/-- An access of the small machine's strand to the word at 0x2000, of memory or of its scratchpad. -/
def anAccess (space : Option Nat) (act : Act) (rel : Bool) : Access :=
  { id := 7, group := 7, space := space, pa := if space.isNone then 0x2000 else 512, bytes := 8, act := act, dest := .scalar 3,
    acq := false, rel := rel, scope := .block, shared := false, dropped := false, read := none }

theorem test_witness_AccessesPerformed :
    ∀ space ∈ [none, some 0], ∀ a ∈ [Act.load, .store [some 1, none], .rmw .add [(0, 1, 0)]], ∀ rel ∈ [false, true],
      let x := anAccess space a rel;
      let s := world' [] (fun s => { s with out := [x], late := [(3, 2, none)] }) id
        fun cl => { cl with stopping := some 0, stopAt := BitVec.ofInt 64 (-24000) };
      s.strand? 0 0 = some (me s).st ∧ (me s).st.out.find? (fun x => x.id == 7) = some x ∧ orderedIn ((s.cluster 0).enginesOf 0 (me s).st.block) (me s).st.out x = true ∧
      accessReady s 0 0 (.strand (me s).st) x = true ∧ accessPoison s 0 x = none ∧ (me s).st.late.get? 3 = some (2, none) ∧
      lockServes s 0x2000 = none ∧ isBell 0x2000 = false ∧ Memory.wf s.mem = true ∧ s.block? 0 0 = some (me s).blk ∧
      Memory.wf (me s).blk.scratch = true ∧ (me s).blk.bars ≤ 512 / 8 ∧ (s.cluster 0).stopping ≠ none ∧
      24000 ≤ (s.time - (s.cluster 0).stopAt).toNat := by
  decide +kernel

/-- The watch on the word of the scratchpad at 0. -/
def theWatch (seen : Bool) : Watch := ⟨true, 0, 8, 1, seen, false⟩

/-- The small machine whose strand waits so, traps to the code page and has a trap and a timer due. -/
def pending (w : Wait) (t : Option Trap) : State :=
  handled (world' [] (fun s => { s with wait := w, trap := t, regs := { s.regs with
    tmctl := 3, watch := some (theWatch false) } }) id id)

theorem test_witness_StrandEvents :
    let trap : Trap := ⟨0x10, 0, 0x1000, 0x1000, false, false, false, false⟩
    let at' := fun s => meAt s 0 0 = some (me s)
    let coded := fun p => world' [] (fun s => { s with code := .walking p }) id id
    (∀ p ∈ [2, 9], at' (pending (.walk p) none) ∧ (me (pending (.walk p) none)).st.wait = .walk p ∧
      at' (coded p) ∧ (me (coded p)).st.code = .walking p ∧ (me (coded p)).st.wait = .none ∧
      ∀ s ∈ [pending (.walk p) none, coded p], walkPoison s 0 (p * 4096) = none ∧
        (∀ a ∈ tableLines s (me s).ctx (p * 4096), portReady s a = true ∧ linkFree s 0 a = true) ∧
        walk s 0 (p * 4096) = (if p = 2 then some (0x2000, 0x2007) else none)) ∧
    (let s := pending .none none; at' s ∧ (me s).st.regs.watch = some (theWatch false) ∧
      watchSees s (me s).blk (theWatch false) ≠ 1 ∧ (me s).st.regs.tvec ≠ 0 ∧
      targetOk s 0 0 ((me s).st.regs.tvec.truncate 57) = true ∧ s.entryFree 0 0 = true ∧ timerDue s (me s) = true ∧
      atBoundary s (me s) = true ∧ ∀ p ∈ (s.cluster 0).strands, p.2.trap = none) ∧
    (let s := pending (.asleep false (some 0)) none; at' s ∧ (me s).st.wait = .asleep false (some 0)) ∧
    (let s := pending (.search 0) none; at' s ∧ (me s).st.wait = .search 0) ∧
    (let s := pending .none (some trap); at' s ∧ (me s).st.trap = some trap ∧ (s.cluster 0).stopping = none ∧
      nextTrap s 0 = some 0) := by
  decide +kernel

/-- A sweep of tile 1 of the small machine. -/
def aSweep (x : W32) : Sweep :=
  { slot := 0, block := 0, name := 1, down := false, trl := true, x := [x, 0], work := (factor 0x3F800000).tile, index := 0, current := 0 }

/-- The small machine with that job, a run of the tile engine, a sweep and a tracker entry. -/
def engines (j : Job) (x : W32) (b : Nat) : State :=
  world' [] id (fun b => { b with acc := [(1, factor 0x3F800000)], tol := 0, tickets := 1 }) fun cl =>
    { cl with jobs := [j], sweeps := [aSweep x], tracker := [aTracked b none]
              tileOps := [⟨2, 0, 0, 1, [], true, false, 0, 0⟩] }

theorem test_witness_EngineEvents :
    let ran := { aJob with started := true, src := oneByte true 512, dst := oneByte true 576 }
    let out := { ran with dst := oneByte false 0x2000 }
    let read := fun (j : Job) => { j with got := [(0, 5)] }
    let whole := { read ran with wrote := [(0, 0)] }
    let stopped := { ran with faults := [(0x41, 0)] }
    let bad := { ran with src := List.replicate 16 0xFF }
    let off := { ran with src := oneByte true 640 }
    let e := fun j => engines j 0x3F800000 0
    (∀ j ∈ [aJob, ran, out, read ran, read out, whole, { whole with cmpl := 2, cpl := 0x2000 }, stopped, bad, off],
      jobAt (e j) 0 0 1 = some j ∧ (e j).block? 0 0 = some (me (e j)).blk ∧ jobMayRun (e j) 0 j = true ∧ serialFirst (e j) 0 j = true ∧
      completionReady (e j) 0 j = true ∧ completionPoison (e j) 0 j = none ∧ (e j).strand? 0 0 = some (me (e j)).st ∧
      (me (e j)).st.tailed = false ∧ (me (e j)).st.frames = [] ∧ inSpans (me (e j)).st.spans j.id = false ∧ j.malformed = decide (j = bad)) ∧
    (let s := e aJob; sentBefore (s.cluster 0) aJob = false ∧ jobOwed s 0 aJob (some 0) 80 48 = false ∧
      scratchPoison s 0 0 80 48 = none) ∧
    (∀ q ∈ [(ran, JobPart.source 0, (⟨false, true, 512, 1⟩ : JobAccess)), (read ran, .write 0, ⟨true, true, 576, 1⟩),
        (read out, .write 0, ⟨true, false, 0x2000, 1⟩)],
      q.1.access q.2.1 = some q.2.2 ∧ jobPlace (e q.1) 0 (me (e q.1)).blk q.1 q.2.2 = .inl (q.2.2.addr, false) ∧
        jobWaits (e q.1) 0 q.1 q.2.2 q.2.2.addr = false) ∧
    (off.next = some (.source 0) ∧ off.access (.source 0) = some ⟨false, true, 640, 1⟩ ∧
      jobPlace (e off) 0 (me (e off)).blk off ⟨false, true, 640, 1⟩ = .inr (causeFootprint, 640) ∧ causeFootprint ≠ causeEcc) ∧
    whole.done = true ∧ serialMode (e ran) 0 = false ∧ ((e ran).cluster 0).stopping = none ∧
    (match checkDirect (e ran) 0 (.store false) 0x2000 with | .ok pa leaf => pa == 0x2000 && leaf == 0x2007 | _ => false) = true ∧
    ((e aJob).cluster 0).tileOps.find? (fun y => y.id == 2) = some ⟨2, 0, 0, 1, [], true, false, 0, 0⟩ ∧
    (∀ good ∈ [true, false], let x := if good then 0x3F800000 else 0x7F800000; let s := engines aJob x 0;
      (s.cluster 0).sweeps.find? (fun y => y.slot == 0) = some (aSweep x) ∧
      (match sweep false (me s).blk.tol 2 (aSweep x).work (aSweep x).x 0 with
        | .commit _ => true
        | .abort _ _ => false) = good) ∧
    (∀ b ∈ [0, 1], let s := engines aJob 0 b; (s.cluster 0).tracker.find? (fun y => y.id == 3) = some (aTracked b none) ∧
      (aTracked b none).empty = true ∧ ((∃ p ∈ (s.cluster 0).strands, p.2.block = b) ↔ b = 0)) := by
  and_intros <;> decide +kernel

/-- A cluster that holds nothing, with its power state changed. -/
def powered (f : Power → Power) : State :=
  { machine { Cluster.reset with power := f Power.reset, idle := 38400 } with time := 4800 }

theorem test_witness_PowerEvents :
    (powered id).intervals < (powered id).time.toNat / 2400 ∧ ((powered id).clusters.map Prod.fst).Nodup ∧
    (powered id).clusters.get? 0 ≠ none ∧
    (let cl := (powered fun p => { p with waiting := [(0, 5, 5)] }).cluster 0;
      cl.power.waiting = (0, 5, 5) :: [] ∧ cl.stopping = none ∧ cl.power.fits 5 5 = true) ∧
    (let p := ((powered id).cluster 0).power; p.en = true ∧ p.atEdge = true) ∧
    ((powered fun p => { p with edges := 1 }).cluster 0).power.edges = 1 ∧
    (let p := ((powered fun p => { p with halved := 1 }).cluster 0).power; p.edges = 0 ∧ p.halved = 1) ∧
    (let cl := (powered id).cluster 0; cl.retained = false ∧ cl.stopping = none ∧ cl.quiet = true ∧ 38400 ≤ idleEdges (powered id) 0) ∧
    38400 ≤ idleEdges { powered id with clusters := [], time := 76800 } 7 ∧
    (let cl := { (powered id).cluster 0 with retained := true, strands := [(0, strand [])], blocks := [(0, block)] };
      let s := (powered id).setCluster 0 cl; s.cluster 0 = cl ∧ clusterWakes s 0 cl = true) := by
  decide +kernel

/-- A freeze of the hub in which every unit is lost or not. -/
def aFreeze (lost : List Nat) : FreezeState :=
  { origin := 388, cause := 0x82, ctx := 255, t0 := 0, info := 0, seconds := [], nsecond := 0, starts := [], lostUnits := lost, capno := 1,
    boot := 0, redact := [], creds := [] }

/-- A capsule of it. -/
def aCapsule : Capsule := { handle := 1, summary := false, fr := aFreeze [], sections := [], sigidx := none, digest := 0, sig := [] }

/-- A kill of context 0, its horizon passed or not. -/
def aKill (h : Bool) : Kill := { ctx := 0, cause := 0x10, at' := 0, capno := 1, horizon := h, out := [] }

theorem test_witness_Containment :
    let s := { world' [] (fun s => { s with age := 2400000000 }) id id with killDue := [0] }
    0 ∈ s.killDue ∧ s.ctxLive 0 = true ∧ meAt s 0 0 = some (me s) ∧ watchdogTicks s (me s).ctx ≤ (me s).st.age ∧
    s.ready.getLsbD 537 = true ∧ errorSiteExists s (.dieCache 128) = true ∧
    (∀ f ∈ [0, 64], let t := { s with killDue := [], kills := [aKill false], fnote := f };
      t.kills.find? (fun k => k.ctx == 0 && !k.horizon) = some (aKill false)) ∧
    (let t := { s with capsule := some aCapsule, nor := [some []] };
      (∀ x ∈ [ErrSite.strongroom 1 0, .nor 0 0], errorSiteExists t x = true) ∧ aCapsule.handle = 1) ∧
    (let t := { s with kills := [aKill true], fnote := 64 };
      t.kills.find? Kill.horizon = some (aKill true) ∧ t.serialNo.length = 16 ∧ Memory.wf t.mem = true) := by
  decide +kernel

theorem aFreeze_lost (l : List Nat) : (aFreeze l).lostUnits = l := rfl

/-- Every unit of that freeze is done where every unit is lost. -/
theorem lost_done (s : State) (u : Nat) (h : u < 389) : vaultDone s (aFreeze (upto 389)) u = true := by
  have : (upto 389).contains u = true := by
    simp only [upto, List.contains_eq_mem, List.mem_range, decide_eq_true_eq]; exact h
  unfold vaultDone
  rw [aFreeze_lost, this, Bool.or_true]

/-- The small machine whose block owes a fold, later, and whose context has a log or not. -/
def folding (time : Nat) (log : Option (Nat × Nat)) : State :=
  { world' [] id (fun b => { b with foldDue := [(1, true)] }) id with
    time := BitVec.ofNat 64 time, ctxs := [(0, { stageContext with log := log })] }

theorem test_witness_RecorderEvents : let s := folding (2 ^ 32 + 2) none
    s.ready.getLsbD 537 = true ∧ s.ready.getLsbD 538 = true ∧ s.freeze = none ∧
    (let f := { aFreeze [] with starts := [⟨388, 0x82, 0⟩] };
      vaultDone { s with freeze := some f } f 0 = false ∧ f.starts ≠ []) ∧ s.norOpen = false ∧
    (let v := { Vault.reset with dropped := [(0x09, 2)] }; v.gapDue = some (0x09, 2) ∧ v.frozen = false ∧ v.gap < s.time.toNat / 128 ∧ v.port ≠ some s.time) ∧
    s.epochs < s.time.toNat / 2 ^ 32 ∧ (s.vault 0).frozen = false ∧ (s.vault 0).queue = [] ∧ (s.vault 0).port ≠ some s.time ∧
    (s.ctx? 0).any (fun x => decide (x.merges < s.time.toNat / 2400000)) = true ∧
    ∀ log ∈ [none, some (0x40000, 4)], let t := folding 2 log;
      t.block? 0 0 = some (me t).blk ∧ (me t).blk.foldDue = (1, true) :: [] ∧ (t.cluster 0).deliveries = [] ∧
      (t.cluster 0).stopping = none ∧ blockPoison t 0 0 (me t).blk = none ∧ (t.ctx? (me t).blk.ctx).bind Context.log = log ∧
      Memory.wf t.mem = true ∧
      (∃ p ∈ (t.cluster 0).strands, p.2.block = 0) ∧
      (let u := { t with clusters := t.clusters.map fun p => (p.1, { p.2 with strands := [] }) };
        u.block? 0 0 = some (me t).blk ∧ (∀ p ∈ (u.cluster 0).strands, p.2.block ≠ 0) ∧ (u.cluster 0).tracker = [] ∧
          blockPoison u 0 0 (me t).blk = none) := by
  decide +kernel

theorem test_witness_RecorderEvents_assembled (x : Option Capsule) :
    let t := { folding 0 none with freeze := some (aFreeze (upto 389)), capsule := x, norDue := [aCapsule] }
    t.freeze = some (aFreeze (upto 389)) ∧ t.capsule = x ∧ t.norDue = aCapsule :: [] ∧ t.ready = (folding 0 none).ready ∧
      ∀ u, u < 389 → vaultDone t (aFreeze (upto 389)) u = true :=
  ⟨rfl, rfl, rfl, rfl, fun u h => lost_done _ u h⟩

/-- An image of the small machine's strand and block. -/
def anImage : Image :=
  { cluster := 0, strands := [(0, strand [])], blocks := [(0, block)], handler := none, hstack := { levels := [], base := 0, limit := 15 },
    hlatch := none, jobs := [], sweeps := [], arrivals := [], counters := none, nextId := 0, poison := [] }

theorem test_witness_ContextMoves :
    let t := world' [] id id fun cl => { cl with stopping := some 0 }
    let r := { (machine Cluster.reset) with ctxs := [(0, { stageContext with images := [anImage] })] }
    let swept := world' [] id id fun cl => { cl with sweeps := [aSweep 0] }
    (∀ s ∈ [world [], swept], clustersOf s 0 = [0] ∧ (s.cluster 0).stopping = none ∧ (s.strand? 0 0).isSome = true) ∧
    (∃ w ∈ (swept.cluster 0).sweeps, w.slot = 0) ∧
    (t.clusters.filter fun p => p.2.stopping == some 0).map Prod.fst = [0] ∧ (t.clusters.map Prod.fst).Nodup ∧
    (t.ctx? 0).isSome = true ∧ (t.cluster 0).retained = false ∧ drained t 0 0 = true ∧ Memory.wf t.mem = true ∧
    (walkClusters r (ctxPart r 0)).find? (fun c => r.ready.getLsbD c && anImage.fitsIn (r.cluster c)) = some 0 ∧
    (anImage.strands.map Prod.fst).Nodup ∧ (r.ctx? 0).map Context.images = some (anImage :: []) := by
  decide +kernel

/-- A waitsig of window 0 at q1 for q2, as an operation's word. -/
def waitWord : Nat := 0x18 + 1 * 2 ^ 11 + 2 * 2 ^ 14

/-- The queue of a packet whose window 0 is page 2. -/
def queue (f : Packet → Packet) : Queue :=
  let q := stageQueue waitWord
  { q with rbase := 0x2000, wins := List.replicate 4 ⟨0x2000, 4096, true, true⟩, packet := q.packet.map f }

/-- The small machine with these queues and grids, and the tail of doorbell word 0. -/
def queued (qs : SMap Queue) (gs : SMap Grid) : State :=
  { world [] with queues := qs, grids := gs, bells := [(bellAddress 0, 1)], curQ := some 0 }

def qe : QeOps := { d := 3, a := 1, b := 2, w := 0, imm := 0 }

theorem test_witness_QueueOperations :
    let s := queued [(0, queue id)] []
    let bad := { qe with imm := 1 }
    let full := { s with grids := (upto 256).map fun i => (i, grid false) }
    let at' := fun p (o : QeOps) align n read write need => windowPa s (queue id) p o align n read write need
    s.queues.get? 0 = some (queue id) ∧ (queue id).packet = (stageQueue waitWord).packet ∧
    ((queue fun p => { p with steps := 256 }).packet.any fun p => !p.counted && p.steps == 256) = true ∧
    ((queue id).packet.any fun p => !p.counted && p.steps < 256 && !poisonedAt s 0x2000 && !poisonedAt s 0x2080 &&
      at' p qe 8 8 true false .load == some (0x2000, 0x2000) && at' p qe 8 8 false true (.store false) == some (0x2000, 0x2000) &&
      at' p qe 8 8 true true .atomic == some (0x2000, 0x2000) && at' p qe 256 256 true false .load == some (0x2000, 0x2000) &&
      at' p bad 8 8 true false .load == none && at' p bad 8 8 false true (.store false) == none &&
      at' p bad 8 8 true true .atomic == none && at' p bad 256 256 true false .load == none) = true ∧
    portReady s 0x2000 = true ∧ poisonedIn s 0x2000 256 = none ∧ launchReady s 0 0x2000 = true ∧
    awaiting s = 0 ∧ 256 ≤ awaiting full ∧ full.queues.get? 0 = some (queue id) ∧ full.curQ = some 0 := by
  decide +kernel

/-- The record waits for a slot, or has one and is idle. -/
def unmapped : Queue := { queue id with packet := none, slot := none }
def idleIn (i : Nat) : Queue := { queue id with packet := none, slot := some i, door := bellAddress (i + 1) }

theorem test_witness_QueuesAndGrids :
    (let s := queued [(0, unmapped)] []; nextUnmapped s = some 0 ∧ freeSlot s = some 0 ∧ s.queues.get? 0 ≠ none) ∧
    (let s := queued ((0, unmapped) :: (upto 64).map fun i => (i + 1, idleIn i)) [];
      nextUnmapped s = some 0 ∧ freeSlot s = none ∧ idleVictim s = some (1, idleIn 0)) ∧
    (let r := { unmapped with slot := some 0 }; let s := queued [(0, r)] [];
      r.startable s = true ∧ servedNow s 0 = true ∧ rangeOk s 0 .load r.entry 256 = true ∧ rangePoison s 0 r.entry 256 = none ∧
      hubReady s 0 r.entry 256 = true ∧ hubReady s 0 r.va 64 = true) ∧
    (let r := queue fun p => { p with parked := true }; let s := queued [(0, r)] [];
      s.queues.get? 0 = some r ∧ r.packet.any (fun p => waitHolds s r p) = true ∧ servedNow s 0 = true) ∧
    (let g := { grid false with dims := none, rec' := { launch false with ind := true, grid := 0x2000 } };
      let s := { queued [] [(1, g)] with mem := writeNat (writeNat tables 0x2000 8 (2 ^ 48 + 2 ^ 32 + 2)) 0x2008 8 0x2000 };
      s.grids.get? 1 = some g ∧ g.closed = false ∧ dimsDue s g.rec' = some (some (2, 1, 1)) ∧ g.placed < 2) ∧
    (let s := queued [] [(1, grid false)];
      s.ready.getLsbD 535 = true ∧ s.grids.get? 1 = some (grid false) ∧ firstToPlace s (grid false) = true ∧
      (grid false).left ≠ 0 ∧ clusterFor s (grid false).rec' = some 0 ∧ argumentWords s (grid false).rec' = some [] ∧
      argumentsReady s (grid false).rec' = true) ∧
    (let f : Fill := ⟨5, 8 * 2 ^ 48, 1, 0x3000, 0x2000⟩; let s := { queued [] [] with fills := [f] };
      s.fills.find? (fun f => f.id == 5) = some f ∧ Memory.wf s.mem = true ∧ f.signal + 8 ≤ f.frame ∧
      portsReady s f.source 4096 = true ∧ portReady s f.signal = true) := by
  decide +kernel

/-- At reset every cluster has one partition, and the staged table is the active one. -/
theorem reset_part : ∀ c, c < 384 → entryPart (State.reset.stagedEntry c) = 0 := by decide +kernel

theorem reset_staged (c : Nat) (h : c < 384) : stagedStatus State.reset c = 0 := by
  have same : State.reset.activeEntry c = State.reset.stagedEntry c := rfl
  have clash : (upto c).any (fun d => entryRail (State.reset.stagedEntry d) == entryRail (State.reset.stagedEntry c) &&
      entryPart (State.reset.stagedEntry d) != entryPart (State.reset.stagedEntry c)) = false := by
    simp only [upto, List.any_eq_false, List.mem_range]
    intro d hd
    simp [reset_part d (by omega), reset_part c h]
  simp only [stagedStatus, same, clash, bne_self_eq_false, Bool.or_self, Bool.false_and, Bool.false_eq_true, if_false]

theorem test_witness_DeviceEvents :
    let tok : Token := ⟨0, 1, true, 0, 0, 3, .scalar 3, false⟩
    let rung := queued [(0, queue id)] []
    refreshing State.reset 0 0 = true ∧ newestToken { State.reset with links := [tok] } 0 1 true = some tok ∧
    ({ State.reset with cellar := [tok] }).cellar.find? (fun x => x.sender == 0 && x.receiver == 1 && x.reply == true) = some tok ∧
    128 * 7 < State.reset.poolsz ∧ Memory.wf State.reset.mem = true ∧
    queueOfBell State.reset (12 * 2 ^ 48 + 8 * 0) = none ∧ queueOfBell rung (12 * 2 ^ 48 + 8 * 0) = some (0, queue id) ∧
    (State.reset.ready.getLsbD 539 = false ∧ State.reset.dead = false ∧ readyAfter { State.reset with booted := true } 539 = true) ∧
    State.reset.pstat.getLsbD 8 = true ∧ (∀ c, c < 384 → stagedStatus State.reset c = 0) ∧
    (let s := { State.reset with staged := [(1, 0x100)] }; stagedStatus s 1 ≠ 0 ∧ ∀ d, d < 1 → stagedStatus s d = 0) ∧
    State.reset.booted = false ∧ isPooled 0x2000 = true ∧
    imageValid State.reset.minSvn State.reset.fwA = false := by
  and_intros <;> first | exact reset_staged | decide +kernel

/-- A device whose firmware runs from slot A, with a capsule and a view of it. -/
def device : State :=
  { world [] with running := some false, capsule := some aCapsule, views := [⟨3, 1, []⟩], sharedLines := [] }

theorem test_witness_DeviceCommands :
    let h : CmdHdr := ⟨true, 0⟩
    h.page0 = true ∧ (⟨false, 0⟩ : CmdHdr).page0 = false ∧ (world []).running = none ∧ device.running ≠ none ∧
    device.ready.getLsbD 538 = true ∧ device.ready.getLsbD 537 = true ∧ device.views.find? (fun v => v.id == 3) = some ⟨3, 1, []⟩ ∧
    imageValid device.minSvn device.fwB = false ∧ (heldCapsules device).find? (fun c => c.handle == 1) = some aCapsule ∧
    aCapsule ∈ heldCapsules device ∧ pooledRange device 0x40000 32 = true := by
  decide +kernel

/-- Its pages with a page of doorbells at 0x4000 and a queue record at 0x2000 whose program is one operation at 0x3000. -/
def recorded (op : Byte) : State :=
  { device with
    mem := [(0x2001, 0x30), (0x2021, 0x30), (0x2028, 1), (0x2031, 0x40), (0x3000, op)] ++ tables.tail ++
      [(0x10E20, 7), (0x10E21, 8), (0x10E26, 12)]
    clusters := [] }

/-- The bytes of that record. -/
def recordAt : List Byte :=
  leBytes 32 0x3000 ++ leBytes 8 0x3000 ++ leBytes 8 1 ++ leBytes 8 0x4000 ++ leBytes 72 0

theorem test_witness_ContextCommands_record : ∀ op ∈ [(0x1C : Byte), 0xFF],
    hubBytes (recorded op) 0 0x2000 128 = recordAt := by
  intro op h
  simp only [List.mem_cons, List.not_mem_nil, or_false] at h
  obtain rfl | rfl := h <;>
    rw [hubBytes_of_page (base := 0x2000) (leaf := 0x2007) (by decide +kernel) (by decide) (by decide) (by decide)] <;>
    decide +kernel

/-- What is on its way to page 2: a store of a strand. -/
def reaching : State := { recorded 0x1C with clusters := storing.clusters }

/-- That machine, and it with no table of context 0 and with its memory ports not ready. -/
def bared : State := { recorded 0x1C with mem := [], ctxs := [(0, stageContext)] }
def shut : State := { recorded 0x1C with ready := (recorded 0x1C).ready ^^^ (255#540 <<< 526) }

theorem test_witness_ContextCommands_ports :
    let s := recorded 0x1C
    let filling := { s with fills := [⟨5, 0x5000, 1, 0x3000, 0x2000⟩] }
    (∀ l ∈ [0, 0x5107, 0x500F, 0x5003, 0x500B], mapReady s 0 0x9000 l = true ∧ mapReady shut 0 0x9000 l = false) ∧
    mapReady filling 0 0x9000 0x5003 = false ∧ qregPorts s 0 0x2000 = true ∧ qregPorts shut 0 0x2000 = false ∧
    hubReady s 0 0x2000 128 = true ∧ (∀ n ∈ [64, 64 + 32 * 4, 64 + 48 * 4], areaPorts s 0x40000 n = true) := by
  and_intros <;> decide +kernel

theorem test_witness_ContextCommands_unmap :
    let s := recorded 0x1C
    let removing := fun (t : State) (r : List (Nat × Nat)) => { t with unmapping := some ⟨0, some 0x2000, [], r⟩ }
    (∀ t ∈ [s, reaching], unmapReady t 0 0x2000 = true ∧ unmapStarted t 0 (some 0x2000) = false) ∧ unmapReady shut 0 0x2000 = false ∧
    unmapWaits (unmapPage s 0 0x2000 0x2000 0x2007) = false ∧ unmapWaits (unmapPage reaching 0 0x2000 0x2000 0x2007) = true ∧
    (∀ t ∈ [(s, false), (reaching, true)], let u := removing t.1 [(0x2000, 4096)];
      unmapReady u 0 0x2000 = true ∧ unmapStarted u 0 (some 0x2000) = true ∧ unmapWaits u = t.2) := by
  and_intros <;> decide +kernel

theorem test_witness_ContextCommands_ctxset :
    let s := recorded 0x1C
    (∀ t ∈ [s, bared, reaching, device], unmapStarted t 0 none = false) ∧ ctxsetReady bared 0 = true ∧
    unmapWaits (unmapAll bared 0) = false ∧ tableExists s.poolsz 0x10000 64 = true := by
  and_intros <;> decide +kernel

/-- A store that a strand has left behind, with tables of one leaf of 2^30 bytes. -/
def giant : State :=
  { reaching with
    clusters := [(0, { Cluster.reset with orphans := [⟨1, 0, 0, aStore none 0x2000⟩] })]
    mem := [(0x10000, 1), (0x10001, 2), (0x10002, 1), (0x10200, 1), (0x10201, 4), (0x10202, 1), (0x10400, 1), (0x10401, 6),
      (0x10402, 1), (0x10600, 1), (0x10601, 8), (0x10602, 1), (0x10800, 0x97)] }

theorem test_witness_ContextCommands_ctxset2 :
    ctxsetReady giant 0 = true ∧ unmapWaits (unmapAll giant 0) = true ∧ unmapWaits (unmapAll { giant with clusters := [] } 0) = false ∧
    ctxsetReady { giant with ready := shut.ready } 0 = false ∧ Memory.wf giant.mem = true ∧ unmapStarted giant 0 none = false ∧
    tablesStay giant 0 stageDesc = false ∧ (∀ p ∈ giant.clusters, p.2.blocksOf 0 = []) := by
  and_intros <;> decide +kernel

theorem test_witness_ContextCommands :
    let s := recorded 0x1C
    let x := { stageContext with desc := { stageDesc with ptroot := 0x10000 } }
    let imaged := { s with ctxs := [(0, { x with images := [anImage] })] }
    let bare := bared
    let filling := { s with fills := [⟨5, 0x5000, 1, 0x3000, 0x2000⟩] }
    s.running ≠ none ∧ descOk stageDesc = true ∧ s.clusters = [] ∧ s.ctx? 0 = some x ∧ x.images = [] ∧ x.killed = false ∧
    (device.cluster 0).blocksOf 0 ≠ [] ∧ (imaged.ctx? 0).any (fun x => !x.images.isEmpty) = true ∧
    tablesStay s 0 stageDesc = false ∧ tablesStay s 0 { stageDesc with ptroot := 0x10000 } = true ∧ tablesStay bare 0 x.desc = false ∧
    (bare.ctx? 0).isSome = true ∧ descOk x.desc = true ∧ bare.clusters = [] ∧ Memory.wf bare.mem = true ∧ tablesStay reaching 0 stageDesc = false ∧
    walk s 0 0x9000 = none ∧ walk s 0 0x2000 = some (0x2000, 0x2007) ∧ framesInUse s 0x2000 4096 = false ∧
    walk reaching 0 0x2000 = some (0x2000, 0x2007) ∧ framesInUse reaching 0x2000 4096 = true ∧
    pathTo s.mem s.poolsz 0x2000 0 walkLevels 0x10000 = .found 0x10E00 12 6 [] ∧
    fillPending s 0x5003 = false ∧ fillPending filling 0x5003 = true ∧ mapForm s.poolsz 0x9000 0 = false ∧
    (∀ l ∈ [0x5107, 0x5003, 0x500F, 0x500B], mapForm s.poolsz 0x9000 l = true) ∧ mapKind 0x5107 = false ∧
    mapKind 0x500F = true ∧ mapWx 0x500F = false ∧ mapKind 0x5003 = true ∧ mapWx 0x5003 = true ∧ pteX 0x5003 = false ∧
    mapKind 0x500B = true ∧ mapWx 0x500B = true ∧ pteX 0x500B = true ∧ s.ready.getLsbD 536 = true ∧
    (scanPage (writeNat s.mem 0x5000 1 0x6F) 0x9000 0x500B).isSome = true ∧
    pathTo s.mem s.poolsz 0x9000 0 walkLevels 0x10000 = .found 0x10E00 12 6 [] ∧
    runHolds s.mem s.poolsz 0x10E00 0x9000 12 6 0 [] ≠ none ∧
    (writeLeaf (wakeAll s) 0 x 0x9000 0x5003).toBool = true ∧ (writeLeaf (wakeAll s) 0 x (2 ^ 40) 0x5003).toBool = false ∧
    rangeOk s 0 .load 0x2000 128 = true ∧ recordDoor s 0 recordAt = some (bellAddress 0) ∧
    hubNat s 0 0x3000 8 = 0x1C ∧ programReject (recordWindows recordAt) [0x1C] = none ∧
    (let t := recorded 0xFF; recordDoor t 0 recordAt = some (bellAddress 0) ∧
      hubNat t 0 0x3000 8 = 0xFF ∧ programReject (recordWindows recordAt) [0xFF] = some (2, 0)) ∧
    (s.queues = [] ∧ { s with queues := [(4, unmapped)] }.queues.find? (fun p => p.2.ctx == 0 && p.2.va == 0) = some (4, unmapped)) ∧
    fillForm s.poolsz (8 * 2 ^ 48) 1 0x3000 0x2000 = true ∧ (∀ d, d < 4 → s.ready.getLsbD (512 + d) = true) ∧ s.mapCounts = [] ∧
    pooledRange s 0x40000 (64 + 48 * 4) = true ∧ 4 = 2 ^ (4 : Nat).log2 ∧ pooledRange s 0x40000 (64 + 32 * 4) = true ∧
    Memory.wf s.mem = true := by
  and_intros <;> decide +kernel

theorem test_witness_StopsBeforeEffect :
    let marked := fun (l : Bool) => world' [] (fun s => { s with regs := { s.regs with empty := 2, lost := if l then 2 else 0 } }) id id
    let other := world' [] id id fun cl => { cl with handler := some 5 }
    let stepping := handled (world' [] (fun s => { s with regs := { s.regs with dbg := 1 } }) id id)
    (∀ l ∈ [false, true], me? (marked l) = some (me (marked l)) ∧ (me (marked l)).st.regs.lost.getLsbD 1 = l ∧
      (me (marked l)).st.regs.empty.getLsbD 1 = true) ∧
    me? other = some (me other) ∧ (other.cluster 0).handler = some 5 ∧ 5 ≠ (me other).k ∧
    gate other (me other) (setUses qo) = none ∧ foldHeld (other.cluster 0) (me other).st.block = false ∧ pairHeld other 0 (me other).k = false ∧
    (other.cluster 0).power.halved < 2 ∧ passes stepping {} = true ∧ (me stepping).st.regs.dbg.getLsbD 0 = true ∧
    stepping.entryFree 0 0 = true ∧ (∀ p ∈ (stepping.cluster 0).strands, p.2.trap = none) ∧
    (me stepping).st.regs.tvec ≠ 0 ∧ targetOk stepping 0 0 ((me stepping).st.regs.tvec.truncate 57) = true ∧
    me? (handling []) = some (me (handling [])) ∧ (me (handling [])).inH = true := by
  decide +kernel

/-- `add s3, s1, s2`, and the same `vadd` of v3, v1, v2 for the second slot of a pair. -/
def addWord : Nat := 3 * 2 ^ 16 + 1 * 2 ^ 22 + 2 * 2 ^ 28
def vaddWord : Nat := 0x80 + 3 * 2 ^ 16 + 1 * 2 ^ 25 + 2 * 2 ^ 34

/-- `add` is the next instruction of a machine that is ready. -/
def staged : State := { State.reset with ready := BitVec.allOnes 540 }.withFetchWord 96 addWord

/-- The code line of that pair: PAIR of slot 0, and the parities (03 R45). -/
def pairLine : List Byte :=
  let p := ones 96 addWord % 2
  let q := ones 96 vaddWord % 2
  leBytes 60 (addWord + 2 ^ 96 * vaddWord) ++ leBytes 4 (2 ^ 5 + p * 2 ^ 9 + q * 2 ^ 10 + (1 + p + q) % 2 * 2 ^ 14)

def paired : State := { staged with mem := writeBytes [] 0x1000 pairLine }

/-- The strand's instruction at its PC is this one, and nothing stands before it. -/
def fetched (s : State) (m : Me) (line : List Byte) (i : Instr) : Bool :=
  readBytes s.mem 0x1000 64 == line && (fetchWait s m).isNone && !m.st.entering &&
    (match fetchLine s 0 m.ctx m.st.pc with | .line pa l => pa == 0x1000 && l == line | _ => false) &&
    parityOk line (pcSlot m.st.pc) && (comparator s m (slotWordOf line (pcSlot m.st.pc))).isNone &&
    (decodeWord (slotWordOf line (pcSlot m.st.pc))).toOption == some i

theorem test_witness_StepRunsDecoded_strand :
    ∀ p ∈ [(staged, lineWith addWord, false), (paired, pairLine, true)], let s0 := { p.1 with agenda := [] };
      p.1.agenda = [.issue 0 0] ∧ (meAt s0 0 0).any (fun m => mayIssue s0 m && (boundaryTrap s0 m).isNone &&
        mayGo s0 0 0 (prospects s0 0) && !m.st.yielded && m.pairFirst s0 == p.2.2 && fetched s0 m p.2.1 (.add so)) = true := by
  decide +kernel

theorem test_witness_StepRunsDecoded_pair :
    let s0 := { paired with agenda := [] }
    let s1 := { after (exec (.add so) { s0 with cur := some (0, 0) }) with cur := none, curQ := none }
    let v := Instr.vadd { vo with vc := 0 }
    goesOn (exec (.add so) { s0 with cur := some (0, 0) }) = true ∧
    (meAt s0 0 0).any (fun m => (pairSecond s0 s1 m).any fun x => let s2 := x.1; let n := x.2; fetched s2 n pairLine v &&
      goesOn (exec v { s2 with cur := some (0, 0) }) &&
      (prospectIn s2 { after (exec v { s2 with cur := some (0, 0) }) with cur := none, curQ := none } 0 0 n.st == .issues)) = true := by
  decide +kernel

theorem test_witness_StepRunsDecoded_queue :
    let s := State.reset.withFetchWord 64 0x1D
    s.agenda = [.engine 0] ∧ s.queues.get? 0 = some (stageQueue 0x1D) ∧
    ((stageQueue 0x1D).packet.any fun p => !p.parked && (stageQueue 0x1D).ops[p.index]? == some 0x1D) = true ∧
    (decodeOp 0x1D).toOption.isSome = true ∧ { s with agenda := [.event .faultNotice] }.agenda = [.event .faultNotice] := by
  decide +kernel

theorem test_witness_MemoryFormKept : MemInv staged ∧ goesOn (step staged) = true := ⟨by unfold MemInv; decide +kernel, by decide +kernel⟩

theorem test_witness_HubStateKept : encodeWord (.add so) ≠ none ∧ goesOn (exec (.add so) (world [])) = true := by decide +kernel

def qeo : QeOps := { d := 1, a := 2, b := 3, w := 0, imm := 0 }

theorem test_witness_DecodeEncode : (Instr.add so).wf = true ∧ (encodeWord (.add so)).isSome = true ∧
    (∃ w, w < 2 ^ 96 ∧ (decodeWord w).toOption = some (.add so)) ∧ (Instr.qeAdd qeo).wf = true ∧
    (encodeOp (.qeAdd qeo)).isSome = true ∧ (∃ w, w < 2 ^ 64 ∧ (decodeOp w).toOption = some (.qeAdd qeo)) :=
  ⟨by decide +kernel, by decide +kernel, ⟨addWord, by decide, by decide +kernel⟩, by decide +kernel,
    by decide +kernel, ⟨0x06 + 1 * 2 ^ 8 + 2 * 2 ^ 11 + 3 * 2 ^ 14, by decide, by decide +kernel⟩⟩

/-! ### Words written out from the tables of 03 R46-R56 and 05 R70-R73 -/

/-- The word decodes to the instruction, and is its encoding. -/
def reads (w : Nat) (i : Instr) : Bool := decide (decodeTableWord 96 w = some i) && decide (encodeWord i = some w)

theorem test_decode_strand :
    reads 0 (.add { so with sd := 0, sa := 0, sb := 0 }) = true ∧
    -- shr.w.wfa s7, s8, 3
    reads (0x0E + 1 * 2 ^ 9 + 7 * 2 ^ 16 + 8 * 2 ^ 22 + 1 * 2 ^ 34 + 1 * 2 ^ 35 + 3 * 2 ^ 64)
      (.shr { hdr := { h0 with wfa := true }, sd := 7, sa := 8, sb := 0, imm := true, w32 := true, imm32 := 3 }) = true ∧
    -- li.hi s9, 0x80000000
    reads (0x1E + 1 * 2 ^ 12 + 9 * 2 ^ 16 + 1 * 2 ^ 34 + 0x80000000 * 2 ^ 64)
      (.liHi { hdr := h0, sd := 9, sa := 0, sb := 0, imm := true, w32 := false, imm32 := 0x80000000 }) = true ∧
    -- fcmp.le s3, s1, s2
    reads (0x28 + 2 * 2 ^ 12 + 3 * 2 ^ 16 + 1 * 2 ^ 22 + 2 * 2 ^ 28) (.fcmp .le so) = true ∧
    -- sysr s3, 0x0B
    reads (0x2A + 3 * 2 ^ 16 + 0x0B * 2 ^ 64) (.sysr { so with sa := 0, sb := 0, imm32 := 0x0B }) = true ∧
    -- trap 5, a stop site
    reads (0x4C + 1 * 2 ^ 8 + 5 * 2 ^ 64) (.trapI { so with hdr := { h0 with stop := true }, sd := 0, sa := 0, sb := 0, imm32 := 5 }) = true := by
  decide +kernel

/-- R50's own example: a backward branch with LOFF −1 to slot 2 has bits [95:64] at 0xFFFFFFFA. -/
theorem test_decode_branch :
    reads (0x40 + 1 * 2 ^ 8 + 5 * 2 ^ 16 + 1 * 2 ^ 20 + 2 * 2 ^ 26 + 0xFFFFFFFA * 2 ^ 64)
      (.branch .geu { hdr := { h0 with stop := true }, sa := 1, sb := 2, sd := 0, tslot := 2, loff := -1 }) = true ∧
    -- bcnt.ge s2 to slot 0 of the next line
    reads (0x41 + 3 * 2 ^ 16 + 2 * 2 ^ 20 + 1 * 2 ^ 67) (.bcnt .ge { hdr := h0, sa := 2, sb := 0, sd := 0, tslot := 0, loff := 1 }) = true := by
  decide +kernel

theorem test_decode_population :
    -- srchv.bitset.rep v5[9:4], v6
    reads (0x62 + 5 * 2 ^ 16 + 4 * 2 ^ 25 + 9 * 2 ^ 30 + 0xA * 2 ^ 35 + 3 * 2 ^ 39 + 2 * 2 ^ 54 + 6 * 2 ^ 64)
      (.srchv { qo with va := 5, lo := 4, hi := 9, cmp := .bitset, sop := .rep, sdc := 0, sdf := 0, opd := .thread, sc := 0, imm32 := 6 }) = true ∧
    -- vminu.ui8x4.all v3, v1, s2
    reads (0x8E + 1 * 2 ^ 12 + 3 * 2 ^ 16 + 1 * 2 ^ 25 + 2 * 2 ^ 34 + 5 * 2 ^ 52 + 1 * 2 ^ 56 + 1 * 2 ^ 63)
      (.vminu { vo with vc := 0, ty := .u8x4, bsrc := .scalar, all := true }) = true ∧
    -- vffma.rup.ftz v3, v1, v2, v4
    reads (0xA3 + 3 * 2 ^ 16 + 1 * 2 ^ 25 + 2 * 2 ^ 34 + 4 * 2 ^ 43 + 8 * 2 ^ 52 + 3 * 2 ^ 59 + 1 * 2 ^ 62)
      (.vffma { vo with ty := .f32, rnd := .rup, ftz := true }) = true ∧
    -- vfcmp.ord k3, v1, v2
    reads (0xAE + 7 * 2 ^ 12 + 3 * 2 ^ 16 + 1 * 2 ^ 25 + 2 * 2 ^ 34 + 8 * 2 ^ 52) (.vfcmp .ord { vo with vc := 0, ty := .f32 }) = true := by
  decide +kernel

/-- The first word is R131's own example: `atom.cas.b32.pkg v2, [s1 + 16], v3`. -/
theorem test_decode_memory :
    reads (0x0014_2207_8C02_00C8 + 0x0010_0003 * 2 ^ 64)
      (.atom { mo with vd := 2, vx := 454, sb := 1, aop := .cas, sx := 0, off32 := 0x00100003 }) = true ∧
    -- fence r, w
    reads (0xCB + 0x0201 * 2 ^ 64) (.fence { mo with vd := 0, vx := 0, sb := 0, wid := .b8, scope := .strand, sx := 0, off32 := 0x0201 }) = true ∧
    -- st.b16.rel.die v3, [s2 + v1*2 - 8]
    reads (0xC1 + 3 * 2 ^ 16 + 1 * 2 ^ 25 + 2 * 2 ^ 34 + 1 * 2 ^ 40 + 3 * 2 ^ 43 + 2 * 2 ^ 46 + 0xFFFFFFF8 * 2 ^ 64)
      (.st { mo with wid := .b16, scope := .die, ord := .rel, sx := 0, off32 := 0xFFFFFFF8 }) = true ∧
    -- baraw [s2 + 24]
    reads (0xCE + 454 * 2 ^ 25 + 2 * 2 ^ 34 + 24 * 2 ^ 64) (.baraw { mo with vd := 0, vx := 454, wid := .b8, scope := .strand, sx := 0, off32 := 24 }) = true := by
  decide +kernel

theorem test_decode_engines :
    -- mmag.bf16.sp a1, v8, s3 with K = 16, N = 64 and the scales at s4
    reads (0xE0 + 4 * 2 ^ 12 + 1 * 2 ^ 16 + 8 * 2 ^ 21 + 3 * 2 ^ 30 + 2 * 2 ^ 42 + 3 * 2 ^ 44 + 1 * 2 ^ 47)
      (.mmag false .bf16 { to' with shpn := .n64, shpk := 3, sx := 0 }) = true ∧
    -- tld.n32 a1, [s3 - 16], stride s4
    reads (0xE2 + 1 * 2 ^ 16 + 3 * 2 ^ 30 + 1 * 2 ^ 42 + 4 * 2 ^ 54 + 0xFFFFFFF0 * 2 ^ 64)
      (.tld { to' with va := 0, shpn := .n32, off32 := 0xFFFFFFF0 }) = true ∧
    -- fsolv.back a1, v9 with header 7
    reads (0xED + 1 * 2 ^ 16 + 9 * 2 ^ 21 + 1 * 2 ^ 37 + 7 * 2 ^ 38) (.fsolv { fo with sn := 0, dir := true, th := 7 }) = true ∧
    -- jpoll s5, s4
    reads (0xF1 + 4 * 2 ^ 16 + 5 * 2 ^ 25) (.jpoll eo) = true := by
  decide +kernel

/-- Of the bytecode of 21 R278: `loop` over 3 operations 5 times, and `bltu q1, q2` by 7. -/
theorem test_decode_bytecode :
    decodeTableWord 64 (0x12 + 1 * 2 ^ 11 + 2 * 2 ^ 14 + 7 * 2 ^ 32) = some (.qeBltu { d := 0, a := 1, b := 2, w := 0, imm := 7 }) ∧
    decodeTableWord 64 0x1C = some (.qeAdvance { d := 0, a := 0, b := 0, w := 0, imm := 0 }) := by
  decide +kernel

/-! ### Words and operands that the scanner's rules refuse (03 R64) -/

theorem test_refused :
    -- Y1: no such opcode; Y2: a SUB value that `add` does not define
    decodeTableWord 96 0x6F = none ∧ decodeTableWord 96 (1 * 2 ^ 12) = none ∧
    -- Y3: a field the instruction does not use; the immediate bit with SB named
    (Instr.nop so).wf = false ∧ (Instr.add { so with imm := true }).wf = false ∧
    -- Y4: a type that `vfadd` does not take; a comparison that `srchk` does not take; a reserved TY
    (Instr.vfadd { vo with vc := 0 }).wf = false ∧
    (Instr.srchk { qo with va := 1, lo := 0, hi := 0, cmp := .ltu, sc := 0, imm32 := 1 }).wf = false ∧
    decodeTableWord 96 (0x80 + 7 * 2 ^ 52) = none ∧
    -- Y5: a reserved name, a special name as destination, AT[4]
    (Instr.vadd { vo with va := 320, vc := 0 }).wf = false ∧ (Instr.vadd { vo with vd := 448, vc := 0 }).wf = false ∧
    decodeTableWord 96 (0xE1 + 16 * 2 ^ 16) = none ∧
    -- Y6: LO above HI
    (Instr.srch { qo with lo := 8, sc := 0 }).wf = false ∧
    -- Y11: a WF bit without its source
    (Instr.nop { so with hdr := { h0 with wfa := true }, sd := 0, sa := 0, sb := 0 }).wf = false ∧
    -- bits that no layout uses
    decodeTableWord 96 (2 ^ 40) = none ∧ decodeTableWord 64 0x1E = none := by
  decide +kernel

/-! ### The manual's own worked words -/

/-- 06 R82's and R88's examples, 05's two, 07 R100's, 08 R116's, 10 R150's, 11 R178's, 12's `quota` and 17's search. -/
theorem test_decode_examples :
    -- add.w s5, s6, -3
    reads (0x0000000C01850000 + 0xFFFFFFFD * 2 ^ 64)
      (.add { hdr := h0, sd := 5, sa := 6, sb := 0, imm := true, w32 := true, imm32 := 0xFFFFFFFD }) = true ∧
    -- loop s7, to slot 1 of its own line
    reads (0x0000000700000146 + 1 * 2 ^ 64)
      (.loopI { hdr := { h0 with stop := true }, sa := 0, sb := 0, sd := 7, tslot := 1, loff := 0 }) = true ∧
    -- srch.ltu.push v2[15:0], 100
    reads (0x00000013C0020060 + 100 * 2 ^ 64)
      (.srch { qo with va := 2, lo := 0, hi := 15, cmp := .ltu, sdc := 0, sdf := 0, sc := 0, imm32 := 100 }) = true ∧
    -- srch.bitset.push v3[31:0], s6, a stop site
    reads 0x06400057C0030160
      (.srch { qo with hdr := { h0 with stop := true }, va := 3, lo := 0, hi := 31, cmp := .bitset, sdc := 0, sdf := 0,
                       opd := .scalar, sc := 6 }) = true ∧
    -- popn 2
    reads (0x65 + 2 * 2 ^ 64) (.popn { qo with va := 0, lo := 0, hi := 0, sdc := 0, sdf := 0, sc := 0, imm32 := 2 }) = true ∧
    -- vadds.i8x4 v12, v12, s5
    reads 0x01400014180C0085 (.vadds { vo with vd := 12, va := 12, vb := 5, vc := 0, ty := .i8x4, bsrc := .scalar }) = true ∧
    -- mma.k64.n64.f0.f1 a2, v16, s8
    reads 0x00003882020200E0
      (.mma false .slot { to' with at5 := 2, va := 16, sb := 8, fsb := 1, shpn := .n64, shpk := 3, sx := 0 }) = true ∧
    -- fdwn a1, v4
    reads 0x00000010008100EC (.fdwn { fo with vx := 4, sn := 0, trl := true }) = true ∧
    -- job.copy s12, s3
    reads 0x00000000180300EF (.job { eo with sc := 3, sd := 12 }) = true ∧
    -- quota: a granule from role 0 to role 1
    reads (0x0000000400000031 + 0x110 * 2 ^ 64)
      (.quota { hdr := h0, sd := 0, sa := 0, sb := 0, imm := true, w32 := false, imm32 := 0x110 }) = true := by
  decide +kernel

/-! ### Single instructions -/

/-- A scalar of the current strand after an instruction. -/
def scalarAfter (i : Instr) (s : State) (r : SReg) : Option Word :=
  match exec i s with
  | .next t => (t.strand? 0 0).map fun st => st.regs.get r
  | _ => none

/-- 06: with s6 = 2, `add.w s5, s6, -3` gives s5 = 0xFFFF_FFFF_FFFF_FFFF. -/
theorem test_add_w : scalarAfter (.add { hdr := h0, sd := 5, sa := 6, sb := 0, imm := true, w32 := true, imm32 := 0xFFFFFFFD })
    (world [(6, 2)]) 5 = some (BitVec.allOnes 64) := by decide +kernel

/-- s0 reads 0 after a write (03 R57). -/
theorem test_s0 : scalarAfter (.add { so with sd := 0 }) (world [(1, 3), (2, 4)]) 0 = some 0 := by decide +kernel

/-- −2^63 · −2^63 = 2^126: its high word is 2^62 (06 R84). -/
theorem test_mulh : scalarAfter (.mulh so) (world [(1, 2 ^ 63), (2, 2 ^ 63)]) 3 = some (BitVec.ofNat 64 (2 ^ 62)) := by decide +kernel

/-- Division truncates: −7 / 2 = −3, and the remainder has the dividend's sign (02 R22). -/
theorem test_div : scalarAfter (.div so) (world [(1, 2 ^ 64 - 7), (2, 2)]) 3 = some (-3) ∧
    scalarAfter (.rem so) (world [(1, 2 ^ 64 - 7), (2, 2)]) 3 = some (-1) := by decide +kernel

/-- 1.0 / 3.0 rounded to nearest is 0x3EAAAAAB; the square root of 2.0 is 0x3FB504F3 (02 R23). -/
theorem test_fdiv_fsqrt : scalarAfter (.fdiv so) (world [(1, 0x3F800000), (2, 0x40400000)]) 3 = some 0x3EAAAAAB ∧
    scalarAfter (.fsqrt { so with sb := 0 }) (world [(1, 0x40000000)]) 3 = some 0x3FB504F3 := by decide +kernel

/-- Infinity times 0 plus a quiet NaN is a NaN that comes from a NaN: no NV (02 R26). -/
theorem test_fma_quiet : (f32.fma .rne false (f32Of 0x7F800000) (f32Of 0) (f32Of 0x7FC00000)).flags = 0 ∧
    (f32.fma .rne false (f32Of 0x7F800000) (f32Of 0) (f32Of 0x3F800000)).flags ≠ 0 := by decide +kernel

/-- `mma.fp16` reads no SX: neither it nor WF.C may be set (10 R153, 03 R48). -/
theorem test_mma_fields : (Instr.mma false .fp16 { to' with sx := 0 }).wf = true ∧
    (Instr.mma false .fp16 { to' with sx := 4 }).wf = false ∧
    (Instr.mma false .fp16 { to' with sx := 0, hdr := { h0 with wfc := true } }).wf = false := by decide +kernel

/-- `srch.ltu.push v448, 2` in a block of four threads: threads 0 and 1 respond; RSC is 2 and RFR 0, and s5
is to receive the count (01 R11, R12, 03 R58). -/
theorem test_search :
    (match exec (.srch { qo with va := 448, hi := 31, cmp := .ltu, sc := 0, imm32 := 2 }) (world []) with
      | .next t => (t.strand? 0 0).map fun st => (st.stack.levels.head?, st.regs.rsc, st.regs.rfr, (st.late.get? 5).map Prod.snd)
      | _ => none) = some (some 3, 2, 0, some (some 2)) := by decide +kernel

/-- `trap 5` saves its PC and number and goes to the handler (06 R96, 15 R243). -/
theorem test_trap :
    (match exec (.trapI { so with sd := 0, sa := 0, sb := 0, imm32 := 5 }) (handled (world [])) with
      | .next t => (t.strand? 0 0).map fun st => (st.regs.tcause, st.regs.tinfo, st.regs.trpc, (t.cluster 0).handler)
      | _ => none) = some (0x0C, 5, 0x1000, some 0) := by decide +kernel

/-- The last of two arrivals flips PHASE and clears ARR (09 R141, R142). -/
theorem test_barrier :
    (match exec (.bara { mo with vx := 454, wid := .b8, scope := .strand, sx := 0 }) (world' [(2, 24)] id (barrier 1 false) id) with
      | .next t => (t.block? 0 0).map fun b => readNat b.scratch 24 8
      | _ => none) = some (barWord 2 0 true 0) := by decide +kernel

/-- Each thread's store of its own index is a separate access (09 R132, R135, 14 R217, 03 R58). -/
theorem test_sts :
    (match exec (.sts { mo with vd := 448, vx := 448, sx := 0 }) (world [(2, 64)]) with
      | .next t => (t.strand? 0 0).map fun st => st.out.map fun a => (a.space, a.pa, a.act)
      | _ => none) =
      some ([0, 1, 2, 3].map fun i => (some 0, 64 + 4 * i, Act.store [some (BitVec.ofNat 8 i), some 0, some 0, some 0])) := by
  decide +kernel

/-- The older `bmv` of a strand is performed before a later one that writes the same y (11 R187). -/
theorem test_bmv_order :
    let r := running false false
    let later := { aBank false false with id := 6 }
    bankBehind (r.cluster 0) later = true ∧ bankBehind (r.cluster 0) (aBank false false) = false := by
  decide +kernel

/-- SHAKE256 of no bytes begins 46 B9 DD 2B (FIPS 202, which 26 R343 and 29 R372 name). -/
theorem test_shake256 : (shakeBytes []).take 4 = [0x46, 0xB9, 0xDD, 0x2B] := by decide +kernel

/-- A step runs the word placed by `withFetchWord`, and its strand stands at slot 1 (03 R45). -/
theorem test_step :
    (match step staged with
      | .next t => (t.strand? 0 0).map Strand.pc
      | _ => none) = some 0x1001 := by decide +kernel

end Sys2Proof.Tests
end

section
/-!
PROOFS. The counts of a set (01 R12, 07 R110), and the late scalars they are copied to (01 R18).
-/
namespace Sys2Proof.Machine

/-! ### Members of a set -/

theorem mem_members {n t : Nat} {x : TSet} : t ∈ members n x ↔ t < n ∧ x.getLsbD t = true := by
  simp [members, upto, List.mem_filter]

theorem members_eq_nil {n : Nat} {x : TSet} : members n x = [] ↔ ∀ t, t < n → x.getLsbD t = false := by
  simp [List.eq_nil_iff_forall_not_mem, mem_members]

theorem length_members_le (n : Nat) (x : TSet) : (members n x).length ≤ n :=
  (List.length_filter_le _ _).trans (by simp [upto])

/-- The members rise. -/
theorem members_pairwise (n : Nat) (x : TSet) : (members n x).Pairwise (· < ·) :=
  List.pairwise_lt_range.filter _

/-- No member lies below the first. -/
theorem firstOf_le {n t : Nat} {x : TSet} (h : t ∈ members n x) : firstOf n x ≤ t := by
  have hp := members_pairwise n x
  unfold firstOf
  cases hl : members n x with
  | nil => simp [hl] at h
  | cons y l =>
    rw [hl] at h hp
    rcases List.mem_cons.mp h with rfl | h
    · exact Nat.le_refl _
    · exact Nat.le_of_lt (List.rel_of_pairwise_cons hp h)

theorem firstOf_mem {n t : Nat} {x : TSet} (h : t ∈ members n x) : firstOf n x ∈ members n x := by
  unfold firstOf
  cases hl : members n x with
  | nil => simp [hl] at h
  | cons y l => simp

theorem firstOf_of_empty {n : Nat} {x : TSet} (h : members n x = []) : firstOf n x = 0xFFFF := by
  simp [firstOf, h]

/-- RFR holds the first of a set of at most 4,096 threads. -/
theorem firstOf_lt {n : Nat} {x : TSet} (hn : n ≤ 4096) : firstOf n x < 65536 := by
  by_cases h : members n x = []
  · simp [firstOf_of_empty h]
  · obtain ⟨t, ht⟩ := List.exists_mem_of_ne_nil _ h
    have := (mem_members.mp (firstOf_mem ht)).1
    omega

/-! ### Late scalars -/

/-- A strand that waits for the late result `p` of a scalar; nothing is awaited for s0. -/
def Strand.awaits (st : Strand) (n : SReg) (p : Nat × Option Word) : Strand :=
  if n = 0 then st
  else { st with
    regs := { st.regs with empty := st.regs.empty ||| BitVec.twoPow 64 n.toNat
                           lost := st.regs.lost &&& ~~~(BitVec.twoPow 64 n.toNat) }
    late := st.late.set n.toNat p }

section
variable (st : Strand) (n : SReg) (p : Nat × Option Word)

@[simp] theorem Strand.rsc_awaits : (st.awaits n p).regs.rsc = st.regs.rsc := by unfold awaits; split <;> rfl
@[simp] theorem Strand.rfr_awaits : (st.awaits n p).regs.rfr = st.regs.rfr := by unfold awaits; split <;> rfl
@[simp] theorem Strand.z_awaits : (st.awaits n p).regs.z = st.regs.z := by unfold awaits; split <;> rfl

theorem Strand.isEmpty_awaits {j : SReg} (hj : j ≠ 0) (h : st.regs.isEmpty j = true ∨ j = n) :
    (st.awaits n p).regs.isEmpty j = true := by
  have hj' : (j != 0) = true := bne_iff_ne.mpr hj
  unfold awaits
  rcases h with h | rfl
  · split
    · exact h
    · simp only [Regs.isEmpty, hj', Bool.true_and] at h ⊢
      simp [h]
  · have hlt : j.toNat < 64 := j.isLt
    rw [if_neg hj]
    simp only [Regs.isEmpty, hj', Bool.true_and]
    simp [hlt]

theorem Strand.late_awaits_self (hn : n ≠ 0) : (st.awaits n p).late.get? n.toNat = some p := by
  unfold awaits
  rw [if_neg hn]
  exact SMap.get?_set_self ..

theorem Strand.late_awaits_ne {j : SReg} (h : j ≠ n) : (st.awaits n p).late.get? j.toNat = st.late.get? j.toNat := by
  have hne : j.toNat ≠ n.toNat := fun e => h (BitVec.eq_of_toNat_eq e)
  unfold awaits
  split
  · rfl
  · exact SMap.get?_set_ne _ _ hne
end

theorem lateScalar_strand? {s : State} {m : Me} {st : Strand} (n : SReg) (v : Option Word)
    (hst : s.strand? m.c m.k = some st) :
    (lateScalar s m n v).strand? m.c m.k = some (st.awaits n ((s.cluster m.c).nextId, v)) := by
  unfold lateScalar Strand.awaits
  split
  · exact hst
  · rw [State.strand?_modStrand _ _ (st := st)]
    simpa [State.strand?] using hst

/-- The counts of a set with their late copies leave a strand that awaits the copies. -/
theorem count_strand? {s : State} {m : Me} (o : QOps) (x : TSet) (hm : me? s = some m) :
    ∃ i j, (m.count s o x).strand? m.c m.k = some
      ((Strand.awaits { m.st with regs := m.st.regs.setCounts m.blk.n x } o.sdc
        (i, some (BitVec.ofNat 64 (countSet m.blk.n x)))).awaits o.sdf (j, some (BitVec.ofNat 64 (firstOf m.blk.n x)))) := by
  have h : (m.setRegs s fun r => r.setCounts m.blk.n x).strand? m.c m.k =
      some { m.st with regs := m.st.regs.setCounts m.blk.n x } := by
    rw [Me.setRegs_of hm]
    exact State.strand?_setStrand ..
  exact ⟨_, _, lateScalar_strand? _ _ (lateScalar_strand? _ _ h)⟩

/-- A number that fits in 16 bits is the same in a scalar register. -/
theorem ofNat_64_eq_zeroExtend {k : Nat} (h : k < 65536) : BitVec.ofNat 64 k = (BitVec.ofNat 16 k).zeroExtend 64 :=
  BitVec.eq_of_toNat_eq (by simp; omega)

/-- Settles O18: the counts are those of the ascending list of members, and each copy that is asked for is awaited. -/
theorem setCounts : Obligations.SetCounts := by
  unfold Obligations.SetCounts
  intro s m o x hm hn
  obtain ⟨i, j, hst⟩ := count_strand? o x hm
  have hlt : firstOf m.blk.n x < 65536 := firstOf_lt hn
  have hlen : countSet m.blk.n x ≤ m.blk.n := length_members_le m.blk.n x
  have hrfr : (BitVec.ofNat 16 (firstOf m.blk.n x)).toNat = firstOf m.blk.n x := Nat.mod_eq_of_lt hlt
  refine ⟨_, hst, ?_, ?_, ?_, ?_, ?_, ?_, ?_, ?_⟩
  · rw [Strand.rsc_awaits, Strand.rsc_awaits]
    exact Nat.mod_eq_of_lt (show countSet m.blk.n x < 65536 by omega)
  · simp [Regs.setCounts, countSet, ← members_eq_nil]
  · intro t ht hx
    have hmem := mem_members.mpr ⟨ht, hx⟩
    simpa [Regs.setCounts, hrfr] using ⟨firstOf_le hmem, (mem_members.mp (firstOf_mem hmem)).2⟩
  · intro h
    simp [Regs.setCounts, firstOf_of_empty (members_eq_nil.mpr h)]
  · exact fun h => Strand.isEmpty_awaits _ _ _ h (.inl (Strand.isEmpty_awaits _ _ _ h (.inr rfl)))
  · exact fun h => Strand.isEmpty_awaits _ _ _ h (.inr rfl)
  · intro h
    simp [Strand.late_awaits_self _ _ _ h, Regs.setCounts, ofNat_64_eq_zeroExtend hlt]
  · intro h hne
    rw [Strand.late_awaits_ne _ _ _ hne, Strand.late_awaits_self _ _ _ h]
    simp [Regs.setCounts, ofNat_64_eq_zeroExtend (show countSet m.blk.n x < 65536 by omega)]

end Sys2Proof.Machine
end

section
/-!
PROOFS. Searches (07 R101, R102): the thirteen predicates, and what a search does to the stack.
-/
namespace Sys2Proof.Machine

/-! ### The compare -/

theorem signedOf_toNat {w : Nat} (x : BitVec w) : signedOf w x.toNat = x.toInt := by
  have hbit : bitOf x.toNat (w - 1) = x.msb := by
    rw [BitVec.msb_eq_getLsbD_last, BitVec.getLsbD, Nat.testBit_eq_decide_div_mod_eq]
    rfl
  unfold signedOf
  rw [hbit, BitVec.toInt_eq_msb_cond]
  push_cast
  rfl

/-- The predicates on numbers are the comparisons of words. -/
theorem cmpHolds_toNat {w : Nat} (x y : BitVec w) :
    cmpHolds .eq w x.toNat y.toNat = decide (x = y) ∧ cmpHolds .ne w x.toNat y.toNat = decide (x ≠ y) ∧
    cmpHolds .ltu w x.toNat y.toNat = x.ult y ∧ cmpHolds .leu w x.toNat y.toNat = x.ule y ∧
    cmpHolds .lts w x.toNat y.toNat = x.slt y ∧ cmpHolds .les w x.toNat y.toNat = x.sle y ∧
    cmpHolds .gts w x.toNat y.toNat = y.slt x ∧ cmpHolds .ges w x.toNat y.toNat = y.sle x ∧
    cmpHolds .bitset w x.toNat y.toNat = decide (x &&& y = y) ∧
    cmpHolds .bitclr w x.toNat y.toNat = decide (x &&& y = 0) ∧
    cmpHolds .mask w x.toNat y.toNat = decide (x &&& y ≠ 0) := by
  have heq : ∀ a b : BitVec w, (a.toNat == b.toNat) = decide (a = b) := fun a b => by
    rw [Bool.eq_iff_iff]
    simp [BitVec.toNat_eq]
  have hzero : ∀ a : BitVec w, (a.toNat == 0) = decide (a = 0) := fun a => by simpa using heq a 0
  refine ⟨heq x y, ?_, rfl, rfl, ?_, ?_, ?_, ?_, ?_, ?_, ?_⟩
  · simp [cmpHolds, bne, heq]
  · simp [cmpHolds, signedOf_toNat, BitVec.slt]
  · simp [cmpHolds, signedOf_toNat, BitVec.sle]
  · simp [cmpHolds, signedOf_toNat, BitVec.slt]
  · simp [cmpHolds, signedOf_toNat, BitVec.sle]
  · simpa [cmpHolds] using heq (x &&& y) y
  · simpa [cmpHolds] using hzero (x &&& y)
  · simpa [cmpHolds, bne] using hzero (x &&& y)

/-! ### What a search does -/

section
variable {s : State} {m : Me} {o : QOps} {op : Nat} {p : Nat → Bool}

/-- What a search of matching threads `p`, performed by instruction `i`, does to the stack (R102, R103). -/
def SearchDoes (s : State) (m : Me) (o : QOps) (i : Instr) (op : Nat) (p : Nat → Bool) : Prop :=
  let k := m.stack s
  let top := filterSet m.blk.n (m.unparked k.top) p
  let below := filterSet m.blk.n (m.unparked k.parent) p
  let done := fun (s' : State) => Host.Outcome.next (completed m true o.hdr.stop (successor m.st.pc) s')
  let traps := fun (cause : Nat) (s' : State) => Host.Outcome.next (trappedBo s' m cause (BitVec.ofNat 64 op) op)
  (o.sop = .push → k.depth ≠ k.limit → top ≠ 0 → exec i s = done (m.restack s o { k with levels := top :: k.levels })) ∧
  (o.sop = .push → k.depth ≠ k.limit → top = 0 →
    exec i s = done (setEvent m (m.restack s o { k with levels := 0 :: k.levels }) op (k.depth + 1) false)) ∧
  (o.sop = .push → k.depth = k.limit → exec i s = traps causeSetOvf (setEvent m s op k.depth true)) ∧
  (o.sop = .peek → exec i s = done (m.count s o top)) ∧
  (o.sop = .and → k.depth ≠ 0 → exec i s = done (m.restack s o (k.replaceTop (top ||| (k.top &&& m.st.parked))))) ∧
  (o.sop = .or → k.depth ≠ 0 → exec i s = done (m.restack s o (k.replaceTop (k.top ||| below)))) ∧
  (o.sop = .rep → k.depth ≠ 0 → exec i s = done (m.restack s o (k.replaceTop (below ||| (k.top &&& m.st.parked))))) ∧
  ((o.sop = .and ∨ o.sop = .or ∨ o.sop = .rep) → k.depth = 0 → exec i s = traps causeSetUnf s)

theorem push_done (x : TSet) (hk : (m.stack s).depth ≠ (m.stack s).limit) (hx : x ≠ 0) :
    m.push s o op x = .done (m.restack s o { m.stack s with levels := x :: (m.stack s).levels }) := by
  simp only [Me.push, beq_eq_false_iff_ne.mpr hk, Bool.false_eq_true, if_false, if_neg hx]

theorem push_empty (hk : (m.stack s).depth ≠ (m.stack s).limit) :
    m.push s o op 0 = .done (setEvent m (m.restack s o { m.stack s with levels := 0 :: (m.stack s).levels }) op
      ((m.stack s).depth + 1) false) := by
  simp only [Me.push, beq_eq_false_iff_ne.mpr hk, Bool.false_eq_true, if_false, if_true]

theorem push_full (x : TSet) (hk : (m.stack s).depth = (m.stack s).limit) :
    m.push s o op x = setOverflow m s op := by
  simp only [Me.push, beq_iff_eq.mpr hk, if_true]

/-- An instruction that is ready and whose effect is a search does what a search does. -/
theorem searchDoes_of {i : Instr} {u : Uses} {q : Me → Nat → Bool} (hr : Ready s m u) (hbo : u.bo = true)
    (hi : exec i s = issue s op o.hdr.stop u fun m => searchEff m s o op (q m)) : SearchDoes s m o i op (q m) := by
  have hdone : ∀ s', searchEff m s o op (q m) = .done s' →
      exec i s = .next (completed m true o.hdr.stop (successor m.st.pc) s') := fun s' h => by
    rw [hi, issue_done hr h, hbo]
  have htrap : ∀ cause s', searchEff m s o op (q m) = .trap cause (BitVec.ofNat 64 op) s' →
      exec i s = .next (trappedBo s' m cause (BitVec.ofNat 64 op) op) := fun cause s' h => by
    rw [hi]
    exact (issueBy_trap (u := fun _ => u) hr h).trans (by rw [hbo]; rfl)
  refine ⟨fun h hk ht => hdone _ ?_, fun h hk ht => hdone _ ?_, fun h hk => htrap _ _ ?_, fun h => hdone _ ?_,
    fun h hk => hdone _ ?_, fun h hk => hdone _ ?_, fun h hk => hdone _ ?_, fun h hk => htrap _ _ ?_⟩
  · simp only [searchEff, h]
    exact push_done _ hk ht
  · simp only [searchEff, h, ht]
    exact push_empty hk
  · simp only [searchEff, h]
    exact push_full _ hk
  · simp only [searchEff, h]
  · simp only [searchEff, h, beq_eq_false_iff_ne.mpr hk, Bool.false_eq_true, if_false]
    rfl
  · simp only [searchEff, h, beq_eq_false_iff_ne.mpr hk, Bool.false_eq_true, if_false]
  · simp only [searchEff, h, beq_eq_false_iff_ne.mpr hk, Bool.false_eq_true, if_false]
    rfl
  · rcases h with h | h | h <;> simp only [searchEff, h, beq_iff_eq.mpr hk, if_true] <;> rfl
end

/-- Settles O16: the predicates are comparisons of words, and each of the three instructions has a search for its effect. -/
theorem searchResults : Obligations.SearchResults := by
  unfold Obligations.SearchResults
  refine ⟨fun w x y _ _ p hp => ?_, fun s m o p hp _ hr => ?_⟩
  · obtain ⟨h1, h2, h3, h4, h5, h6, h7, h8, h9, h10, h11⟩ := cmpHolds_toNat x y
    simp only [List.mem_cons, List.not_mem_nil, or_false] at hp
    rcases hp with rfl | rfl | rfl | rfl | rfl | rfl | rfl | rfl | rfl | rfl | rfl | rfl | rfl
    exacts [h1, h2, h3, h4, rfl, rfl, h5, h6, h7, h8, h9, h10, h11]
  · simp only [List.mem_cons, List.not_mem_nil, or_false] at hp
    rcases hp with rfl | rfl | rfl
    · exact searchDoes_of (op := 0x60) hr rfl (exec_srch o s)
    · exact searchDoes_of (op := 0x61) hr rfl (exec_srchk o s)
    · exact searchDoes_of (op := 0x62) hr rfl (exec_srchv o s)

end Sys2Proof.Machine
end

section
/-!
PROOFS. What a fatal fault leaves (28 R360, R361): its vault frozen and its context dead.
-/
namespace Sys2Proof.Machine

/-! ### Frozen vaults stay frozen -/

/-- Every vault that is frozen in `v` is frozen in `w`. -/
structure FrozenKept (v w : SMap Vault) : Prop where
  kept : ∀ u, ((v.get? u).getD Vault.reset).frozen = true → ((w.get? u).getD Vault.reset).frozen = true

theorem FrozenKept.refl (v : SMap Vault) : FrozenKept v v := ⟨fun _ h => h⟩

theorem FrozenKept.of_eq {v w : SMap Vault} (h : w = v) : FrozenKept v w := h ▸ .refl v

theorem FrozenKept.trans {a b c : SMap Vault} (h : FrozenKept a b) (h' : FrozenKept b c) : FrozenKept a c :=
  ⟨fun u hu => h'.kept u (h.kept u hu)⟩

theorem FrozenKept.foldl {α : Type} {f : State → α → State} (hf : ∀ s x, FrozenKept s.vaults (f s x).vaults) (l : List α)
    (s : State) : FrozenKept s.vaults (l.foldl f s).vaults := by
  induction l generalizing s with
  | nil => exact .refl _
  | cons x l ih => exact (hf s x).trans (ih _)

/-- A fold of operations that leave the vaults alone leaves them alone. -/
theorem foldl_vaults {α : Type} {f : State → α → State} (hf : ∀ s x, (f s x).vaults = s.vaults) (l : List α) (s : State) :
    (l.foldl f s).vaults = s.vaults := by
  induction l generalizing s with
  | nil => rfl
  | cons x l ih => exact (ih _).trans (hf s x)

theorem Vault.frozen_offer {v : Vault} (size : Nat) (time : Word) (r : Record) (h : v.frozen = true) :
    (v.offer size time r).frozen = true := by
  unfold offer
  rw [if_pos h]
  split <;> exact h

/-- A record thaws no vault. -/
theorem frozenKept_record (s : State) (u ty ctx slot ord : Nat) (pay : Word) :
    FrozenKept s.vaults (record s u ty ctx slot ord pay).vaults := by
  refine ⟨fun w hw => ?_⟩
  unfold record
  split
  · by_cases h : w = u
    · subst h
      simpa [State.vault] using Vault.frozen_offer _ _ _ hw
    · rwa [State.setVault_vaults, SMap.get?_set_ne _ _ h]
  · exact hw

/-! ### What the parts of a kill do to the vaults -/

@[simp] theorem shareLine_vaults (s : State) (b : Bool) (pa : Nat) : (shareLine s b pa).vaults = s.vaults := by
  unfold shareLine; split <;> rfl

@[simp] theorem storeBytes_vaults (s : State) (pa : Nat) (bs : List (Option Byte)) :
    (storeBytes s pa bs).vaults = s.vaults := by
  induction bs generalizing s pa with
  | nil => rfl
  | cons b bs ih =>
    refine (ih _ _).trans ?_
    cases b with
    | none => rfl
    | some b => dsimp only; split <;> rfl

@[simp] theorem hubHolds_vaults (s : State) (ctx va n : Nat) : (hubHolds s ctx va n).vaults = s.vaults :=
  foldl_vaults (fun s i => by dsimp only; split <;> simp) _ s

@[simp] theorem hubStore_vaults (s : State) (ctx va n v : Nat) : (hubStore s ctx va n v).vaults = s.vaults :=
  (foldl_vaults (fun s i => by split <;> simp) _ _).trans (hubHolds_vaults s ctx va n)

@[simp] theorem closeQueue_vaults (s : State) (q : Nat) : (closeQueue s q).vaults = s.vaults := by
  unfold closeQueue
  split
  · rfl
  · dsimp only; split <;> simp

@[simp] theorem mergeCensus_vaults (s : State) (ctx : Nat) : (mergeCensus s ctx).vaults = s.vaults := by
  unfold mergeCensus; dsimp only; split <;> rfl

@[simp] theorem signalGrid_vaults (s : State) (ctx sigp status : Nat) :
    (signalGrid s ctx sigp status).1.vaults = s.vaults := by
  unfold signalGrid
  split
  · rfl
  split
  · rfl
  split
  · rfl
  · simp [storeNat]

@[simp] theorem dropDebts_vaults (s : State) (c : Nat) (gone : Nat → Bool) : (dropDebts s c gone).vaults = s.vaults := by
  unfold dropDebts; split <;> rfl

@[simp] theorem dropKilled_vaults (s : State) (ctx : Nat) (left : List (Nat × Access)) :
    (dropKilled s ctx left).vaults = s.vaults := by
  unfold dropKilled
  split
  · rfl
  · exact foldl_vaults (fun s c => dropDebts_vaults ..) _ s

@[simp] theorem dropReplies_vaults (s : State) : (dropReplies s).vaults = s.vaults := by
  unfold dropReplies; split <;> rfl

@[simp] theorem dropReplies_ctxs (s : State) : (dropReplies s).ctxs = s.ctxs := by
  unfold dropReplies; split <;> rfl

@[simp] theorem bumpKills_vaults (s : State) : (bumpKills s).vaults = s.vaults := by
  unfold bumpKills bumpErr; dsimp only; split <;> rfl

@[simp] theorem bumpKills_ctxs (s : State) : (bumpKills s).ctxs = s.ctxs := by
  unfold bumpKills bumpErr; dsimp only; split <;> rfl

theorem frozenKept_jobsStop (s : State) (ctx cause : Nat) : FrozenKept s.vaults (jobsStop s ctx cause).vaults :=
  .foldl (fun s _ => .foldl (fun _ _ => frozenKept_record ..) _ s) _ s

theorem frozenKept_purgeRecords (s : State) (ctx : Nat) : FrozenKept s.vaults (purgeRecords s ctx).vaults := by
  refine .foldl (fun s p => ?_) _ s
  split
  · exact .refl _
  · split <;> exact frozenKept_record ..

theorem frozenKept_endGrids (s : State) (ctx status : Nat) : FrozenKept s.vaults (endGrids s ctx status).vaults := by
  refine .foldl (fun s p => ?_) _ s
  have h : (signalGrid (mergeCensus s ctx) ctx p.2.rec'.sigp status).1.vaults = s.vaults := by simp
  exact (FrozenKept.of_eq h).trans (frozenKept_record ..)

theorem frozenKept_endContext (s : State) (ctx cause : Nat) : FrozenKept s.vaults (endContext s ctx cause).vaults := by
  refine ((frozenKept_jobsStop s ctx cause).trans (frozenKept_purgeRecords _ ctx)).trans ?_
  simp only [endContext, bumpKills_vaults, dropReplies_vaults, State.modCtx_vaults, tlbDrop]
  refine FrozenKept.trans ?_ (frozenKept_endGrids ..)
  exact .of_eq (foldl_vaults closeQueue_vaults _ _)

theorem frozenKept_killContext (s : State) (ctx cause : Nat) : FrozenKept s.vaults (killContext s ctx cause).vaults := by
  unfold killContext
  split
  · exact .refl _
  · exact (FrozenKept.of_eq (dropKilled_vaults ..)).trans (frozenKept_endContext ..)

/-! ### The fault's own vault and context -/

/-- A context that has been ended is not live. -/
theorem ctxLive_endContext (s : State) (ctx cause : Nat) : (endContext s ctx cause).ctxLive ctx = false := by
  unfold endContext State.ctxLive State.ctx?
  simp only [bumpKills_ctxs, dropReplies_ctxs, State.modCtx_ctxs, SMap.get?_modify, if_true]
  split
  · rename_i x hx
    obtain ⟨y, -, rfl⟩ := Option.map_eq_some_iff.mp hx
    rfl
  · rfl

theorem ctxLive_killContext (s : State) (ctx cause : Nat) : (killContext s ctx cause).ctxLive ctx = false := by
  unfold killContext
  split
  · rename_i h
    simpa using h
  · exact ctxLive_endContext ..

/-- A unit that raises a fault while the recorder is ready has its vault frozen, but for a vault that is lost (R340). -/
theorem frozen_startFreeze {s : State} {unit cause : Nat} (ctx : Option Nat) (info : Word) (hr : s.ready.getLsbD 537 = true)
    (hc : cause ≠ 0x82) : ((startFreeze s unit cause ctx info false).vault unit).frozen = true := by
  have hclosed : ∀ x : State, x.vaults = (if (s.vault unit).frozen then s else s.setVault unit
      ((s.vault unit).fault (vaultSize unit) s.time cause unit (faultPay cause ctx info))).vaults →
      (x.vault unit).frozen = true := by
    intro x hx
    unfold State.vault
    rw [hx]
    split
    · rename_i h
      simpa [State.vault] using h
    · simp [Vault.fault, Vault.close]
  unfold startFreeze
  simp only [hr, Bool.not_true, Bool.false_eq_true, if_false, Bool.or_false]
  split
  · exact hclosed _ rfl
  · split
    · rename_i h
      have : (s.vault unit).frozen = true := by simpa [hc] using h
      exact this
    · exact hclosed _ rfl

theorem ctxLive_fatal (s : State) (unit cause ctx : Nat) (info : Word) : (fatal s unit cause ctx info).ctxLive ctx = false :=
  ctxLive_killContext ..

theorem frozen_fatal {s : State} {unit cause : Nat} (ctx : Nat) (info : Word) (hr : s.ready.getLsbD 537 = true)
    (hc : cause ≠ 0x82) : ((fatal s unit cause ctx info).vault unit).frozen = true :=
  (frozenKept_killContext ..).kept unit (frozen_startFreeze _ info hr hc)

end Sys2Proof.Machine
end

section
/-!
PROOFS. What stops an instruction before its effect: the scalars of the gate (01 R18), the population (15 R239, R245), STEP
(15 R251) and DOUBLE (15 R247).
-/
namespace Sys2Proof.Machine

/-! ### The gate -/

/-- A stall of the gate leaves the state as it was. -/
theorem gate_stall {s s' : State} {m : Me} {u : Uses} {r : Stall} (h : gate s m u = some (.stall r s')) : s' = s := by
  have hscalars : ∀ l, gateScalars s m.st.regs l = some (.stall r s') → s' = s := by
    intro l
    induction l with
    | nil => simp [gateScalars]
    | cons x l ih =>
      unfold gateScalars
      split
      · simp
      split
      · split
        · simp
        · intro h
          cases h
          rfl
      · exact ih
  have hnames : ∀ x l, gateNames s m x l = some (.stall r s') → s' = s := by
    intro x l
    induction l with
    | nil => simp [gateNames]
    | cons y l ih =>
      unfold gateNames
      split
      · split
        · simp
        · intro h
          cases h
          rfl
      split
      · exact ih
      split
      · simp
      split
      · simp
      · exact ih
  unfold gate at h
  split at h
  · cases h
    rfl
  split at h
  · cases h
  split at h
  · cases h
  split at h
  · rename_i e he
    cases h
    exact hscalars _ he
  split at h
  · cases h
    rfl
  split at h
  · cases h
  · exact hnames _ _ h

/-- An instruction whose first source is lost or empty, with nothing that is checked before its scalars. -/
theorem gate_source {s : State} {m : Me} {n : SReg} {wf : Bool} {l : List (SReg × Bool)} {dst : List SReg} {e : Eff}
    (h : gateScalars s m.st.regs ((n, wf) :: l) = some e) : gate s m { src := (n, wf) :: l, dst := dst } = some e := by
  simp [gate, namesTrap, h]

theorem sUses_first (o : SOps) (d b c : Bool) : ∃ l dst, sUses o d true b c = { src := (o.sa, o.hdr.wfa) :: l, dst := dst } :=
  ⟨_, _, rfl⟩

/-- TINFO of a scalar (15 R242). -/
theorem scalarInfo_eq (n : SReg) : scalarInfo n = BitVec.ofNat 64 (n.toNat + 512) := by
  have h : n.toNat < 64 := n.isLt
  have : n.toNat % 512 = n.toNat := Nat.mod_eq_of_lt (by omega)
  simp [scalarInfo, payload, joinFields, this]

/-- A scalar instruction whose source A stops the gate comes to what the gate says. -/
theorem execAdd_gate {s : State} {m : Me} {o : SOps} {e : Eff} (hm : me? s = some m)
    (h : ∀ l, gateScalars s m.st.regs ((o.sa, o.hdr.wfa) :: l) = some e) :
    execAdd o s = .next (finish m 0x00 o.hdr.stop s e) := by
  obtain ⟨l, dst, hu⟩ := sUses_first o true true false
  have hg : gate s m (sUses o true true true false) = some e := by
    rw [hu]
    exact gate_source (h l)
  unfold execAdd scalarOp issue issueBy
  rw [hm]
  dsimp only
  rw [hg]
  rfl

/-! ### The population -/

/-- While another strand's handler runs the population is not to be had. -/
theorem boBlocked_handler {s : State} {m : Me} {j : Nat} (hj : (s.cluster m.c).handler = some j) (hne : j ≠ m.k) :
    ∃ b, boBlocked s m = some b := by
  unfold boBlocked
  dsimp only
  split
  · exact ⟨_, rfl⟩
  split
  · exact ⟨_, rfl⟩
  rw [if_pos (by simp [hj, hne])]
  exact ⟨_, rfl⟩

/-- With no earlier reason it is not to be had for TRAP. -/
theorem boBlocked_trap {s : State} {m : Me} {j : Nat} (hj : (s.cluster m.c).handler = some j) (hne : j ≠ m.k)
    (hf : foldHeld (s.cluster m.c) m.st.block = false) (hp : pairHeld s m.c m.k = false)
    (hd : (s.cluster m.c).power.edges ≠ 0 ∨ (s.cluster m.c).power.halved < 2 ∨ (s.cluster m.c).power.halved % 2 = 1) :
    boBlocked s m = some .trap := by
  unfold boBlocked
  dsimp only
  rw [if_neg (by simp [hf, hp]), if_neg (by simp; omega), if_pos (by simp [hj, hne])]

/-- What waits for the population and stalls in the gate is held with one of the two reasons. -/
theorem holdBack_gate {s : State} {m : Me} {op : Nat} {stop : Bool} {b : Stall} {e : Eff}
    (h : ∀ r s', e = .stall r s' → s' = s) : ∃ why : Stall,
      holdBack s m op stop b e = s.modStrand m.c m.k (fun st => { st with stall := some why }) ∨
      holdBack s m op stop b e = s.modStrand m.c m.k (fun st => { st with stall := some why, waited := 0, pre := [] }) := by
  cases e with
  | stall r s' =>
    obtain rfl := h r s' rfl
    unfold holdBack
    dsimp only
    split
    · exact ⟨_, .inl rfl⟩
    · exact ⟨_, .inr rfl⟩
  | _ => exact ⟨b, .inl rfl⟩

/-- An attempt of an instruction on the population that is not to be had is held back. -/
theorem execMark_held {s : State} {m : Me} {q : QOps} {b : Stall} (hm : me? s = some m) (hb : boBlocked s m = some b) :
    ∃ s', execMark q s = .next (holdBack s m 0x6D q.hdr.stop b ((gate s m (setUses q)).getD (.done s'))) := by
  unfold execMark issue issueBy
  rw [hm]
  dsimp only
  rw [if_pos (show (setUses q).bo = true from rfl), hb]
  exact ⟨_, rfl⟩

/-! ### STEP -/

/-- What holds of no entry but that of `k` is the same after the entry of `k` is set. -/
theorem any_set_ne {α : Type} (l : SMap α) (k : Nat) (v : α) (f : Nat × α → Bool) :
    ((l.set k v).any fun p => p.1 != k && f p) = l.any fun p => p.1 != k && f p := by
  induction l with
  | nil => simp [SMap.set]
  | cons p r ih =>
    obtain ⟨j, w⟩ := p
    simp only [SMap.set]
    split
    · simp
    · split
      · rename_i h
        simp [h]
      · simp only [List.any_cons, ih]

section
variable {s : State} {m : Me} {stop step : Bool} {next : PC} {st : Strand}

/-- Another strand is seen after a retirement as before. -/
theorem meAt_retiredState_ne {j : Nat} (h : j ≠ m.k) :
    meAt (retiredState s m stop step next st) m.c j = meAt s m.c j := by
  simp [meAt, retiredState_strand?_ne s m stop step next st h, retiredState_cluster]

theorem meAt_retiredState (hm : me? s = some m) : meAt (retiredState s m stop step next m.st) m.c m.k =
    some { m with st := retired s m stop step next m.st } := by
  obtain ⟨-, hst, hb, hh⟩ := me?_some hm
  rw [meAt_of (retiredState_strand? ..) (b := m.blk) (by simpa [retired] using hb)]
  simp [retiredState_cluster, hh]

/-- Of the machine a retirement changes clusters and vaults, and no µTLB. -/
theorem retiredState_seen : ∃ cs v, retiredState s m stop step next st = { s with clusters := cs, vaults := v } ∧
    (State.cluster { s with clusters := cs, vaults := v } m.c).utlb = (s.cluster m.c).utlb := by
  have h := congrArg Cluster.utlb (retiredState_cluster s m stop step next st)
  rw [retiredState_eq] at h ⊢
  exact ⟨_, _, rfl, h⟩

theorem targetOk_retiredState (ctx : Nat) (pc : PC) :
    targetOk (retiredState s m stop step next st) m.c ctx pc = targetOk s m.c ctx pc := by
  obtain ⟨cs, v, heq, hu⟩ := retiredState_seen (s := s) (m := m) (stop := stop) (step := step) (next := next) (st := st)
  rw [heq]
  exact targetOk_congr hu ctx pc

/-- What a fetch of a cluster's strand sees is as before. -/
theorem midPair_retiredState (o : Me) (ho : o.c = m.c) :
    o.midPair (retiredState s m stop step next st) = o.midPair s := by
  obtain ⟨cs, v, heq, hu⟩ := retiredState_seen (s := s) (m := m) (stop := stop) (step := step) (next := next) (st := st)
  rw [heq]
  unfold Me.midPair Me.paired fetchLine fetchEntry tlbFind
  rw [ho, hu]
  rfl

theorem entryFree_retiredState : (retiredState s m stop step next st).entryFree m.c m.k = s.entryFree m.c m.k := by
  have hsolve : ((retiredState s m stop step next st).cluster m.c).solving m.k = (s.cluster m.c).solving m.k := by
    rw [retiredState_cluster]
    exact any_set_ne _ _ _ fun p : Nat × Strand => p.2.solve.isSome
  have hpair : pairHeld (retiredState s m stop step next st) m.c m.k = pairHeld s m.c m.k := by
    have hmid : ∀ p : Nat × Strand,
        (p.1 != m.k && (meAt (retiredState s m stop step next st) m.c p.1).any
          fun o => o.midPair (retiredState s m stop step next st)) =
        (p.1 != m.k && (meAt s m.c p.1).any fun o => o.midPair s) := fun p => by
      by_cases hp : p.1 = m.k
      · simp [hp]
      · rw [meAt_retiredState_ne hp]
        cases hx : meAt s m.c p.1 with
        | none => rfl
        | some o => simp [midPair_retiredState o (meAt_some hx).1]
    unfold pairHeld
    simp only [hmid]
    rw [retiredState_cluster]
    exact any_set_ne _ _ _ fun p : Nat × Strand => (meAt s m.c p.1).any fun o => o.midPair s
  unfold State.entryFree
  rw [hsolve, hpair, retiredState_cluster]
end

/-- No trap waits in the strands after a retirement where none waited before. -/
theorem retiredState_trap_none {s : State} {m : Me} {stop : Bool} {next : PC} (hm : me? s = some m)
    (hw : ∀ p ∈ (s.cluster m.c).strands, p.2.trap = none) :
    ∀ p ∈ ((retiredState s m stop false next m.st).cluster m.c).strands, p.2.trap = none := by
  intro p hp
  rw [retiredState_cluster] at hp
  rcases SMap.mem_set hp with rfl | hp
  · exact hw (m.k, m.st) (SMap.mem_of_get? (me?_some hm).2.1)
  · exact hw p hp

/-- An instruction with STOP that completes while its strand steps, and whose handler can be entered, enters it for STEP. -/
theorem completed_step {s : State} {m : Me} (hm : me? s = some m) (hdbg : m.st.regs.dbg.getLsbD 0 = true)
    (hfree : s.entryFree m.c m.k = true) (hw : ∀ p ∈ (s.cluster m.c).strands, p.2.trap = none) (hv : m.st.regs.tvec ≠ 0)
    (hx : targetOk s m.c m.ctx (m.st.regs.tvec.truncate 57) = true) :
    ∃ s' m', m'.c = m.c ∧ m'.k = m.k ∧ m'.st.regs = m.st.regs ∧ completed m false true (successor m.st.pc) s =
      enteredState s' m' (stepTrap m.st.pc (successor m.st.pc)) := by
  obtain ⟨-, hst, -, hh⟩ := me?_some hm
  have hin : m.inH = false := by
    simp only [State.entryFree, Bool.and_eq_true, Option.isNone_iff_eq_none] at hfree
    simp [hh, hfree.1.1]
  refine ⟨_, { m with st := retired s m true false (successor m.st.pc) m.st }, rfl, rfl, rfl, .trans ?_
    (takeTrap_eq _ (meAt_retiredState hm) (by rw [entryFree_retiredState]; exact hfree) (retiredState_trap_none hm hw) hv
      (by rw [targetOk_retiredState]; exact hx))⟩
  show retire s m true (successor m.st.pc) = _
  rw [retire_eq hst, if_pos (by simp [hin, hdbg])]

/-- The first bit of a payload whose first field is one bit. -/
theorem payload_bit_zero (b : Bool) (fs : List (Nat × Nat)) : (payload ((1, bit01 b) :: fs)).getLsbD 0 = b := by
  simp only [payload, joinFields, BitVec.getLsbD_ofNat, Nat.testBit_zero]
  cases b <;> simp [bit01, Nat.add_mod]

/-- Settles O56: each clause by the part of the attempt that stops it: the gate, the population, the retirement, or the trap. -/
theorem stopsBeforeEffect : Obligations.StopsBeforeEffect := by
  unfold Obligations.StopsBeforeEffect
  intro s m o q hm
  refine ⟨fun hn hlost hempty => ?_, fun hn hlost => ?_, fun j hj hne => ?_, fun hr hstop hdbg hfree hw hv hx => ?_,
    fun cause op info hin hc => ?_⟩
  · have hl : m.st.regs.isLost o.sa = false := by simp [Regs.isLost, hlost]
    have he : m.st.regs.isEmpty o.sa = true := by
      simp only [Regs.isEmpty, hempty, Bool.and_true]
      exact bne_iff_ne.mpr hn
    refine ⟨fun hwf => ?_, fun hwf => ?_⟩
    · rw [exec_add, execAdd_gate hm (e := .trap causeFeEmpty (scalarInfo o.sa) s) (fun l => by
        simp [gateScalars, hl, he, hwf]), scalarInfo_eq]
      rfl
    · rw [exec_add, execAdd_gate hm (e := .stall .feWait s) (fun l => by simp [gateScalars, hl, he, hwf])]
      rfl
  · have hl : m.st.regs.isLost o.sa = true := by
      simp only [Regs.isLost, hlost, Bool.and_true]
      exact bne_iff_ne.mpr hn
    rw [exec_add, execAdd_gate hm (e := .trap causeAtomLost (scalarInfo o.sa) s) (fun l => by simp [gateScalars, hl]),
      scalarInfo_eq]
    rfl
  · refine ⟨?_, fun hg hf hp hd => ?_⟩
    · obtain ⟨b, hb⟩ := boBlocked_handler hj hne
      obtain ⟨s', hs'⟩ := execMark_held (q := q) hm hb
      obtain ⟨why, hwhy⟩ := holdBack_gate (s := s) (m := m) (op := 0x6D) (stop := q.hdr.stop) (b := b)
        (e := (gate s m (setUses q)).getD (.done s')) fun r s'' h => by
          cases hg : gate s m (setUses q) with
          | none => simp [hg] at h
          | some e =>
            simp only [hg, Option.getD_some] at h
            exact gate_stall (h ▸ hg)
      refine ⟨why, ?_⟩
      rw [exec_mark, hs']
      exact hwhy.imp (congrArg _) (congrArg _)
    · obtain ⟨s', hs'⟩ := execMark_held (q := q) hm (boBlocked_trap hj hne hf hp hd)
      rw [exec_mark, hs', hg]
      rfl
  · obtain ⟨s', m', hc, hk, hregs, heq⟩ := completed_step hm hdbg hfree hw hv hx
    have hexec : exec (.nop o) s = .next (completed m false true (successor m.st.pc) s) := by
      rw [exec_nop, execNop, issue_done hr rfl, hstop]
    refine ⟨_, enteredStrand m' (stepTrap m.st.pc (successor m.st.pc)), hexec, ?_⟩
    rw [heq, ← hc, ← hk, ← hregs]
    refine ⟨enteredState_strand? .., rfl, rfl, rfl, rfl, rfl, ?_, by simp⟩
    exact payload_bit_zero true _
  · have hraise : raise s m cause info op = raiseDouble s m cause op := by
      unfold raise
      rw [if_neg (by omega), if_pos hin]
    rw [hraise]
    exact ⟨ctxLive_fatal .., fun hready => frozen_fatal _ _ hready (by decide)⟩

end Sys2Proof.Machine
end

section
/-!
PROOFS. Global broadcasts (09 R132-R134): what sending the accesses of an instruction leaves, and `ld`, `st` and `pref`.
-/
namespace Sys2Proof.Machine

/-! ### Sending -/

@[simp] theorem sendToken_clusters (s : State) (t : Token) : (sendToken s t).clusters = s.clusters := by
  unfold sendToken; dsimp only; split <;> simp [spill]

@[simp] theorem sendToken_mem (s : State) (t : Token) : (sendToken s t).mem = s.mem := by
  unfold sendToken; dsimp only; split <;> simp [spill]

/-- A fold of operations that leave a part of the state alone leaves it alone. -/
theorem foldl_keeps {α β : Type} {f : State → α → State} {g : State → β} (hf : ∀ s x, g (f s x) = g s) (l : List α)
    (s : State) : g (l.foldl f s) = g s := by
  induction l generalizing s with
  | nil => rfl
  | cons x l ih => exact (ih _).trans (hf s x)

@[simp] theorem sendRequests_clusters (s : State) (c slot : Nat) (l : List Access) :
    (sendRequests s c slot l).clusters = s.clusters := foldl_keeps (fun _ _ => sendToken_clusters ..) _ s

@[simp] theorem sendRequests_mem (s : State) (c slot : Nat) (l : List Access) :
    (sendRequests s c slot l).mem = s.mem := foldl_keeps (fun _ _ => sendToken_mem ..) _ s

@[simp] theorem sendAll_mem (s : State) (m : Me) (l : List Access) : (sendAll s m l).mem = s.mem := by simp [sendAll]

/-- Sending puts the accesses, numbered, behind those of the strand. -/
theorem sendAll_strand? {s : State} {m : Me} {st : Strand} (l : List Access) (hst : s.strand? m.c m.k = some st) :
    (sendAll s m l).strand? m.c m.k =
      some { st with out := st.out ++ numbered (s.cluster m.c).nextId (s.cluster m.c).nextId l } := by
  have h : ∀ (cl : Cluster), cl.strands = (s.cluster m.c).strands → (s.setCluster m.c cl).strand? m.c m.k = some st :=
    fun cl hcl => by simpa [State.strand?, hcl] using hst
  unfold sendAll
  dsimp only
  unfold State.strand? State.cluster
  rw [sendRequests_clusters]
  exact State.strand?_modStrand _ _ (h _ rfl)

/-- What statements say of an access: all but its numbers, scope and line. -/
def Access.told (a : Access) : SentAccess := (a.space, a.pa, a.bytes, a.act, a.acq, a.rel, a.dest)

theorem numbered_told (first n : Nat) (l : List Access) : (numbered first n l).map Access.told = l.map Access.told := by
  induction l generalizing n with
  | nil => rfl
  | cons a l ih => simp [numbered, ih, Access.told]

@[simp] theorem takeEntry_mem (s : State) (m : Me) (name count : Nat) (ts : List Nat) (data : SMap (List W32)) :
    (takeEntry s m name count ts data).1.mem = s.mem := rfl

@[simp] theorem takeEntry_strand? (s : State) (m : Me) (name count : Nat) (ts : List Nat) (data : SMap (List W32)) (k : Nat) :
    (takeEntry s m name count ts data).1.strand? m.c k = s.strand? m.c k := by
  simp [takeEntry, State.strand?]

@[simp] theorem bmemRecord_mem (s : State) (m : Me) (kind : Nat) (scope : Scope) (addrs : List (Nat × Nat)) :
    (bmemRecord s m kind scope addrs).mem = s.mem := by
  cases addrs <;> simp [bmemRecord, Me.note]

@[simp] theorem bmemRecord_strand? (s : State) (m : Me) (kind : Nat) (scope : Scope) (addrs : List (Nat × Nat)) (c k : Nat) :
    (bmemRecord s m kind scope addrs).strand? c k = s.strand? c k := by
  cases addrs <;> simp [bmemRecord]

@[simp] theorem clearPi_mem (s : State) (m : Me) : (m.clearPi s).mem = s.mem := by simp [Me.clearPi, Me.setRegs]

theorem clearPi_strand? {s : State} {m : Me} {st : Strand} (hst : s.strand? m.c m.k = some st) :
    (m.clearPi s).strand? m.c m.k = some { st with regs := { st.regs with pi := 0 } } :=
  State.strand?_modStrand _ _ hst

/-! ### Checks that pass -/

/-- Addresses that all pass come to what is sent. -/
theorem withTrans_reached {s : State} {m : Me} {need : Need} {bytes : Nat} {also : Nat → Option Nat} {addrs : List (Nat × Nat)}
    {l : List (Nat × Nat × Nat)} (h : Reached s m need bytes also addrs l) (long : Bool) (k : List (Nat × Nat × Nat) → Eff) :
    withTrans s m need bytes long addrs also k = k l := by
  have hapart : (l.any fun q => tileMeets s m q.2.1 bytes) = false :=
    List.any_eq_false.mpr fun q hq => by simp [h.apart q hq]
  have hsound : (if need == .load || need == .atomic then l.find? fun q => poisonedAt s q.2.1 else none) = none := by
    split
    · rename_i hn
      exact List.find?_eq_none.mpr fun q hq => by simp [h.sound (by simpa using hn) q hq]
    · rfl
  unfold withTrans
  rw [h.passed]
  dsimp only
  rw [hapart, h.room, hsound]
  rfl

/-! ### A broadcast that completes -/

section
variable {s : State} {m : Me} {stop : Bool}

/-- A long instruction that completes with PI clear and accesses sent, and leaves memory alone. -/
theorem completed_sent {s' : State} {st : Strand} {l : List Access} {what : List SentAccess}
    (hst : s'.strand? m.c m.k = some st) (hregs : st.regs = { m.st.regs with pi := 0 }) (hstack : st.stack = m.st.stack)
    (hout : st.out = m.st.out ++ l) (hmem : s'.mem = s.mem) (hwhat : l.map Access.told = what) (hu : Unstepped m stop) :
    SameBytes s (completed m true stop (successor m.st.pc) s') ∧
      ∃ st', (completed m true stop (successor m.st.pc) s').strand? m.c m.k = some st' ∧ Sent m st' 0 what := by
  obtain ⟨st', hst', hpc, hregs', hstack', -, hout', -, -, -, hmem', -⟩ :=
    completed_unstepped (bo := true) (next := successor m.st.pc) hst (by rw [hregs]) hu
  refine ⟨fun a => by rw [hmem', hmem], st', hst', hpc, hstack'.trans hstack, ?_, ?_, ?_, fun n => ?_⟩
  · rw [hout', hout, List.take_left]
  · rw [sentBy, hout', hout, List.drop_left]
    exact hwhat
  · rw [hregs', hregs]
  · rw [hregs', hregs]
    rfl

/-- What an instruction sends from a state with the strand and the memory of the one before, recorded and with PI clear. -/
theorem sent_strand? {s₁ : State} (hm : me? s = some m) (hst : s₁.strand? m.c m.k = s.strand? m.c m.k) (l : List Access)
    (kind : Nat) (scope : Scope) (addrs : List (Nat × Nat)) :
    (bmemRecord (m.clearPi (sendAll s₁ m l)) m kind scope addrs).strand? m.c m.k =
      some { m.st with regs := { m.st.regs with pi := 0 }
                       out := m.st.out ++ numbered (s₁.cluster m.c).nextId (s₁.cluster m.c).nextId l } := by
  rw [bmemRecord_strand?]
  exact clearPi_strand? (sendAll_strand? l (hst.trans (me?_some hm).2.1))

/-- An instruction on no acting thread completes with PI clear and nothing sent. -/
theorem completed_none {i : Instr} (hm : me? s = some m)
    (hex : exec i s = .next (completed m true stop (successor m.st.pc) (m.clearPi s))) : ∃ t, exec i s = .next t ∧
      (Unstepped m stop → SameBytes s t ∧ ∃ st, t.strand? m.c m.k = some st ∧ Sent m st 0 []) :=
  ⟨_, hex, completed_sent (l := []) (clearPi_strand? (me?_some hm).2.1) rfl rfl (by simp) (by simp) rfl⟩

/-- An instruction that sends the accesses of `l` completes with PI clear and those sent. -/
theorem completed_sends {s₁ : State} {i : Instr} {l : List Access} {kind : Nat} {scope : Scope} {addrs : List (Nat × Nat)}
    {what : List SentAccess} (hm : me? s = some m) (hst : s₁.strand? m.c m.k = s.strand? m.c m.k) (hmem : s₁.mem = s.mem)
    (hwhat : l.map Access.told = what) (hex : exec i s = .next (completed m true stop (successor m.st.pc)
      (bmemRecord (m.clearPi (sendAll s₁ m l)) m kind scope addrs))) : ∃ t, exec i s = .next t ∧
      (Unstepped m stop → SameBytes s t ∧ ∃ st, t.strand? m.c m.k = some st ∧ Sent m st 0 what) :=
  ⟨_, hex, completed_sent (sent_strand? hm hst l kind scope addrs) rfl rfl rfl (by simp [hmem])
    ((numbered_told ..).trans hwhat)⟩

theorem globalAccesses_told (l : List (Nat × Nat × Nat)) (bytes : Nat) (act : Nat → List Nat → Act) (dest : List Nat → Dest)
    (acq : Bool) (rel : Nat → Bool) (scope : Nat → Scope) : (globalAccesses l bytes act dest acq rel scope).map Access.told =
      (byLocation l).map fun p => (none, p.1, bytes, act p.1 p.2, acq, rel p.1, dest p.2) := by
  simp [globalAccesses, Access.told, newAccess]

/-- The strand as it waits for the walk of a page at thread `t`. -/
def Strand.walks (st : Strand) (t page : Nat) : Strand :=
  { st with wait := .walk page, regs := { st.regs with pi := piOf 1 t }, stall := some .engine, waited := 0, pre := [] }

theorem finish_waitWalk_strand? (hm : me? s = some m) (op t page : Nat) :
    (finish m op stop s (waitWalk s m true t page)).strand? m.c m.k = some (m.st.walks t page) :=
  State.strand?_modStrand _ _ (State.strand?_modStrand _ _ (me?_some hm).2.1)

theorem finish_waitWalk_mem (op t page : Nat) : (finish m op stop s (waitWalk s m true t page)).mem = s.mem := by
  simp [finish, waitWalk]

/-- An attempt has taken its opportunity or not. -/
theorem settleTurn_eq (m : Me) (bo : Bool) (e : Eff) (t : State) :
    settleTurn m bo e t = t ∨ settleTurn m bo e t = tookTurn t m := by
  unfold settleTurn
  split
  · exact .inl rfl
  split
  · split
    · exact .inr rfl
    · exact .inl rfl
  · exact .inr rfl

/-- A `pref` that waits for the walk of a page stands at the lowest thread of it. -/
theorem pref_waits {o : MOps} {t page : Nat} (hr : Ready s m (mUses o [] []))
    (hw : prefWalk s m (widBytes o.wid) (mAddrs o m s) = some (t, page)) : ∃ u st, exec (.pref o) s = .next u ∧ SameBytes s u ∧
      u.strand? m.c m.k = some st ∧ st.pc = m.st.pc ∧ st.stall = some .engine ∧ st.wait = .walk page ∧
      st.regs = { m.st.regs with pi := piOf 1 t } := by
  have hst := finish_waitWalk_strand? (stop := o.hdr.stop) hr.here 0xC7 t page
  have hmem := finish_waitWalk_mem (s := s) (m := m) (stop := o.hdr.stop) 0xC7 t page
  have hex : exec (.pref o) s = .next (settleTurn m true (waitWalk s m true t page)
      (finish m 0xC7 o.hdr.stop s (waitWalk s m true t page))) := by
    rw [exec_pref, execPref, issue_ready hr]
    simp only [hw]
    rfl
  rcases settleTurn_eq m true (waitWalk s m true t page) (finish m 0xC7 o.hdr.stop s (waitWalk s m true t page)) with h | h
  · exact ⟨_, _, hex.trans (congrArg _ h), fun a => congrArg (readByte · a) hmem, hst, rfl, rfl, rfl, rfl⟩
  · obtain ⟨g, hg⟩ := tookTurn_strand? hst
    exact ⟨_, _, hex.trans (congrArg _ h), fun a => by rw [tookTurn_mem, hmem], hg, rfl, rfl, rfl, rfl⟩

theorem mAddrs_nil {o : MOps} (h : mAddrs o m s = []) : (mAddrs o m s).isEmpty = true := by simp [h]

theorem mAddrs_cons {o : MOps} (h : mAddrs o m s ≠ []) : ¬(mAddrs o m s).isEmpty = true := by simpa using h
end

/-- Settles O26: an instruction whose addresses pass sends one access for each location; `pref` sends none. -/
theorem globalBroadcast : Obligations.GlobalBroadcast := by
  unfold Obligations.GlobalBroadcast
  intro s m o l
  refine ⟨fun hr => ⟨fun h => ?_, fun h hfree hreach => ?_⟩, fun hr => ⟨fun h => ?_, fun h hreach => ?_⟩,
    fun hr => ⟨fun h => ?_, fun t page h => pref_waits hr h⟩⟩
  · refine completed_none hr.here ?_
    rw [exec_ld, execLd]
    refine issue_done hr ?_
    rw [if_pos (mAddrs_nil h)]
  · refine completed_sends (s₁ := (takeEntry s m o.vd.toNat (widNames o.wid) ((mAddrs o m s).map Prod.fst) []).1) hr.here
      (l := globalAccesses l (widBytes o.wid) (fun _ _ => .load) (.delivery (s.cluster m.c).nextId) (isAcq o.ord)
        (fun _ => false) fun _ => o.scope)
      (kind := 0) (scope := o.scope) (addrs := mAddrs o m s) (takeEntry_strand? ..) rfl (globalAccesses_told ..) ?_
    rw [exec_ld, execLd]
    refine issue_done hr ?_
    rw [if_neg (mAddrs_cons h), if_neg (by simpa [noEntry] using hfree)]
    exact withTrans_reached hreach _ _
  · refine completed_none hr.here ?_
    rw [exec_st, execSt]
    refine issue_done hr ?_
    rw [if_pos (mAddrs_nil h)]
  · refine completed_sends (s₁ := s) hr.here
      (l := globalAccesses l (widBytes o.wid) (fun pa ts => storeAct o (storeVals o m ts) (isBell pa)) (fun _ => .none) false
        (storeRel o) (storeScope o))
      (kind := 1) (scope := o.scope) (addrs := mAddrs o m s) rfl rfl (globalAccesses_told ..) ?_
    rw [exec_st, execSt]
    refine issue_done hr ?_
    rw [if_neg (mAddrs_cons h)]
    exact withTrans_reached hreach _ _
  · have hst := (bmemRecord_strand? (m.clearPi s) m 4 o.scope (mAddrs o m s) m.c m.k).trans
      (clearPi_strand? (me?_some hr.here).2.1)
    refine ⟨_, ?_, completed_sent (l := []) hst rfl rfl (by simp) (by simp) rfl⟩
    rw [exec_pref, execPref]
    refine issue_done hr ?_
    dsimp only
    rw [show prefWalk s m (widBytes o.wid) (mAddrs o m s) = none from h]

end Sys2Proof.Machine
end

section
/-!
PROOFS. The instructions that read, scale, commit and discard tiles (10 R159, R161, R162).
-/
namespace Sys2Proof.Machine

/-! ### Checks of a tile that pass -/

section
variable {s : State} {m : Me}

theorem withReasons_pass {at5 : BitVec 5} {reason : Option Nat} (hs : sweeping s m at5.toNat = false) (hr : reason = none)
    (k : Unit → Eff) : withReasons s m at5 reason k = k () := by
  unfold withReasons
  rw [hs, hr]
  rfl

theorem withReasons_trap {at5 : BitVec 5} {reason : Option Nat} {r : Nat} (hs : sweeping s m at5.toNat = false)
    (hr : reason = some r) (k : Unit → Eff) : withReasons s m at5 reason k = tileTrap s at5 r := by
  unfold withReasons
  rw [hs, hr]
  rfl

theorem withTile_pass {key : Option Nat} (h : ∀ k, key = some k → tilePoison s m.c m.st.block k = none) (k : Unit → Eff) :
    withTile s m key k = k () := by
  unfold withTile
  cases key with
  | none => rfl
  | some x =>
    rw [Option.bind_some, h x rfl]

/-- The tile that an instruction on rows reads is sound where its set is empty, or the tile is clear. -/
theorem tileKey_sound {name : Nat} (h : m.responders s = [] ∨ TileClear s m name (some name)) :
    ∀ k, tileKey name (m.hasRows s) = some k → tilePoison s m.c m.st.block k = none := by
  intro k hk
  rcases h with h | h
  · simp [tileKey, Me.hasRows, h] at hk
  · refine h.2 k ?_
    simp only [tileKey] at hk
    split at hk
    · exact hk
    · cases hk

theorem boundTile_of {b : Block} {name : Nat} {a : AccName} (h : b.acc.get? name = some a) :
    boundTile b name = (a.tile, a.mode.width) := by
  simp [boundTile, h]

theorem readReason_of {b : Block} {name : Nat} {a : AccName} (h : b.acc.get? name = some a) : readReason b name = none := by
  simp [readReason, h]

theorem plainReason_of {b : Block} {name : Nat} {a : AccName} (h : b.acc.get? name = some a) (hp : ∃ v, a.mode = .plain v)
    (hs : b.shadows.get? name = none) : plainReason b name = none := by
  obtain ⟨v, hv⟩ := hp
  simp [plainReason, h, hv, hs]

/-! ### Rows delivered -/

theorem deliverRows_none {o : TOps} {count : Nat} {f : Nat → List W32} (h : m.responders s = []) :
    deliverRows s m o count f = .done s := by
  simp [deliverRows, h]

theorem deliverRows_some {o : TOps} {count : Nat} {f : Nat → List W32} (h : m.responders s ≠ [])
    (hfree : entriesOf (s.cluster m.c) m.k < Config.deliveryEntries) : deliverRows s m o count f =
      .done (addTileOp (takeEntry s m o.va.toNat count (m.responders s)
        (((m.responders s).zip (upto (m.responders s).length)).map fun q => (q.1, f q.2))).1 m (tName o) [] false false 0) := by
  unfold deliverRows
  dsimp only
  rw [if_neg (by simpa using h), if_neg (by simpa [noEntry] using hfree)]

/-! ### Each instruction past its checks -/

section
variable {o : TOps} {a : AccName} {e s' : State} (hacc : m.blk.acc.get? (tName o) = some a)
  (hs : sweeping s m (tName o) = false) (hk : m.responders s = [] ∨ TileClear s m (tName o) (some (tName o)))
include hacc hs hk

theorem execTmov_done (hr : Ready s m (tileUses m s o.va a.mode.width true false))
    (he : deliverRows s m o a.mode.width (fun i => (upto a.mode.width).map fun c => tileAt a.tile i c) = .done s') :
    exec (.tmov o) s = .next (completed m true o.hdr.stop (successor m.st.pc) s') := by
  rw [exec_tmov, execTmov]
  refine issueBy_done (by rw [boundTile_of hacc]; exact hr) ?_
  dsimp only
  rw [withReasons_pass hs (readReason_of hacc), withTile_pass (tileKey_sound hk), boundTile_of hacc]
  exact he

theorem execTrow_done {sum : Bool} (hr : Ready s m (tileUses m s o.va 1 true false))
    (he : deliverRows s m o 1 (fun i => [rowReduce sum ((upto a.mode.width).map fun c => tileAt a.tile i c)]) = .done s') :
    exec (.trow sum o) s = .next (completed m true o.hdr.stop (successor m.st.pc) s') := by
  rw [exec_trow, execTrow]
  refine issueBy_done hr ?_
  dsimp only
  rw [withReasons_pass hs (readReason_of hacc), withTile_pass (tileKey_sound hk), boundTile_of hacc]
  exact he

theorem execTscale_done (hr : Ready s m (tileUses m s o.va 1 false o.hdr.wfa)) (hp : ∃ v, a.mode = .plain v)
    (hsh : m.blk.shadows.get? (tName o) = none) :
    exec (.tscale o) s = .next (completed m true o.hdr.stop (successor m.st.pc)
      (if (m.responders s).isEmpty then s else putTile s m.c m.st.block (tName o)
        ((((m.responders s).zip (upto (m.responders s).length)).map fun q => (upto a.mode.width).map fun c =>
          BitVec.ofNat 32 (f32.mul .rne false (f32.read false (tileAt a.tile q.2 c).toNat)
            (f32.read false (m.v o.va.toNat q.1).toNat)).bits) ++ a.tile.drop (m.responders s).length))) := by
  rw [exec_tscale, execTscale]
  refine issueBy_done hr ?_
  dsimp only
  rw [withReasons_pass hs (plainReason_of hacc hp hsh), withTile_pass (tileKey_sound hk), boundTile_of hacc]
end

theorem drainName_block? (s : State) (c block name b : Nat) : (drainName s c block name).block? c b = s.block? c b := by
  simp [drainName, State.block?]

theorem moveTilePoison_clusters (s : State) (c block key : Nat) (dst : Option Nat) :
    (moveTilePoison s c block key dst).clusters = s.clusters := by
  unfold moveTilePoison; split <;> rfl

theorem moveTilePoison_block? (s : State) (c block key : Nat) (dst : Option Nat) (d b : Nat) :
    (moveTilePoison s c block key dst).block? d b = s.block? d b := by
  simp only [State.block?, State.cluster, moveTilePoison_clusters]

theorem moveTilePoison_strand? (s : State) (c block key : Nat) (dst : Option Nat) (d k : Nat) :
    (moveTilePoison s c block key dst).strand? d k = s.strand? d k := by
  simp only [State.strand?, State.cluster, moveTilePoison_clusters]

theorem drainName_strand? (s : State) (c block name k : Nat) : (drainName s c block name).strand? c k = s.strand? c k := by
  simp [drainName, State.strand?]
end

/-- Settles O36: a name that is bound and clear passes the checks of each reader, and the effect is what it does then. -/
theorem tileReads : Obligations.TileReads := by
  unfold Obligations.TileReads
  intro s m o sum a
  refine ⟨fun hacc => ⟨fun hs hts => ⟨fun hr => ?_, fun hr => ?_, fun hr hp => ?_⟩,
    fun hclear hts => ⟨fun hr hfree => ?_, fun hr hfree => ?_, fun hr hp => ?_⟩⟩, fun hr hs => ⟨fun x hx => ?_, fun hx => ?_⟩,
    fun hr => ?_⟩
  · exact execTmov_done hacc hs (.inl hts) hr (deliverRows_none hts)
  · exact execTrow_done hacc hs (.inl hts) hr (deliverRows_none hts)
  · rw [execTscale_done hacc hs (.inl hts) hr hp.1 hp.2, if_pos (by simp [hts])]
  · exact execTmov_done hacc hclear.1 (.inr hclear) hr (deliverRows_some hts hfree)
  · exact execTrow_done hacc hclear.1 (.inr hclear) hr (deliverRows_some hts hfree)
  · rw [execTscale_done hacc hclear.1 (.inr hclear) hr hp.1 hp.2, if_neg (by simpa using hts)]
  · rw [exec_tcommit, execTcommit]
    refine issue_done hr ?_
    rw [withReasons_pass hs rfl, hx]
  · rw [exec_tcommit, execTcommit]
    refine issue_done hr ?_
    rw [withReasons_pass hs rfl, hx]
  · obtain ⟨-, hst, hb, -⟩ := me?_some hr.here
    have hb' := State.block?_modBlock (moveTilePoison (drainName s m.c m.st.block (tName o + 16)) m.c m.st.block
      (tName o + 16) none) (fun b => { b with shadows := b.shadows.del (tName o) })
      ((moveTilePoison_block? ..).trans ((drainName_block? ..).trans hb))
    refine ⟨_, { m.blk with shadows := m.blk.shadows.del (tName o) }, issue_done hr rfl, fun hu => ?_⟩
    obtain ⟨-, -, -, -, -, -, -, -, -, -, -, hblock⟩ := completed_unstepped (bo := false) (next := successor m.st.pc)
      ((State.strand?_modBlock ..).trans ((moveTilePoison_strand? ..).trans ((drainName_strand? ..).trans hst))) rfl hu
    exact ⟨(hblock _).trans hb', rfl, rfl⟩

end Sys2Proof.Machine
end

section
/-!
PROOFS. The matrix product (10 R154, R155, R159): its checks, its elements, and what the engine run leaves alone.
-/
namespace Sys2Proof.Machine

/-! ### Checks that pass -/

theorem mem_insertBy {α : Type} {key : α → Nat} {x y : α} {l : List α} : y ∈ insertBy key x l ↔ y = x ∨ y ∈ l := by
  induction l with
  | nil => simp [insertBy]
  | cons z l ih =>
    unfold insertBy
    split
    · simp
    · simp only [List.mem_cons, ih]
      exact or_left_comm

/-- Sorting keeps the elements. -/
theorem mem_sortBy {α : Type} {key : α → Nat} {y : α} {l : List α} : y ∈ sortBy key l ↔ y ∈ l := by
  have h : ∀ acc, y ∈ l.foldl (fun acc x => insertBy key x acc) acc ↔ y ∈ acc ∨ y ∈ l := by
    induction l with
    | nil => simp
    | cons x l ih =>
      intro acc
      rw [List.foldl_cons, ih, mem_insertBy, List.mem_cons]
      exact or_assoc.trans or_left_comm
  simpa [sortBy] using h []

section
variable {s : State} {m : Me}

/-- Arrays that are clear come to the effect on them. -/
theorem withArrays_clear {reads : Bool} {arrs : List MemArray} (h : ArraysClear s m reads arrs) (k : Unit → Eff) :
    withArrays s m reads arrs k = k () := by
  have hmem : ∀ a ∈ (arrs.filter fun a => a.len != 0) |> sortBy MemArray.addr, a.addr % a.align = 0 ∧
      a.addr + a.len ≤ m.blk.scratchLen ∧ rangeBusy s m a.addr a.len = false ∧ sentBusy s m a.addr a.len = false ∧
      landBusy s m a.addr a.len = false ∧ (reads = true → scratchPoison s m.c m.st.block a.addr a.len = none) :=
    fun a ha => by
      obtain ⟨ha, hlen⟩ := List.mem_filter.mp (mem_sortBy.mp ha)
      exact h a ha (by simpa using hlen)
  unfold withArrays
  dsimp only
  rw [List.find?_eq_none.mpr fun a ha => by
    obtain ⟨halign, hfits, -⟩ := hmem a ha
    simp [halign, Block.holds, hfits]]
  dsimp only
  rw [if_neg (by
    rw [Bool.not_eq_true, List.any_eq_false]
    intro a ha
    obtain ⟨-, -, h1, h2, h3, -⟩ := hmem a ha
    simp [h1, h2, h3])]
  have hp : (if reads then ((arrs.filter fun a => a.len != 0) |> sortBy MemArray.addr).findSome? fun a =>
      scratchPoison s m.c m.st.block a.addr a.len else none) = none := by
    split
    · rename_i hreads
      exact List.findSome?_eq_none_iff.mpr fun a ha => (hmem a ha).2.2.2.2.2 hreads
    · rfl
  rw [hp]

theorem withFresh_pass {at5 : BitVec 5} (h : FreshTile s m) (k : Unit → Eff) : withFresh s m at5 1 k = k () := by
  unfold withFresh
  exact if_pos h

/-- A tile that is to be had comes to the effect on it. -/
theorem withMmaTile_pass {o : TOps}
    (hsp : o.sp = true → m.blk.shadows.get? (tName o) ≠ none ∨
      ((s.cluster m.c).blocks.foldl (fun n p => n + p.2.shadows.length) 0 < Config.shadowTiles ∧ FreshTile s m))
    (hza : o.sp = false → o.za = true → FreshTile s m) (k : Unit → Eff) : withMmaTile s m o k = k () := by
  unfold withMmaTile
  cases hp : o.sp
  · simp only [Bool.false_eq_true, if_false]
    split
    · exact withFresh_pass (hza hp ‹_›) k
    · rfl
  · simp only [if_true]
    split
    · rfl
    · rename_i hnone
      rcases hsp hp with h | ⟨hroom, hfresh⟩
      · exact absurd (Option.isSome_iff_ne_none.mpr h) hnone
      · rw [if_neg (by omega)]
        exact withFresh_pass hfresh k

/-- A task that is admitted goes on in the state that its admission leaves. -/
theorem admission_of {c task : Nat} {h : Nat × Nat} {current : Nat} {t : State} (ha : AdmittedAs s c task h current t)
    (k : Nat → State → Eff) : admission s c task h k = k current t := by
  unfold admission
  rcases ha with ⟨hwas, rfl⟩ | ⟨hwas, hkept, rfl, rfl⟩ | ⟨hwas, hkept, hhead, hfits, rfl, rfl⟩
  · simp only [hwas]
  · simp only [hwas, hkept, beq_self_eq_true, if_true]
  · simp only [hwas, beq_eq_false_iff_ne.mpr hkept, Bool.false_eq_true, if_false, hhead, hfits, beq_self_eq_true,
      Bool.and_self, if_true]
end

/-! ### What a tile instruction leaves alone -/

/-- Memory, the strands of the strand's cluster and its other blocks are as before. -/
structure TileFrame (s t : State) (m : Me) : Prop where
  memory : t.mem = s.mem
  strands : ∀ k, t.strand? m.c k = s.strand? m.c k
  blocks : ∀ x, x ≠ m.st.block → t.block? m.c x = s.block? m.c x

/-- The strand's own block is as before too. -/
structure BlocksFrame (s t : State) (m : Me) : Prop extends TileFrame s t m where
  own : t.block? m.c m.st.block = s.block? m.c m.st.block

theorem TileFrame.refl (s : State) (m : Me) : TileFrame s s m := ⟨rfl, fun _ => rfl, fun _ _ => rfl⟩

theorem TileFrame.trans {s t u : State} {m : Me} (h : TileFrame s t m) (h' : TileFrame t u m) : TileFrame s u m :=
  ⟨h'.memory.trans h.memory, fun k => (h'.strands k).trans (h.strands k), fun x hx => (h'.blocks x hx).trans (h.blocks x hx)⟩

theorem BlocksFrame.trans {s t u : State} {m : Me} (h : BlocksFrame s t m) (h' : BlocksFrame t u m) : BlocksFrame s u m :=
  ⟨h.toTileFrame.trans h'.toTileFrame, h'.own.trans h.own⟩

/-- An update that leaves the memory and the clusters alone. -/
theorem BlocksFrame.of_clusters {s t : State} {m : Me} (hm : t.mem = s.mem) (h : t.clusters = s.clusters) : BlocksFrame s t m := by
  refine ⟨⟨hm, fun k => ?_, fun x _ => ?_⟩, ?_⟩ <;> simp only [State.strand?, State.block?, State.cluster, h]

/-- An update of a cluster that leaves its strands and blocks alone. -/
theorem BlocksFrame.of_cluster {s : State} {m : Me} {cl : Cluster} (hs : cl.strands = (s.cluster m.c).strands)
    (hb : cl.blocks = (s.cluster m.c).blocks) : BlocksFrame s (s.setCluster m.c cl) m := by
  refine ⟨⟨rfl, fun k => ?_, fun x _ => ?_⟩, ?_⟩ <;> simp [State.strand?, State.block?, hs, hb]

theorem blocksFrame_modCluster {s : State} {m : Me} {f : Cluster → Cluster} (hs : ∀ cl, (f cl).strands = cl.strands)
    (hb : ∀ cl, (f cl).blocks = cl.blocks) : BlocksFrame s (s.modCluster m.c f) m := .of_cluster (hs _) (hb _)

@[simp] theorem shareLine_clusters (s : State) (b : Bool) (pa : Nat) : (shareLine s b pa).clusters = s.clusters := by
  unfold shareLine; split <;> rfl

@[simp] theorem shareLine_mem (s : State) (b : Bool) (pa : Nat) : (shareLine s b pa).mem = s.mem := by
  unfold shareLine; split <;> rfl

@[simp] theorem hubHolds_clusters (s : State) (ctx va n : Nat) : (hubHolds s ctx va n).clusters = s.clusters :=
  foldl_keeps (fun s i => by dsimp only; split <;> simp) _ s

@[simp] theorem hubHolds_mem (s : State) (ctx va n : Nat) : (hubHolds s ctx va n).mem = s.mem :=
  foldl_keeps (fun s i => by dsimp only; split <;> simp) _ s

@[simp] theorem headerRead_clusters (s : State) (b : Block) (role th : Nat) : (headerRead s b role th).clusters = s.clusters := by
  unfold headerRead; split <;> simp

@[simp] theorem headerRead_mem (s : State) (b : Block) (role th : Nat) : (headerRead s b role th).mem = s.mem := by
  unfold headerRead; split <;> simp

/-- An admission changes the cluster's power and the lines that are held. -/
theorem Admitted.frame {s t : State} {m : Me} {th : BitVec 4} {current : Nat} (h : Admitted s m th current t) :
    BlocksFrame s t m := by
  have hread : BlocksFrame s (headerRead s m.blk m.st.role th.toNat) m := .of_clusters (by simp) (by simp)
  rcases h with ⟨-, rfl⟩ | ⟨-, -, -, rfl⟩ | ⟨-, -, -, -, -, rfl⟩
  · exact hread.trans (.of_cluster rfl rfl)
  · exact hread
  · exact hread.trans (.of_cluster rfl rfl)

theorem releaseCurrent_frame (s : State) (m : Me) (i : Nat) : BlocksFrame s (releaseCurrent s m.c i) m :=
  blocksFrame_modCluster (fun _ => rfl) fun _ => rfl

theorem addTileOp_frame (s : State) (m : Me) (name : Nat) (regions : List Region) (reads writes : Bool) (current : Nat) :
    BlocksFrame s (addTileOp s m name regions reads writes current) m := blocksFrame_modCluster (fun _ => rfl) fun _ => rfl

theorem countCensus_frame (s : State) (m : Me) (ctx : Nat) (sites : List (Nat × List Nat)) :
    BlocksFrame s (countCensus s m.c ctx sites) m := blocksFrame_modCluster (fun _ => rfl) fun _ => rfl

theorem drainName_frame (s : State) (m : Me) (name : Nat) : BlocksFrame s (drainName s m.c m.st.block name) m :=
  blocksFrame_modCluster (fun _ => rfl) fun _ => rfl

theorem moveTilePoison_frame (s : State) (m : Me) (key : Nat) (dst : Option Nat) :
    BlocksFrame s (moveTilePoison s m.c m.st.block key dst) m :=
  .of_clusters (by unfold moveTilePoison; split <;> rfl) (moveTilePoison_clusters ..)

/-- An update of the strand's own block. -/
theorem modBlock_frame (s : State) (m : Me) (f : Block → Block) : TileFrame s (s.modBlock m.c m.st.block f) m :=
  ⟨State.modBlock_mem .., fun _ => State.strand?_modBlock .., fun _ hx => State.block?_modBlock_ne _ _ hx⟩

/-! ### Where a product is put -/

/-- The block `b` is `blk` with a tile put in the tile that `o` names: its shadow for SP. -/
structure TilePut (blk b : Block) (o : TOps) (tile : TileData) : Prop where
  rest : b = { blk with acc := b.acc, shadows := b.shadows }
  acc : o.sp = true → b.acc = blk.acc
  shadows : o.sp = false → b.shadows = blk.shadows
  names : ∀ n, n ≠ tName o → b.acc.get? n = blk.acc.get? n ∧ b.shadows.get? n = blk.shadows.get? n
  tile : (if o.sp then (b.shadows.get? (tName o)).map Shadow.tile else (b.acc.get? (tName o)).map AccName.tile) = some tile

theorem keeping_tile (a : AccName) (old : Option AccName) : (a.keeping old).tile = a.tile := by
  unfold AccName.keeping; split <;> rfl

/-- A name that is neither ZA nor SP is bound where no reason holds. -/
theorem bound_of_mmaReason {b : Block} {o : TOps} (h : mmaReason b o = none) (hza : o.za = false) :
    ∃ a, b.acc.get? (tName o) = some a := by
  unfold mmaReason at h
  cases ha : b.acc.get? (tName o) with
  | none => simp [ha, hza] at h
  | some a => exact ⟨a, rfl⟩

/-- A product is put in the tile its instruction names, and nothing else of the blocks changes. -/
theorem putProduct_put {s : State} {m : Me} {blk : Block} {o : TOps} (stop : Bool) (tile : TileData) (written : List Rounded)
    (hb : s.block? m.c m.st.block = some blk) (hr : mmaReason blk o = none) :
    TileFrame s (putProduct s m o stop tile written) m ∧
      ∃ b, (putProduct s m o stop tile written).block? m.c m.st.block = some b ∧ TilePut blk b o tile := by
  unfold putProduct
  dsimp only
  cases hsp : o.sp
  · simp only [Bool.false_eq_true, if_false]
    have hcensus := fun t => countCensus_frame t m m.ctx [(m.siteKey s stop, siteCounts written)]
    cases hza : o.za
    · obtain ⟨a, ha⟩ := bound_of_mmaReason hr hza
      simp only [Bool.false_eq_true, if_false]
      refine ⟨(modBlock_frame ..).trans (hcensus _).toTileFrame, _, (hcensus _).own.trans (State.block?_modBlock _ _ hb),
        rfl, by simp [hsp], fun _ => rfl, fun n hn => ⟨?_, rfl⟩, ?_⟩
      · simp [SMap.get?_modify, hn]
      · simp [hsp, SMap.get?_modify, ha]
    · simp only [if_true]
      have hbind := (drainName_frame s m (tName o)).trans (moveTilePoison_frame _ m (tName o) none)
      refine ⟨(hbind.toTileFrame.trans (modBlock_frame ..)).trans (hcensus _).toTileFrame, _,
        (hcensus _).own.trans (State.block?_modBlock _ _ (hbind.own.trans hb)),
        rfl, by simp [hsp], fun _ => rfl, fun n hn => ⟨SMap.get?_set_ne _ _ hn, rfl⟩, ?_⟩
      simp [hsp, keeping_tile]
  · simp only [if_true]
    exact ⟨modBlock_frame .., _, State.block?_modBlock _ _ hb, rfl, fun _ => rfl, by simp [hsp],
      fun n hn => ⟨rfl, SMap.get?_set_ne _ _ hn⟩, by simp [hsp]⟩

/-! ### The elements of a product -/

/-- The element sum of an old element and the products of a row of A and a column of B. -/
theorem tileAt_matProduct {sat : Bool} {grp : Nat} {rows cols : List (List FVal)} {base : TileData} {i c : Nat}
    (hc : c < cols.length) : tileAt (matProduct sat grp rows cols base).1 i c = (if i < rows.length then
      BitVec.ofNat 32 (elementSum sat grp (tileAt base i c).toNat (products ((rows[i]?).getD []) ((cols[c]?).getD []))).bits
      else tileAt base i c) := by
  unfold matProduct
  dsimp only
  split
  · rename_i hi
    simp [tileAt, List.getElem?_append, hi, hc, upto]
  · rename_i hi
    simp [tileAt, List.getElem?_append, hi, upto]
    congr
    omega

/-- The rows of A and the columns of B of a product, as values. -/
def Me.matRows (m : Me) (ty : MatTy) (o : TOps) (p q : Nat) (a : Latch) : List (List FVal) :=
  (a.rows.zip (upto a.rows.length)).map fun r => matRow m.blk ty o ((matArrays m.blk ty o p q).2.1.read m.seen) r.2 r.1

def Me.matCols (m : Me) (ty : MatTy) (o : TOps) (p q : Nat) : List (List FVal) :=
  (upto (shpWidth o.shpn)).map fun c =>
    matCol m.blk ty o ((matArrays m.blk ty o p q).1.read m.seen) ((matArrays m.blk ty o p q).2.2.read m.seen) c

section
variable (m : Me) (sat : Bool) (ty : MatTy) (o : TOps) (p q : Nat) (a : Latch)

/-- The elements of the product of an instruction. -/
def Me.product : TileData × List (List Rounded) :=
  matProduct sat (matGroup ty) (m.matRows ty o p q a) (m.matCols ty o p q) (mmaBase m.blk o)

theorem matRows_length : (m.matRows ty o p q a).length = a.rows.length := by simp [Me.matRows, upto]

theorem matCols_length : (m.matCols ty o p q).length = shpWidth o.shpn := by simp [Me.matCols, upto]

theorem matRows_getElem? {i : Nat} (hi : i < a.rows.length) : ((m.matRows ty o p q a)[i]?).getD [] =
    matRow m.blk ty o ((matArrays m.blk ty o p q).2.1.read m.seen) i ((a.rows[i]?).getD []) := by
  simp [Me.matRows, upto, hi]

theorem matCols_getElem? {c : Nat} (hc : c < shpWidth o.shpn) : ((m.matCols ty o p q)[c]?).getD [] =
    matCol m.blk ty o ((matArrays m.blk ty o p q).1.read m.seen) ((matArrays m.blk ty o p q).2.2.read m.seen) c := by
  simp [Me.matCols, upto, hc]

theorem applyMat_rows (s : State) (current : Nat) (h : a.rows ≠ []) : applyMat s m sat ty o p q a current =
    addTileOp (putProduct s m o o.hdr.stop (m.product sat ty o p q a).1 (m.product sat ty o p q a).2.flatten) m
      ((tName o) + if o.sp then 16 else 0) (arrayRegions [(matArrays m.blk ty o p q).1, (matArrays m.blk ty o p q).2.1,
        (matArrays m.blk ty o p q).2.2]) true false current := by
  unfold applyMat
  dsimp only
  rw [if_neg (by simpa using h)]
  rfl

theorem applyMat_none (s : State) (current : Nat) (h : a.rows = []) : applyMat s m sat ty o p q a current =
    releaseCurrent (putProduct s m o o.hdr.stop (mmaBase m.blk o) []) m.c current := by
  unfold applyMat
  dsimp only
  rw [if_pos (by simp [h])]
end

/-- What `applyMat` leaves: the product in the tile of its name, and the rest of the strand's machine as before. -/
theorem applyMat_done {s : State} {m : Me} {sat : Bool} {ty : MatTy} {o : TOps} {p q : Nat} {a : Latch} (current : Nat)
    (hb : s.block? m.c m.st.block = some m.blk) (hr : mmaReason m.blk o = none) :
    TileFrame s (applyMat s m sat ty o p q a current) m ∧ ∃ b,
      (applyMat s m sat ty o p q a current).block? m.c m.st.block = some b ∧ ProductDone m.blk m.seen b sat ty o p q a := by
  by_cases hrows : a.rows = []
  · obtain ⟨hframe, b, hb', hput⟩ := putProduct_put o.hdr.stop (mmaBase m.blk o) [] hb hr
    have hrel := releaseCurrent_frame (putProduct s m o o.hdr.stop (mmaBase m.blk o) []) m current
    rw [applyMat_none m sat ty o p q a s current hrows]
    refine ⟨hframe.trans hrel.toTileFrame, b, hrel.own.trans hb', hput.rest, hput.acc, hput.shadows, hput.names, _,
      hput.tile, fun i c _ => ?_⟩
    simp [hrows]
  · obtain ⟨hframe, b, hb', hput⟩ := putProduct_put o.hdr.stop (m.product sat ty o p q a).1
      (m.product sat ty o p q a).2.flatten hb hr
    have hop := fun u => addTileOp_frame u m ((tName o) + if o.sp then 16 else 0) (arrayRegions [(matArrays m.blk ty o p q).1,
      (matArrays m.blk ty o p q).2.1, (matArrays m.blk ty o p q).2.2]) true false current
    rw [applyMat_rows m sat ty o p q a s current hrows]
    refine ⟨hframe.trans (hop _).toTileFrame, b, (hop _).own.trans hb', hput.rest, hput.acc, hput.shadows, hput.names, _,
      hput.tile, fun i c hc => ?_⟩
    rw [Me.product, tileAt_matProduct (by rwa [matCols_length]), matRows_length]
    split
    · rename_i hi
      rw [matRows_getElem? m ty o p q a hi, matCols_getElem? m ty o p q hc]
    · rfl

/-! ### Completing -/

/-- The strand does not trap STEP. -/
theorem Unstepped.not_step {m : Me} {stop : Bool} {st : Strand} (h : Unstepped m stop) (hdbg : st.regs.dbg = m.st.regs.dbg) :
    (stop && !m.inH && st.regs.dbg.getLsbD 0) = false := by
  cases hs : stop
  · rfl
  · rcases h hs with h | h
    · rw [hdbg, h]
      simp
    · simp [h]

theorem tookTurn_strand?_ne (s : State) (m : Me) {j : Nat} (h : j ≠ m.k) : (tookTurn s m).strand? m.c j = s.strand? m.c j := by
  refine (State.strand?_modStrand_ne _ _ h).trans ?_
  simp [State.strand?]

/-- An instruction of a strand that does not trap STEP leaves the other strands as its effect left them. -/
theorem completed_strand?_ne {s' : State} {m : Me} {bo stop : Bool} {next : PC} {st : Strand} {j : Nat}
    (hst : s'.strand? m.c m.k = some st) (hdbg : st.regs.dbg = m.st.regs.dbg) (hu : Unstepped m stop) (hj : j ≠ m.k) :
    (completed m bo stop next s').strand? m.c j = s'.strand? m.c j := by
  unfold completed
  rw [retire_unstepped hst (hu.not_step hdbg)]
  cases bo
  · exact retiredState_strand?_ne _ _ _ _ _ _ hj
  · exact (tookTurn_strand?_ne _ _ hj).trans (retiredState_strand?_ne _ _ _ _ _ _ hj)

/-- Settles O33: the checks of `mma` pass one by one, and its effect is `applyMat` and the latch. -/
theorem matrixProduct : Obligations.MatrixProduct := by
  unfold Obligations.MatrixProduct
  intro s s' m sat ty o current p q a u shadows hr hreason hclear hsp hza harr hadm t
  refine ⟨?_, fun hu => ?_⟩
  · rw [exec_mma, execMma]
    refine issueBy_done hr ?_
    dsimp only
    rw [withReasons_pass hclear.1 hreason, withTile_pass hclear.2, withMmaTile_pass hsp hza, withArrays_clear harr,
      Me.admission, admission_of hadm]
    rfl
  · obtain ⟨-, hst, hb, -⟩ := me?_some hr.here
    have hframe := hadm.frame
    obtain ⟨happly, b, hb', hdone⟩ := applyMat_done (sat := sat) (ty := ty) (p := p) (q := q) (a := a) current
      (hframe.own.trans hb) hreason
    have hst' := ((hframe.toTileFrame.trans happly).strands m.k).trans hst
    have hlatch : (m.setLatch (applyMat s' m sat ty o p q a current) o a).strand? m.c m.k = some
        { m.st with regs := { m.st.regs with latch := if o.ru then some a else none } } := State.strand?_modStrand _ _ hst'
    obtain ⟨st, hst'', hpc, hregs, hstack, -, -, -, -, -, hmem, hblocks⟩ :=
      completed_unstepped (bo := u.bo) (next := successor m.st.pc) hlatch rfl hu
    have hmem' : (m.setLatch (applyMat s' m sat ty o p q a current) o a).mem = s.mem :=
      (State.modStrand_mem ..).trans (hframe.toTileFrame.trans happly).memory
    refine ⟨fun x => by rw [hmem, hmem'], b, st, ?_, hst'', hdone, hpc, hregs, hstack, fun x hx => ?_, fun j hj => ?_⟩
    · exact (hblocks _).trans ((State.block?_modStrand ..).trans hb')
    · exact (hblocks _).trans ((State.block?_modStrand ..).trans ((hframe.toTileFrame.trans happly).blocks x hx))
    · exact (completed_strand?_ne hlatch rfl hu hj).trans
        ((State.strand?_modStrand_ne _ _ hj).trans ((hframe.toTileFrame.trans happly).strands j))

end Sys2Proof.Machine
end

section
/-!
PROOFS. `finit`, `fstat` and `fsolv` (10 R163, R168, R169).
-/
namespace Sys2Proof.Machine

/-! ### Admission -/

theorem shareLine_cap (s : State) (b : Bool) (pa : Nat) : (shareLine s b pa).cap = s.cap := by
  unfold shareLine; split <;> rfl

theorem hubHolds_cap (s : State) (ctx va n : Nat) : (hubHolds s ctx va n).cap = s.cap :=
  foldl_keeps (g := State.cap) (fun s i => by
    dsimp only
    split
    · exact shareLine_cap ..
    · rfl) _ s

/-- An admission leaves what the agenda gives the attempt. -/
theorem Admitted.cap {s t : State} {m : Me} {th : BitVec 4} {current : Nat} (h : Admitted s m th current t) : t.cap = s.cap := by
  have hread : (headerRead s m.blk m.st.role th.toNat).cap = s.cap := by
    unfold headerRead
    split
    · rfl
    · exact hubHolds_cap ..
  rcases h with ⟨-, rfl⟩ | ⟨-, -, -, rfl⟩ | ⟨-, -, -, -, -, rfl⟩ <;> exact hread

/-- An `fsolv` that stands is not admitted again; one that begins is admitted and over in `s'`. -/
def AdmittedOnce (s : State) (m : Me) (o : FOps) (s' : State) : Prop :=
  if m.st.solve.isSome && !m.inH then s' = s else ∃ u current, Admitted s m o.th current u ∧ s' = releaseCurrent u m.c current

section
variable {s s' : State} {m : Me} {o : FOps}

theorem admitOnce_of (h : AdmittedOnce s m o s') (k : State → Eff) : admitOnce s m o k = k s' := by
  unfold AdmittedOnce at h
  unfold admitOnce
  split at h
  · rw [if_pos ‹_›, h]
  · obtain ⟨u, current, hadm, rfl⟩ := h
    rw [if_neg ‹_›]
    exact admission_of hadm _

theorem AdmittedOnce.cap (h : AdmittedOnce s m o s') : s'.cap = s.cap := by
  unfold AdmittedOnce at h
  split at h
  · rw [h]
  · obtain ⟨u, current, hadm, rfl⟩ := h
    exact hadm.cap

theorem AdmittedOnce.strand? (h : AdmittedOnce s m o s') (k : Nat) : s'.strand? m.c k = s.strand? m.c k := by
  unfold AdmittedOnce at h
  split at h
  · rw [h]
  · obtain ⟨u, current, hadm, rfl⟩ := h
    exact (hadm.frame.trans (releaseCurrent_frame u m current)).strands k

/-! ### A solve -/

/-- The rows from PI's INDEX on, and those that the agenda gives the attempt. -/
def Me.solveRows (m : Me) (o : FOps) : List Nat := (upto (factorTile m.blk (fName o)).1).drop (solveIndex m)

def Me.solveNow (m : Me) (s : State) (o : FOps) : List Nat :=
  match s.cap with | some q => (m.solveRows o).take q | none => m.solveRows o

/-- The elements after the attempt, and the row whose diagonal is zero. -/
def Me.solved (m : Me) (s : State) (o : FOps) : List W32 × Option Nat :=
  solveFrom o.dir (factorTile m.blk (fName o)).1 (factorTile m.blk (fName o)).2 (m.solveNow s o)
    ((upto (factorTile m.blk (fName o)).1).map fun i =>
      match (m.responders s)[i]? with | some j => m.v o.vx.toNat j | none => 0)

/-- An attempt whose elements are written, in `s'`. -/
def Me.wroteSolved (m : Me) (s s' : State) (o : FOps) : State := m.putV s' o.vx.toNat ((m.responders s).zip (m.solved s o).1)

/-- What stops an attempt of an `fsolv` is the agenda. -/
theorem cap_of_solveNow {k : Nat} {rest : List Nat} (h : (m.solveRows o).drop (m.solveNow s o).length = k :: rest) :
    s.cap.isSome = true := by
  unfold Me.solveNow at h
  cases hc : s.cap with
  | none => simp [hc] at h
  | some q => rfl

theorem clearRegPoison_clusters (s : State) (c block win name : Nat) (ts : List Nat) :
    (clearRegPoison s c block win name ts).clusters = s.clusters := by
  unfold clearRegPoison; split <;> rfl

theorem clearRegPoison_cap (s : State) (c block win name : Nat) (ts : List Nat) :
    (clearRegPoison s c block win name ts).cap = s.cap := by
  unfold clearRegPoison; split <;> rfl

theorem putV_strand? (s : State) (m : Me) (name : Nat) (vals : List (Nat × W32)) (k : Nat) :
    (m.putV s name vals).strand? m.c k = s.strand? m.c k := by
  unfold Me.putV
  simp only [State.strand?, State.cluster, clearRegPoison_clusters]
  exact State.strand?_modBlock ..

theorem putV_cap (s : State) (m : Me) (name : Nat) (vals : List (Nat × W32)) : (m.putV s name vals).cap = s.cap := by
  unfold Me.putV
  exact (clearRegPoison_cap ..).trans (State.modBlock_cap ..)

section
variable (hs : sweeping s m (fName o) = false) (hr : factorReason m.blk (fName o) false = none) (hadm : AdmittedOnce s m o s')
include hs hr hadm

theorem fsolvEff_none (hts : m.responders s = []) : fsolvEff s m o = .done (endSolve s' m) := by
  unfold fsolvEff
  rw [withReasons_pass hs hr, withTile_pass (tileKey_sound (.inl hts)), admitOnce_of hadm, if_pos (by simp [hts])]

variable (hk : ∀ k, some (fName o) = some k → tilePoison s m.c m.st.block k = none) (hts : m.responders s ≠ [])
include hk hts

/-- An attempt comes to what the solve of its rows comes to. -/
theorem fsolvEff_some : fsolvEff s m o =
    match (m.solved s o).2, (m.solveRows o).drop (m.solveNow s o).length with
    | some k, _ => .trap causeSingular (BitVec.ofNat 64 (if o.dir then (factorTile m.blk (fName o)).1 - 1 - k else k))
        (stopSolve (m.wroteSolved s s' o) m o k)
    | none, k :: _ => .stall .engine (stopSolve (m.wroteSolved s s' o) m o k)
    | none, [] => .done (endSolve (m.wroteSolved s s' o) m) := by
  unfold fsolvEff
  rw [withReasons_pass hs hr, withTile_pass (tileKey_sound (.inr ⟨hs, hk⟩)), admitOnce_of hadm, if_neg (by simpa using hts),
    hadm.cap]
  rfl
end

/-- The strand stands before an element where the agenda stops the attempt: it has had its `bo` point. -/
theorem captured_stopSolve {t : State} {k : Nat} (hst : t.strand? m.c m.k = some m.st) (hcap : t.cap.isSome = true) :
    captured (stopSolve t m o k) m = true := by
  have hstrand : (stopSolve t m o k).strand? m.c m.k = some
      { m.st with regs := { m.st.regs with pi := piOf 4 k }, solve := some (fName o) } := State.strand?_modStrand _ _ hst
  have hcap' : (stopSolve t m o k).cap.isSome = true := by
    rw [stopSolve, State.modStrand_cap]
    exact hcap
  unfold captured
  rw [hstrand]
  simp [hcap']

theorem bindReason_of_no_shadow {b : Block} {name : Nat} (h : b.shadows.get? name = none) : bindReason b name = none := by
  simp [bindReason, h]
end

/-- Settles O38: the three instructions past their checks; an `fsolv` ends, stands or traps by what its solve comes to. -/
theorem factorBindsAndSolves : Obligations.FactorBindsAndSolves := by
  unfold Obligations.FactorBindsAndSolves
  intro s s' m o
  refine ⟨fun hs => ⟨fun hr hsh => ⟨fun hlo hhi hfresh => ?_, fun hn => ?_⟩, fun hr => ?_⟩, fun hr hreason =>
    ⟨fun hts hs hadm => ?_, fun hts hclear hadm => ?_⟩⟩
  · rw [exec_finit, execFinit]
    refine issue_done hr ?_
    dsimp only
    rw [withReasons_pass hs (by simp only [bindReason_of_no_shadow hsh, fName]; rw [if_neg (by simp; omega)]),
      withFresh_pass hfresh]
    rfl
  · rw [exec_finit, execFinit]
    refine issueBy_trap (u := fun _ => { src := [(o.sn, o.hdr.wfb)] }) hr ?_
    dsimp only
    exact withReasons_trap hs (by simp only [bindReason_of_no_shadow hsh, fName]; rw [if_pos (by simp; omega)]) _
  · rw [exec_fstat, execFstat]
    refine issue_done hr ?_
    rw [withReasons_pass hs rfl]
    rfl
  · rw [exec_fsolv, execFsolv]
    exact issueBy_done hr (fsolvEff_none hs hreason hadm hts)
  · have heff := fsolvEff_some (o := o) hclear.1 hreason hadm hclear.2 hts
    rw [exec_fsolv, execFsolv]
    refine ⟨fun he hd => ?_, fun k rest he hd => ?_, fun k he => ?_⟩
    · refine issueBy_done hr (heff.trans ?_)
      rw [show (m.solved s o).2 = none from he, show (m.solveRows o).drop (m.solveNow s o).length = [] from hd]
      rfl
    · rw [show (m.solved s o).2 = none from he, show (m.solveRows o).drop (m.solveNow s o).length = k :: rest from hd] at heff
      have hst : (m.wroteSolved s s' o).strand? m.c m.k = some m.st :=
        (putV_strand? ..).trans ((AdmittedOnce.strand? hadm _).trans (me?_some hr.here).2.1)
      have hcap : (m.wroteSolved s s' o).cap.isSome = true := by
        rw [Me.wroteSolved, putV_cap, AdmittedOnce.cap hadm]
        exact cap_of_solveNow hd
      rw [issueBy_ready hr, heff]
      simp only [settleTurn, captured_stopSolve hst hcap]
      rfl
    · rw [show (m.solved s o).2 = some k from he] at heff
      exact issueBy_trap hr heff

end Sys2Proof.Machine
end

section
/-!
PROOFS. `bmv`: the checks of its descriptor, the run that it begins, and the run's rows and end (11 R183-R187).
-/
namespace Sys2Proof.Machine

/-! ### The checks of the descriptor -/

section
variable {s : State} {m : Me}

theorem withReads_one {a n : Nat} (h : RangeFree s m true a n) (k : Unit → Eff) : withReads s m [(a, n)] k = k () := by
  obtain ⟨⟨hbusy, hpoison⟩, hsent, hfence⟩ := h
  unfold withReads
  rw [if_neg (by simpa [hbusy, hsent, bit01] using hfence)]
  simp [hpoison rfl]

/-- Arrays whose ranges are free come to the effect on them. -/
theorem withRanges_free {arrs : List MemArray} (h : ∀ a ∈ arrs, a.len ≠ 0 →
    a.addr % a.align = 0 ∧ a.addr + a.len ≤ m.blk.scratchLen ∧ rangeBusy s m a.addr a.len = false) (k : Unit → Eff) :
    withRanges s m arrs k = k () := by
  have hmem : ∀ a ∈ (arrs.filter fun a => a.len != 0) |> sortBy MemArray.addr, a.addr % a.align = 0 ∧
      a.addr + a.len ≤ m.blk.scratchLen ∧ rangeBusy s m a.addr a.len = false := fun a ha => by
    obtain ⟨ha, hlen⟩ := List.mem_filter.mp (mem_sortBy.mp ha)
    exact h a ha (by simpa using hlen)
  unfold withRanges
  dsimp only
  rw [List.find?_eq_none.mpr fun a ha => by
    obtain ⟨halign, hfits, -⟩ := hmem a ha
    simp [MemArray.fits, halign, Block.holds, hfits]]
  exact if_neg (by
    rw [Bool.not_eq_true, List.any_eq_false]
    intro a ha
    simp [(hmem a ha).2.2])

theorem bankBare_iff {d : BankDesc} : m.bankBare s d = true ↔ d.reg = true ∧ m.bankThreads s d = [] := by
  simp [Me.bankBare]

variable {ty : MatTy} {o : TOps}

/-- The descriptor is aligned, in the scratchpad, and can be read. -/
structure DescFound (s : State) (m : Me) (o : TOps) : Prop where
  aligned : (m.st.regs.get o.sb).toNat % 8 = 0
  fits : (m.st.regs.get o.sb).toNat + 32 ≤ m.blk.scratchLen
  free : RangeFree s m true (m.st.regs.get o.sb).toNat 32

/-- The weights of the descriptor begin where they may, or there are none to be read. -/
def BaseGood (s : State) (m : Me) (d : BankDesc) : Prop :=
  m.bankBare s d = true ∨ d.wbase < 2 ^ 57 ∧ d.wbase % 128 = 0

theorem bankRead_iff (h : DescFound s m o) : m.bankRead s ty o = true ↔
    BaseGood s m (m.bankDesc o) ∧ bankReason m.blk ty o (m.bankDesc o) = none := by
  obtain ⟨halign, hfits, ⟨hbusy, hpoison⟩, hsent, hfence⟩ := h
  have hfence : m.st.fenced 0 = false := hfence
  simp [Me.bankRead, Block.holds, halign, hfits, hbusy, hpoison, hsent, hfence, BaseGood]

variable (k : BankDesc → List Nat → Eff)

theorem withBank_far (h : DescFound s m o) (hb : m.bankBare s (m.bankDesc o) = false) (hfar : 2 ^ 57 ≤ (m.bankDesc o).wbase) :
    withBank s m ty o k = .trap causeAccess (addrInfo 0 (m.bankDesc o).wbase) s := by
  unfold withBank
  dsimp only
  rw [if_neg (by simp [h.aligned]), if_neg (by simp [Block.holds, h.fits]), withReads_one h.free]
  rw [if_pos (by simpa [hb] using hfar)]

theorem withBank_misaligned (h : DescFound s m o) (hb : m.bankBare s (m.bankDesc o) = false)
    (hnear : (m.bankDesc o).wbase < 2 ^ 57) (hodd : (m.bankDesc o).wbase % 128 ≠ 0) :
    withBank s m ty o k = .trap causeMisalign (addrInfo 0 (m.bankDesc o).wbase) s := by
  unfold withBank
  dsimp only
  rw [if_neg (by simp [h.aligned]), if_neg (by simp [Block.holds, h.fits]), withReads_one h.free]
  rw [if_neg (by simpa [hb] using hnear), if_pos (by simpa [hb] using hodd)]

/-- The checks of a descriptor whose weights begin where they may: the reasons, the arrays and the pages. -/
def bankChecked (s : State) (m : Me) (ty : MatTy) (o : TOps) (k : BankDesc → List Nat → Eff) : Eff :=
  match bankReason m.blk ty o (m.bankDesc o) with
  | some r => bankTrap s r
  | none =>
      if m.bankBare s (m.bankDesc o) then k (m.bankDesc o) []
      else withRanges s m (bankArrays m.blk ty (m.bankDesc o)) fun _ =>
        match translateAll s m .load 1 noAlso ((upto (bankPages m.blk (m.bankDesc o)).length).zip
          (bankPages m.blk (m.bankDesc o))) with
        | .trap _ va c => .trap c (addrInfo 0 va) s
        | .walk t page => waitWalk s m false t page
        | .ok l =>
            match l.find? fun q => bankPageBad m.blk (m.bankDesc o) q.2.1 q.2.2 with
            | some _ => bankTrap s 0x20
            | none => k (m.bankDesc o) (l.map fun q => q.2.1 / 4096 * 4096)

theorem withBank_based (h : DescFound s m o) (hbase : BaseGood s m (m.bankDesc o)) :
    withBank s m ty o k = bankChecked s m ty o k := by
  have hnear : ¬((!m.bankBare s (m.bankDesc o) && decide (2 ^ 57 ≤ (m.bankDesc o).wbase)) = true) := by
    rcases hbase with hb | ⟨hn, -⟩
    · simp [hb]
    · simp; omega
  have heven : ¬((!m.bankBare s (m.bankDesc o) && (m.bankDesc o).wbase % 128 != 0) = true) := by
    rcases hbase with hb | ⟨-, he⟩
    · simp [hb]
    · simp [he]
  unfold withBank
  dsimp only
  rw [if_neg (by simp [h.aligned]), if_neg (by simp [Block.holds, h.fits]), withReads_one h.free]
  rw [if_neg hnear, if_neg heven]
  rfl

theorem withBank_reason (h : DescFound s m o) (hbase : BaseGood s m (m.bankDesc o)) {r : Nat}
    (hr : bankReason m.blk ty o (m.bankDesc o) = some r) :
    withBank s m ty o k = .trap causeAccess (payload [(48, 0), (8, r)]) s := by
  rw [withBank_based k h hbase, bankChecked, hr]
  rfl

theorem withBank_bare (h : DescFound s m o) (hb : m.bankBare s (m.bankDesc o) = true)
    (hr : bankReason m.blk ty o (m.bankDesc o) = none) : withBank s m ty o k = k (m.bankDesc o) [] := by
  rw [withBank_based k h (.inl hb), bankChecked, hr]
  exact if_pos hb

theorem withBank_pages (h : DescFound s m o) (hb : m.bankBare s (m.bankDesc o) = false)
    (hbase : BaseGood s m (m.bankDesc o)) (hr : bankReason m.blk ty o (m.bankDesc o) = none)
    (hfree : ∀ a ∈ bankArrays m.blk ty (m.bankDesc o), a.len ≠ 0 →
      a.addr % a.align = 0 ∧ a.addr + a.len ≤ m.blk.scratchLen ∧ rangeBusy s m a.addr a.len = false)
    {l : List (Nat × Nat × Nat)}
    (hl : translateAll s m .load 1 noAlso ((upto (bankPages m.blk (m.bankDesc o)).length).zip
      (bankPages m.blk (m.bankDesc o))) = .ok l)
    (hgood : ∀ q ∈ l, bankPageBad m.blk (m.bankDesc o) q.2.1 q.2.2 = false) :
    withBank s m ty o k = k (m.bankDesc o) (l.map fun q => q.2.1 / 4096 * 4096) := by
  rw [withBank_based k h hbase, bankChecked, hr]
  dsimp only
  rw [if_neg (by simp [hb]), withRanges_free hfree, hl]
  dsimp only
  rw [List.find?_eq_none.mpr fun q hq => by simp [hgood q hq]]

/-! ### What the instruction comes to -/

/-- A descriptor that does not pass its checks leaves the population alone. -/
theorem bankUses_unread (h : m.bankRead s ty o = false) : (bankUses s ty o m).bo = false := by
  simp [bankUses, h]

variable {sat : Bool}

theorem execBmv_trap (hr : Ready s m (bankUses s ty o m)) (hread : m.bankRead s ty o = false) {cause : Nat} {info : Word}
    (h : ∀ k, withBank s m ty o k = .trap cause info s) :
    exec (.bmv sat ty o) s = .next (trappedIn s m cause info 0xE9) := by
  rw [exec_bmv, execBmv, issueBy_trap hr (cause := cause) (info := info) (s' := s) (by rw [h]; rfl)]
  rw [bankUses_unread hread]
  rfl

/-- The scalar of the descriptor is full. -/
theorem bankUses_full (hr : Ready s m (bankUses s ty o m)) : m.st.regs.isEmpty o.sb = false := by
  refine (hr.full (o.sb, o.hdr.wfb) ?_).2
  unfold bankUses
  dsimp only
  split <;> simp

theorem bankUses_bo (hr : Ready s m (bankUses s ty o m)) (hread : m.bankRead s ty o = true) :
    (bankUses s ty o m).bo = (m.bankDesc o).reg := by
  have hfull := bankUses_full hr
  cases hreg : (m.bankDesc o).reg <;> simp [bankUses, hreg, hfull, hread]

/-- An entry is to be had, or none is needed. -/
theorem bankWaits_free (h : m.bankBare s (m.bankDesc o) = false → (m.bankDesc o).reg = true →
    entriesOf (s.cluster m.c) m.k < Config.deliveryEntries) : bankWaits s m o = false := by
  unfold bankWaits
  dsimp only
  cases hreg : (m.bankDesc o).reg
  · simp
  · cases hb : m.bankBare s (m.bankDesc o)
    · simpa [noEntry] using h hb hreg
    · simp

/-! ### The run that begins -/

/-- An admission changes nothing of the cluster but its power. -/
theorem Admitted.cluster {t : State} {th : BitVec 4} {current : Nat} (h : Admitted s m th current t) :
    ∃ p, t.cluster m.c = { s.cluster m.c with power := p } := by
  have hread : (headerRead s m.blk m.st.role th.toNat).cluster m.c = s.cluster m.c := by simp [State.cluster]
  rcases h with ⟨-, rfl⟩ | ⟨-, -, -, rfl⟩ | ⟨-, -, -, -, -, rfl⟩
  · exact ⟨_, (State.cluster_setCluster ..).trans (by rw [hread])⟩
  · exact ⟨(s.cluster m.c).power, hread⟩
  · exact ⟨_, (State.cluster_setCluster ..).trans (by rw [hread])⟩

theorem Admitted.acting {t : State} {th : BitVec 4} {current : Nat} (h : Admitted s m th current t) (all : Bool) :
    m.acting t all = m.acting s all := by
  obtain ⟨p, hp⟩ := h.cluster
  simp [Me.acting, Me.act, Me.stack, hp]

variable {d : BankDesc} {pages : List Nat} {current : Nat}

/-- What a run holds when it begins. -/
structure BankBegun (m : Me) (o : TOps) (d : BankDesc) (pages : List Nat) (ts : List Nat) (current : Nat) (op : BankOp) : Prop where
  reg : op.reg = d.reg
  desc : op.desc = readBytes m.blk.scratch (m.st.regs.get o.sb).toNat 32
  pages : op.pages = pages
  threads : op.threads = ts
  olds : op.olds = if d.reg then (upto ts.length).zip (ts.map fun i => (m.v o.va.toNat i).toNat) else []
  ys : op.ys = []
  rows : op.rows = if d.reg then ts.length else d.rows
  delivery : op.delivery.isSome = d.reg
  current : op.current = current

theorem takeEntry_bankOps (name count : Nat) (ts : List Nat) (data : SMap (List W32)) :
    ((takeEntry s m name count ts data).1.cluster m.c).bankOps = (s.cluster m.c).bankOps := by
  simp [takeEntry]

theorem beginBank_begun : ∃ op, ((beginBank s m sat ty o d pages current).cluster m.c).bankOps =
    (s.cluster m.c).bankOps ++ [op] ∧ BankBegun m o d pages (m.bankThreads s d) current op := by
  unfold beginBank
  cases hreg : d.reg
  · exact ⟨_, congrArg Cluster.bankOps (State.cluster_modCluster ..), by constructor <;> simp [hreg]⟩
  · exact ⟨_, (congrArg Cluster.bankOps (State.cluster_modCluster ..)).trans
      (congrArg (· ++ [_]) (takeEntry_bankOps ..)), by constructor <;> simp [hreg]⟩

theorem beginBank_mem : (beginBank s m sat ty o d pages current).mem = s.mem := by
  unfold beginBank
  cases d.reg <;> simp

theorem beginBank_strand? (k : Nat) : (beginBank s m sat ty o d pages current).strand? m.c k = s.strand? m.c k := by
  unfold beginBank
  cases d.reg <;> simp [State.strand?, takeEntry]

/-- A completed instruction leaves the runs of its cluster as its effect left them. -/
theorem completed_bankOps {s' : State} {bo stop : Bool} {next : PC} {st : Strand}
    (hst : s'.strand? m.c m.k = some st) (hdbg : st.regs.dbg = m.st.regs.dbg) (hu : Unstepped m stop) :
    ((completed m bo stop next s').cluster m.c).bankOps = (s'.cluster m.c).bankOps := by
  unfold completed
  rw [retire_unstepped hst (hu.not_step hdbg)]
  cases bo
  · simp [retiredState_cluster]
  · refine (congrArg Cluster.bankOps (State.cluster_modStrand ..)).trans ?_
    simp [retiredState_cluster]

end

/-! ### A row of a run -/

section
variable {s : State} {c id i : Nat} {op : BankOp} {b : Block}

/-- A row is made of the weights that memory holds. -/
theorem bankRow_mem {t : State} (h : t.mem = s.mem) : bankRow t b op i = bankRow s b op i := by
  simp [bankRow, weightRow, h]

@[simp] theorem touch_mem (s : State) (c k block : Nat) (space : Option Nat) (a n : Nat) :
    (touch s c k block space a n).mem = s.mem := by
  unfold touch; split <;> rfl

@[simp] theorem touch_clusters (s : State) (c k block : Nat) (space : Option Nat) (a n : Nat) :
    (touch s c k block space a n).clusters = s.clusters := by
  unfold touch; split <;> rfl

@[simp] theorem scratchWrite_mem (s : State) (c block a : Nat) (bs : List Byte) : (scratchWrite s c block a bs).mem = s.mem := by
  unfold scratchWrite
  dsimp only
  split <;> simp

theorem scratchWrite_block? {block : Nat} (a : Nat) (bs : List Byte) (hb : s.block? c block = some b) :
    (scratchWrite s c block a bs).block? c block = some { b with scratch := writeBytes b.scratch a bs } := by
  unfold scratchWrite
  dsimp only
  split
  · exact State.block?_modBlock _ _ hb
  · exact State.block?_modBlock s (fun b => { b with scratch := writeBytes b.scratch a bs }) hb

/-- The attempt of a part that is open and waits for nothing. -/
theorem bankPart_done {p : BankPart} (hop : (s.cluster c).bankOps.find? (fun x => x.id == id) = some op)
    (hb : s.block? c op.block = some b) (hopen : op.open' b p = true) (hheld : bankHeld s c b op p = false)
    (hpoison : bankPoison s c b op p = none) : bankPart c id p s =
      some (bankDo (touch s c 9 op.block (some op.block) (op.touches b p).1 (op.touches b p).2) c b op p) := by
  simp [bankPart, hop, hb, hopen, hheld, hpoison]

theorem bankPart_closed {p : BankPart} (hop : (s.cluster c).bankOps.find? (fun x => x.id == id) = some op)
    (hb : s.block? c op.block = some b) (hopen : op.open' b p = false) : bankPart c id p s = none := by
  simp [bankPart, hop, hb, hopen]

/-- Scratchpad mode puts y of a row in its place. -/
theorem bankDo_row (hreg : op.reg = false) (hb : s.block? c op.block = some b) :
    (bankDo s c b op (.row i)).mem = s.mem ∧ (bankDo s c b op (.row i)).block? c op.block = some { b with
      scratch := writeNat b.scratch ((bankDesc op.desc).yadr + 4 * i) 4 (bankRow s b op i).bits } := by
  unfold bankDo
  simp only [hreg, BankOp.touches]
  refine ⟨by simp, ?_⟩
  have hw := scratchWrite_block? ((bankDesc op.desc).yadr + 4 * i) (leBytes 4 (bankRow s b op i).bits) hb
  simpa [State.block?, writeNat] using hw

/-! ### The end of a run -/

/-- A fold of steps each of which leaves the state as it is. -/
theorem foldl_fixed {α β : Type} {f : β → α → β} {x : β} {l : List α} (h : ∀ a ∈ l, f x a = x) : l.foldl f x = x := by
  induction l with
  | nil => rfl
  | cons a l ih => rw [List.foldl_cons, h a (by simp), ih fun a ha => h a (by simp [ha])]

@[simp] theorem dropDebts_mem (s : State) (c : Nat) (gone : Nat → Bool) : (dropDebts s c gone).mem = s.mem := by
  unfold dropDebts; split <;> rfl

@[simp] theorem dropDebts_clusters (s : State) (c : Nat) (gone : Nat → Bool) : (dropDebts s c gone).clusters = s.clusters := by
  unfold dropDebts; split <;> rfl

/-- A pairing takes its first elements from the front of its first list. -/
theorem map_fst_zip_sublist {α β : Type} (l : List α) (l' : List β) : ((l.zip l').map Prod.fst).Sublist l := by
  induction l generalizing l' with
  | nil => simp
  | cons a l ih =>
    cases l' with
    | nil => simp
    | cons b l' => simpa using ih l'

/-- The data of the threads that a delivery gets, of which no thread stands twice. -/
theorem get?_foldl_set {α β : Type} (g : β → α) {l : List (Nat × β)} (m : SMap α) (h : (l.map Prod.fst).Nodup) {p : Nat × β}
    (hp : p ∈ l) : (l.foldl (fun m p => m.set p.1 (g p.2)) m).get? p.1 = some (g p.2) := by
  have hother : ∀ (l : List (Nat × β)) (m : SMap α), p.1 ∉ l.map Prod.fst →
      (l.foldl (fun m p => m.set p.1 (g p.2)) m).get? p.1 = m.get? p.1 := by
    intro l
    induction l with
    | nil => exact fun _ _ => rfl
    | cons q l ih =>
      intro m hq
      simp only [List.map_cons, List.mem_cons, not_or] at hq
      rw [List.foldl_cons, ih _ hq.2, SMap.get?_set_ne _ _ hq.1]
  induction l generalizing m with
  | nil => cases hp
  | cons q l ih =>
    simp only [List.map_cons, List.nodup_cons] at h
    rcases List.mem_cons.mp hp with rfl | hp
    · rw [List.foldl_cons, hother l _ h.1, SMap.get?_set_self]
    · exact ih _ h.2 hp

/-- What the end of a run leaves in its cluster. -/
theorem bankFinish_cluster : ((bankFinish s c b op).cluster c).bankOps = (s.cluster c).bankOps.filter (fun x => x.id != op.id) ∧
    ((bankFinish s c b op).cluster c).power.infl = (s.cluster c).power.infl - op.current ∧
    ((bankFinish s c b op).cluster c).deliveries = match op.delivery with
      | none => (s.cluster c).deliveries
      | some e => (s.cluster c).deliveries.map fun d => if d.id == e then { d with
          data := (op.threads.zip (op.results.map Rounded.bits)).foldl (fun m p => m.set p.1 (wordsOf 4 p.2)) d.data } else d := by
  have hdrop : ∀ f gone, (dropDebts (s.modCluster c f) c gone).cluster c = f (s.cluster c) := fun f gone => by
    rw [State.cluster, dropDebts_clusters]
    exact State.cluster_modCluster ..
  unfold bankFinish
  cases op.delivery <;> simp [releaseCurrent, untrack, countCensus, giveBack, hdrop]

theorem bankFinish_mem : (bankFinish s c b op).mem = s.mem := by
  unfold bankFinish
  cases op.delivery <;> simp [releaseCurrent, untrack, countCensus, giveBack]

/-- A run whose rows are all made, and of which nothing is open, ends. -/
theorem bankComputeDone_of (hop : (s.cluster c).bankOps.find? (fun x => x.id == id) = some op)
    (hb : s.block? c op.block = some b) (hserial : serialMode s c = false) (hys : op.ys.length = op.rows)
    (hclosed : ∀ p ∈ op.parts b, op.open' b p = false) : bankComputeDone c id s = some (bankFinish s c b op) := by
  unfold bankComputeDone
  rw [hop, Option.bind_some, hb, Option.bind_some]
  dsimp only
  rw [hserial, Bool.false_and, if_neg Bool.false_ne_true,
    foldl_fixed fun p hp => by rw [bankPart_closed hop hb (hclosed p hp)]; rfl, hop]
  exact if_pos (by simpa using hys)

end

/-! ### The obligation -/

section
variable {s : State} {m : Me} {ty : MatTy} {o : TOps} {sat : Bool} {current : Nat} {s' : State}

/-- Register mode with no thread is over once it is admitted. -/
theorem execBmv_bare (hr : Ready s m (bankUses s ty o m)) (hfound : DescFound s m o)
    (hb : m.bankBare s (m.bankDesc o) = true) (hreason : bankReason m.blk ty o (m.bankDesc o) = none)
    (hadm : Admitted s m o.th current s') : exec (.bmv sat ty o) s = .next (completed m true o.hdr.stop (successor m.st.pc)
      (releaseCurrent (countCensus s' m.c m.ctx [(m.siteKey s' o.hdr.stop, siteCounts [])]) m.c current)) := by
  have hread : m.bankRead s ty o = true := (bankRead_iff hfound).mpr ⟨.inl hb, hreason⟩
  have hbo : (bankUses s ty o m).bo = true := (bankUses_bo hr hread).trans (bankBare_iff.mp hb).1
  have hb' : m.bankBare s' (m.bankDesc o) = true := by
    rw [bankBare_iff] at hb ⊢
    simpa [Me.bankThreads, hadm.acting] using hb
  rw [exec_bmv, execBmv, issueBy_done hr (s' := releaseCurrent (countCensus s' m.c m.ctx
    [(m.siteKey s' o.hdr.stop, siteCounts [])]) m.c current), hbo]
  rw [withBank_bare _ hfound hb hreason, bankWaits_free (fun h => absurd hb (by simp [h])), if_neg Bool.false_ne_true,
    Me.admission, admission_of hadm, if_pos hb']
  rfl

/-- A run begins once the pages and arrays pass, its entry is to be had and its task is admitted. -/
theorem execBmv_begins {l : List (Nat × Nat × Nat)} (hr : Ready s m (bankUses s ty o m)) (hfound : DescFound s m o)
    (hb : m.bankBare s (m.bankDesc o) = false) (hbase : BaseGood s m (m.bankDesc o))
    (hreason : bankReason m.blk ty o (m.bankDesc o) = none)
    (hfree : ∀ a ∈ bankArrays m.blk ty (m.bankDesc o), a.len ≠ 0 →
      a.addr % a.align = 0 ∧ a.addr + a.len ≤ m.blk.scratchLen ∧ rangeBusy s m a.addr a.len = false)
    (hl : translateAll s m .load 1 noAlso ((upto (bankPages m.blk (m.bankDesc o)).length).zip
      (bankPages m.blk (m.bankDesc o))) = .ok l)
    (hgood : ∀ q ∈ l, bankPageBad m.blk (m.bankDesc o) q.2.1 q.2.2 = false)
    (hentry : (m.bankDesc o).reg = true → entriesOf (s.cluster m.c) m.k < Config.deliveryEntries)
    (hadm : Admitted s m o.th current s') : exec (.bmv sat ty o) s = .next (completed m (bankUses s ty o m).bo o.hdr.stop
      (successor m.st.pc) (beginBank s' m sat ty o (m.bankDesc o) (l.map fun q => q.2.1 / 4096 * 4096) current)) := by
  have hb' : m.bankBare s' (m.bankDesc o) = false := by
    rw [← Bool.not_eq_true, bankBare_iff] at hb ⊢
    simpa [Me.bankThreads, hadm.acting] using hb
  rw [exec_bmv, execBmv]
  refine issueBy_done hr ?_
  rw [withBank_pages _ hfound hb hbase hreason hfree hl hgood, bankWaits_free fun _ => hentry, if_neg Bool.false_ne_true,
    Me.admission, admission_of hadm, if_neg (by simp [hb'])]
  rfl
end

/-- Settles O40: the checks of the descriptor pass one by one, and the run's parts and end are those of the model. -/
theorem bankProduct : Obligations.BankProduct := by
  unfold Obligations.BankProduct
  intro s s' m sat ty o l current p d u pages ts bare free stops
  refine ⟨fun hr h8 hfit hfree => ?_, fun c id op b hop hb => ⟨?_, fun hserial hys hclosed => ?_⟩⟩
  · have hfound : DescFound s m o := ⟨h8, hfit, hfree⟩
    have hbare : ¬bare → m.bankBare s d = false := fun h => by
      rw [← Bool.not_eq_true, bankBare_iff]
      exact h
    refine ⟨fun hb hfar => ?_, fun hb hnear hodd => ?_, fun hbase r hreason => ?_, fun hb hreason hadm => ?_,
      fun hb hnear heven hreason hrange hl hgood hentry hadm => ?_⟩
    · refine execBmv_trap hr ?_ fun k => withBank_far k hfound (hbare hb) hfar
      rw [← Bool.not_eq_true, bankRead_iff hfound]
      rintro ⟨h | ⟨h, -⟩, -⟩
      · exact absurd (hbare hb) (by simp [d, h])
      · exact absurd h (Nat.not_lt.mpr hfar)
    · refine execBmv_trap hr ?_ fun k => withBank_misaligned k hfound (hbare hb) hnear hodd
      rw [← Bool.not_eq_true, bankRead_iff hfound]
      rintro ⟨h | ⟨-, h⟩, -⟩
      · exact absurd (hbare hb) (by simp [d, h])
      · exact hodd h
    · refine execBmv_trap hr ?_ fun k => withBank_reason k hfound (hbase.imp_left bankBare_iff.mpr) hreason
      rw [← Bool.not_eq_true, bankRead_iff hfound]
      rintro ⟨-, h⟩
      exact absurd (hreason.symm.trans h) (by simp)
    · exact execBmv_bare hr hfound (bankBare_iff.mpr hb) hreason hadm
    · refine ⟨_, execBmv_begins hr hfound (hbare hb) (.inr ⟨hnear, heven⟩) hreason hrange hl hgood hentry hadm, fun hu => ?_⟩
      obtain ⟨-, hst, -, -⟩ := me?_some hr.here
      have hst' := (beginBank_strand? (sat := sat) (ty := ty) (o := o) (d := d)
        (pages := l.map fun q => q.2.1 / 4096 * 4096) (current := current) m.k).trans ((hadm.frame.strands m.k).trans hst)
      obtain ⟨st, ht, hpc, -, -, -, -, -, -, -, hmem, -⟩ :=
        completed_unstepped (bo := u.bo) (next := successor m.st.pc) hst' rfl hu
      obtain ⟨op, hops, hbegun⟩ := beginBank_begun (s := s') (m := m) (sat := sat) (ty := ty) (o := o) (d := d)
        (pages := l.map fun q => q.2.1 / 4096 * 4096) (current := current)
      obtain ⟨pw, hcl⟩ := hadm.cluster
      have hts : m.bankThreads s' d = ts := by simp [ts, Me.bankThreads, hadm.acting]
      rw [hts] at hbegun
      refine ⟨fun x => by rw [hmem, beginBank_mem, hadm.frame.memory], st, op, ht, hpc, ?_, hbegun.reg, hbegun.desc,
        hbegun.pages, hbegun.threads, hbegun.olds, hbegun.ys, hbegun.rows, hbegun.delivery, hbegun.current⟩
      rw [completed_bankOps hst' rfl hu, hops, hcl]
  · intro i hopen hbehind hreg hwf a howed hlink hpoison
    have hheld : bankHeld s c b op (.row i) = false := by
      simpa [bankHeld, hbehind, BankOp.touches, hreg] using ⟨howed, hlink⟩
    have hb' : (touch s c 9 op.block (some op.block) (op.touches b (.row i)).1 (op.touches b (.row i)).2).block? c op.block =
        some b := by
      rw [← hb]
      simp [State.block?, State.cluster]
    obtain ⟨hmem, hblock⟩ := bankDo_row (i := i) hreg hb'
    rw [bankRow_mem (s := s) (touch_mem ..)] at hblock
    refine ⟨_, _, bankPart_done hop hb hopen hheld hpoison, fun x => by rw [hmem, touch_mem], hblock,
      readNat_writeNat a 4 _ hwf, fun x hx => readByte_writeBytes_apart _ _ _ (by rwa [length_leBytes])⟩
  · obtain ⟨hops, hinfl, hdel⟩ := bankFinish_cluster (s := s) (c := c) (b := b) (op := op)
    have hid : op.id = id := by simpa using List.find?_some hop
    refine ⟨bankFinish s c b op, ?_, fun x => by rw [bankFinish_mem], hid ▸ hops, hinfl, fun e he hnodup x hx hxe => ?_⟩
    · rw [exec_bankComputeDone, execBankComputeDone, bankComputeDone_of hop hb hserial hys hclosed]
      rfl
    · rw [he] at hdel
      rw [hdel]
      refine ⟨_, List.mem_map_of_mem hx, by simp [hxe], fun i j y hj hy => ?_⟩
      have hp : (j, y.bits) ∈ op.threads.zip (op.results.map Rounded.bits) :=
        List.mem_of_getElem? (i := i) (by simp [List.getElem?_zip_eq_some, hj, hy])
      have hkeys := (map_fst_zip_sublist op.threads (op.results.map Rounded.bits)).nodup hnodup
      simpa [hxe, wordsOf, upto] using get?_foldl_set (wordsOf 4) x.data hkeys hp

end Sys2Proof.Machine
end

section
/-!
PROOFS. What comes back to a strand: deliveries, late scalars, and the bytes of an `ldsc` (01 R18, R19, 09 R137).
-/
namespace Sys2Proof.Machine

/-! ### Late scalars (R18) -/

section
variable {st : Strand} {reg : SReg} {v : Word}

theorem fillScalar_get : (fillScalar st reg v).regs.get reg = if reg = 0 then 0 else v := by
  by_cases h : reg = 0
  · rw [if_pos h]
    exact if_pos h
  · rw [if_neg h]
    exact Regs.get_put_self st.regs v h

theorem fillScalar_isEmpty : (fillScalar st reg v).regs.isEmpty reg = false := by
  simp [fillScalar, Regs.isEmpty, BitVec.getLsbD_twoPow]

theorem fillScalar_ne {n : SReg} (h : n ≠ reg) : (fillScalar st reg v).regs.get n = st.regs.get n ∧
    (fillScalar st reg v).regs.isEmpty n = st.regs.isEmpty n ∧ (fillScalar st reg v).late.get? n.toNat = st.late.get? n.toNat := by
  have hne : n.toNat ≠ reg.toNat := fun he => h (BitVec.eq_of_toNat_eq he)
  have hlt : n.toNat < 64 := n.isLt
  exact ⟨Regs.get_put_ne st.regs v h, by simp [fillScalar, Regs.isEmpty, hne, hlt],
    SMap.get?_del_ne _ hne⟩
end

/-! ### Registers of a delivery (R19) -/

section
variable {b : Block} {w n : Nat} {ts : List Nat} {f : Nat → W32}

theorem get?_foldl_set_map {α : Type} (g : Nat → α) {ts : List Nat} {j : Nat} (m : SMap α)
    (h : j ∈ ts ∨ m.get? j = some (g j)) :
    ((ts.map fun t => (t, g t)).foldl (fun m p => m.set p.1 p.2) m).get? j = some (g j) := by
  induction ts generalizing m with
  | nil => simpa using h
  | cons t ts ih =>
    refine ih _ ?_
    by_cases hj : j = t
    · right
      rw [hj, SMap.get?_set_self]
    · rw [SMap.get?_set_ne _ _ hj]
      simpa [hj] using h

theorem reg_putReg {j : Nat} (hj : j ∈ ts) : (b.putReg w n (ts.map fun t => (t, f t))).reg w n j = f j := by
  have hts : (ts.map fun t => (t, f t)).isEmpty = false := by
    cases ts with
    | nil => cases hj
    | cons t ts => rfl
  unfold Block.reg Block.putReg
  simp [hts, get?_foldl_set_map f _ (.inl hj)]

theorem reg_putReg_ne {n' j : Nat} (h : n' ≠ n) (vals : List (Nat × W32)) :
    (b.putReg w n vals).reg w n' j = b.reg w n' j := by
  have hk : colKey w n' ≠ colKey w n := by unfold colKey; omega
  unfold Block.reg Block.putReg
  cases hv : vals.isEmpty
  · simp [SMap.get?_set_ne _ _ hk]
  · simp
end

/-! ### What arrivals leave alone -/

/-- Memory, the deliveries of a cluster and the registers of its blocks are as before, and no poison has come. -/
structure RegsFrame (s t : State) (c : Nat) : Prop where
  memory : t.mem = s.mem
  deliveries : (t.cluster c).deliveries = (s.cluster c).deliveries
  poison : ∀ p ∈ t.poison, p ∈ s.poison
  regs : ∀ x b, s.block? c x = some b → ∃ b', t.block? c x = some b' ∧ ∀ w n j, b'.reg w n j = b.reg w n j

section
variable {s t u : State} {c : Nat}

theorem RegsFrame.trans (h : RegsFrame s t c) (h' : RegsFrame t u c) : RegsFrame s u c := by
  refine ⟨h'.memory.trans h.memory, h'.deliveries.trans h.deliveries, fun p hp => h.poison p (h'.poison p hp), fun x b hb => ?_⟩
  obtain ⟨b', hb', hreg⟩ := h.regs x b hb
  obtain ⟨b'', hb'', hreg'⟩ := h'.regs x b' hb'
  exact ⟨b'', hb'', fun w n j => (hreg' w n j).trans (hreg w n j)⟩

/-- An update that leaves the memory and the clusters alone and adds no poison. -/
theorem RegsFrame.of_clusters (hm : t.mem = s.mem) (hc : t.clusters = s.clusters) (hp : ∀ p ∈ t.poison, p ∈ s.poison) :
    RegsFrame s t c := by
  refine ⟨hm, by rw [State.cluster, State.cluster, hc], hp, fun x b hb => ⟨b, ?_, fun _ _ _ => rfl⟩⟩
  rw [← hb, State.block?, State.block?, State.cluster, State.cluster, hc]

theorem RegsFrame.refl (s : State) (c : Nat) : RegsFrame s s c := .of_clusters rfl rfl fun _ h => h

/-- An update of the cluster that leaves its blocks and deliveries alone. -/
theorem regsFrame_modCluster {f : Cluster → Cluster} (hb : ∀ cl, (f cl).blocks = cl.blocks)
    (hd : ∀ cl, (f cl).deliveries = cl.deliveries) : RegsFrame s (s.modCluster c f) c := by
  refine ⟨rfl, by rw [State.cluster_modCluster, hd], fun _ h => h, fun x b hx => ⟨b, ?_, fun _ _ _ => rfl⟩⟩
  rw [← hx, State.block?, State.block?, State.cluster_modCluster, hb]

theorem modBlock_deliveries (x : Nat) (f : Block → Block) :
    ((s.modBlock c x f).cluster c).deliveries = (s.cluster c).deliveries := by
  unfold State.modBlock
  split <;> simp

theorem modBlock_landings (x : Nat) (f : Block → Block) : ((s.modBlock c x f).cluster c).landings = (s.cluster c).landings := by
  unfold State.modBlock
  split <;> simp

/-- An update of a block that leaves its registers alone. -/
theorem regsFrame_modBlock {y : Nat} {f : Block → Block} (hf : ∀ b w n j, (f b).reg w n j = b.reg w n j) :
    RegsFrame s (s.modBlock c y f) c := by
  refine ⟨State.modBlock_mem .., modBlock_deliveries .., by simp, fun x b hx => ?_⟩
  by_cases h : x = y
  · subst h
    exact ⟨f b, State.block?_modBlock _ _ hx, hf b⟩
  · exact ⟨b, (State.block?_modBlock_ne _ _ h).trans hx, fun _ _ _ => rfl⟩

theorem touch_frame (k block : Nat) (space : Option Nat) (a n : Nat) : RegsFrame s (touch s c k block space a n) c :=
  .of_clusters (touch_mem ..) (touch_clusters ..) (by unfold touch; split <;> exact fun _ h => h)

theorem dropDebts_frame (gone : Nat → Bool) : RegsFrame s (dropDebts s c gone) c :=
  .of_clusters (dropDebts_mem ..) (dropDebts_clusters ..) (by unfold dropDebts; split <;> exact fun _ h => h)

theorem dropReplies_frame : RegsFrame s (dropReplies s) c :=
  .of_clusters (by unfold dropReplies; split <;> rfl) (by unfold dropReplies; split <;> rfl)
    (by unfold dropReplies; split <;> exact fun _ h => h)

theorem untrack_frame (f : Tracked → Tracked) : RegsFrame s (untrack s c f) c :=
  regsFrame_modCluster (fun _ => rfl) fun _ => rfl

theorem record_frame (unit ty ctx slot ord : Nat) (pay : Word) : RegsFrame s (record s unit ty ctx slot ord pay) c :=
  .of_clusters (by simp) (by simp) (by unfold record; split <;> exact fun _ h => h)

theorem scratchWrite_frame (block a : Nat) (bs : List Byte) : RegsFrame s (scratchWrite s c block a bs) c := by
  have h : RegsFrame s (s.modBlock c block fun b => { b with scratch := writeBytes b.scratch a bs }) c :=
    regsFrame_modBlock fun _ _ _ _ => rfl
  unfold scratchWrite
  dsimp only
  split
  · exact h
  · exact h.trans (.of_clusters rfl rfl fun p hp => (List.mem_filter.mp hp).1)

theorem barTest_frame (block a : Nat) : RegsFrame s (barTest s c block a) c := by
  unfold barTest
  split
  · exact .refl s c
  · dsimp only
    split
    · exact .refl s c
    · split
      · refine .trans ?_ (record_frame ..)
        split
        · exact (scratchWrite_frame ..).trans (regsFrame_modBlock fun _ _ _ _ => rfl)
        · exact scratchWrite_frame ..
      · exact .refl s c

theorem barStep_frame (block a arrive : Nat) (pend : Int) : RegsFrame s (barStep s c block a arrive pend) c := by
  unfold barStep
  split
  · exact .refl s c
  · exact (scratchWrite_frame ..).trans (barTest_frame ..)

/-- No poison stands where none stood before. -/
theorem scratchPoison_none {block a n : Nat} (hp : ∀ p ∈ t.poison, p ∈ s.poison) (h : scratchPoison s c block a n = none) :
    scratchPoison t c block a n = none := by
  unfold scratchPoison at h ⊢
  split
  · rfl
  · rw [List.findSome?_eq_none_iff]
    split at h
    · rename_i hs
      intro p hpt
      have := hp p hpt
      rw [List.isEmpty_iff.mp hs] at this
      cases this
    · exact fun p hpt => List.findSome?_eq_none_iff.mp h p (hp p hpt)

theorem landedBytes_of {l : Landing} {bytes : Nat} (h : scratchPoison s c l.block l.word 8 = none) :
    landedBytes s c l bytes = barStep (touch s c l.slot l.block (some l.block) l.word 8) c l.block l.word 0 (-(bytes : Int)) := by
  unfold landedBytes
  rw [h]

theorem landDelivery_frame {d : Delivery} (h : ∀ l ∈ (s.cluster c).landings, l.delivery = some d.id →
    scratchPoison s c l.block l.word 8 = none) : RegsFrame s (landDelivery s c d) c := by
  unfold landDelivery
  split
  · exact .refl s c
  · rename_i l hl
    dsimp only
    have hframe := ((dropDebts_frame (s := s) (c := c) fun i => i == l.id).trans
      (regsFrame_modCluster (f := fun cl => { cl with landings := cl.landings.filter fun x => x.id != l.id })
        (fun _ => rfl) fun _ => rfl)).trans
      (untrack_frame fun t => { t with landings := t.landings.filter fun i => i != l.id })
    have hpoison := scratchPoison_none hframe.poison (h l (List.mem_of_find?_eq_some hl) (by simpa using List.find?_some hl))
    rw [landedBytes_of hpoison]
    exact hframe.trans ((touch_frame ..).trans (barStep_frame ..))
end

/-! ### A delivery (R19) -/

/-- The words of one register of a delivery, for its threads. -/
def Delivery.column (d : Delivery) (vals : SMap (List W32)) (i : Nat) : List (Nat × W32) :=
  d.threads.map fun t => (t, (((vals.get? t).getD [])[i]?).getD 0)

/-- One register of a delivery is written. -/
def writeColumn (c : Nat) (d : Delivery) (vals : SMap (List W32)) (s : State) (i : Nat) : State :=
  clearRegPoison (s.modBlock c d.block fun b => b.putReg d.window (d.name + i) (d.column vals i)) c d.block d.window (d.name + i)
    d.threads

theorem writeDelivery_eq (s : State) (c : Nat) (d : Delivery) (vals : SMap (List W32)) :
    writeDelivery s c d vals = if d.discard then s else (upto d.count).foldl (writeColumn c d vals) s := rfl

section
variable {s : State} {c : Nat} {d : Delivery} {vals : SMap (List W32)}

theorem writeColumn_mem (i : Nat) : (writeColumn c d vals s i).mem = s.mem := by
  unfold writeColumn clearRegPoison
  split <;> simp

theorem writeColumn_poison (i : Nat) : ∀ p ∈ (writeColumn c d vals s i).poison, p ∈ s.poison := by
  unfold writeColumn clearRegPoison
  split
  · simp
  · intro p hp
    simpa using (List.mem_filter.mp hp).1

theorem writeColumn_cluster (i : Nat) : ((writeColumn c d vals s i).cluster c).deliveries = (s.cluster c).deliveries ∧
    ((writeColumn c d vals s i).cluster c).landings = (s.cluster c).landings := by
  simp only [writeColumn, State.cluster, clearRegPoison_clusters]
  exact ⟨modBlock_deliveries .., modBlock_landings ..⟩

theorem writeColumn_block? (i : Nat) {b : Block} (hb : s.block? c d.block = some b) :
    (writeColumn c d vals s i).block? c d.block = some (b.putReg d.window (d.name + i) (d.column vals i)) := by
  simp only [writeColumn, State.block?, State.cluster, clearRegPoison_clusters]
  exact State.block?_modBlock _ _ hb

theorem writeDelivery_mem : (writeDelivery s c d vals).mem = s.mem := by
  rw [writeDelivery_eq]
  split
  · rfl
  · exact foldl_keeps (g := State.mem) (fun _ i => writeColumn_mem i) _ s

theorem writeDelivery_cluster : ((writeDelivery s c d vals).cluster c).deliveries = (s.cluster c).deliveries ∧
    ((writeDelivery s c d vals).cluster c).landings = (s.cluster c).landings := by
  rw [writeDelivery_eq]
  split
  · exact ⟨rfl, rfl⟩
  · exact ⟨foldl_keeps (g := fun s => (s.cluster c).deliveries) (fun _ i => (writeColumn_cluster i).1) _ s,
      foldl_keeps (g := fun s => (s.cluster c).landings) (fun _ i => (writeColumn_cluster i).2) _ s⟩

theorem writeDelivery_poison : ∀ p ∈ (writeDelivery s c d vals).poison, p ∈ s.poison := by
  have hfold : ∀ (l : List Nat) (s : State), ∀ p ∈ (l.foldl (writeColumn c d vals) s).poison, p ∈ s.poison := by
    intro l
    induction l with
    | nil => exact fun _ _ h => h
    | cons i l ih => exact fun s p hp => writeColumn_poison i p (ih _ p hp)
  rw [writeDelivery_eq]
  split
  · exact fun _ h => h
  · exact hfold _ s

/-- Every register of a delivery has its words in the acting threads. -/
theorem writeDelivery_block? {b : Block} (hdiscard : d.discard = false) (hb : s.block? c d.block = some b) :
    ∃ b', (writeDelivery s c d vals).block? c d.block = some b' ∧ ∀ i j, i < d.count → j ∈ d.threads →
      b'.reg d.window (d.name + i) j = (((vals.get? j).getD [])[i]?).getD 0 := by
  have hfold : ∀ (l : List Nat) (s : State) (b : Block), s.block? c d.block = some b →
      ∃ b', (l.foldl (writeColumn c d vals) s).block? c d.block = some b' ∧ ∀ i j, j ∈ d.threads →
        (i ∈ l ∨ b.reg d.window (d.name + i) j = (((vals.get? j).getD [])[i]?).getD 0) →
        b'.reg d.window (d.name + i) j = (((vals.get? j).getD [])[i]?).getD 0 := by
    intro l
    induction l with
    | nil => exact fun s b hb => ⟨b, hb, fun i j _ h => by simpa using h⟩
    | cons k l ih =>
      intro s b hb
      obtain ⟨b', hb', hreg⟩ := ih _ _ (writeColumn_block? (vals := vals) k hb)
      refine ⟨b', hb', fun i j hj h => hreg i j hj ?_⟩
      by_cases hik : i = k
      · subst hik
        exact .inr (reg_putReg (f := fun t => (((vals.get? t).getD [])[i]?).getD 0) hj)
      · rw [reg_putReg_ne (by omega)]
        exact h.imp_left fun h => (List.mem_cons.mp h).resolve_left hik
  obtain ⟨b', hb', hreg⟩ := hfold (upto d.count) s b hb
  rw [writeDelivery_eq, hdiscard]
  exact ⟨b', hb', fun i j hi hj => hreg i j hj (.inl (by simpa [upto] using hi))⟩

/-- A delivery whose data has come arrives. -/
theorem deliveryArrives_of {id : Nat} (hd : (s.cluster c).deliveries.find? (fun x => x.id == id) = some d)
    (hvals : ∀ i ∈ d.threads, ((d.values (s.cluster c)).get? i).isSome = true) (hturn : replyTurn s c id = true)
    (hheld : deliveryHeld s c d = false) : deliveryArrives c id s = some (dropReplies
      ((landDelivery (writeDelivery s c d (d.values (s.cluster c))) c d).modCluster c fun cl =>
        { cl with deliveries := cl.deliveries.filter fun x => x.id != id })) := by
  unfold deliveryArrives
  rw [hd, Option.bind_some]
  dsimp only
  rw [if_neg (by simpa [hturn, hheld, Option.isSome_iff_ne_none] using hvals)]

theorem dropReplies_clusters (s : State) : (dropReplies s).clusters = s.clusters := by
  unfold dropReplies; split <;> rfl
end

/-! ### Barrier words (R141) -/

section
variable (e a q : Nat) (p : Bool)

theorem barWord_eq : barWord e a p q = e % 2 ^ 16 + 2 ^ 16 * (a % 2 ^ 16 + 2 ^ 16 * (bit01 p % 2 + 2 * (q % 2 ^ 31))) := by
  simp [barWord, joinFields]

theorem barWord_mod : barWord e a p q % 2 ^ 64 = barWord e a p q := by
  rw [barWord_eq]
  omega

theorem barExp_barWord : barExp (barWord e a p q) = e % 2 ^ 16 := by
  rw [barWord_eq, barExp, bitsOf]
  omega

theorem barArr_barWord : barArr (barWord e a p q) = a % 2 ^ 16 := by
  rw [barWord_eq, barArr, bitsOf]
  omega

theorem barPend_barWord : barPend (barWord e a p q) = q % 2 ^ 31 := by
  rw [barWord_eq, barPend, bitsOf]
  omega

theorem barPhase_barWord : barPhase (barWord e a p q) = p := by
  rw [barWord_eq, barPhase, bitOf]
  cases p <;> simp [bit01] <;> omega

theorem barExp_mod (w : Nat) : barExp w % 2 ^ 16 = barExp w := by
  unfold barExp bitsOf; omega

theorem barArr_mod (w : Nat) : barArr w % 2 ^ 16 = barArr w := by
  unfold barArr bitsOf; omega

theorem barPend_lt (w : Nat) : barPend w < 2 ^ 31 := by
  unfold barPend bitsOf; omega
end

section
variable {s : State} {c block a : Nat} {b : Block}

/-- The barrier word at `a` is complete: all have arrived, and no bytes are to come. -/
def barComplete (b : Block) (a : Nat) : Prop :=
  a / 8 < b.bars ∧ barArr (readNat b.scratch a 8) = barExp (readNat b.scratch a 8) ∧ barPend (readNat b.scratch a 8) = 0

/-- A barrier word that is complete begins its next phase, and any other stays. -/
theorem barTest_scratch (hb : s.block? c block = some b) (ha : a % 8 = 0) :
    ∃ b', (barTest s c block a).block? c block = some b' ∧
      (barComplete b a → b'.scratch = writeNat b.scratch a 8
        (barWord (barExp (readNat b.scratch a 8)) 0 (!barPhase (readNat b.scratch a 8)) 0)) ∧
      (¬barComplete b a → b'.scratch = b.scratch) := by
  have ha' : a / 8 * 8 = a := by omega
  have hw := scratchWrite_block? a (leBytes 8 (barWord (barExp (readNat b.scratch a 8)) 0
    (!barPhase (readNat b.scratch a 8)) 0)) hb
  unfold barTest
  rw [hb]
  dsimp only
  rw [ha']
  split
  · rename_i hbars
    exact ⟨b, hb, fun h => absurd h.1 (by omega), fun _ => rfl⟩
  · rename_i hbars
    split
    · rename_i hdone
      have hdone : barComplete b a := by simpa [barComplete, Nat.not_le.mp hbars] using hdone
      simp only [record_block?]
      split
      · exact ⟨_, State.block?_modBlock _ _ hw, fun _ => rfl, fun h => absurd hdone h⟩
      · exact ⟨_, hw, fun _ => rfl, fun h => absurd hdone h⟩
    · rename_i hopen
      exact ⟨b, hb, fun h => absurd (by simp [h.2.1, h.2.2]) hopen, fun _ => rfl⟩

/-- The word that counts `n` bytes off PEND. -/
def barLanded (w n : Nat) : Nat := barWord (barExp w) (barArr w) (barPhase w) (barPend w - n)

/-- Bytes that land leave PEND: the word counts them off, or begins its next phase. -/
theorem barStep_landed {n : Nat} (hb : s.block? c block = some b) (hwf : Memory.wf b.scratch = true) (ha : a % 8 = 0)
    (hn : n ≤ barPend (readNat b.scratch a 8)) :
    ∃ b', (barStep s c block a 0 (-(n : Int))).block? c block = some b' ∧
      (∀ x k, x + k ≤ a ∨ a + 8 ≤ x → readNat b'.scratch x k = readNat b.scratch x k) ∧
      (barPend (readNat b.scratch a 8) ≠ n → readNat b'.scratch a 8 = barLanded (readNat b.scratch a 8) n) ∧
      (barPend (readNat b.scratch a 8) = n → barArr (readNat b.scratch a 8) = barExp (readNat b.scratch a 8) →
        a / 8 < b.bars → readNat b'.scratch a 8 =
          barWord (barExp (readNat b.scratch a 8)) 0 (!barPhase (readNat b.scratch a 8)) 0) := by
  generalize hw : readNat b.scratch a 8 = w at hn ⊢
  have hword : (((barPend w : Int) + -(n : Int)).toNat) = barPend w - n := by omega
  have hread : readNat (writeNat b.scratch a 8 (barLanded w n)) a 8 = barLanded w n :=
    (readNat_writeNat a 8 _ hwf).trans (barWord_mod ..)
  have hfar : ∀ x k, x + k ≤ a ∨ a + 8 ≤ x → ∀ v m, readNat (writeNat m a 8 v) x k = readNat m x k := fun x k hx v m =>
    readNat_writeBytes_apart _ _ _ (by rwa [length_leBytes])
  have hpend : barPend (barLanded w n) = barPend w - n := by
    rw [barLanded, barPend_barWord]
    have := barPend_lt w
    omega
  obtain ⟨b', hb', hdone, hopen⟩ := barTest_scratch (scratchWrite_block? a (leBytes 8 (barLanded w n)) hb) ha
  have hcomplete : barComplete { b with scratch := writeBytes b.scratch a (leBytes 8 (barLanded w n)) } a ↔
      a / 8 < b.bars ∧ barArr w = barExp w ∧ barPend w - n = 0 := by
    change a / 8 < b.bars ∧ barArr (readNat (writeNat b.scratch a 8 (barLanded w n)) a 8) =
      barExp (readNat (writeNat b.scratch a 8 (barLanded w n)) a 8) ∧
      barPend (readNat (writeNat b.scratch a 8 (barLanded w n)) a 8) = 0 ↔ _
    rw [hread, hpend, barLanded, barArr_barWord, barExp_barWord, barArr_mod, barExp_mod]
  refine ⟨b', ?_, fun x k hx => ?_, fun hne => ?_, fun heq harr hbars => ?_⟩
  · unfold barStep
    rw [hb]
    dsimp only
    rw [hw, hword]
    exact hb'
  · by_cases h : barComplete { b with scratch := writeBytes b.scratch a (leBytes 8 (barLanded w n)) } a
    · rw [hdone h, hfar x k hx]
      exact hfar x k hx _ _
    · rw [hopen h]
      exact hfar x k hx _ _
  · rw [hopen fun h => absurd (hcomplete.mp h).2.2 (by omega)]
    exact hread
  · rw [hdone (hcomplete.mpr ⟨hbars, harr, by omega⟩), readNat_writeNat a 8 _ (wf_writeBytes _ _ hwf), barWord_mod]
    change barWord (barExp (readNat (writeNat b.scratch a 8 (barLanded w n)) a 8)) 0
      (!barPhase (readNat (writeNat b.scratch a 8 (barLanded w n)) a 8)) 0 = _
    rw [hread, barLanded, barExp_barWord, barPhase_barWord, barExp_mod]

theorem touch_block? (s : State) (c k block : Nat) (space : Option Nat) (a n x : Nat) :
    (touch s c k block space a n).block? c x = s.block? c x := by
  simp [State.block?, State.cluster]

theorem dropDebts_block? (s : State) (c : Nat) (gone : Nat → Bool) (x : Nat) :
    (dropDebts s c gone).block? c x = s.block? c x := by
  simp [State.block?, State.cluster]

theorem untrack_block? (s : State) (c : Nat) (f : Tracked → Tracked) (x : Nat) : (untrack s c f).block? c x = s.block? c x := by
  simp [untrack, State.block?]

theorem dropReplies_block? (s : State) (c x : Nat) : (dropReplies s).block? c x = s.block? c x := by
  simp [State.block?, State.cluster, dropReplies_clusters]

/-- The landing is over, or its thread is. -/
def landRest (s : State) (c : Nat) (l : Landing) (t : Nat) : State :=
  s.modCluster c fun cl =>
    { cl with landings := if (l.threads.filter fun x => x != t).isEmpty then cl.landings.filter fun x => x.id != l.id
        else cl.landings.map fun x => if x.id == l.id then { x with threads := l.threads.filter fun x => x != t } else x }

/-- The state between the bytes that have landed and the word that counts them. -/
def landLeft (s : State) (c : Nat) (l : Landing) (t : Nat) : State :=
  if (l.threads.filter fun x => x != t).isEmpty then
    dropReplies (untrack (dropDebts (landRest s c l t) c fun i => i == l.id) c
      fun x => { x with landings := x.landings.filter fun i => i != l.id })
  else landRest s c l t

theorem landOn_eq (s : State) (c : Nat) (l : Landing) (t : Nat) : landOn s c l t =
    landedBytes (landLeft (scratchWrite (touch s c l.slot l.block (some l.block) (l.dests.getD 0 t) l.bytes) c l.block
      (l.dests.getD 0 t) (leBytes l.bytes (l.data.getD 0 t))) c l t) c l l.bytes := rfl

theorem landRest_frame (l : Landing) (t : Nat) : RegsFrame s (landRest s c l t) c :=
  regsFrame_modCluster (fun _ => rfl) fun _ => rfl

theorem landRest_block? (l : Landing) (t x : Nat) : (landRest s c l t).block? c x = s.block? c x := by
  simp [landRest, State.block?]

theorem landLeft_frame (l : Landing) (t : Nat) : RegsFrame s (landLeft s c l t) c := by
  unfold landLeft
  split
  · exact (landRest_frame l t).trans ((dropDebts_frame _).trans ((untrack_frame _).trans dropReplies_frame))
  · exact landRest_frame l t

theorem landLeft_block? (l : Landing) (t x : Nat) : (landLeft s c l t).block? c x = s.block? c x := by
  unfold landLeft
  split
  · rw [dropReplies_block?, untrack_block?, dropDebts_block?, landRest_block?]
  · exact landRest_block? l t x

/-- The attempt of an `ldsc` that has a thread whose bytes may land. -/
theorem bytesLand_of {id i : Nat} {l : Landing}
    (hl : (s.cluster c).landings.find? (fun x => x.id == id && x.delivery.isNone) = some l)
    (hi : l.threads.find? (landable s c l) = some i) (hturn : replyTurn s c id = true)
    (hheld : replyHeld s c 0 (.landing id []) = false) : bytesLand c id s = some (landOn s c l i) := by
  unfold bytesLand landWith
  rw [hl, Option.bind_some, hturn, hheld]
  exact congrArg (Option.map (landOn s c l)) hi
end

/-- Settles O41: an arrival is a chain of updates, each of which leaves the rest of the machine alone. -/
theorem repliesArrive : Obligations.RepliesArrive := by
  unfold Obligations.RepliesArrive
  intro s c cl
  refine ⟨fun id d hd hvals hturn hheld hsound => ?_, fun slot st reg n v hst hlate hturn hheld => ?_, ?_⟩
  · have hid : d.id = id := by simpa using List.find?_some hd
    obtain ⟨hdel, hland⟩ := writeDelivery_cluster (s := s) (c := c) (d := d) (vals := d.values cl)
    have hframe := landDelivery_frame (s := writeDelivery s c d (d.values cl)) (d := d) fun l hl he =>
      scratchPoison_none writeDelivery_poison (hsound l (hland ▸ hl) (hid ▸ he))
    have hfreed := dropReplies_clusters ((landDelivery (writeDelivery s c d (d.values cl)) c d).modCluster c fun cl =>
      { cl with deliveries := cl.deliveries.filter fun x => x.id != id })
    refine ⟨dropReplies ((landDelivery (writeDelivery s c d (d.values cl)) c d).modCluster c fun cl =>
        { cl with deliveries := cl.deliveries.filter fun x => x.id != id }), ?_, fun x => ?_, ?_, fun hdiscard _ b hb => ?_⟩
    · rw [exec_pendingDelivery, execPendingDelivery, deliveryArrives_of hd hvals hturn hheld]
      rfl
    · rw [(dropReplies_frame (c := c)).memory, State.modCluster_mem, hframe.memory, writeDelivery_mem]
    · rw [State.cluster, hfreed, ← State.cluster, State.cluster_modCluster]
      exact congrArg (List.filter fun x => x.id != id) (hframe.deliveries.trans hdel)
    · obtain ⟨b₁, hb₁, hreg₁⟩ := writeDelivery_block? (vals := d.values cl) hdiscard hb
      obtain ⟨b₂, hb₂, hreg₂⟩ := hframe.regs _ _ hb₁
      refine ⟨b₂, ?_, fun i j hi hj => (hreg₂ ..).trans (hreg₁ i j hi hj)⟩
      rw [State.block?, State.cluster, hfreed, ← State.cluster, State.cluster_modCluster]
      exact hb₂
  · refine ⟨fillScalar st reg v, ?_, fillScalar_get, fillScalar_isEmpty, SMap.get?_del_self .., rfl, fun n hn => fillScalar_ne hn⟩
    rw [exec_lateScalarResult, execLateScalarResult, scalarArrives, hst, Option.bind_some]
    rw [hlate]
    dsimp only
    rw [hturn, hheld]
    rfl
  · intro id l i v b hl hi hturn hsound hheld hv hb hwf ha8 a w hapart hpend
    have hvi : l.data.getD 0 i = v := by simp [SMap.getD, hv]
    have hb₁ := scratchWrite_block? a (leBytes l.bytes v)
      ((touch_block? s c l.slot l.block (some l.block) a l.bytes l.block).trans hb)
    have hframe := ((touch_frame (s := s) (c := c) l.slot l.block (some l.block) a l.bytes).trans
      (scratchWrite_frame l.block a (leBytes l.bytes v))).trans (landLeft_frame l i)
    have hw : readNat (writeBytes b.scratch a (leBytes l.bytes v)) l.word 8 = w :=
      readNat_writeBytes_apart _ _ _ (by rw [length_leBytes]; omega)
    obtain ⟨b', hb', hfar, hcount, hdone⟩ := barStep_landed (n := l.bytes)
      ((touch_block? _ c l.slot l.block (some l.block) l.word 8 l.block).trans ((landLeft_block? l i l.block).trans hb₁))
      (wf_writeBytes _ _ hwf) ha8 (by rw [hw]; exact hpend)
    rw [hw] at hcount hdone
    have hland : landOn s c l i = barStep (touch (landLeft (scratchWrite (touch s c l.slot l.block (some l.block) a l.bytes) c
        l.block a (leBytes l.bytes v)) c l i) c l.slot l.block (some l.block) l.word 8) c l.block l.word 0 (-(l.bytes : Int)) := by
      rw [landOn_eq, hvi, landedBytes_of (scratchPoison_none hframe.poison hsound)]
    refine ⟨landOn s c l i, b', ?_, fun x => ?_, hland ▸ hb',
      (hfar a l.bytes (by omega)).trans (readNat_writeNat a l.bytes v hwf), hcount, hdone⟩
    · rw [exec_ldscByteLanding, execLdscByteLanding, bytesLand_of hl hi hturn hheld]
      rfl
    · rw [hland, ((hframe.trans (touch_frame ..)).trans (barStep_frame ..)).memory]

end Sys2Proof.Machine
end

section
/-!
PROOFS. A context is stopped, leaves its clusters with its images, and is restored (23 R296-R299).
-/
namespace Sys2Proof.Machine

/-! ### Records and contexts -/

theorem get?_mapValues {α β : Type} (m : SMap α) (f : Nat → α → β) (k : Nat) :
    SMap.get? (m.map fun p => (p.1, f p.1 p.2)) k = (m.get? k).map (f k) := by
  induction m with
  | nil => rfl
  | cons p m ih =>
    by_cases h : p.1 = k
    · simp [SMap.get?, h]
    · simpa [SMap.get?, h] using ih

theorem record_kept (s : State) (u ty ctx slot ord : Nat) (pay : Word) :
    (record s u ty ctx slot ord pay).time = s.time ∧ (record s u ty ctx slot ord pay).ctxs = s.ctxs := by
  unfold record
  split <;> exact ⟨rfl, rfl⟩

/-- A state with the records of some blocks of a cluster. -/
theorem foldl_record_kept {α : Type} (s : State) (l : List α) (u ty ctx slot : Nat) (ord : α → Nat) (pay : Word) :
    let t := l.foldl (fun s x => record s u ty ctx slot (ord x) pay) s
    t.mem = s.mem ∧ t.time = s.time ∧ t.ctxs = s.ctxs ∧ t.clusters = s.clusters :=
  ⟨foldl_keeps (g := State.mem) (fun _ _ => record_mem ..) l s,
    foldl_keeps (g := State.time) (fun _ _ => (record_kept ..).1) l s,
    foldl_keeps (g := State.ctxs) (fun _ _ => (record_kept ..).2) l s,
    foldl_keeps (g := State.clusters) (fun _ _ => record_clusters ..) l s⟩

theorem preemptRecords_kept (kind from' ctx : Nat) (s : State) (c : Nat) :
    (preemptRecords kind from' ctx s c).mem = s.mem ∧ (preemptRecords kind from' ctx s c).time = s.time ∧
      (preemptRecords kind from' ctx s c).ctxs = s.ctxs ∧ (preemptRecords kind from' ctx s c).clusters = s.clusters :=
  foldl_record_kept ..

theorem ctx?_modCtx {s : State} {n : Nat} {x : Context} (f : Context → Context) (h : s.ctx? n = some x) :
    (s.modCtx n f).ctx? n = some (f x) := by
  unfold State.ctx? State.modCtx at *
  rw [SMap.get?_modify, h]
  simp

/-! ### The stop (R296) -/

/-- The progress of a sweep that stops, in PI. -/
structure StrandStopped (cl : Cluster) (k : Nat) (st st' : Strand) : Prop where
  pc : st'.pc = st.pc
  still : (∀ w ∈ cl.sweeps, w.slot ≠ k) → st'.regs = st.regs
  swept : (∃ w ∈ cl.sweeps, w.slot = k) → ∃ kind index, st'.regs = { st.regs with pi := piOf kind index } ∧ (kind = 2 ∨ kind = 3)

/-- What a stop leaves of a cluster, once or more. -/
structure ClusterStopped (ctx : Nat) (time : Word) (cl cl' : Cluster) : Prop where
  stopping : cl'.stopping = some ctx
  stopAt : cl'.stopAt = time
  blocks : cl'.blocks = cl.blocks.map fun p => (p.1, { p.2 with shadows := [] })
  strands : ∀ k st, cl.strands.get? k = some st → ∃ st', cl'.strands.get? k = some st' ∧ StrandStopped cl k st st'

/-- A cluster that may have been stopped already: what another stop needs of it. -/
structure ClusterKept (cl cl' : Cluster) : Prop where
  slots : cl'.sweeps.map Sweep.slot = cl.sweeps.map Sweep.slot
  blocks : (cl'.blocks.map fun p => (p.1, { p.2 with shadows := [] })) = cl.blocks.map fun p => (p.1, { p.2 with shadows := [] })
  strands : ∀ k st, cl.strands.get? k = some st → ∃ st', cl'.strands.get? k = some st' ∧ st'.pc = st.pc ∧
    (st'.regs = st.regs ∨ (∃ w ∈ cl.sweeps, w.slot = k) ∧ ∃ pi, st'.regs = { st.regs with pi := pi })

theorem ClusterKept.refl (cl : Cluster) : ClusterKept cl cl :=
  ⟨rfl, rfl, fun _ st h => ⟨st, h, rfl, .inl rfl⟩⟩

theorem advance_slot (tau : W32) (n : Nat) (w : Sweep) (rows : Nat) : (w.advance tau n rows).slot = w.slot := by
  induction rows generalizing w with
  | zero => rfl
  | succ rows ih =>
    unfold Sweep.advance
    split
    · rfl
    · split
      · rfl
      · exact ih _

/-- The sweeps of a cluster after the rows that they still make. -/
def Cluster.advanced (cl : Cluster) (rows : Nat) : List Sweep :=
  cl.sweeps.map fun w => match cl.blocks.get? w.block with
    | some b => w.advance b.tol (factorTile b w.name).1 rows
    | none => w

theorem advanced_slots (cl : Cluster) (rows : Nat) : (cl.advanced rows).map Sweep.slot = cl.sweeps.map Sweep.slot := by
  unfold Cluster.advanced
  rw [List.map_map]
  refine List.map_congr_left fun w _ => ?_
  rw [Function.comp_apply]
  split
  · exact advance_slot ..
  · rfl

theorem stopStrand_kept (st : Strand) : (stopStrand st).pc = st.pc ∧ (stopStrand st).regs = st.regs := by
  unfold stopStrand
  dsimp only
  split <;> exact ⟨rfl, rfl⟩

theorem stop_strands (cl : Cluster) (ctx rows : Nat) (time : Word) {k : Nat} {st : Strand} (h : cl.strands.get? k = some st) :
    (cl.stop ctx rows time).strands.get? k = some (stopSweep (cl.advanced rows) k (stopStrand st)) := by
  refine (get?_mapValues cl.strands (fun k st => stopSweep (cl.advanced rows) k (stopStrand st)) k).trans ?_
  rw [h]
  rfl

theorem stopSweep_none {ws : List Sweep} {k : Nat} (h : ∀ n ∈ ws.map Sweep.slot, n ≠ k) (st : Strand) : stopSweep ws k st = st := by
  unfold stopSweep
  rw [List.find?_eq_none.mpr fun w hw => by simpa using h _ (List.mem_map_of_mem hw)]

theorem stopSweep_some {ws : List Sweep} {k : Nat} (h : k ∈ ws.map Sweep.slot) (st : Strand) :
    ∃ kind index, stopSweep ws k st = { st with regs := { st.regs with pi := piOf kind index } } ∧ (kind = 2 ∨ kind = 3) := by
  obtain ⟨w, hw, hk⟩ := List.mem_map.mp h
  unfold stopSweep
  cases hf : ws.find? fun w => w.slot == k with
  | none => exact absurd hk (by simpa using List.find?_eq_none.mp hf w hw)
  | some v => exact ⟨_, _, rfl, by split <;> simp⟩

/-- A stop of a cluster that may have been stopped already. -/
theorem ClusterKept.stop {cl cl' : Cluster} (h : ClusterKept cl cl') (ctx rows : Nat) (time : Word) :
    ClusterStopped ctx time cl (cl'.stop ctx rows time) := by
  refine ⟨rfl, rfl, h.blocks, fun k st hst => ?_⟩
  obtain ⟨st', hst', hpc, hregs⟩ := h.strands k st hst
  obtain ⟨hpc', hregs'⟩ := stopStrand_kept st'
  have hslots := (advanced_slots cl' rows).trans h.slots
  refine ⟨_, stop_strands cl' ctx rows time hst', ?_⟩
  by_cases hk : k ∈ cl.sweeps.map Sweep.slot
  · obtain ⟨kind, index, hw, hkind⟩ := stopSweep_some (hslots ▸ hk) (stopStrand st')
    rw [hw]
    obtain ⟨w, hmem, rfl⟩ := List.mem_map.mp hk
    refine ⟨hpc'.trans hpc, fun hnone => absurd rfl (hnone w hmem), fun _ => ⟨kind, index, ?_, hkind⟩⟩
    dsimp only
    rw [hregs']
    rcases hregs with hregs | ⟨-, pi, hregs⟩ <;> rw [hregs]
  · have hnone : ∀ w ∈ cl.sweeps, w.slot ≠ k := fun w hw he => hk (he ▸ List.mem_map_of_mem hw)
    rw [stopSweep_none fun n hn he => hk (by rwa [← he, ← hslots])]
    refine ⟨hpc'.trans hpc, fun _ => hregs'.trans (hregs.resolve_right fun h => ?_), fun ⟨w, hw, he⟩ => absurd he (hnone w hw)⟩
    obtain ⟨⟨w, hw, he⟩, -⟩ := h
    exact hnone w hw he

theorem ClusterKept.again {cl cl' : Cluster} (h : ClusterKept cl cl') (ctx rows : Nat) (time : Word) :
    ClusterKept cl (cl'.stop ctx rows time) := by
  obtain ⟨-, -, hblocks, hstrands⟩ := h.stop ctx rows time
  refine ⟨(advanced_slots cl' rows).trans h.slots, by rw [hblocks, List.map_map]; rfl, fun k st hst => ?_⟩
  obtain ⟨st', hst', hpc, hstill, hswept⟩ := hstrands k st hst
  refine ⟨st', hst', hpc, ?_⟩
  by_cases hk : ∃ w ∈ cl.sweeps, w.slot = k
  · obtain ⟨kind, index, hregs, -⟩ := hswept hk
    exact .inr ⟨hk, _, hregs⟩
  · exact .inl (hstill fun w hw he => hk ⟨w, hw, he⟩)

section
variable {s : State} {ctx rows c : Nat}

theorem stopCluster_kept : (stopCluster ctx rows s c).mem = s.mem ∧ (stopCluster ctx rows s c).time = s.time := by
  obtain ⟨hmem, htime, -, -⟩ := preemptRecords_kept 0 0 ctx { s.modCluster c (fun cl => cl.stop ctx rows s.time) with
    poison := (s.modCluster c (fun cl => cl.stop ctx rows s.time)).poison.filter fun e => !shadowSite c e } c
  exact ⟨hmem, htime⟩

theorem stopCluster_cluster (d : Nat) : (stopCluster ctx rows s c).cluster d =
    if d = c then (s.cluster d).stop ctx rows s.time else s.cluster d := by
  obtain ⟨-, -, -, hcl⟩ := preemptRecords_kept 0 0 ctx { s.modCluster c (fun cl => cl.stop ctx rows s.time) with
    poison := (s.modCluster c (fun cl => cl.stop ctx rows s.time)).poison.filter fun e => !shadowSite c e } c
  have h : (stopCluster ctx rows s c).cluster d = (s.modCluster c fun cl => cl.stop ctx rows s.time).cluster d := by
    unfold State.cluster
    exact congrArg (fun cs => (SMap.get? cs d).getD Cluster.reset) hcl
  rw [h]
  split
  · rename_i hd
    rw [hd, State.cluster_modCluster]
  · exact State.cluster_modCluster_ne _ _ ‹_›

/-- Every cluster of a list has stopped after its stops. -/
theorem foldl_stopCluster {cs : List Nat} {s₀ : State} {time : Word} (htime : s.time = time)
    (hkept : ∀ d, ClusterKept (s₀.cluster d) (s.cluster d)) :
    (cs.foldl (stopCluster ctx rows) s).mem = s.mem ∧ ∀ d, d ∈ cs ∨ ClusterStopped ctx time (s₀.cluster d) (s.cluster d) →
      ClusterStopped ctx time (s₀.cluster d) ((cs.foldl (stopCluster ctx rows) s).cluster d) := by
  induction cs generalizing s with
  | nil => exact ⟨rfl, fun d hd => hd.resolve_left (by simp)⟩
  | cons c cs ih =>
    obtain ⟨hmem, htime'⟩ := stopCluster_kept (s := s) (ctx := ctx) (rows := rows) (c := c)
    obtain ⟨hmem', hstopped⟩ := ih (s := stopCluster ctx rows s c) (htime'.trans htime) fun d => by
      rw [stopCluster_cluster]
      split
      · exact (hkept d).again ctx rows s.time
      · exact hkept d
    refine ⟨hmem'.trans hmem, fun d hd => hstopped d ?_⟩
    rw [stopCluster_cluster]
    split
    · exact .inr (htime ▸ (hkept d).stop ctx rows s.time)
    · rename_i hne
      exact hd.imp_left fun h => (List.mem_cons.mp h).resolve_left hne

theorem preemptStops_of (hne : clustersOf s ctx ≠ []) (hfree : ∀ c ∈ clustersOf s ctx, (s.cluster c).stopping = none) :
    preemptStops ctx rows s = some ((clustersOf s ctx).foldl (stopCluster ctx rows) s) := by
  unfold preemptStops
  dsimp only
  rw [if_neg]
  simpa [hne] using hfree
end

/-! ### The image (R297, R298) -/

theorem wf_mergeEntry {mem : List Host.Cell} (base cap : Nat) (e : CensusEntry) (h : Memory.wf mem = true) :
    Memory.wf (mergeEntry mem base cap e) = true := by
  unfold mergeEntry
  dsimp only
  split
  · exact wf_foldl (fun _ _ h => wf_writeNat _ _ _ h) _ h
  · split
    · exact wf_writeNat _ _ _ (wf_foldl (fun _ _ h => wf_writeNat _ _ _ h) _ (wf_writeNat _ _ _ (wf_writeNat _ _ _ h)))
    · exact wf_foldl (fun _ _ h => wf_writeNat _ _ _ h) _ h

theorem wf_mergeCensus {s : State} (ctx : Nat) (h : Memory.wf s.mem = true) : Memory.wf (mergeCensus s ctx).mem = true := by
  unfold mergeCensus
  dsimp only
  split
  · exact h
  · exact wf_foldl (fun _ _ h => wf_mergeEntry _ _ _ h) _ h

theorem mergeCensus_ctxs (s : State) (ctx : Nat) : (mergeCensus s ctx).ctxs = s.ctxs := by
  unfold mergeCensus
  dsimp only
  split <;> rfl

section
variable {s : State} {ctx c : Nat} {x : Context}

/-- A context that leaves a cluster has no block there. -/
theorem blocksOf_without (cl : Cluster) : (cl.without ctx (cl.blocksOf ctx)).blocksOf ctx = [] := by
  unfold Cluster.blocksOf Cluster.without
  dsimp only
  rw [List.map_eq_nil_iff, List.filter_eq_nil_iff]
  intro p hp hctx
  obtain ⟨hp, hgone⟩ := List.mem_filter.mp hp
  refine absurd hgone ?_
  simpa using ⟨p.2, hp, by simpa using hctx⟩

/-- The cluster of an image is captured: the context leaves it, and has one image more. -/
theorem captureCluster_done : (captureCluster ctx s c).mem = s.mem ∧
    ((captureCluster ctx s c).cluster c).stopping = none ∧ ((captureCluster ctx s c).cluster c).blocksOf ctx = [] ∧
    (∀ d, d ≠ c → (captureCluster ctx s c).cluster d = s.cluster d) ∧
    (s.ctx? ctx = some x → ∃ i, i.cluster = c ∧ (captureCluster ctx s c).ctx? ctx = some { x with images := x.images ++ [i] }) := by
  obtain ⟨hmem, -, hctxs, hcl⟩ := preemptRecords_kept 1 0 ctx s c
  unfold captureCluster
  dsimp only
  refine ⟨hmem, ?_, ?_, fun d hd => ?_, fun hx => ⟨_, ?_, ctx?_modCtx (fun x => { x with images := x.images ++ [_] })
    (by rw [← hx, State.ctx?, State.ctx?, hctxs])⟩⟩
  · rw [State.cluster_setCluster]
  · rw [State.cluster_setCluster]
    exact blocksOf_without _
  · rw [State.cluster_setCluster_ne _ _ hd]
    unfold State.cluster
    exact congrArg (fun cs => (SMap.get? cs d).getD Cluster.reset) hcl
  · rfl

/-- The clusters of a list are captured, in order. -/
theorem foldl_captureCluster {cs : List Nat} (hx : s.ctx? ctx = some x) :
    (cs.foldl (captureCluster ctx) s).mem = s.mem ∧ (∃ y, (cs.foldl (captureCluster ctx) s).ctx? ctx = some y ∧ y.desc = x.desc ∧
      y.images.map Image.cluster = x.images.map Image.cluster ++ cs) ∧
    ∀ d, d ∈ cs ∨ (s.cluster d).stopping = none ∧ (s.cluster d).blocksOf ctx = [] →
      ((cs.foldl (captureCluster ctx) s).cluster d).stopping = none ∧
        ((cs.foldl (captureCluster ctx) s).cluster d).blocksOf ctx = [] := by
  induction cs generalizing s x with
  | nil => exact ⟨rfl, ⟨x, hx, rfl, by simp⟩, fun d hd => hd.resolve_left (by simp)⟩
  | cons c cs ih =>
    obtain ⟨hmem, hstop, hblocks, hne, himage⟩ := captureCluster_done (s := s) (ctx := ctx) (c := c) (x := x)
    obtain ⟨i, hi, hx'⟩ := himage hx
    obtain ⟨hmem', ⟨y, hy, hdesc, himages⟩, hleft⟩ := ih hx'
    refine ⟨hmem'.trans hmem, ⟨y, hy, hdesc, by simpa [hi] using himages⟩, fun d hd => hleft d ?_⟩
    by_cases hdc : d = c
    · subst hdc
      exact .inr ⟨hstop, hblocks⟩
    · rw [hne d hdc]
      exact hd.imp_left fun h => (List.mem_cons.mp h).resolve_left hdc
end

/-! ### The save area (R298) -/

/-- The header's entry and the bytes of one image. -/
def writeImage (save free : Nat) (mem : List Host.Cell) (p : Nat × Nat) : List Host.Cell :=
  writeBytes (writeNat mem (save + 8 + 8 * p.2) 8 p.1) (save + 4096 + 8388608 * p.2)
    ((Config.savedImage (free + p.2)).take (6232 * 1024))

theorem writeSaveArea_eq (mem : List Host.Cell) (save free : Nat) (images : List Nat) : writeSaveArea mem save free images =
    (images.zip (upto images.length)).foldl (writeImage save free) (writeNat mem save 4 images.length) := rfl

section
variable {mem : List Host.Cell} {save free : Nat}

theorem wf_writeImage (p : Nat × Nat) (h : Memory.wf mem = true) : Memory.wf (writeImage save free mem p) = true :=
  wf_writeBytes _ _ (wf_writeNat _ _ _ h)

/-- What stands before the first image's bytes and beside the image's entry stays. -/
theorem readNat_writeImage_apart {p : Nat × Nat} {a n : Nat} (hend : a + n ≤ save + 4096)
    (hentry : a + n ≤ save + 8 + 8 * p.2 ∨ save + 16 + 8 * p.2 ≤ a) :
    readNat (writeImage save free mem p) a n = readNat mem a n := by
  unfold writeImage
  rw [readNat_writeBytes_apart _ _ _ (.inl (by omega))]
  exact readNat_writeBytes_apart _ _ _ (by rw [length_leBytes]; omega)

theorem readNat_writeImage_self {p : Nat × Nat} (h : Memory.wf mem = true) (hp : p.2 < 384) :
    readNat (writeImage save free mem p) (save + 8 + 8 * p.2) 8 = p.1 % 2 ^ 64 := by
  unfold writeImage
  rw [readNat_writeBytes_apart _ _ _ (.inl (by omega))]
  exact readNat_writeNat _ _ _ h

theorem readNat_foldl_writeImage_apart {l : List (Nat × Nat)} {a n : Nat} (hend : a + n ≤ save + 4096)
    (hentry : ∀ p ∈ l, a + n ≤ save + 8 + 8 * p.2 ∨ save + 16 + 8 * p.2 ≤ a) :
    readNat (l.foldl (writeImage save free) mem) a n = readNat mem a n := by
  induction l generalizing mem with
  | nil => rfl
  | cons p l ih =>
    rw [List.foldl_cons, ih fun q hq => hentry q (by simp [hq])]
    exact readNat_writeImage_apart hend (hentry p (by simp))

/-- The header's entry of an image that no other image has. -/
theorem readNat_foldl_writeImage_self {l : List (Nat × Nat)} (h : Memory.wf mem = true) (hl : (l.map Prod.snd).Nodup)
    {p : Nat × Nat} (hp : p ∈ l) (hlt : p.2 < 384) :
    readNat (l.foldl (writeImage save free) mem) (save + 8 + 8 * p.2) 8 = p.1 % 2 ^ 64 := by
  induction l generalizing mem with
  | nil => cases hp
  | cons q l ih =>
    simp only [List.map_cons, List.nodup_cons] at hl
    rw [List.foldl_cons]
    rcases List.mem_cons.mp hp with rfl | hp
    · rw [readNat_foldl_writeImage_apart (by omega) fun r hr => ?_, readNat_writeImage_self h hlt]
      have hne : r.2 ≠ p.2 := fun he => hl.1 (he ▸ List.mem_map_of_mem hr)
      omega
    · exact ih (wf_writeImage q h) hl.2 hp

theorem writeSaveArea_count (images : List Nat) (h : Memory.wf mem = true) :
    readNat (writeSaveArea mem save free images) save 4 = images.length % 2 ^ 32 := by
  rw [writeSaveArea_eq, readNat_foldl_writeImage_apart (by omega) fun p _ => .inl (by omega)]
  exact readNat_writeNat save 4 _ h

theorem writeSaveArea_entry {images : List Nat} {i c : Nat} (h : Memory.wf mem = true) (hi : i < 384)
    (hc : images[i]? = some c) : readNat (writeSaveArea mem save free images) (save + 8 + 8 * i) 8 = c % 2 ^ 64 := by
  have hlen : i < images.length := (List.getElem?_eq_some_iff.mp hc).1
  have hkeys : ((images.zip (upto images.length)).map Prod.snd).Nodup := by
    rw [List.map_snd_zip (by simp [upto])]
    exact List.nodup_range
  have hp : (c, i) ∈ images.zip (upto images.length) :=
    List.mem_of_getElem? (i := i) (List.getElem?_zip_eq_some.mpr ⟨hc, by simp [upto, hlen]⟩)
  rw [writeSaveArea_eq]
  exact readNat_foldl_writeImage_self (p := (c, i)) (wf_writeNat save 4 _ h) hkeys hp hi
end

/-- The images of a context are in its save area. -/
def saveImages (s : State) (y : Context) : State :=
  { s with
    mem := writeSaveArea s.mem y.desc.save.toNat s.freeCount (y.images.map Image.cluster)
    freeCount := s.freeCount + y.images.length }

/-- The context's clusters are captured once nothing holds them up. -/
theorem imagesComplete_of {s : State} {ctx : Nat} {y : Context} {cs : List Nat}
    (hcs : (s.clusters.filter fun p => p.2.stopping == some ctx).map Prod.fst = cs) (hne : cs ≠ [])
    (hready : ∀ c ∈ cs, (s.cluster c).retained = false ∧ drained s c ctx = true)
    (hy : (cs.foldl (captureCluster ctx) (mergeCensus s ctx)).ctx? ctx = some y) :
    imagesComplete ctx s = some (saveImages (cs.foldl (captureCluster ctx) (mergeCensus s ctx)) y) := by
  unfold imagesComplete
  dsimp only
  rw [hcs, if_neg]
  · rw [hy]
    rfl
  · simp only [Bool.or_eq_true, List.isEmpty_iff, hne, false_or, List.any_eq_true, Bool.not_eq_true', not_exists, not_and]
    intro c hc h
    obtain ⟨hret, hdr⟩ := hready c hc
    simp [hret, hdr] at h

/-! ### The restore (R299) -/

theorem setAll_get? {α : Type} (m l : SMap α) (h : (l.map Prod.fst).Nodup) {k : Nat} {v : α} (hk : l.get? k = some v) :
    (setAll m l).get? k = some v :=
  get?_foldl_set id m h (SMap.mem_of_get? hk)

section
variable {s : State} {ctx c : Nat} {x : Context} {i : Image} {rest : List Image}

theorem restoreImage_mem : (restoreImage s ctx i rest c).mem = s.mem := (foldl_record_kept ..).1

theorem restoreImage_ctx? (hx : s.ctx? ctx = some x) : (restoreImage s ctx i rest c).ctx? ctx = some { x with images := rest } := by
  refine (congrArg (SMap.get? · ctx) (foldl_record_kept ..).2.2.1).trans ?_
  exact ctx?_modCtx (fun x => { x with images := rest }) hx

theorem restoreImage_cluster : (restoreImage s ctx i rest c).cluster c = (s.cluster c).load ctx i := by
  refine (congrArg (fun cs => (SMap.get? cs c).getD Cluster.reset) (foldl_record_kept ..).2.2.2).trans ?_
  exact State.cluster_modCluster _ c fun cl => cl.load ctx i

/-- Each strand of an image stands in its slot, with the numbers of its new cluster. -/
theorem load_strand {cl : Cluster} {k : Nat} {st : Strand} (h : (i.strands.map Prod.fst).Nodup)
    (hk : i.strands.get? k = some st) : (cl.load ctx i).strands.get? k = some (st.renumber cl.nextId cl.nextBlock) := by
  refine setAll_get? _ _ (by rwa [List.map_map]) ?_
  rw [get?_mapValues i.strands fun _ st => st.renumber cl.nextId cl.nextBlock, hk]
  rfl

theorem contextRestores_of (hx : s.ctx? ctx = some x) (hi : x.images = i :: rest)
    (hc : (walkClusters s (ctxPart s ctx)).find? (fun c => s.ready.getLsbD c && i.fitsIn (s.cluster c)) = some c) :
    contextRestores ctx s = some (restoreImage s ctx i rest c) := by
  unfold contextRestores
  rw [hx, Option.bind_some, hi]
  exact congrArg (Option.map (restoreImage s ctx i rest)) hc
end

/-- Settles O48: a stop, a capture and a restore are each a fold over clusters or an update of one. -/
theorem contextMoves : Obligations.ContextMoves := by
  unfold Obligations.ContextMoves
  intro s ctx
  refine ⟨fun rows hne hfree => ?_, ?_, fun x i rest c hx hi hc hnodup => ?_⟩
  · obtain ⟨hmem, hstopped⟩ := foldl_stopCluster (s := s) (s₀ := s) (cs := clustersOf s ctx) (ctx := ctx) (rows := rows)
      rfl fun d => .refl _
    refine ⟨(clustersOf s ctx).foldl (stopCluster ctx rows) s, ?_, fun a => by rw [hmem], fun c hc => ?_⟩
    · rw [exec_preemptRequest, execPreemptRequest, preemptStops_of hne hfree]
      rfl
    · obtain ⟨hstopping, hat, hblocks, hstrands⟩ := hstopped c (.inl hc)
      refine ⟨hstopping, hat, hblocks, fun k st hst => ?_⟩
      obtain ⟨st', hst', hpc, hstill, hswept⟩ := hstrands k st hst
      exact ⟨st', hst', hpc, hstill, hswept⟩
  · intro x cs hx hne _ hready
    have hx' : (mergeCensus s ctx).ctx? ctx = some x := by
      rw [← hx, State.ctx?, State.ctx?, mergeCensus_ctxs]
    obtain ⟨hmem, ⟨y, hy, hdesc, himages⟩, hleft⟩ := foldl_captureCluster (cs := cs) hx'
    refine ⟨saveImages (cs.foldl (captureCluster ctx) (mergeCensus s ctx)) y, y, ?_, hy, hdesc, himages,
      fun c hc => hleft c (.inl hc), fun hwf => ?_⟩
    · rw [exec_preemptImageCaptured, execPreemptImageCaptured, imagesComplete_of (cs := cs) rfl hne hready hy]
      rfl
    · have hwf' : Memory.wf (cs.foldl (captureCluster ctx) (mergeCensus s ctx)).mem = true := hmem ▸ wf_mergeCensus ctx hwf
      rw [← hdesc]
      exact ⟨(writeSaveArea_count _ hwf').trans (by rw [List.length_map]), fun j c hj hc => writeSaveArea_entry hwf' hj hc⟩
  · refine ⟨restoreImage s ctx i rest c, ?_, fun a => by rw [restoreImage_mem], restoreImage_ctx? hx, fun k st hst => ?_⟩
    · rw [exec_contextRestore, execContextRestore, contextRestores_of hx hi hc]
      rfl
    · refine ⟨st.renumber (s.cluster c).nextId (s.cluster c).nextBlock, ?_, rfl, rfl, rfl, rfl, rfl⟩
      rw [State.strand?, restoreImage_cluster]
      exact load_strand hnodup hst

end Sys2Proof.Machine
end

section
/-!
PROOFS. Scalar instructions (06 R83-R85): what an integer one writes, what the flags of a float one do (02 R27), and the frame of
both.
-/
namespace Sys2Proof.SMap

/-- A key that is written twice holds what was written last. -/
theorem set_set {α : Type} (m : SMap α) (k : Nat) (v w : α) : (m.set k v).set k w = m.set k w := by
  induction m with
  | nil => simp [set]
  | cons p r ih =>
    obtain ⟨j, u⟩ := p
    simp only [set]
    split
    · simp [set]
    · split
      · simp [set]
      · rename_i h1 h2
        simp [set, h1, h2, ih]

end Sys2Proof.SMap

namespace Sys2Proof.Machine

theorem State.setStrand_setStrand (s : State) (c k : Nat) (x y : Strand) :
    (s.setStrand c k x).setStrand c k y = s.setStrand c k y := by
  have h : (s.setStrand c k x).setStrand c k y = (s.setStrand c k x).setCluster c
      { s.cluster c with strands := ((s.cluster c).strands.set k x).set k y } := by
    rw [State.setStrand, State.modCluster, State.cluster_setStrand]
  rw [h, SMap.set_set]
  exact State.setCluster_setCluster ..

/-! ### Integer instructions -/

/-- A scalar instruction that is ready writes its result and retires. -/
theorem scalarOp_done {s : State} {m : Me} {o : SOps} {op : Nat} {d a b c : Bool} {f : Word → Word → Word → Word}
    (hr : Ready s m (sUses o d a b c)) :
    scalarOp s op o d a b c f = .next (completed m false o.hdr.stop (successor m.st.pc)
      (m.setRegs s fun r => r.put o.sd (f (m.st.regs.get o.sa) (sOpB o m.st.regs) (m.st.regs.get o.sd)))) :=
  issue_done hr rfl

/-- The same for an instruction whose result is known. -/
theorem exec_scalarOp {s : State} {m : Me} {o : SOps} {i : Instr} {op : Nat} {d a b c : Bool}
    {f : Word → Word → Word → Word} {v : Word} (hr : Ready s m (sUses o d a b c)) (hi : exec i s = scalarOp s op o d a b c f)
    (hv : f (m.st.regs.get o.sa) (sOpB o m.st.regs) (m.st.regs.get o.sd) = v) :
    exec i s = .next (completed m false o.hdr.stop (successor m.st.pc) (m.setRegs s fun r => r.put o.sd v)) := by
  rw [hi, scalarOp_done hr, hv]

theorem boolWord_beq (a b : Word) : boolWord (a == b) = if a = b then 1 else 0 := by
  by_cases h : a = b <;> simp [boolWord, h]

/-- Settles O1: each of the instructions is `scalarOp` of its operation. -/
theorem scalarIntegerResults : Obligations.ScalarIntegerResults := by
  unfold Obligations.ScalarIntegerResults
  intro s m o hr
  simp only [List.forall_mem_cons, List.not_mem_nil, false_imp_iff, implies_true, and_true]
  exact ⟨exec_scalarOp hr (exec_add o s) rfl, exec_scalarOp hr (exec_sub o s) rfl, exec_scalarOp hr (exec_mul o s) rfl,
    exec_scalarOp hr (exec_mulh o s) rfl, exec_scalarOp hr (exec_mulhu o s) rfl, exec_scalarOp hr (exec_div o s) rfl,
    exec_scalarOp hr (exec_divu o s) rfl, exec_scalarOp hr (exec_rem o s) rfl, exec_scalarOp hr (exec_remu o s) rfl,
    exec_scalarOp hr (exec_andI o s) rfl, exec_scalarOp hr (exec_orI o s) rfl, exec_scalarOp hr (exec_xorI o s) rfl,
    exec_scalarOp hr (exec_andn o s) rfl, exec_scalarOp hr (exec_shl o s) rfl, exec_scalarOp hr (exec_shr o s) rfl,
    exec_scalarOp hr (exec_sra o s) rfl, exec_scalarOp hr (exec_rol o s) rfl, exec_scalarOp hr (exec_minI o s) rfl,
    exec_scalarOp hr (exec_maxI o s) rfl, exec_scalarOp hr (exec_minu o s) rfl, exec_scalarOp hr (exec_maxu o s) rfl,
    exec_scalarOp hr (exec_bfx o s) rfl, exec_scalarOp hr (exec_seqI o s) (boolWord_beq _ _),
    exec_scalarOp hr (exec_slt o s) rfl, exec_scalarOp hr (exec_sltu o s) rfl⟩

/-! ### Float instructions -/

/-- What an instruction does that raises the flags `fl` and whose effect, once they are set, is `effect`: it has that effect and
retires, or, with one of the flags enabled, it traps FPEXC and has none (02 R27). -/
def FlagsThen (s : State) (m : Me) (bo stop : Bool) (i : Instr) (fl : BitVec 5) (effect : State → State) : Prop :=
  let flagged := m.setRegs s fun r => r.raiseFlags fl
  (m.fpTraps fl = false → exec i s = .next (completed m bo stop (successor m.st.pc) (effect flagged))) ∧
  (m.fpTraps fl = true → ∃ op, exec i s = .next (if bo then trappedBo flagged m causeFpExc (fl.zeroExtend 64) op
    else trappedIn flagged m causeFpExc (fl.zeroExtend 64) op))

theorem flagsThen_of {s : State} {m : Me} {stop : Bool} {i : Instr} {op : Nat} {u : Me → Uses} {k : Me → Eff} {fl : BitVec 5}
    {effect : State → State} (hr : Ready s m (u m)) (hi : exec i s = issueBy s op stop u k)
    (hk : k m = withFlags m s fl effect) : FlagsThen s m (u m).bo stop i fl effect := by
  refine ⟨fun h => hi.trans (issueBy_done hr ?_), fun h => ⟨op, hi.trans (issueBy_trap hr ?_)⟩⟩
  · rw [hk, withFlags, if_neg (by simp [h])]
  · rw [hk, withFlags, if_pos h]

/-- A scalar float instruction whose result and flags are `x` (06 R85). -/
def ScalarFloat (s : State) (m : Me) (o : SOps) (i : Instr) (x : Word × BitVec 5) : Prop :=
  FlagsThen s m false o.hdr.stop i x.2 fun s' => m.setRegs s' fun r => r.put o.sd x.1

theorem scalarFloat_does {s : State} {m : Me} {o : SOps} {i : Instr} {op : Nat} {b c : Bool}
    {f : Word → Word → Word → Word × BitVec 5} {x : Word × BitVec 5} (hr : Ready s m (sUses o true true b c))
    (hi : exec i s = scalarFloat s op o b c f)
    (hx : f (m.st.regs.get o.sa) (sOpF o m.st.regs) (m.st.regs.get o.sd) = x) : ScalarFloat s m o i x := by
  subst hx
  exact flagsThen_of (u := fun _ => sUses o true true b c) hr hi rfl

/-- Settles O3: each of the instructions is `scalarFloat` of its operation. -/
theorem scalarFloatResults : Obligations.ScalarFloatResults := by
  unfold Obligations.ScalarFloatResults
  intro s m o
  refine ⟨fun hr => ?_, fun hr => scalarFloat_does hr (exec_ffma o s) rfl, fun hr => ?_⟩
  · exact ⟨scalarFloat_does hr (exec_fadd o s) rfl, scalarFloat_does hr (exec_fsub o s) rfl,
      scalarFloat_does hr (exec_fmul o s) rfl, scalarFloat_does hr (exec_fdiv o s) rfl,
      scalarFloat_does hr (exec_fmin o s) rfl, scalarFloat_does hr (exec_fmax o s) rfl,
      fun r => scalarFloat_does hr (exec_fcmp r o s) rfl⟩
  · exact ⟨scalarFloat_does hr (exec_fsqrt o s) rfl, fun k => scalarFloat_does hr (exec_fcvt k o s) rfl⟩

/-! ### The frame -/

/-- A strand that retires changes of its cluster itself and whose turn the last was. -/
theorem retiredState_frame (s : State) (m : Me) (st st' : Strand) (stop step : Bool) (next : PC) :
    StrandFrame s (retiredState (s.setStrand m.c m.k st') m stop step next st) m where
  memory a := by rw [retiredState_mem]; rfl
  machine := by rw [retiredState_eq]; rfl
  clusters d hd := by
    rw [retiredState_clusters]
    simp [State.modCluster, State.setStrand, SMap.get?_set_ne _ _ hd]
  strands j hj := by rw [retiredState_strand?_ne _ _ _ _ _ _ hj, State.strand?_setStrand_ne _ _ hj]
  cluster := by rw [retiredState_cluster, State.cluster_setStrand]

/-- An instruction completes whose effect is on its strand's registers: its strand goes on with them, and all else is as before. -/
theorem completed_setRegs {s : State} {m : Me} {stop : Bool} {f : Regs → Regs} (next : PC) (hm : me? s = some m)
    (hdbg : (f m.st.regs).dbg = m.st.regs.dbg) (hu : Unstepped m stop) :
    StrandFrame s (completed m false stop next (m.setRegs s f)) m ∧
      ∃ st, (completed m false stop next (m.setRegs s f)).strand? m.c m.k = some st ∧ st.pc = next ∧
        st.stack = m.st.stack ∧ st.parked = m.st.parked ∧ st.regs = f m.st.regs := by
  have hst : (s.setStrand m.c m.k { m.st with regs := f m.st.regs }).strand? m.c m.k =
      some { m.st with regs := f m.st.regs } := State.strand?_setStrand ..
  rw [Me.setRegs_of hm]
  refine ⟨?_, ?_⟩
  · rw [completed, retire_unstepped hst (hu.not_step hdbg)]
    exact retiredState_frame ..
  · obtain ⟨st, hst', hpc, hregs, hstack, hparked, -⟩ := completed_unstepped (bo := false) (next := next) hst hdbg hu
    exact ⟨st, hst', hpc, hstack, hparked, hregs⟩

/-- Registers that are written twice. -/
theorem Me.setRegs_setRegs {s : State} {m : Me} (hm : me? s = some m) (f g : Regs → Regs) :
    m.setRegs (m.setRegs s f) g = m.setRegs s fun r => g (f r) := by
  rw [Me.setRegs_of hm, Me.setRegs_of hm, Me.setRegs, State.modStrand_of _ _ (State.strand?_setStrand ..),
    State.setStrand_setStrand]

theorem Regs.isLost_put_ne (r : Regs) {n j : SReg} (v : Word) (h : j ≠ n) : (r.put n v).isLost j = r.isLost j := by
  have hne : j.toNat ≠ n.toNat := fun e => h (BitVec.eq_of_toNat_eq e)
  have hlt : j.toNat < 64 := j.isLt
  unfold Regs.isLost Regs.put
  split
  · rfl
  · simp [hne, hlt]

/-- A write changes the scalars and their lost marks. -/
theorem Regs.put_eq (r : Regs) (n : SReg) (v : Word) : r.put n v = { r with s := (r.put n v).s, lost := (r.put n v).lost } := by
  unfold Regs.put
  split <;> rfl

@[simp] theorem Regs.fpflags_put (r : Regs) (n : SReg) (v : Word) : (r.put n v).fpflags = r.fpflags := by rw [Regs.put_eq]
@[simp] theorem Regs.dbg_put (r : Regs) (n : SReg) (v : Word) : (r.put n v).dbg = r.dbg := by rw [Regs.put_eq]

/-- A scalar written after flags were raised: no other scalar has changed. -/
theorem scalarsSame_put (r : Regs) (fl : BitVec 5) (n : SReg) (v : Word) : ScalarsSame r ((r.raiseFlags fl).put n v) [n] := by
  refine ⟨fun j hj => ?_, by rw [Regs.put_eq]; rfl⟩
  have hne : j ≠ n := by simpa using hj
  exact ⟨Regs.get_put_ne _ v hne, Regs.isLost_put_ne _ v hne⟩

@[simp] theorem Regs.raiseFlags_zero (r : Regs) : r.raiseFlags 0 = r := by simp [Regs.raiseFlags]

/-- What a scalar instruction with SD `n` that raised the flags `fl` leaves in `t`. -/
structure ScalarLeft (s t : State) (m : Me) (n : SReg) (fl : BitVec 5) (st : Strand) : Prop where
  here : t.strand? m.c m.k = some st
  pc : st.pc = successor m.st.pc
  stack : st.stack = m.st.stack
  parked : st.parked = m.st.parked
  scalars : ScalarsSame m.st.regs st.regs [n]
  zero : n = 0 → st.regs.get n = 0
  flags : st.regs.fpflags = m.st.regs.fpflags ||| fl

/-- An instruction that raises flags, writes a scalar and retires. -/
theorem completed_put {s : State} {m : Me} {stop : Bool} (fl : BitVec 5) (n : SReg) (v : Word) (hm : me? s = some m)
    (hu : Unstepped m stop) :
    let t := completed m false stop (successor m.st.pc) (m.setRegs (m.setRegs s fun r => r.raiseFlags fl) fun r => r.put n v)
    StrandFrame s t m ∧ ∃ st, ScalarLeft s t m n fl st := by
  dsimp only
  rw [Me.setRegs_setRegs hm]
  obtain ⟨hframe, st, hst, hpc, hstack, hparked, hregs⟩ :=
    completed_setRegs (f := fun r => (r.raiseFlags fl).put n v) (successor m.st.pc) hm (by simp [Regs.raiseFlags]) hu
  refine ⟨hframe, st, hst, hpc, hstack, hparked, ?_, ?_, ?_⟩
  · exact hregs ▸ scalarsSame_put _ fl n v
  · rintro rfl
    exact Regs.get_zero _
  · simp [hregs, Regs.raiseFlags]

/-- An instruction of a scalar integer operation, with what it uses. -/
def IsScalarOp (s : State) (o : SOps) (p : Instr × Uses) : Prop :=
  ∃ op d a b c f, p.2 = sUses o d a b c ∧ exec p.1 s = scalarOp s op o d a b c f

theorem isScalarOp_of {s : State} {o : SOps} {i : Instr} {op : Nat} {d a b c : Bool} {f : Word → Word → Word → Word}
    (h : exec i s = scalarOp s op o d a b c f) : IsScalarOp s o (i, sUses o d a b c) := ⟨_, _, _, _, _, _, rfl, h⟩

/-- An instruction of a scalar float operation, with what it uses. -/
def IsScalarFloat (s : State) (o : SOps) (p : Instr × Uses) : Prop :=
  ∃ op b c f, p.2 = sUses o true true b c ∧ exec p.1 s = scalarFloat s op o b c f

theorem isScalarFloat_of {s : State} {o : SOps} {i : Instr} {op : Nat} {b c : Bool}
    {f : Word → Word → Word → Word × BitVec 5} (h : exec i s = scalarFloat s op o b c f) :
    IsScalarFloat s o (i, sUses o true true b c) := ⟨_, _, _, _, rfl, h⟩

section
variable {s t : State} {m : Me} {o : SOps} {p : Instr × Uses} (hr : Ready s m p.2) (hu : Unstepped m o.hdr.stop)
  (hexec : exec p.1 s = .next t)
include hr hu hexec

theorem IsScalarOp.frame (h : IsScalarOp s o p) : StrandFrame s t m ∧ ∃ st, ScalarLeft s t m o.sd 0 st := by
  obtain ⟨op, d, a, b, c, f, huses, hi⟩ := h
  rw [hi, scalarOp_done (huses ▸ hr)] at hexec
  obtain rfl := Host.Outcome.next.inj hexec
  have h := completed_put 0 o.sd (f (m.st.regs.get o.sa) (sOpB o m.st.regs) (m.st.regs.get o.sd)) hr.here hu
  simpa only [Me.setRegs_setRegs hr.here, Regs.raiseFlags_zero] using h

/-- A float instruction none of whose flags can trap. -/
theorem IsScalarFloat.frame (h : IsScalarFloat s o p) (hfp : m.st.regs.fptrap = 0 ∨ m.inH = true) :
    StrandFrame s t m ∧ ∃ fl st, ScalarLeft s t m o.sd fl st := by
  obtain ⟨op, b, c, f, huses, hi⟩ := h
  have hquiet : ∀ fl, m.fpTraps fl = false := fun fl => by
    rcases hfp with h | h <;> simp [Me.fpTraps, h]
  have hdone := (scalarFloat_does (huses ▸ hr) hi rfl).1 (hquiet _)
  obtain rfl := Host.Outcome.next.inj (hexec.symm.trans hdone)
  obtain ⟨hframe, st, hst⟩ := completed_put (m := m) _ o.sd _ hr.here hu
  exact ⟨hframe, _, st, hst⟩
end

/-- Settles O4: each of the instructions is `scalarOp` or `scalarFloat` of its operation, and these write SD and raise flags. -/
theorem scalarFrame : Obligations.ScalarFrame := by
  unfold Obligations.ScalarFrame
  intro s t m o r k abd all a ints floats p hp hr hu hfp hexec
  have hints : ∀ q ∈ ints, IsScalarOp s o q := by
    simp only [ints, List.forall_mem_cons, List.not_mem_nil, false_imp_iff, implies_true, and_true]
    exact ⟨isScalarOp_of (exec_add o s), isScalarOp_of (exec_sub o s), isScalarOp_of (exec_mul o s),
      isScalarOp_of (exec_mulh o s), isScalarOp_of (exec_mulhu o s), isScalarOp_of (exec_div o s),
      isScalarOp_of (exec_divu o s), isScalarOp_of (exec_rem o s), isScalarOp_of (exec_remu o s),
      isScalarOp_of (exec_andI o s), isScalarOp_of (exec_orI o s), isScalarOp_of (exec_xorI o s),
      isScalarOp_of (exec_andn o s), isScalarOp_of (exec_shl o s), isScalarOp_of (exec_shr o s),
      isScalarOp_of (exec_sra o s), isScalarOp_of (exec_rol o s), isScalarOp_of (exec_minI o s),
      isScalarOp_of (exec_maxI o s), isScalarOp_of (exec_minu o s), isScalarOp_of (exec_maxu o s),
      isScalarOp_of (exec_clz o s), isScalarOp_of (exec_ctz o s), isScalarOp_of (exec_popc o s),
      isScalarOp_of (exec_bfx o s), isScalarOp_of (exec_bfi o s), isScalarOp_of (exec_sel o s),
      isScalarOp_of (exec_seqI o s), isScalarOp_of (exec_slt o s), isScalarOp_of (exec_sltu o s),
      isScalarOp_of (exec_liI o s), isScalarOp_of (exec_liHi o s), isScalarOp_of (exec_mov o s)⟩
  have hfloats : ∀ q ∈ floats, IsScalarFloat s o q := by
    simp only [floats, List.forall_mem_cons, List.not_mem_nil, false_imp_iff, implies_true, and_true]
    exact ⟨isScalarFloat_of (exec_fadd o s), isScalarFloat_of (exec_fsub o s), isScalarFloat_of (exec_fmul o s),
      isScalarFloat_of (exec_ffma o s), isScalarFloat_of (exec_fdiv o s), isScalarFloat_of (exec_fsqrt o s),
      isScalarFloat_of (exec_fmin o s), isScalarFloat_of (exec_fmax o s), isScalarFloat_of (exec_fcmp r o s),
      isScalarFloat_of (exec_fcvt k o s)⟩
  have hdisjoint : ∀ q ∈ floats, q ∉ ints := by simp [floats, ints]
  rcases List.mem_append.mp hp with hi | hf
  · obtain ⟨hframe, st, h⟩ := (hints p hi).frame hr hu hexec
    exact ⟨hframe, st, h.here, h.pc, h.stack, h.parked, h.scalars, h.zero, fun _ => by simpa using h.flags, 0, h.flags⟩
  · obtain ⟨hframe, fl, st, h⟩ := (hfloats p hf).frame hr hu hexec (hfp hf)
    exact ⟨hframe, st, h.here, h.pc, h.stack, h.parked, h.scalars, h.zero, fun hi => absurd hi (hdisjoint p hf), fl, h.flags⟩

end Sys2Proof.Machine
end

section
/-!
PROOFS. Integer lane instructions (08 R116): what each writes to VD, and the lanes of an arithmetic result (02 R21, R22).
-/
namespace Sys2Proof.Machine

/-! ### Lane instructions -/

/-- A lane instruction that is ready writes its result in the acting threads and retires. -/
theorem exec_laneOp {s : State} {m : Me} {o : VOps} {i : Instr} {op : Nat} {a b c : Bool} {f : W32 → W32 → W32 → W32}
    {g : Nat → W32} (hr : Ready s m (vUses o true a b c)) (hi : exec i s = laneOp s op o a b c f)
    (hg : ∀ t, f (if a then m.v o.va.toNat t else 0) (vOpB o m t) (if c then m.v o.vc.toNat t else 0) = g t) :
    exec i s = .next (completed m true o.hdr.stop (successor m.st.pc)
      (m.putV s o.vd.toNat ((m.acting s o.all).map fun t => (t, g t)))) := by
  have hvals : (fun t => (t, g t)) = fun t =>
      (t, f (if a then m.v o.va.toNat t else 0) (vOpB o m t) (if c then m.v o.vc.toNat t else 0)) :=
    funext fun t => by rw [hg]
  rw [hi, hvals]
  exact issue_done hr rfl

/-- `vsel` chooses by the key that VC names. -/
theorem exec_vsel_done {s : State} {m : Me} {o : VOps}
    (hr : Ready s m { vUses o true true true false with keys := [o.vc.toNat % 8] }) :
    exec (.vsel o) s = .next (completed m true o.hdr.stop (successor m.st.pc) (m.putV s o.vd.toNat
      ((m.acting s o.all).map fun t => (t, if m.blk.key (o.vc.toNat % 8) t then m.v o.va.toNat t else vOpB o m t)))) :=
  issue_done hr rfl

/-- Settles O20: each of the instructions is `laneOp` of its operation, but for `vsel`, which reads a key. -/
theorem laneResults : Obligations.LaneResults := by
  unfold Obligations.LaneResults
  intro s m o
  refine ⟨fun hr => ?_, exec_vsel_done, fun hr => ?_, fun hr => ?_, fun hr => ?_, fun hr => ?_⟩
  · simp only [List.forall_mem_cons, List.not_mem_nil, false_imp_iff, implies_true, and_true]
    exact ⟨exec_laneOp hr (exec_vadd o s) fun _ => rfl, exec_laneOp hr (exec_vsub o s) fun _ => rfl,
      exec_laneOp hr (exec_vmul o s) fun _ => rfl, exec_laneOp hr (exec_vadds o s) fun _ => rfl,
      exec_laneOp hr (exec_vsubs o s) fun _ => rfl, exec_laneOp hr (exec_vand o s) fun _ => rfl,
      exec_laneOp hr (exec_vor o s) fun _ => rfl, exec_laneOp hr (exec_vxor o s) fun _ => rfl,
      exec_laneOp hr (exec_vbfx o s) fun _ => rfl⟩
  · exact ⟨exec_laneOp hr (exec_vshl o s) fun _ => rfl, exec_laneOp hr (exec_vshr o s) fun _ => rfl,
      exec_laneOp hr (exec_vsra o s) fun _ => rfl, exec_laneOp hr (exec_vmin o s) fun _ => rfl,
      exec_laneOp hr (exec_vminu o s) fun _ => rfl, exec_laneOp hr (exec_vmax o s) fun _ => rfl,
      exec_laneOp hr (exec_vmaxu o s) fun _ => rfl, exec_laneOp hr (exec_vmulh o s) fun _ => rfl⟩
  · exact ⟨exec_laneOp hr (exec_vmad o s) fun _ => rfl, exec_laneOp hr (exec_vbfi o s) fun _ => rfl⟩
  · exact ⟨exec_laneOp hr (exec_vnot o s) fun _ => rfl, exec_laneOp hr (exec_vabs o s) fun _ => rfl,
      exec_laneOp hr (exec_vneg o s) fun _ => rfl, exec_laneOp hr (exec_vclz o s) fun _ => rfl,
      exec_laneOp hr (exec_vpopc o s) fun _ => rfl, exec_laneOp hr (exec_vfabs o s) fun _ => rfl,
      exec_laneOp hr (exec_vfneg o s) fun _ => rfl, exec_laneOp hr (exec_vfclass o s) fun _ => rfl⟩
  · exact exec_laneOp hr (exec_vmov o s) fun _ => rfl

/-! ### Lanes of a register -/

theorem laneWidth_pos (ty : Ty) : 0 < laneWidth ty := by cases ty <;> decide

/-- The lanes fill a register. -/
theorem laneWidth_mul_laneCount (ty : Ty) : laneWidth ty * laneCount ty = 32 := by cases ty <;> rfl

theorem ofLanes_lt (w : Nat) (l : List Nat) : ofLanes w l < 2 ^ (w * l.length) := by
  induction l with
  | nil => simp [ofLanes]
  | cons x l ih =>
    have hx : x % 2 ^ w < 2 ^ w := Nat.mod_lt _ (Nat.two_pow_pos w)
    have hle : 2 ^ w * (ofLanes w l + 1) ≤ 2 ^ w * 2 ^ (w * l.length) := Nat.mul_le_mul_left _ ih
    rw [ofLanes, List.length_cons, Nat.mul_succ, Nat.add_comm _ w, Nat.pow_add]
    rw [Nat.mul_succ] at hle
    omega

/-- A lane of a number made of lanes. -/
theorem ofLanes_lane (w : Nat) (l : List Nat) (i : Nat) : ofLanes w l / 2 ^ (w * i) % 2 ^ w = l.getD i 0 % 2 ^ w := by
  induction l generalizing i with
  | nil => simp [ofLanes]
  | cons x l ih =>
    cases i with
    | zero => simp [ofLanes]
    | succ i =>
      have hx : x % 2 ^ w < 2 ^ w := Nat.mod_lt _ (Nat.two_pow_pos w)
      have hrest : (x % 2 ^ w + 2 ^ w * ofLanes w l) / 2 ^ w = ofLanes w l := by
        rw [Nat.add_mul_div_left _ _ (Nat.two_pow_pos w), Nat.div_eq_of_lt hx, Nat.zero_add]
      rw [ofLanes, Nat.mul_succ, Nat.add_comm _ w, Nat.pow_add, ← Nat.div_div_eq_div_mul, hrest, ih, List.getD_cons_succ]

/-- Each lane of a result is that of the operation on the same lane of the operands. -/
theorem laneOf_mapLanes {ty : Ty} (f : (w : Nat) → BitVec w → BitVec w → BitVec w → BitVec w) (a b c : W32) {i : Nat}
    (hi : i < laneCount ty) : laneOf (laneWidth ty) (mapLanes ty f a b c) i =
      f (laneWidth ty) (laneOf (laneWidth ty) a i) (laneOf (laneWidth ty) b i) (laneOf (laneWidth ty) c i) := by
  have hlt : ∀ g : Nat → Nat, ofLanes (laneWidth ty) ((upto (laneCount ty)).map g) < 2 ^ 32 := fun g => by
    have h := ofLanes_lt (laneWidth ty) ((upto (laneCount ty)).map g)
    rwa [List.length_map, upto, List.length_range, laneWidth_mul_laneCount] at h
  refine BitVec.eq_of_toNat_eq ?_
  rw [laneOf, mapLanes, BitVec.toNat_ofNat, BitVec.toNat_ofNat, Nat.mod_eq_of_lt (hlt _), ofLanes_lane]
  simp [upto, List.getD_eq_getElem?_getD, hi]

/-! ### Narrowing -/

theorem clampLane_eq (sg : Bool) (w : Nat) (v : Int) : clampLane sg w v =
    max (if sg then -2 ^ (w - 1) else 0) (min (if sg then 2 ^ (w - 1) - 1 else 2 ^ w - 1) v) := by
  have h1 : (0 : Int) < 2 ^ (w - 1) := by positivity
  have h2 : (0 : Int) < 2 ^ w := by positivity
  unfold clampLane
  cases sg <;> simp only [Bool.false_eq_true, if_false, if_true] <;> omega

theorem laneRange_nonempty (sg : Bool) (w : Nat) :
    (if sg then -2 ^ (w - 1) else 0 : Int) ≤ if sg then 2 ^ (w - 1) - 1 else 2 ^ w - 1 := by
  have h1 : (0 : Int) < 2 ^ (w - 1) := by positivity
  have h2 : (0 : Int) < 2 ^ w := by positivity
  cases sg <;> simp only [Bool.false_eq_true, if_false, if_true] <;> omega

/-- A lane holds every value of its range. -/
theorem laneInt_ofInt {sg : Bool} {w : Nat} {v : Int} (hw : 0 < w) (hlo : (if sg then -2 ^ (w - 1) else 0) ≤ v)
    (hhi : v ≤ if sg then 2 ^ (w - 1) - 1 else 2 ^ w - 1) : laneInt sg (BitVec.ofInt w v) = v := by
  cases sg with
  | false =>
    simp only [Bool.false_eq_true, if_false] at hlo hhi
    have hmod : v % ((2 ^ w : Nat) : Int) = v := Int.emod_eq_of_lt hlo (by push_cast; omega)
    simp only [laneInt, Bool.false_eq_true, if_false, BitVec.toNat_ofInt, hmod, Int.toNat_of_nonneg hlo]
  | true =>
    simp only [if_true] at hlo hhi
    simpa [laneInt] using BitVec.toInt_ofInt_eq_self hw hlo (by omega)

/-- Settles O21: a lane of `mapLanes`, narrowed. -/
theorem laneArithmetic : Obligations.LaneArithmetic := by
  unfold Obligations.LaneArithmetic
  intro ty sat f a b c i hcount w sg v lo hi
  have hlane : laneOf w (arith ty sat f a b c) i = narrow sg sat w v := laneOf_mapLanes _ a b c hcount
  rw [hlane]
  refine ⟨fun h => by simp [narrow, h], fun h => ?_⟩
  rw [narrow, h, if_pos rfl, clampLane_eq]
  exact laneInt_ofInt (laneWidth_pos ty) (le_max_left ..) (max_le (laneRange_nonempty sg w) (min_le_left ..))

end Sys2Proof.Machine
end

section
/-!
PROOFS. Float lane instructions and conversions (08 R118-R123): the flags of all acting threads and the results, or the trap.
-/
namespace Sys2Proof.Machine

section
variable {s : State} {m : Me} {o : VOps} {i : Instr}

/-- A float lane instruction whose result and flags in thread `t` are `g t`. -/
def LanesFloat (s : State) (m : Me) (o : VOps) (i : Instr) (g : Nat → VRes) : Prop :=
  let act := m.acting s o.all
  FlagsThen s m true o.hdr.stop i (orFlags (act.map fun t => (g t).2)) fun s' =>
    m.putV s' o.vd.toNat (act.map fun t => (t, (g t).1))

/-- An instruction whose effect is to raise the flags of the results of all acting threads and to write the results. -/
theorem lanesFloat_of {op : Nat} {u : Me → Uses} {k : Me → Eff} {g g' : Nat → VRes}
    (hr : Ready s m (u m)) (hbo : (u m).bo = true) (hi : exec i s = issueBy s op o.hdr.stop u k)
    (hk : k m = withFlags m s (orFlags (((m.acting s o.all).map fun t => (t, g' t)).map fun p => p.2.2)) fun s' =>
      m.putV s' o.vd.toNat (((m.acting s o.all).map fun t => (t, g' t)).map fun p => (p.1, p.2.1)))
    (hg : ∀ t, g' t = g t) : LanesFloat s m o i g := by
  obtain rfl : g' = g := funext hg
  have h := flagsThen_of hr hi hk
  rwa [hbo, List.map_map, List.map_map] at h

theorem floatOp_does {op : Nat} {a b c : Bool} {f : W32 → W32 → W32 → VRes} {g : Nat → VRes}
    (hr : Ready s m (vUses o true a b c)) (hi : exec i s = floatOp s op o a b c f)
    (hg : ∀ t, f (if a then m.v o.va.toNat t else 0) (vOpB o m t) (if c then m.v o.vc.toNat t else 0) = g t) :
    LanesFloat s m o i g :=
  lanesFloat_of (u := fun _ => vUses o true a b c) hr rfl hi rfl hg

/-- A conversion with a slot. -/
theorem slotOp_does {f : W32 → W32 → W32 → W32 → VRes} {g : Nat → VRes}
    (hr : Ready s m (vUses o true true (scaleRead (m.slotOf o).1) false)) (hi : exec i s = slotOp s o f)
    (hg : ∀ t, f (m.slotOf o).1 (m.slotOf o).2 (m.v o.va.toNat t) (vOpB o m t) = g t) : LanesFloat s m o i g :=
  lanesFloat_of (u := fun m => vUses o true true (scaleRead (m.slotOf o).1) false) hr rfl hi rfl hg

/-- The acting set is nothing of the registers. -/
@[simp] theorem Me.act_setRegs (f : Regs → Regs) (all : Bool) : m.act (m.setRegs s f) all = m.act s all := by
  have hstack : m.stack (m.setRegs s f) = m.stack s := by
    unfold Me.stack Me.setRegs
    rw [State.cluster_modStrand]
  simp only [Me.act, hstack]

/-- `vfcmp` writes the key VD in the acting threads. -/
theorem execVfcmp_does (r : VFRel) (hr : Ready s m (vUses o false true true false)) :
    let rel := fun (t : Nat) => vfRelation r (f32.read o.ftz (m.v o.va.toNat t).toNat) (f32.read o.ftz (vOpB o m t).toNat)
    let act := m.acting s o.all
    FlagsThen s m true o.hdr.stop (.vfcmp r o) (orFlags (act.map fun t => (rel t).2)) fun s' =>
      m.putKey s' (o.vd.toNat % 8) (m.act s o.all) (setOf (act.filter fun t => (rel t).1)) := by
  have h := flagsThen_of (u := fun _ => vUses o false true true false) hr (exec_vfcmp r o s) rfl
  simpa only [FlagsThen, vUses, if_true, Me.act_setRegs, List.map_map, List.filter_map, Function.comp_def, List.map_id', vf]
    using h
end

/-- Settles O25: each of the instructions raises the flags of the results of its acting threads, and writes them. -/
theorem floatLaneResults : Obligations.FloatLaneResults := by
  unfold Obligations.FloatLaneResults
  intro s m o
  refine ⟨fun hr => ?_, fun hr => ?_, fun hr => ?_, fun hr => ?_, fun hr => ?_, fun hr r => execVfcmp_does r hr⟩
  · exact ⟨floatOp_does hr (exec_vfadd o s) fun _ => rfl, floatOp_does hr (exec_vfsub o s) fun _ => rfl,
      floatOp_does hr (exec_vfmul o s) fun _ => rfl, floatOp_does hr (exec_vfdiv o s) fun _ => rfl,
      floatOp_does hr (exec_vfmin o s) fun _ => rfl, floatOp_does hr (exec_vfmax o s) fun _ => rfl,
      floatOp_does hr (exec_vhadd o s) fun _ => rfl, floatOp_does hr (exec_vhmul o s) fun _ => rfl,
      floatOp_does hr (exec_vcvt .f16F32 o s) fun _ => rfl, floatOp_does hr (exec_vcvt .bf16F32 o s) fun _ => rfl,
      floatOp_does hr (exec_vcvt .f32F16 o s) fun _ => rfl, floatOp_does hr (exec_vcvt .f32Bf16 o s) fun _ => rfl⟩
  · exact ⟨floatOp_does hr (exec_vffma o s) fun _ => rfl, floatOp_does hr (exec_vhfma o s) fun _ => rfl⟩
  · exact ⟨floatOp_does hr (exec_vfsqrt o s) fun _ => rfl, floatOp_does hr (exec_vfrcp o s) fun _ => rfl,
      floatOp_does hr (exec_vfrsq o s) fun _ => rfl, floatOp_does hr (exec_vfexp2 o s) fun _ => rfl,
      floatOp_does hr (exec_vflog2 o s) fun _ => rfl, fun k => floatOp_does hr (exec_vcvti k o s) fun _ => rfl,
      lanesFloat_of hr rfl (exec_vunpk o s) rfl fun _ => rfl⟩
  · exact ⟨slotOp_does hr (exec_vcvtEnc o s) fun _ => rfl, slotOp_does hr (exec_vcvtDec o s) fun _ => rfl⟩
  · exact lanesFloat_of hr rfl (exec_vpack o s) rfl fun _ => rfl

end Sys2Proof.Machine
end

section
/-!
PROOFS. Fields of a word: splitting a word into fields and joining fields into a word undo each other, and so do the codes and
their names (03 R46-R56, 05 R73, 21 R278).
-/
namespace Sys2Proof

/-! ### Splitting and joining -/

/-- The number of bits of a list of fields. -/
def fieldBits (l : List (Nat × Nat)) : Nat := (l.map Prod.fst).sum

theorem joinFields_append (a b : List (Nat × Nat)) : joinFields (a ++ b) = joinFields a + 2 ^ fieldBits a * joinFields b := by
  induction a with
  | nil => simp [joinFields, fieldBits]
  | cons p a ih =>
    simp only [fieldBits] at ih
    simp only [List.cons_append, joinFields, ih, fieldBits, List.map_cons, List.sum_cons, pow_add]
    ring

theorem joinFields_lt (l : List (Nat × Nat)) : joinFields l < 2 ^ fieldBits l := by
  induction l with
  | nil => simp [joinFields, fieldBits]
  | cons p l ih =>
    have hp : p.2 % 2 ^ p.1 < 2 ^ p.1 := Nat.mod_lt _ (by positivity)
    have hl : 2 ^ p.1 * (joinFields l + 1) ≤ 2 ^ p.1 * 2 ^ fieldBits l := Nat.mul_le_mul_left _ ih
    have hb : fieldBits (p :: l) = p.1 + fieldBits l := by simp [fieldBits]
    rw [hb, pow_add, joinFields]
    rw [Nat.mul_add] at hl
    omega

theorem joinFields_lt_of {l : List (Nat × Nat)} {bits : Nat} (h : fieldBits l = bits) :
    joinFields l < 2 ^ bits := h ▸ joinFields_lt l

/-- The low fields of a word are those that were joined, cut to their widths. -/
theorem splitFields_low (l : List (Nat × Nat)) (n : Nat) :
    splitFields (l.map Prod.fst) (joinFields l + 2 ^ fieldBits l * n) = l.map fun p => p.2 % 2 ^ p.1 := by
  induction l with
  | nil => rfl
  | cons p l ih =>
    have hp : p.2 % 2 ^ p.1 < 2 ^ p.1 := Nat.mod_lt _ (by positivity)
    have hj : joinFields (p :: l) + 2 ^ fieldBits (p :: l) * n
        = p.2 % 2 ^ p.1 + 2 ^ p.1 * (joinFields l + 2 ^ fieldBits l * n) := by
      simp only [joinFields, fieldBits, List.map_cons, List.sum_cons, pow_add]
      ring
    have hd : (p.2 % 2 ^ p.1 + 2 ^ p.1 * (joinFields l + 2 ^ fieldBits l * n)) / 2 ^ p.1
        = joinFields l + 2 ^ fieldBits l * n := by
      rw [Nat.add_mul_div_left _ _ (by positivity), Nat.div_eq_of_lt hp, Nat.zero_add]
    rw [hj]
    simp only [List.map_cons, splitFields, hd, ih, Nat.add_mul_mod_self_left, Nat.mod_mod]

theorem splitFields_joinFields (l : List (Nat × Nat)) :
    splitFields (l.map Prod.fst) (joinFields l) = l.map fun p => p.2 % 2 ^ p.1 := splitFields_low l 0

/-- The same, of a word with the widths of a layout. -/
theorem splitFields_of {ws : List Nat} {l : List (Nat × Nat)} {n : Nat} (h : l.map Prod.fst = ws) (hn : n = joinFields l) :
    splitFields ws n = l.map fun p => p.2 % 2 ^ p.1 := by rw [hn, ← h, splitFields_joinFields]

/-- The word joined of a word's fields is its low bits. -/
theorem joinFields_splitFields (ws : List Nat) (n : Nat) : joinFields (ws.zip (splitFields ws n)) = n % 2 ^ ws.sum := by
  induction ws generalizing n with
  | nil => simp [joinFields, Nat.mod_one]
  | cons w ws ih =>
    simp only [splitFields, List.zip_cons_cons, joinFields, ih, List.sum_cons, pow_add, Nat.mod_mul, Nat.mod_mod]

/-- Every field of a word lies within its width. -/
theorem splitFields_within {ws vs : List Nat} {n : Nat} (h : splitFields ws n = vs) :
    (ws.zip vs).map (fun p => p.2 % 2 ^ p.1) = vs := by
  subst h
  induction ws generalizing n with
  | nil => rfl
  | cons w ws ih => simp only [splitFields, List.zip_cons_cons, List.map_cons, ih, Nat.mod_mod]

/-- A word whose fields are the values of `l` is the word joined of `l`. -/
theorem eq_joinFields {ws : List Nat} {l : List (Nat × Nat)} {n bits : Nat} (hb : ws.sum = bits) (hn : n < 2 ^ bits)
    (h : splitFields ws n = l.map fun p => p.2 % 2 ^ p.1) (hl : l.map Prod.fst = ws) : n = joinFields l := by
  subst hb
  have hlt : joinFields l < 2 ^ ws.sum := by
    rw [← hl]
    exact joinFields_lt l
  calc n = joinFields (ws.zip (splitFields ws n)) := by rw [joinFields_splitFields, Nat.mod_eq_of_lt hn]
    _ = joinFields (ws.zip (splitFields ws (joinFields l))) := by rw [h, splitFields_of hl rfl]
    _ = joinFields l := by rw [joinFields_splitFields, Nat.mod_eq_of_lt hlt]

@[simp] theorem bit01_true : bit01 true = 1 := rfl
@[simp] theorem bit01_false : bit01 false = 0 := rfl
@[simp] theorem bit01_mod (b : Bool) : bit01 b % 2 = bit01 b := by cases b <;> rfl
@[simp] theorem bit01_beq_one (b : Bool) : (bit01 b == 1) = b := by cases b <;> rfl
theorem bit01_beq {n : Nat} (h : n < 2) : bit01 (n == 1) = n := by
  rcases Nat.le_one_iff_eq_zero_or_eq_one.mp (Nat.le_of_lt_succ h) with rfl | rfl <;> rfl

/-! ### Rules broken -/

@[simp] theorem need_eq_nil {n : Nat} {ok : Bool} : need n ok = [] ↔ ok = true := by cases ok <;> simp [need]
@[simp] theorem y3_eq_nil {ok : Bool} : y3 ok = [] ↔ ok = true := need_eq_nil
@[simp] theorem y4_eq_nil {ok : Bool} : y4 ok = [] ↔ ok = true := need_eq_nil
@[simp] theorem undefinedCode_eq_nil {ok : Bool} {probes : List Instr} : undefinedCode ok probes = [] ↔ ok = true := by
  cases ok <;> simp [undefinedCode]

theorem leastRule_eq_none {l : List Nat} : leastRule l = none ↔ l = [] := by cases l <;> simp [leastRule]

end Sys2Proof
end

section
/-!
PROOFS. The layouts of a slot (03 R46-R56) and of an operation (21 R278): reading a layout without a fault undoes laying out
its operands, and back.
-/
namespace Sys2Proof

/-! ### Codes -/

/-- Codes of `w` bits: the name of the code of a name is that name, and the code of a named code is that code. -/
structure CodesFor {α : Type} (w : Nat) (code : α → Nat) (ofCode : Nat → Option α) : Prop where
  ofCode_code : ∀ c, ofCode (code c % 2 ^ w) = some c
  code_of : ∀ {n c}, ofCode n = some c → code c = n

theorem BCond.codes : CodesFor 4 BCond.code BCond.ofCode :=
  ⟨fun c => by cases c <;> rfl, fun h => by unfold BCond.ofCode at h; split at h <;> cases h <;> rfl⟩
theorem CntCond.codes : CodesFor 4 CntCond.code CntCond.ofCode :=
  ⟨fun c => by cases c <;> rfl, fun h => by unfold CntCond.ofCode at h; split at h <;> cases h <;> rfl⟩
theorem Cmp.codes : CodesFor 4 Cmp.code Cmp.ofCode :=
  ⟨fun c => by cases c <;> rfl, fun h => by unfold Cmp.ofCode at h; split at h <;> cases h <;> rfl⟩
theorem SetOp.codes : CodesFor 3 SetOp.code SetOp.ofCode :=
  ⟨fun c => by cases c <;> rfl, fun h => by unfold SetOp.ofCode at h; split at h <;> cases h <;> rfl⟩
theorem Opd.codes : CodesFor 2 Opd.code Opd.ofCode :=
  ⟨fun c => by cases c <;> rfl, fun h => by unfold Opd.ofCode at h; split at h <;> cases h <;> rfl⟩
theorem Ty.codes : CodesFor 4 Ty.code Ty.ofCode :=
  ⟨fun c => by cases c <;> rfl, fun h => by unfold Ty.ofCode at h; split at h <;> cases h <;> rfl⟩
theorem BSrc.codes : CodesFor 2 BSrc.code BSrc.ofCode :=
  ⟨fun c => by cases c <;> rfl, fun h => by unfold BSrc.ofCode at h; split at h <;> cases h <;> rfl⟩
theorem Rnd.codes : CodesFor 3 Rnd.code Rnd.ofCode :=
  ⟨fun c => by cases c <;> rfl, fun h => by unfold Rnd.ofCode at h; split at h <;> cases h <;> rfl⟩
theorem Wid.codes : CodesFor 3 Wid.code Wid.ofCode :=
  ⟨fun c => by cases c <;> rfl, fun h => by unfold Wid.ofCode at h; split at h <;> cases h <;> rfl⟩
theorem Scope.codes : CodesFor 3 Scope.code Scope.ofCode :=
  ⟨fun c => by cases c <;> rfl, fun h => by unfold Scope.ofCode at h; split at h <;> cases h <;> rfl⟩
theorem Ord4.codes : CodesFor 2 Ord4.code Ord4.ofCode :=
  ⟨fun c => by cases c <;> rfl, fun h => by unfold Ord4.ofCode at h; split at h <;> cases h <;> rfl⟩
theorem AOp.codes : CodesFor 4 AOp.code AOp.ofCode :=
  ⟨fun c => by cases c <;> rfl, fun h => by unfold AOp.ofCode at h; split at h <;> cases h <;> rfl⟩
theorem ShpN.codes : CodesFor 2 ShpN.code ShpN.ofCode :=
  ⟨fun c => by cases c <;> rfl, fun h => by unfold ShpN.ofCode at h; split at h <;> cases h <;> rfl⟩
theorem Eng.codes : CodesFor 3 Eng.code Eng.ofCode :=
  ⟨fun c => by cases c <;> rfl, fun h => by unfold Eng.ofCode at h; split at h <;> cases h <;> rfl⟩

/-! ### The operands of each layout -/

/-- The operands of the S layout, as it lays them out after the header; and so for the other layouts. -/
def sFields (o : SOps) : List (Nat × Nat) :=
  [(6, o.sd.toNat), (6, o.sa.toNat), (6, o.sb.toNat), (1, bit01 o.imm), (1, bit01 o.w32), (4, 0), (24, 0),
    (32, o.imm32.toNat)]

def bFields (cond : Nat) (o : BOps) : List (Nat × Nat) :=
  [(4, cond), (6, o.sa.toNat), (6, o.sb.toNat), (6, o.sd.toNat), (26, 0), (3, o.tslot.toNat), (29, o.loff.toNat)]

def qFields (o : QOps) : List (Nat × Nat) :=
  [(9, o.va.toNat), (5, o.lo.toNat), (5, o.hi.toNat), (4, o.cmp.code), (3, o.sop.code), (6, o.sdc.toNat), (6, o.sdf.toNat),
    (2, o.opd.code), (6, o.sc.toNat), (2, 0), (32, o.imm32.toNat)]

def vFields (o : VOps) : List (Nat × Nat) :=
  [(9, o.vd.toNat), (9, o.va.toNat), (9, o.vb.toNat), (9, o.vc.toNat), (4, o.ty.code), (2, o.bsrc.code), (1, bit01 o.sat),
    (3, o.rnd.code), (1, bit01 o.ftz), (1, bit01 o.all), (32, o.imm32.toNat)]

def mFields (o : MOps) : List (Nat × Nat) :=
  [(9, o.vd.toNat), (9, o.vx.toNat), (6, o.sb.toNat), (3, o.wid.code), (3, o.scope.code), (2, o.ord.code), (1, bit01 o.dst),
    (4, o.aop.code), (6, o.sx.toNat), (5, 0), (32, o.off32.toNat)]

def tFields (gang : Bool) (o : TOps) : List (Nat × Nat) :=
  [(5, o.at5.toNat), (9, o.va.toNat), (6, o.sb.toNat), (3, o.fsa.toNat), (3, o.fsb.toNat), (2, o.shpn.code),
    (2, o.shpk.toNat), (1, bit01 o.ru), (1, bit01 gang), (1, bit01 o.sp), (1, bit01 o.za), (4, o.th.toNat),
    (6, o.sx.toNat), (4, 0), (32, o.off32.toNat)]

def fFields (o : FOps) : List (Nat × Nat) :=
  [(5, o.at5.toNat), (9, o.vx.toNat), (6, o.sn.toNat), (1, bit01 o.trl), (1, bit01 o.dir), (4, o.th.toNat), (54, 0)]

def eFields (o : EOps) : List (Nat × Nat) :=
  [(6, o.sc.toNat), (3, o.eng.code), (6, o.sd.toNat), (4, o.th.toNat), (6, o.sx.toNat), (55, 0)]

/-- The operands of an operation with its OPC. -/
def qeFields (opc : Nat) (o : QeOps) : List (Nat × Nat) :=
  [(8, opc), (3, o.d.toNat), (3, o.a.toNat), (3, o.b.toNat), (2, o.w.toNat), (13, 0), (32, o.imm.toNat)]

/-! ### Reading a layout -/

section
variable {h : Hdr} {n : Nat} {i : Instr}

theorem rawS_iff {f : SOps → Instr} (hn : n < 2 ^ 80) :
    rawS h n f = some ⟨[], i⟩ ↔ ∃ o : SOps, o.hdr = h ∧ i = f o ∧ n = joinFields (sFields o) := by
  constructor
  · intro hr
    unfold rawS at hr
    split at hr
    · rename_i hs
      have hw := splitFields_within hs
      simp [sWidths] at hr hw
      obtain ⟨hz, rfl⟩ := hr
      refine ⟨_, rfl, rfl, eq_joinFields (ws := sWidths) rfl hn (hs.trans ?_) rfl⟩
      simp [sFields, Nat.mod_eq_of_lt, hw, hz, bit01_beq]
    · cases hr
  · rintro ⟨o, rfl, rfl, hj⟩
    unfold rawS
    rw [splitFields_of (ws := sWidths) rfl hj]
    simp only [sFields, List.map_cons, List.map_nil, BitVec.toNat_mod_cancel]
    simp

theorem rawQ_iff {f : QOps → Instr} (hn : n < 2 ^ 80) :
    rawQ h n f = some ⟨[], i⟩ ↔ ∃ o : QOps, o.hdr = h ∧ i = f o ∧ n = joinFields (qFields o) := by
  constructor
  · intro hr
    unfold rawQ at hr
    split at hr
    · rename_i hs
      have hw := splitFields_within hs
      simp [qWidths, Option.isSome_iff_exists] at hr hw
      obtain ⟨⟨hz, ⟨c, hc⟩, ⟨t, ht⟩, ⟨p, hp⟩⟩, rfl⟩ := hr
      refine ⟨_, rfl, rfl, eq_joinFields (ws := qWidths) rfl hn (hs.trans ?_) rfl⟩
      simp [qFields, Nat.mod_eq_of_lt, hw, hz, hc, Cmp.codes.code_of hc, ht, SetOp.codes.code_of ht, hp, Opd.codes.code_of hp]
    · cases hr
  · rintro ⟨o, rfl, rfl, hj⟩
    unfold rawQ
    rw [splitFields_of (ws := qWidths) rfl hj]
    simp only [qFields, List.map_cons, List.map_nil, BitVec.toNat_mod_cancel, Cmp.codes.ofCode_code,
      SetOp.codes.ofCode_code, Opd.codes.ofCode_code]
    simp

theorem rawV_iff {f : VOps → Instr} (hn : n < 2 ^ 80) :
    rawV h n f = some ⟨[], i⟩ ↔ ∃ o : VOps, o.hdr = h ∧ i = f o ∧ n = joinFields (vFields o) := by
  constructor
  · intro hr
    unfold rawV at hr
    split at hr
    · rename_i hs
      have hw := splitFields_within hs
      simp [vWidths, Option.isSome_iff_exists] at hr hw
      obtain ⟨⟨⟨t, ht⟩, ⟨b, hb⟩, ⟨r, hr⟩⟩, rfl⟩ := hr
      refine ⟨_, rfl, rfl, eq_joinFields (ws := vWidths) rfl hn (hs.trans ?_) rfl⟩
      simp [vFields, Nat.mod_eq_of_lt, hw, bit01_beq, ht, Ty.codes.code_of ht, hb, BSrc.codes.code_of hb, hr,
        Rnd.codes.code_of hr]
    · cases hr
  · rintro ⟨o, rfl, rfl, hj⟩
    unfold rawV
    rw [splitFields_of (ws := vWidths) rfl hj]
    simp only [vFields, List.map_cons, List.map_nil, BitVec.toNat_mod_cancel, Ty.codes.ofCode_code, BSrc.codes.ofCode_code,
      Rnd.codes.ofCode_code]
    simp

/-- Every two bits are the code of an order. -/
theorem Ord4.ofCode_defined {n : Nat} (h : n < 4) : ∃ c, Ord4.ofCode n = some c := by
  match n, h with
  | 0, _ | 1, _ | 2, _ | 3, _ => exact ⟨_, rfl⟩

theorem rawM_iff {f : MOps → Instr} (hn : n < 2 ^ 80) :
    rawM h n f = some ⟨[], i⟩ ↔ ∃ o : MOps, o.hdr = h ∧ i = f o ∧ n = joinFields (mFields o) := by
  constructor
  · intro hr
    unfold rawM at hr
    split at hr
    · rename_i ord _ _ _ _ _ hs
      have hw := splitFields_within hs
      simp [mWidths, Option.isSome_iff_exists] at hr hw
      obtain ⟨⟨hz, ⟨⟨d, hd⟩, ⟨c, hc⟩⟩, ⟨a, ha⟩⟩, rfl⟩ := hr
      obtain ⟨r, hr⟩ := Ord4.ofCode_defined (n := ord) (by omega)
      refine ⟨_, rfl, rfl, eq_joinFields (ws := mWidths) rfl hn (hs.trans ?_) rfl⟩
      simp [mFields, Nat.mod_eq_of_lt, hw, hz, bit01_beq, hd, Wid.codes.code_of hd, hc, Scope.codes.code_of hc, ha,
        AOp.codes.code_of ha, hr, Ord4.codes.code_of hr]
    · cases hr
  · rintro ⟨o, rfl, rfl, hj⟩
    unfold rawM
    rw [splitFields_of (ws := mWidths) rfl hj]
    simp only [mFields, List.map_cons, List.map_nil, BitVec.toNat_mod_cancel, Wid.codes.ofCode_code, Scope.codes.ofCode_code,
      AOp.codes.ofCode_code, Ord4.codes.ofCode_code]
    simp

/-- The T-layout instructions with GG. -/
def tgOf (gang : Bool) (key : Nat) : Option (TOps → Instr) := if gang then tgCtor key else tCtor key

theorem rawT_iff {key : Nat} (hn : n < 2 ^ 80) :
    rawT h key n = some ⟨[], i⟩ ↔ ∃ gang f, tgOf gang key = some f ∧
      ∃ o : TOps, o.hdr = h ∧ i = f o ∧ n = joinFields (tFields gang o) := by
  constructor
  · intro hr
    unfold rawT at hr
    split at hr
    · rename_i gg _ _ _ _ _ _ hs
      have hw := splitFields_within hs
      simp only [tWidths] at hw
      simp at hw
      obtain rfl | rfl : gg = 0 ∨ gg = 1 := by omega
      · simp [Option.isSome_iff_exists] at hr
        obtain ⟨f, hf, ⟨hz, ⟨p, hp⟩⟩, rfl⟩ := hr
        refine ⟨false, f, hf, _, rfl, rfl, eq_joinFields (ws := tWidths) rfl hn (hs.trans ?_) rfl⟩
        simp [tFields, Nat.mod_eq_of_lt, hw, hz, bit01_beq, hp, ShpN.codes.code_of hp]
      · cases hg : tgCtor key with
        | none => simp [hg] at hr
        | some f =>
          simp [hg, Option.isSome_iff_exists] at hr
          obtain ⟨⟨hz, ⟨p, hp⟩⟩, rfl⟩ := hr
          refine ⟨true, f, hg, _, rfl, rfl, eq_joinFields (ws := tWidths) rfl hn (hs.trans ?_) rfl⟩
          simp [tFields, Nat.mod_eq_of_lt, hw, hz, bit01_beq, hp, ShpN.codes.code_of hp]
    · cases hr
  · rintro ⟨gang, f, hf, o, rfl, rfl, hj⟩
    unfold rawT
    rw [splitFields_of (ws := tWidths) rfl hj]
    simp only [tFields, List.map_cons, List.map_nil, BitVec.toNat_mod_cancel, ShpN.codes.ofCode_code]
    cases gang
    · have hf : tCtor key = some f := hf
      simp [hf]
    · have hf : tgCtor key = some f := hf
      simp [hf]

theorem rawB_iff {key : Nat} (hn : n < 2 ^ 80) :
    rawB h key n = some ⟨[], i⟩ ↔ ∃ cond f, cond < 16 ∧ bCtor key cond = some ([], f) ∧
      ∃ o : BOps, o.hdr = h ∧ i = f o ∧ n = joinFields (bFields cond o) := by
  constructor
  · intro hr
    unfold rawB at hr
    split at hr
    · rename_i hs
      have hw := splitFields_within hs
      simp [bWidths] at hr hw
      obtain ⟨f, hf, hz, rfl⟩ := hr
      refine ⟨_, f, hw.1, hf, _, rfl, rfl, eq_joinFields (ws := bWidths) rfl hn (hs.trans ?_) rfl⟩
      simp [bFields, Nat.mod_eq_of_lt, hw, hz]
    · cases hr
  · rintro ⟨cond, f, hc, hf, o, rfl, rfl, hj⟩
    unfold rawB
    rw [splitFields_of (ws := bWidths) rfl hj]
    simp only [bFields, List.map_cons, List.map_nil, BitVec.toNat_mod_cancel, Nat.mod_eq_of_lt (show cond < 2 ^ 4 from hc)]
    simp [hf]

theorem rawOp_iff (hn : n < 2 ^ 64) :
    rawOp n = some ⟨[], i⟩ ↔ ∃ opc f, opc < 256 ∧ qeCtor opc = some f ∧ ∃ o, i = f o ∧ n = joinFields (qeFields opc o) := by
  constructor
  · intro hr
    unfold rawOp at hr
    split at hr
    · rename_i hs
      have hw := splitFields_within hs
      simp [qeWidths] at hr hw
      obtain ⟨f, hf, hz, rfl⟩ := hr
      refine ⟨_, f, hw.1, hf, _, rfl, eq_joinFields (ws := qeWidths) rfl hn (hs.trans ?_) rfl⟩
      simp [qeFields, Nat.mod_eq_of_lt, hw, hz]
    · cases hr
  · rintro ⟨opc, f, hc, hf, o, rfl, hj⟩
    unfold rawOp
    rw [splitFields_of (ws := qeWidths) rfl hj]
    simp only [qeFields, List.map_cons, List.map_nil, BitVec.toNat_mod_cancel, Nat.mod_eq_of_lt (show opc < 2 ^ 8 from hc)]
    simp [hf]

theorem rawF_iff {f : FOps → Instr} (hn : n < 2 ^ 80) :
    rawF h n f = some ⟨[], i⟩ ↔ ∃ o : FOps, o.hdr = h ∧ i = f o ∧ n = joinFields (fFields o) := by
  constructor
  · intro hr
    unfold rawF at hr
    split at hr
    · rename_i hs
      have hw := splitFields_within hs
      simp [fWidths] at hr hw
      obtain ⟨hz, rfl⟩ := hr
      refine ⟨_, rfl, rfl, eq_joinFields (ws := fWidths) rfl hn (hs.trans ?_) rfl⟩
      simp [fFields, Nat.mod_eq_of_lt, hw, hz, bit01_beq]
    · cases hr
  · rintro ⟨o, rfl, rfl, hj⟩
    unfold rawF
    rw [splitFields_of (ws := fWidths) rfl hj]
    simp only [fFields, List.map_cons, List.map_nil, BitVec.toNat_mod_cancel]
    simp

theorem rawE_iff {f : EOps → Instr} (hn : n < 2 ^ 80) :
    rawE h n f = some ⟨[], i⟩ ↔ ∃ o : EOps, o.hdr = h ∧ i = f o ∧ n = joinFields (eFields o) := by
  constructor
  · intro hr
    unfold rawE at hr
    split at hr
    · rename_i hs
      have hw := splitFields_within hs
      simp [eWidths, Option.isSome_iff_exists] at hr hw
      obtain ⟨⟨hz, ⟨e, he⟩⟩, rfl⟩ := hr
      refine ⟨_, rfl, rfl, eq_joinFields (ws := eWidths) rfl hn (hs.trans ?_) rfl⟩
      simp [eFields, Nat.mod_eq_of_lt, hw, hz, he, Eng.codes.code_of he]
    · cases hr
  · rintro ⟨o, rfl, rfl, hj⟩
    unfold rawE
    rw [splitFields_of (ws := eWidths) rfl hj]
    simp only [eFields, List.map_cons, List.map_nil, BitVec.toNat_mod_cancel, Eng.codes.ofCode_code]
    simp
end

end Sys2Proof
end

section
/-!
PROOFS. Decoding and encoding agree (03 R46-R57, R64, 05 R70-R73, 21 R278): a word is read as an instruction without a fault
just where it is that instruction's word.
-/
namespace Sys2Proof

/-! ### The opcode map -/

theorem sCtor_some {key : Nat} {f : SOps → Instr} (h : sCtor key = some f) :
    key < 4096 ∧ layoutOf (key / 16) = some .s ∧ ∀ o, encodeWord (f o) = some (encS key o) := by
  unfold sCtor at h
  split at h <;> cases h
  all_goals exact ⟨by omega, rfl, fun _ => rfl⟩

theorem qCtor_some {key : Nat} {f : QOps → Instr} (h : qCtor key = some f) :
    key < 4096 ∧ layoutOf (key / 16) = some .q ∧ ∀ o, encodeWord (f o) = some (encQ key o) := by
  unfold qCtor at h
  split at h <;> cases h
  all_goals exact ⟨by omega, rfl, fun _ => rfl⟩

theorem vCtor_some {key : Nat} {f : VOps → Instr} (h : vCtor key = some f) :
    key < 4096 ∧ layoutOf (key / 16) = some .v ∧ ∀ o, encodeWord (f o) = some (encV key o) := by
  unfold vCtor at h
  split at h <;> cases h
  all_goals exact ⟨by omega, rfl, fun _ => rfl⟩

theorem mCtor_some {key : Nat} {f : MOps → Instr} (h : mCtor key = some f) :
    key < 4096 ∧ layoutOf (key / 16) = some .m ∧ ∀ o, encodeWord (f o) = some (encM key o) := by
  unfold mCtor at h
  split at h <;> cases h
  all_goals exact ⟨by omega, rfl, fun _ => rfl⟩

theorem fCtor_some {key : Nat} {f : FOps → Instr} (h : fCtor key = some f) :
    key < 4096 ∧ layoutOf (key / 16) = some .f ∧ ∀ o, encodeWord (f o) = some (encF key o) := by
  unfold fCtor at h
  split at h <;> cases h
  all_goals exact ⟨by omega, rfl, fun _ => rfl⟩

theorem eCtor_some {key : Nat} {f : EOps → Instr} (h : eCtor key = some f) :
    key < 4096 ∧ layoutOf (key / 16) = some .e ∧ ∀ o, encodeWord (f o) = some (encE key o) := by
  unfold eCtor at h
  split at h <;> cases h
  all_goals exact ⟨by omega, rfl, fun _ => rfl⟩

theorem tgOf_some {gang : Bool} {key : Nat} {f : TOps → Instr} (h : tgOf gang key = some f) :
    key < 4096 ∧ layoutOf (key / 16) = some .t ∧ ∀ o, encodeWord (f o) = some (encT key gang o) := by
  cases gang
  · change tCtor key = some f at h
    unfold tCtor at h
    split at h <;> cases h
    all_goals exact ⟨by omega, rfl, fun _ => rfl⟩
  · change tgCtor key = some f at h
    unfold tgCtor at h
    split at h <;> cases h
    all_goals exact ⟨by omega, rfl, fun _ => rfl⟩

theorem bCtor_some {key cond : Nat} {f : BOps → Instr} (h : bCtor key cond = some ([], f)) :
    key < 4096 ∧ layoutOf (key / 16) = some .b ∧ ∀ o, encodeWord (f o) = some (encB key cond o) := by
  unfold bCtor at h
  split at h
  case h_1 =>
    simp [Option.isSome_iff_exists] at h
    obtain ⟨⟨c, hc⟩, rfl⟩ := h
    rw [hc, ← BCond.codes.code_of hc]
    exact ⟨by omega, rfl, fun _ => rfl⟩
  case h_2 =>
    simp [Option.isSome_iff_exists] at h
    obtain ⟨⟨c, hc⟩, rfl⟩ := h
    rw [hc, ← CntCond.codes.code_of hc]
    exact ⟨by omega, rfl, fun _ => rfl⟩
  case h_7 => cases h
  all_goals
    simp at h
    obtain ⟨rfl, rfl⟩ := h
    exact ⟨by omega, rfl, fun _ => rfl⟩

theorem qeCtor_some {opc : Nat} {f : QeOps → Instr} (h : qeCtor opc = some f) :
    ∀ o, encodeOp (f o) = some (encQe opc o) := by
  unfold qeCtor at h
  split at h <;> cases h
  all_goals exact fun _ => rfl

/-- The instruction has the word: its constructor stands in the opcode map of its layout, and the word is laid out with its
operands. -/
inductive Coded : Instr → Nat → Prop
  | s {key f w} (o : SOps) (hw : encS key o = w) (h : sCtor key = some f) : Coded (f o) w
  | q {key f w} (o : QOps) (hw : encQ key o = w) (h : qCtor key = some f) : Coded (f o) w
  | v {key f w} (o : VOps) (hw : encV key o = w) (h : vCtor key = some f) : Coded (f o) w
  | m {key f w} (o : MOps) (hw : encM key o = w) (h : mCtor key = some f) : Coded (f o) w
  | f {key f w} (o : FOps) (hw : encF key o = w) (h : fCtor key = some f) : Coded (f o) w
  | e {key f w} (o : EOps) (hw : encE key o = w) (h : eCtor key = some f) : Coded (f o) w
  | t {gang key f w} (o : TOps) (hw : encT key gang o = w) (h : tgOf gang key = some f) : Coded (f o) w
  | b {cond key f w} (o : BOps) (hw : encB key cond o = w) (hc : cond < 16) (h : bCtor key cond = some ([], f)) :
    Coded (f o) w

theorem Coded.encodeWord {i : Instr} {w : Nat} (h : Coded i w) : encodeWord i = some w := by
  cases h with
  | s o hw h => exact hw ▸ (sCtor_some h).2.2 o
  | q o hw h => exact hw ▸ (qCtor_some h).2.2 o
  | v o hw h => exact hw ▸ (vCtor_some h).2.2 o
  | m o hw h => exact hw ▸ (mCtor_some h).2.2 o
  | f o hw h => exact hw ▸ (fCtor_some h).2.2 o
  | e o hw h => exact hw ▸ (eCtor_some h).2.2 o
  | t o hw h => exact hw ▸ (tgOf_some h).2.2 o
  | b o hw hc h => exact hw ▸ (bCtor_some h).2.2 o

theorem coded_of_encodeWord {i : Instr} {w : Nat} (h : encodeWord i = some w) : Coded i w := by
  cases i with
  | add o | sub o | mul o | mulh o | mulhu o | div o | divu o | rem o | remu o | andI o | orI o | xorI o | andn o | shl o
  | shr o | sra o | rol o | minI o | maxI o | minu o | maxu o | clz o | ctz o | popc o | bfx o | bfi o | sel o | seqI o
  | slt o | sltu o | liI o | liHi o | mov o | fadd o | fsub o | fmul o | ffma o | fdiv o | fsqrt o | fmin o | fmax o
  | sysr o | sysw o | timeI o | cyc o | perf o | thra o | ermark o | quota o | gang o | cksum o | nop o | jmpr o | ret o
  | joinI o | tail o | halt o | launchI o | trapI o | tret o | bkpt o | waitInt o | waitExt o | yield o =>
    exact .s o (Option.some.inj h) rfl
  | fcmp r o => cases r <;> exact .s o (Option.some.inj h) rfl
  | fcvt k o => cases k <;> exact .s o (Option.some.inj h) rfl
  | srch o | srchk o | srchv o | pushAll o | pop o | popn o | elseSet o | fold o | firstSet o | nextSet o | gcnt o
  | rdset o | wrset o | mark o => exact .q o (Option.some.inj h) rfl
  | vadd o | vsub o | vmul o | vmulh o | vmad o | vadds o | vsubs o | vand o | vor o | vxor o | vnot o | vshl o | vshr o
  | vsra o | vmin o | vminu o | vmax o | vmaxu o | vabs o | vneg o | vclz o | vpopc o | vbfx o | vbfi o | vsel o | vmov o
  | vrd o | vrdFirst o | vwr o | vperm o | vlut o | vfadd o | vfsub o | vfmul o | vffma o | vfmin o | vfmax o | vfabs o
  | vfneg o | vfdiv o | vfsqrt o | vfrcp o | vfrsq o | vfexp2 o | vflog2 o | vfclass o | vhadd o | vhmul o | vhfma o
  | vcvtEnc o | vcvtDec o | vpack o | vunpk o => exact .v o (Option.some.inj h) rfl
  | vcmp r o | vfcmp r o | vred r o | vscan r o | vcvt r o | vcvti r o => cases r <;> exact .v o (Option.some.inj h) rfl
  | ld o | st o | lds o | sts o | ldsc o | sld o | sst o | pref o | atom o | atoms o | satom o | fence o | bara o | barw o
  | baraw o | gbar o | lockW o | unlockW o | trylock o | waitv o => exact .m o (Option.some.inj h) rfl
  | finit o | fupd o | fdwn o | fsolv o | fstat o => exact .f o (Option.some.inj h) rfl
  | job o | jwait o | jpoll o => exact .e o (Option.some.inj h) rfl
  | tzero o | tld o | tst o | tmov o | tscale o | tcommit o | tdiscard o => exact .t (gang := false) o (Option.some.inj h) rfl
  | trow sum o => cases sum <;> exact .t (gang := false) o (Option.some.inj h) rfl
  | mma sat ty o | bmv sat ty o => cases sat <;> cases ty <;> exact .t (gang := false) o (Option.some.inj h) rfl
  | mmag sat ty o => cases sat <;> cases ty <;> exact .t (gang := true) o (Option.some.inj h) rfl
  | branch c o | bcnt c o => cases c <;> exact .b o (Option.some.inj h) (by decide) rfl
  | jmp o | call o | loopI o | spawn o => exact .b o (Option.some.inj h) (by decide) rfl
  | _ => cases h


/-! ### The header -/

theorem encS_eq (key : Nat) (o : SOps) : encS key o = joinFields (hdrFields key o.hdr) + 2 ^ 16 * joinFields (sFields o) :=
  joinFields_append (hdrFields key o.hdr) (sFields o)
theorem encB_eq (key cond : Nat) (o : BOps) :
    encB key cond o = joinFields (hdrFields key o.hdr) + 2 ^ 16 * joinFields (bFields cond o) :=
  joinFields_append (hdrFields key o.hdr) (bFields cond o)
theorem encQ_eq (key : Nat) (o : QOps) : encQ key o = joinFields (hdrFields key o.hdr) + 2 ^ 16 * joinFields (qFields o) :=
  joinFields_append (hdrFields key o.hdr) (qFields o)
theorem encV_eq (key : Nat) (o : VOps) : encV key o = joinFields (hdrFields key o.hdr) + 2 ^ 16 * joinFields (vFields o) :=
  joinFields_append (hdrFields key o.hdr) (vFields o)
theorem encM_eq (key : Nat) (o : MOps) : encM key o = joinFields (hdrFields key o.hdr) + 2 ^ 16 * joinFields (mFields o) :=
  joinFields_append (hdrFields key o.hdr) (mFields o)
theorem encT_eq (key : Nat) (gang : Bool) (o : TOps) :
    encT key gang o = joinFields (hdrFields key o.hdr) + 2 ^ 16 * joinFields (tFields gang o) :=
  joinFields_append (hdrFields key o.hdr) (tFields gang o)
theorem encF_eq (key : Nat) (o : FOps) : encF key o = joinFields (hdrFields key o.hdr) + 2 ^ 16 * joinFields (fFields o) :=
  joinFields_append (hdrFields key o.hdr) (fFields o)
theorem encE_eq (key : Nat) (o : EOps) : encE key o = joinFields (hdrFields key o.hdr) + 2 ^ 16 * joinFields (eFields o) :=
  joinFields_append (hdrFields key o.hdr) (eFields o)

/-- Every word has a header and a body. -/
theorem exists_header (n : Nat) : ∃ key h, key < 4096 ∧ n = joinFields (hdrFields key h) + 2 ^ 16 * (n / 2 ^ 16) := by
  have hj := joinFields_splitFields hdrWidths n
  obtain ⟨op, stop, a, b, c, sub, hs⟩ : ∃ op stop a b c sub, splitFields hdrWidths n = [op, stop, a, b, c, sub] :=
    ⟨_, _, _, _, _, _, rfl⟩
  have hw := splitFields_within hs
  simp [hdrWidths] at hw
  refine ⟨16 * op + sub, mkHdr stop a b c, by omega, ?_⟩
  have hop : (16 * op + sub) / 16 = op := by omega
  have hsub : (16 * op + sub) % 16 = sub := by omega
  have hh : hdrFields (16 * op + sub) (mkHdr stop a b c) = hdrWidths.zip [op, stop, a, b, c, sub] := by
    simp [hdrFields, mkHdr, hdrWidths, hop, hsub, hw, bit01_beq]
  rw [hh, ← hs, hj]
  exact (Nat.mod_add_div n (2 ^ 16)).symm

/-- A layout's reading of a body. -/
def Layout.read (l : Layout) (h : Hdr) (key body : Nat) : Option Raw :=
  match l with
  | .s => (sCtor key).bind (rawS h body)
  | .b => rawB h key body
  | .q => (qCtor key).bind (rawQ h body)
  | .v => (vCtor key).bind (rawV h body)
  | .m => (mCtor key).bind (rawM h body)
  | .t => rawT h key body
  | .f => (fCtor key).bind (rawF h body)
  | .e => (eCtor key).bind (rawE h body)

/-- A word with a header reads as its body does by the layout of its opcode. -/
theorem rawWord_header {key : Nat} (hk : key < 4096) (h : Hdr) (body : Nat) (r : Raw) :
    rawWord (joinFields (hdrFields key h) + 2 ^ 16 * body) = .ok r ↔
      ∃ l, layoutOf (key / 16) = some l ∧ l.read h key body = some r := by
  have hs : splitFields hdrWidths (joinFields (hdrFields key h) + 2 ^ 16 * body)
      = [key / 16, bit01 h.stop, bit01 h.wfa, bit01 h.wfb, bit01 h.wfc, key % 16] := by
    have hm : key / 16 % 256 = key / 16 := Nat.mod_eq_of_lt (by omega)
    refine (splitFields_low (hdrFields key h) body).trans ?_
    simp [hdrFields, hm]
  have hlt : joinFields (hdrFields key h) < 2 ^ 16 := joinFields_lt (hdrFields key h)
  have hb : (joinFields (hdrFields key h) + 2 ^ 16 * body) / 2 ^ 16 = body := by omega
  have hh : mkHdr (bit01 h.stop) (bit01 h.wfa) (bit01 h.wfb) (bit01 h.wfc) = h := by simp [mkHdr]
  have hkey : 16 * (key / 16) + key % 16 = key := Nat.div_add_mod key 16
  unfold rawWord
  rw [hs, hb]
  simp only [hh, hkey]
  cases layoutOf (key / 16) with
  | none => simp
  | some l =>
    change (match l.read h key body with | none => Except.error DecodeError.badSub | some r => .ok r) = Except.ok r ↔ _
    cases hr : l.read h key body <;> simp [hr]

/-! ### A word and its instruction -/

theorem fieldBits_tFields (gang : Bool) (o : TOps) : fieldBits (tFields gang o) = 80 := by simp [fieldBits, tFields]

theorem Coded.rawWord {i : Instr} {w : Nat} (h : Coded i w) : rawWord w = .ok ⟨[], i⟩ := by
  cases h with
  | s o hw h =>
    obtain ⟨hk, hl, -⟩ := sCtor_some h
    rw [← hw, encS_eq, rawWord_header hk]
    exact ⟨.s, hl, by simpa [Layout.read, h] using (rawS_iff (joinFields_lt_of rfl)).mpr ⟨o, rfl, rfl, rfl⟩⟩
  | q o hw h =>
    obtain ⟨hk, hl, -⟩ := qCtor_some h
    rw [← hw, encQ_eq, rawWord_header hk]
    exact ⟨.q, hl, by simpa [Layout.read, h] using (rawQ_iff (joinFields_lt_of rfl)).mpr ⟨o, rfl, rfl, rfl⟩⟩
  | v o hw h =>
    obtain ⟨hk, hl, -⟩ := vCtor_some h
    rw [← hw, encV_eq, rawWord_header hk]
    exact ⟨.v, hl, by simpa [Layout.read, h] using (rawV_iff (joinFields_lt_of rfl)).mpr ⟨o, rfl, rfl, rfl⟩⟩
  | m o hw h =>
    obtain ⟨hk, hl, -⟩ := mCtor_some h
    rw [← hw, encM_eq, rawWord_header hk]
    exact ⟨.m, hl, by simpa [Layout.read, h] using (rawM_iff (joinFields_lt_of rfl)).mpr ⟨o, rfl, rfl, rfl⟩⟩
  | f o hw h =>
    obtain ⟨hk, hl, -⟩ := fCtor_some h
    rw [← hw, encF_eq, rawWord_header hk]
    exact ⟨.f, hl, by simpa [Layout.read, h] using (rawF_iff (joinFields_lt_of rfl)).mpr ⟨o, rfl, rfl, rfl⟩⟩
  | e o hw h =>
    obtain ⟨hk, hl, -⟩ := eCtor_some h
    rw [← hw, encE_eq, rawWord_header hk]
    exact ⟨.e, hl, by simpa [Layout.read, h] using (rawE_iff (joinFields_lt_of rfl)).mpr ⟨o, rfl, rfl, rfl⟩⟩
  | t o hw h =>
    obtain ⟨hk, hl, -⟩ := tgOf_some h
    rw [← hw, encT_eq, rawWord_header hk]
    exact ⟨.t, hl, (rawT_iff (joinFields_lt_of (fieldBits_tFields _ o))).mpr ⟨_, _, h, o, rfl, rfl, rfl⟩⟩
  | b o hw hc h =>
    obtain ⟨hk, hl, -⟩ := bCtor_some h
    rw [← hw, encB_eq, rawWord_header hk]
    exact ⟨.b, hl, (rawB_iff (joinFields_lt_of rfl)).mpr ⟨_, _, hc, h, o, rfl, rfl, rfl⟩⟩

theorem header_body_lt (key : Nat) (h : Hdr) {l : List (Nat × Nat)} (hl : fieldBits l = 80) :
    joinFields (hdrFields key h) + 2 ^ 16 * joinFields l < 2 ^ 96 := by
  have hb : joinFields l < 2 ^ 80 := joinFields_lt_of hl
  have hh : joinFields (hdrFields key h) < 2 ^ 16 := joinFields_lt_of rfl
  omega

theorem Coded.lt {i : Instr} {w : Nat} (h : Coded i w) : w < 2 ^ 96 := by
  cases h with
  | s o hw h =>
    rw [← hw, encS_eq]
    exact header_body_lt _ _ rfl
  | q o hw h =>
    rw [← hw, encQ_eq]
    exact header_body_lt _ _ rfl
  | v o hw h =>
    rw [← hw, encV_eq]
    exact header_body_lt _ _ rfl
  | m o hw h =>
    rw [← hw, encM_eq]
    exact header_body_lt _ _ rfl
  | f o hw h =>
    rw [← hw, encF_eq]
    exact header_body_lt _ _ rfl
  | e o hw h =>
    rw [← hw, encE_eq]
    exact header_body_lt _ _ rfl
  | t o hw h =>
    rw [← hw, encT_eq]
    exact header_body_lt _ _ (fieldBits_tFields _ o)
  | b o hw hc h =>
    rw [← hw, encB_eq]
    exact header_body_lt _ _ rfl

theorem coded_of_rawWord {i : Instr} {w : Nat} (hw : w < 2 ^ 96) (hr : rawWord w = .ok ⟨[], i⟩) : Coded i w := by
  obtain ⟨key, h, hk, hword⟩ := exists_header w
  have hb : w / 2 ^ 16 < 2 ^ 80 := by omega
  rw [hword, rawWord_header hk] at hr
  obtain ⟨l, -, hr⟩ := hr
  cases l with
  | s =>
    obtain ⟨f, hf, hr⟩ := Option.bind_eq_some_iff.mp hr
    obtain ⟨o, rfl, rfl, hj⟩ := (rawS_iff hb).mp hr
    exact .s o (by rw [encS_eq, ← hj, ← hword]) hf
  | q =>
    obtain ⟨f, hf, hr⟩ := Option.bind_eq_some_iff.mp hr
    obtain ⟨o, rfl, rfl, hj⟩ := (rawQ_iff hb).mp hr
    exact .q o (by rw [encQ_eq, ← hj, ← hword]) hf
  | v =>
    obtain ⟨f, hf, hr⟩ := Option.bind_eq_some_iff.mp hr
    obtain ⟨o, rfl, rfl, hj⟩ := (rawV_iff hb).mp hr
    exact .v o (by rw [encV_eq, ← hj, ← hword]) hf
  | m =>
    obtain ⟨f, hf, hr⟩ := Option.bind_eq_some_iff.mp hr
    obtain ⟨o, rfl, rfl, hj⟩ := (rawM_iff hb).mp hr
    exact .m o (by rw [encM_eq, ← hj, ← hword]) hf
  | f =>
    obtain ⟨f, hf, hr⟩ := Option.bind_eq_some_iff.mp hr
    obtain ⟨o, rfl, rfl, hj⟩ := (rawF_iff hb).mp hr
    exact .f o (by rw [encF_eq, ← hj, ← hword]) hf
  | e =>
    obtain ⟨f, hf, hr⟩ := Option.bind_eq_some_iff.mp hr
    obtain ⟨o, rfl, rfl, hj⟩ := (rawE_iff hb).mp hr
    exact .e o (by rw [encE_eq, ← hj, ← hword]) hf
  | t =>
    obtain ⟨gang, f, hf, o, rfl, rfl, hj⟩ := (rawT_iff hb).mp hr
    exact .t o (by rw [encT_eq, ← hj, ← hword]) hf
  | b =>
    obtain ⟨cond, f, hc, hf, o, rfl, rfl, hj⟩ := (rawB_iff hb).mp hr
    exact .b o (by rw [encB_eq, ← hj, ← hword]) hc hf

/-- A reading breaks no rule just where its layout breaks none and its instruction is well formed. -/
theorem leastRule_raw {r : Raw} : leastRule (r.bad ++ r.instr.broken) = none ↔ r.bad = [] ∧ r.instr.wf = true := by
  rw [leastRule_eq_none, List.append_eq_nil_iff, Instr.wf, List.isEmpty_iff]

/-- A word decodes to an instruction just where it reads as it without a fault and the instruction is well formed. -/
theorem decodeWord_ok {n : Nat} {i : Instr} : decodeWord n = .ok i ↔ rawWord n = .ok ⟨[], i⟩ ∧ i.wf = true := by
  unfold decodeWord
  cases hr : rawWord n with
  | error e => simp
  | ok r =>
    dsimp only
    split
    · rename_i hl
      obtain ⟨hbad, hwf⟩ := leastRule_raw.mp hl
      constructor
      · rintro ⟨⟩
        exact ⟨by rw [← hbad], hwf⟩
      · rintro ⟨⟨⟩, -⟩
        rfl
    · rename_i hl
      refine ⟨nofun, ?_⟩
      rintro ⟨⟨⟩, hwf⟩
      exact nomatch (leastRule_raw.mpr ⟨rfl, hwf⟩).symm.trans hl

/-- The same for an operation. -/
theorem decodeOp_ok {n : Nat} {i : Instr} : decodeOp n = .ok i ↔ rawOp n = some ⟨[], i⟩ ∧ i.wf = true := by
  unfold decodeOp
  cases hr : rawOp n with
  | none => simp
  | some r =>
    dsimp only
    split
    · rename_i hl
      obtain ⟨hbad, hwf⟩ := leastRule_raw.mp hl
      constructor
      · rintro ⟨⟩
        exact ⟨by rw [← hbad], hwf⟩
      · rintro ⟨⟨⟩, -⟩
        rfl
    all_goals
      rename_i hl
      refine ⟨nofun, ?_⟩
      rintro ⟨⟨⟩, hwf⟩
      exact nomatch (leastRule_raw.mpr ⟨rfl, hwf⟩).symm.trans hl

/-- A slot word decodes to an instruction just where the instruction is well formed and has the word. -/
theorem decodeWord_iff {w : Nat} (hw : w < 2 ^ 96) {i : Instr} :
    decodeWord w = .ok i ↔ i.wf = true ∧ encodeWord i = some w := by
  rw [decodeWord_ok, and_comm]
  exact and_congr_right fun _ => ⟨fun h => (coded_of_rawWord hw h).encodeWord, fun h => (coded_of_encodeWord h).rawWord⟩

/-! ### An operation of the bytecode -/

theorem encodeOp_some {i : Instr} {w : Nat} (h : encodeOp i = some w) :
    ∃ opc f, opc < 256 ∧ qeCtor opc = some f ∧ ∃ o, i = f o ∧ w = joinFields (qeFields opc o) := by
  cases i with
  | qeLdp o | qeLdw o | qeStw o | qeLdi o | qeMov o | qeAdd o | qeAddi o | qeSub o | qeAnd o | qeOr o | qeShl o | qeShr o
  | qeBeq o | qeBne o | qeBltu o | qeBgeu o | qeJmpf o | qeLoop o | qeWaitsig o | qeLaunch o | qeLaunchp o | qeSignal o
  | qeAdvance o | qeFence o =>
    exact ⟨_, _, by decide, rfl, o, rfl, (Option.some.inj h).symm⟩
  | _ => cases h

theorem decodeOp_iff {w : Nat} (hw : w < 2 ^ 64) {i : Instr} : decodeOp w = .ok i ↔ i.wf = true ∧ encodeOp i = some w := by
  rw [decodeOp_ok, rawOp_iff hw, and_comm]
  refine and_congr_right fun _ => ⟨?_, encodeOp_some⟩
  rintro ⟨opc, f, -, hf, o, rfl, rfl⟩
  exact qeCtor_some hf o

/-! ### Words of bytes -/

/-- The bytes of a number are the number's again. -/
theorem leNat_leBytes (k n : Nat) : leNat (leBytes k n) = n % 2 ^ (8 * k) := by
  induction k generalizing n with
  | zero => simp [leBytes, leNat, Nat.mod_one]
  | succ k ih =>
    have hb : 2 ^ (8 * (k + 1)) = 256 * 2 ^ (8 * k) := by
      rw [Nat.mul_succ, pow_add]
      ring
    rw [leBytes, leNat, ih, hb, Nat.mod_mul, BitVec.toNat_ofNat]

theorem leBytes_length (k n : Nat) : (leBytes k n).length = k := by
  induction k generalizing n with
  | zero => rfl
  | succ k ih => simp [leBytes, ih]

theorem decodeTableWord_slot {w : Nat} {i : Instr} (hw : w < 2 ^ 96) (h : decodeWord w = .ok i) :
    decodeTableWord 96 w = some i := by
  have hb : leNat ((leBytes 12 (w % 2 ^ 96)).take 12) = w := by
    rw [List.take_of_length_le (by rw [leBytes_length]), leNat_leBytes, Nat.mod_mod, Nat.mod_eq_of_lt hw]
  rw [decodeTableWord, if_neg (by decide), decodeSlot, hb, h]
  rfl

theorem decodeTableWord_op {w : Nat} {i : Instr} (hw : w < 2 ^ 64) (h : decodeOp w = .ok i) :
    decodeTableWord 64 w = some i := by
  rw [decodeTableWord, if_pos rfl, leNat_leBytes, Nat.mod_eq_of_lt hw, h]
  rfl

/-- Settles O55: a word of a slot or of the bytecode decodes to an instruction just where that is well formed and has the
word. -/
theorem decodeEncode : Obligations.DecodeEncode := by
  unfold Obligations.DecodeEncode
  refine ⟨fun i w hwf he => ?_, fun i w hwf he => ?_, fun i w hw h => (decodeWord_iff hw).mp h,
    fun i w hw h => (decodeOp_iff hw).mp h⟩
  · have hw := (coded_of_encodeWord he).lt
    have hd := (decodeWord_iff hw).mpr ⟨hwf, he⟩
    exact ⟨hd, decodeTableWord_slot hw hd⟩
  · have hw : w < 2 ^ 64 := by
      obtain ⟨opc, f, -, -, o, -, rfl⟩ := encodeOp_some he
      exact joinFields_lt_of rfl
    have hd := (decodeOp_iff hw).mpr ⟨hwf, he⟩
    exact ⟨hd, decodeTableWord_op hw hd⟩

/-- Settles O54: each of the words is the word of its instruction, which is well formed. -/
theorem decodeWords : Obligations.DecodeWords := by
  unfold Obligations.DecodeWords
  obtain ⟨hslot, hop, -, -⟩ := decodeEncode
  refine ⟨fun p hp => (hslot p.2 p.1 ?_ ?_).2, (hop _ _ rfl rfl).2⟩
  · revert p
    decide
  · revert p
    decide

end Sys2Proof
end

section
/-!
PROOFS. Control transfers (06 R88): where a transfer goes, and when its target is refused (03 R50, R66).
-/
namespace Sys2Proof.Machine

section
variable {s : State} {m : Me} {op : Nat} {stop always : Bool} {u : Uses} {k : Me → Eff} {target : PC} {effect : State → State}

/-- A transfer within the page of a direct one, or to a legal target, is taken. -/
theorem issue_transfer_taken (hr : Ready s m u) (hbo : u.bo = false) (hk : k m = transfer s m always target effect)
    (h : (always = false ∧ samePage m.st.pc target = true) ∨ targetOk s m.c m.ctx target = true) {s' : State}
    (he : effect s = s') : issue s op stop u k = .next (completed m false stop target s') := by
  have htaken : transfer s m always target effect = .jump (effect s) target := by
    refine if_neg ?_
    rcases h with ⟨ha, hp⟩ | ht
    · simp [ha, hp]
    · simp [ht]
  rw [issue_jump hr (hk.trans htaken), hbo, he]

/-- A checked transfer to a target that is not legal has no effect but its trap. -/
theorem issue_transfer_refused (hr : Ready s m u) (hbo : u.bo = false) (hk : k m = transfer s m always target effect)
    (h : always = true ∨ samePage m.st.pc target = false) (ht : targetOk s m.c m.ctx target = false) :
    issue s op stop u k = .next (trappedIn s m causeBadTarget (target.zeroExtend 64) op) := by
  have htrap : transfer s m always target effect = .trap causeBadTarget (target.zeroExtend 64) s := by
    refine if_pos ?_
    rcases h with ha | hp
    · simp [ha, ht]
    · simp [hp, ht]
  rw [issue, issueBy_trap (u := fun _ => u) hr (hk.trans htrap), hbo]
  rfl

/-- A direct transfer within its page, or to a legal target, is taken. -/
theorem issue_direct_taken (hr : Ready s m u) (hbo : u.bo = false) (hk : k m = transfer s m false target effect)
    (h : samePage m.st.pc target = true ∨ targetOk s m.c m.ctx target = true) {s' : State} (he : effect s = s') :
    issue s op stop u k = .next (completed m false stop target s') :=
  issue_transfer_taken hr hbo hk (h.imp_left fun hp => ⟨rfl, hp⟩) he
end

section
variable {s : State} {m : Me} {o : BOps}

/-- `b` by its test: not taken, taken, and refused. -/
theorem execBranch_does (c : BCond) (hr : Ready s m (bUses o true true)) :
    let holds := bcondHolds c (m.st.regs.get o.sa) (m.st.regs.get o.sb)
    (holds = false → execBranch c o s = .next (completed m false o.hdr.stop (successor m.st.pc) s)) ∧
      (holds = true → (samePage m.st.pc (bTarget m o) = true ∨ targetOk s m.c m.ctx (bTarget m o) = true) →
        execBranch c o s = .next (completed m false o.hdr.stop (bTarget m o) s)) ∧
      (holds = true → samePage m.st.pc (bTarget m o) = false ∧ targetOk s m.c m.ctx (bTarget m o) = false →
        execBranch c o s = .next (trappedIn s m causeBadTarget ((bTarget m o).zeroExtend 64) 0x40)) := by
  unfold execBranch
  refine ⟨fun h => issue_done hr (if_neg (by simp [h])), fun h hn => ?_, fun h ⟨hp, ht⟩ => ?_⟩
  · exact issue_direct_taken hr rfl (if_pos h) hn rfl
  · exact issue_transfer_refused hr rfl (if_pos h) (.inr hp) ht

theorem execBcnt_does (c : CntCond) (hr : Ready s m (bUses o (c == .ge) false)) :
    let holds := cntHolds c m.st.regs.rsc (m.st.regs.get o.sa)
    (holds = false → execBcnt c o s = .next (completed m false o.hdr.stop (successor m.st.pc) s)) ∧
      (holds = true → (samePage m.st.pc (bTarget m o) = true ∨ targetOk s m.c m.ctx (bTarget m o) = true) →
        execBcnt c o s = .next (completed m false o.hdr.stop (bTarget m o) s)) := by
  unfold execBcnt
  exact ⟨fun h => issue_done hr (if_neg (by simp [h])),
    fun h hn => issue_direct_taken hr rfl (if_pos h) hn rfl⟩

/-- `ret` at a CDEPTH above 0, or of a strand that is no callee. -/
theorem execRet_returns {o : SOps} (hr : Ready s m { src := [(63, false)] })
    (hc : ¬(m.st.isCallee = true ∧ m.st.regs.cdepth = 0))
    (ht : targetOk s m.c m.ctx ((m.st.regs.get 63).truncate 57) = true) :
    execRet o s = .next (completed m false o.hdr.stop ((m.st.regs.get 63).truncate 57)
      (m.setRegs s fun r => { r with cdepth := if r.cdepth = 0 then 0 else r.cdepth - 1 })) := by
  have hregs : (fun r : Regs => { r with cdepth := r.cdepth - (if r.cdepth = 0 then 0 else 1) })
      = fun r => { r with cdepth := if r.cdepth = 0 then 0 else r.cdepth - 1 } := by
    funext r
    by_cases h : r.cdepth = 0
    · simp [h]
    · simp only [if_neg h]
  unfold execRet
  rw [hr.here]
  dsimp only
  rw [if_neg (by simpa using hc), hregs]
  exact issue_transfer_taken hr rfl rfl (.inr ht) rfl
end

/-- Settles O9: each of the transfers by what its attempt comes to, taken, refused or not taken. -/
theorem transferResults : Obligations.TransferResults := by
  unfold Obligations.TransferResults
  intro s m o so
  refine ⟨fun hr p hp => ?_, fun p hp hr => ?_, fun hr => ⟨fun hn => ?_, fun ⟨hp, ht⟩ => ?_⟩, fun hr hn => ?_,
    fun hr => ⟨fun h => ?_, fun h hn => ?_⟩, fun hr => ⟨fun ht => ?_, fun ht => ?_⟩, fun hr hc ht => execRet_returns hr hc ht⟩
  · have hb : bcondHolds p.1 (m.st.regs.get o.sa) (m.st.regs.get o.sb) = p.2 := by
      simp only [List.mem_cons, List.not_mem_nil, or_false] at hp
      rcases hp with rfl | rfl | rfl | rfl | rfl | rfl
      · rfl
      · exact (decide_not).symm
      · rfl
      · simp [bcondHolds, BitVec.sle_eq_not_slt]
      · rfl
      · simp [bcondHolds, BitVec.ule_eq_not_ult]
    rw [← hb, exec_branch]
    exact execBranch_does p.1 hr
  · have hb : cntHolds p.1 m.st.regs.rsc (m.st.regs.get o.sa) = p.2 := by
      simp only [List.mem_cons, List.not_mem_nil, or_false] at hp
      rcases hp with rfl | rfl | rfl | rfl <;> rfl
    rw [← hb, exec_bcnt]
    exact execBcnt_does p.1 hr
  · rw [exec_jmp, execJmp]
    exact issue_direct_taken hr rfl rfl hn rfl
  · rw [exec_jmp, execJmp]
    exact issue_transfer_refused hr rfl rfl (.inr hp) ht
  · rw [exec_call, execCall]
    exact issue_direct_taken hr rfl rfl hn rfl
  · rw [exec_loopI, execLoopI]
    exact issue_done hr (if_neg (not_not.mpr h))
  · rw [exec_loopI, execLoopI]
    exact issue_direct_taken hr rfl (if_pos h) hn rfl
  · rw [exec_jmpr, execJmpr]
    exact issue_transfer_taken hr rfl rfl (.inr ht) rfl
  · rw [exec_jmpr, execJmpr]
    exact issue_transfer_refused hr rfl rfl (.inl rfl) ht

end Sys2Proof.Machine
end

section
/-!
PROOFS. The step that the agenda names (03 R45, R59, R66, 15 R233, R235, 21 R280): the fetch and the attempt of a slot, the pair,
the operation of a queue, and the cycle that follows (11 R188).
-/
namespace Sys2Proof.Machine

/-! ### The cycle -/

/-- What the cycle's polls and tokens leave alone: TIME, memory and the contexts. -/
def timeMemCtxs (s : State) : Word × List Host.Cell × SMap Context := (s.time, s.mem, s.ctxs)

theorem timeMemCtxs_shareLine (s : State) (b : Bool) (pa : Nat) : timeMemCtxs (shareLine s b pa) = timeMemCtxs s := by
  unfold shareLine
  split <;> rfl

theorem timeMemCtxs_hubHolds (s : State) (ctx va n : Nat) : timeMemCtxs (hubHolds s ctx va n) = timeMemCtxs s := by
  refine foldl_keeps (fun s i => ?_) _ s
  dsimp only
  split
  · exact timeMemCtxs_shareLine ..
  · rfl

theorem timeMemCtxs_pollQueue (s : State) (r : Queue) : timeMemCtxs (pollQueue s r) = timeMemCtxs s := by
  unfold pollQueue
  split
  · split
    · split
      · exact timeMemCtxs_hubHolds ..
      · rfl
    · rfl
  · rfl

theorem timeMemCtxs_pollDims (s : State) (l : Launch) : timeMemCtxs (pollDims s l) = timeMemCtxs s := by
  unfold pollDims
  split
  · rw [timeMemCtxs_hubHolds, timeMemCtxs_hubHolds]
  · rfl

theorem timeMemCtxs_hubPolls (s : State) : timeMemCtxs (hubPolls s) = timeMemCtxs s := by
  have hqueues := foldl_keeps (fun s (p : Nat × Queue) => timeMemCtxs_pollQueue s p.2) s.queues s
  refine (foldl_keeps (fun s p => ?_) _ _).trans hqueues
  split
  · exact timeMemCtxs_pollDims ..
  · rfl

theorem timeMemCtxs_tokenReaches (s : State) (u : Nat) (x : FreezeStart) :
    timeMemCtxs (tokenReaches s u x) = timeMemCtxs s := by
  unfold tokenReaches
  dsimp only
  split <;> rfl

theorem timeMemCtxs_tokensForced (s : State) : timeMemCtxs (tokensForced s) = timeMemCtxs s := by
  unfold tokensForced
  split
  · rfl
  · split
    · rfl
    · refine foldl_keeps (fun s u => ?_) _ s
      split
      · rfl
      · split
        · exact timeMemCtxs_tokenReaches ..
        · rfl

/-- The cycle of a step takes two ticks, and leaves memory and the contexts alone. -/
theorem afterStep_next (s t : State) :
    ∃ u, afterStep s (.next t) = .next u ∧ u.time = t.time + 2 ∧ u.mem = t.mem ∧ u.ctxs = t.ctxs := by
  have h : timeMemCtxs (tokensForced (hubPolls t)) = timeMemCtxs t := by rw [timeMemCtxs_tokensForced, timeMemCtxs_hubPolls]
  simp only [timeMemCtxs, Prod.mk.injEq] at h
  obtain ⟨htime, hmem, hctxs⟩ := h
  exact ⟨endCycle s t, rfl, congrArg (· + 2) htime, hmem, hctxs⟩

/-! ### The attempt of a slot -/

/-- What the fetch and the checks of 03 R66 and 15 R251 ask for before a strand's slot is the instruction. -/
structure Fetches (s : State) (m : Me) (i : Instr) : Prop where
  ready : fetchWait s m = none
  entered : m.st.entering = true → targetOk s m.c m.ctx m.st.pc = true
  line : ∃ pa, fetchLine s m.c m.ctx m.st.pc = .line pa (readBytes s.mem pa 64) ∧
    parityOk (readBytes s.mem pa 64) (pcSlot m.st.pc) = true ∧
    comparator s m (slotWordOf (readBytes s.mem pa 64) (pcSlot m.st.pc)) = none ∧
    decodeWord (slotWordOf (readBytes s.mem pa 64) (pcSlot m.st.pc)) = .ok i

/-- A strand that fetches an instruction runs it. -/
theorem attemptSlot_fetches {s : State} {m : Me} {i : Instr} (h : Fetches s m i) :
    attemptSlot s m = settleCur (exec i { s with cur := some (m.c, m.k) }) := by
  obtain ⟨hwait, hentered, pa, hline, hpar, hcmp, hdec⟩ := h
  have hlegal : (m.st.entering && !targetOk s m.c m.ctx m.st.pc) = false := by
    cases he : m.st.entering
    · rfl
    · simp [hentered he]
  have hword : fetchSlot s m = .word (slotWordOf (readBytes s.mem pa 64) (pcSlot m.st.pc)) := by
    unfold fetchSlot
    simp [hwait, hlegal, hline, hpar, hcmp]
  unfold attemptSlot
  simp only [hword, hdec]

theorem pairSecond_single {s : State} {m : Me} (h : m.pairFirst s = false) (s1 : State) : pairSecond s s1 m = none := by
  simp [pairSecond, h]

/-- The second of a pair is a strand of the same slot. -/
theorem pairSecond_slot {s s1 s2 : State} {m n : Me} (h : pairSecond s s1 m = some (s2, n)) : n.c = m.c ∧ n.k = m.k := by
  unfold pairSecond at h
  split at h
  · cases h
  · simp only [Option.map_eq_some_iff, Option.filter_eq_some_iff, Prod.mk.injEq] at h
    obtain ⟨x, ⟨hx, -⟩, -, rfl⟩ := h
    obtain ⟨hc, hk, -⟩ := meAt_some hx
    exact ⟨hc, hk⟩

/-- A slot that is no first of a pair is attempted alone. -/
theorem attemptPair_single {s : State} {m : Me} (h : m.pairFirst s = false) : attemptPair s m = attemptSlot s m := by
  unfold attemptPair
  cases attemptSlot s m <;> simp [pairSecond_single h]

/-- A pair both of whose slots issue comes to what the second comes to. -/
theorem attemptPair_both {s s1 s2 t : State} {m n : Me} (h1 : attemptSlot s m = .next s1)
    (hp : pairSecond s s1 m = some (s2, n)) (h2 : attemptSlot s2 n = .next t)
    (hi : captured t n = true ∨ ∀ r, prospectIn s2 t m.c m.k n.st ≠ .waits r ∧ prospectIn s2 t m.c m.k n.st ≠ .moves r) :
    attemptPair s m = .next t := by
  unfold attemptPair
  simp only [h1, hp, h2]
  rcases hi with hc | hi
  · split <;> simp [hc]
  · split
    · exact absurd ‹_› (hi _).1
    · exact absurd ‹_› (hi _).2
    · rfl

/-! ### The step of an attempt -/

/-- A strand that may be attempted now makes its attempt, and where it takes an opportunity the others are passed over. -/
theorem issueStep_attempt {s : State} {c k : Nat} {m : Me} (hm : meAt s c k = some m) (hi : mayIssue s m = true)
    (hb : boundaryTrap s m = none) (hg : mayGo s c k (prospects s c) = true)
    (hy : ((prospects s c).any fun p => p.slot == k && p.point) = true →
      ∀ p ∈ prospects s c, p.slot = k → p.strand.yielded = false) :
    issueStep s c k = match attemptPair s m with
      | .next t => .next (if (prospects s c).any fun p => p.slot == k && p.point then passOver s c k (prospects s c) t else t)
      | o => o := by
  have ha : attempt s c k = attemptPair s m := by simp [attempt, hm, hi, hb]
  unfold issueStep
  rw [ha]
  simp only [hg, Bool.not_true, Bool.false_eq_true, if_false]
  by_cases hp : ((prospects s c).any fun p => p.slot == k && p.point) = true
  · have hyield : ((prospects s c).any fun p => p.slot == k && p.strand.yielded) = false :=
      List.any_eq_false.mpr fun p hmem => by
        by_cases hs : p.slot = k
        · simp [hy hp p hmem hs]
        · simp [hs]
    cases attemptPair s m <;> simp only [hp, hyield, if_true, Bool.false_eq_true, if_false]
  · cases attemptPair s m <;> simp only [hp, Bool.false_eq_true, if_false]

theorem step_agenda {s : State} {x : Choice} {rest : List Choice} (h : s.agenda = x :: rest) :
    step s = afterStep s (perform { s with agenda := rest } x) := by
  unfold step stepOf
  rw [h]

/-- The operation at a packet's index is what its queue runs. -/
theorem engineStep_runs {s : State} {q : Nat} {r : Queue} {p : Packet} {w : Word} {i : Instr} (hr : s.queues.get? q = some r)
    (hp : r.packet = some p) (hk : p.parked = false) (hw : r.ops[p.index]? = some w) (hd : decodeOp w.toNat = .ok i) :
    engineStep s q = settleCur (exec i { s with curQ := some q }) := by
  simp [engineStep, hr, hp, hk, hw, hd]

/-- Settles O57: each choice by the step it names, and the cycle by what it leaves alone. -/
theorem stepRunsDecoded : Obligations.StepRunsDecoded := by
  unfold Obligations.StepRunsDecoded
  intro s rest
  refine ⟨fun c k m ha hm hi hb hg hy => ?_, fun q r p w i ha hr hp hk hw hd => ?_, fun i ha => step_agenda ha,
    fun t => afterStep_next s t⟩
  · obtain ⟨hc, hk, -⟩ := meAt_some hm
    have hstep := (step_agenda ha).trans (congrArg (afterStep s) (issueStep_attempt hm hi hb hg hy))
    refine ⟨fun i hf hsingle => ?_, fun i t1 n j t2 hf h1 s2 hpair hf' h2 hboth => ?_⟩
    · obtain ⟨pa, hwait, hentered, hline⟩ := hf
      subst hc hk
      rw [hstep, attemptPair_single hsingle, attemptSlot_fetches ⟨hwait, hentered, pa, hline⟩]
      cases exec i { s with agenda := rest, cur := some (m.c, m.k) } <;> rfl
    · obtain ⟨pa, hwait, hentered, hline⟩ := hf
      obtain ⟨pa', hwait', hentered', hline'⟩ := hf'
      obtain ⟨hnc, hnk⟩ := pairSecond_slot hpair
      subst hc hk
      have hfirst := attemptSlot_fetches ⟨hwait, hentered, pa, hline⟩
      rw [h1] at hfirst
      have hsecond : attemptSlot s2 n = settleCur (exec j { s2 with cur := some (n.c, n.k) }) :=
        attemptSlot_fetches ⟨hwait', by rwa [hnc], pa', by rwa [hnc]⟩
      rw [hnc, hnk, h2] at hsecond
      rw [hstep, attemptPair_both hfirst hpair hsecond hboth]
  · exact (step_agenda ha).trans (congrArg (afterStep s) (engineStep_runs (s := { s with agenda := rest }) hr hp hk hw hd))

end Sys2Proof.Machine
end

section
/-!
PROOFS. The scalar instructions with one operand, with SD as a third, or with none (06 R84).
-/
namespace Sys2Proof.Machine

/-- Settles O2: each of the instructions is `scalarOp` of its operation. -/
theorem scalarMoveResults : Obligations.ScalarMoveResults := by
  unfold Obligations.ScalarMoveResults
  intro s m o
  refine ⟨fun hr => ?_, fun hr => ?_, fun hr => exec_scalarOp hr (exec_liI o s) rfl, fun hr => exec_scalarOp hr (exec_liHi o s) rfl⟩
  · exact ⟨exec_scalarOp hr (exec_clz o s) rfl, exec_scalarOp hr (exec_ctz o s) rfl, exec_scalarOp hr (exec_popc o s) rfl,
      exec_scalarOp hr (exec_mov o s) rfl⟩
  · exact ⟨exec_scalarOp hr (exec_bfi o s) rfl, exec_scalarOp hr (exec_sel o s) (ite_not ..)⟩

end Sys2Proof.Machine
end

section
/-!
PROOFS. System registers (06 R86): what `sysr` reads and `sysw` writes, and the numbers they refuse.
-/
namespace Sys2Proof.Machine

section
variable {s : State} {m : Me} {o : SOps}

/-- `sysr` of a number that names a register. -/
theorem exec_sysr_reads {v : Word} (hr : Ready s m (sUses o true false false false)) (h : sysRead m s (sysNum o) = some v) :
    exec (.sysr o) s = .next (completed m false o.hdr.stop (successor m.st.pc) (m.setRegs s fun r => r.put o.sd v)) := by
  rw [exec_sysr, execSysr]
  exact issue_done hr (by rw [h])

/-- `sysr` of a number that names none. -/
theorem exec_sysr_refused (hr : Ready s m (sUses o true false false false)) (h : sysRead m s (sysNum o) = none) :
    exec (.sysr o) s = .next (trappedIn s m causeAccess (BitVec.ofNat 64 (sysNum o)) 0x2A) := by
  rw [exec_sysr, execSysr]
  exact issueBy_trap (u := fun _ => sUses o true false false false) hr (by rw [h])

/-- `sysr` of a number that is known. -/
theorem exec_sysr_named {n : Nat} {v : Word} (hr : Ready s m (sUses o true false false false)) (h : sysRead m s n = some v)
    (hn : sysNum o = n) :
    exec (.sysr o) s = .next (completed m false o.hdr.stop (successor m.st.pc) (m.setRegs s fun r => r.put o.sd v)) :=
  exec_sysr_reads hr (hn ▸ h)

/-- `sysw` of a per-strand register that can be written. -/
theorem exec_sysw_writes {n : Nat} {r : Regs} (hr : Ready s m (sUses o false true false false)) (hne : n ≠ 0x100)
    (h : m.st.regs.sysWrite n (m.st.regs.get o.sa) = some r) (hn : sysNum o = n) :
    exec (.sysw o) s = .next (completed m false o.hdr.stop (successor m.st.pc) (m.setRegs s fun _ => r)) := by
  subst hn
  rw [exec_sysw, execSysw]
  exact issue_done hr (by rw [if_neg (by simpa using hne), h])

/-- `sysw` of any other number but that of FT_TOL. -/
theorem exec_sysw_refused (hr : Ready s m (sUses o false true false false)) (hne : sysNum o ≠ 0x100)
    (h : m.st.regs.sysWrite (sysNum o) (m.st.regs.get o.sa) = none) :
    exec (.sysw o) s = .next (trappedIn s m causeAccess (BitVec.ofNat 64 (sysNum o)) 0x2B) := by
  rw [exec_sysw, execSysw]
  exact issueBy_trap (u := fun _ => sUses o false true false false) hr (by rw [if_neg (by simpa using hne), h])

/-- `sysw` of FT_TOL, by whether it takes the value. -/
theorem exec_sysw_tol (hr : Ready s m (sUses o false true false false)) (hn : sysNum o = 0x100) :
    let v : W32 := (m.st.regs.get o.sa).truncate 32
    (tolOk v = true → exec (.sysw o) s = .next (completed m false o.hdr.stop (successor m.st.pc)
      (s.modBlock m.c m.st.block fun b => { b with tol := v }))) ∧
    (tolOk v = false → exec (.sysw o) s = .next (trappedIn s m causeAccess (BitVec.ofNat 64 (sysNum o)) 0x2B)) := by
  rw [exec_sysw, execSysw]
  refine ⟨fun h => issue_done hr ?_, fun h => issueBy_trap (u := fun _ => sUses o false true false false) hr ?_⟩
  · rw [if_pos (by simp [hn]), if_pos h]
  · rw [if_pos (by simp [hn]), if_neg (by simp [h])]
end

/-! ### The numbers of clusters and dies -/

section
variable (m : Me) (s : State)

theorem sysRead_refcal {d : Nat} (hd : d < 4) : sysRead m s (0x110 + d) = some (refcal s d) := by
  obtain rfl | rfl | rfl | rfl : d = 0 ∨ d = 1 ∨ d = 2 ∨ d = 3 := by omega
  all_goals rfl

theorem sysRead_elig (i : Fin 9) : sysRead m s (0x120 + i.val) = some (s.counters m.c m.ctx).elig[i] := by
  obtain ⟨i, hi⟩ := i
  have hlow : ¬0x120 + i < 0x100 := by omega
  have hrange : 0x120 ≤ 0x120 + i ∧ 0x120 + i ≤ 0x128 := by omega
  have hdie : ¬(0x110 ≤ 0x120 + i ∧ 0x120 + i ≤ 0x113) := by omega
  have hne : 0x120 + i ≠ 0x100 ∧ 0x120 + i ≠ 0x101 ∧ 0x120 + i ≠ 0x114 := by omega
  simp [sysRead, clusterReg, hlow, hrange, hdie, hne, hi]

theorem sysRead_stalls (i : Fin 12) : sysRead m s (0x130 + i.val) = some (s.counters m.c m.ctx).stalls[i] := by
  obtain ⟨i, hi⟩ := i
  have hlow : ¬0x130 + i < 0x100 := by omega
  have hrange : 0x130 ≤ 0x130 + i ∧ 0x130 + i ≤ 0x13B := by omega
  have hdie : ¬(0x110 ≤ 0x130 + i ∧ 0x130 + i ≤ 0x113) := by omega
  have helig : ¬(0x120 ≤ 0x130 + i ∧ 0x130 + i ≤ 0x128) := by omega
  have hne : 0x130 + i ≠ 0x100 ∧ 0x130 + i ≠ 0x101 ∧ 0x130 + i ≠ 0x114 := by omega
  simp [sysRead, clusterReg, hlow, hrange, hdie, helig, hne, hi]

/-- PWR_LVL with the last of its bits as one condition. -/
theorem Power.level_eq (p : Power) : p.level = payload [(3, p.req), (1, 0), (3, p.eff), (1, 0), (1, bit01 p.thr),
    (1, bit01 (decide (0 < p.edges))), (1, bit01 (decide (p.edges = 0 ∧ 2 ≤ p.halved)))] := by
  rw [Power.level, Bool.decide_and]
  rfl
end

/-- Settles O5: each number by the register it names. -/
theorem systemRegisterReads : Obligations.SystemRegisterReads := by
  unfold Obligations.SystemRegisterReads
  intro s m o hr
  refine ⟨?_, fun d hd => exec_sysr_named hr (sysRead_refcal m s hd), fun i => exec_sysr_named hr (sysRead_elig m s i),
    fun i => exec_sysr_named hr (sysRead_stalls m s i), exec_sysr_refused hr⟩
  simp only [List.forall_mem_cons, List.not_mem_nil, false_imp_iff, implies_true, and_true, ← Power.level_eq]
  and_intros
  all_goals exact exec_sysr_named hr rfl

/-- The only numbers whose registers a strand can write. -/
theorem sysWrite_none {r : Regs} {n : Nat} {v : Word} (h : n ∉ [0x000, 0x001, 0x010, 0x014, 0x016, 0x018, 0x019, 0x020]) :
    r.sysWrite n v = none := by
  unfold Regs.sysWrite
  split <;> simp at h
  rfl

/-- Settles O6: a number is that of a register that can be written, of FT_TOL, or is refused. -/
theorem systemRegisterWrites : Obligations.SystemRegisterWrites := by
  unfold Obligations.SystemRegisterWrites
  intro s m o hr
  refine ⟨?_, fun hn => (exec_sysw_tol hr hn).1, fun hn => (exec_sysw_tol hr hn).2, fun hmem => ?_⟩
  · simp only [List.forall_mem_cons, List.not_mem_nil, false_imp_iff, implies_true, and_true]
    and_intros
    all_goals exact exec_sysw_writes hr (by decide) rfl
  · have hlist : ∀ n ∈ [0x008, 0x009, 0x00A, 0x00B, 0x00C, 0x00D, 0x011, 0x012, 0x013, 0x015, 0x017, 0x021, 0x101, 0x110, 0x120,
        0x130, 0x140, 0x141, 0x142, 0xFFF], n ≠ 0x100 ∧ n ∉ [0x000, 0x001, 0x010, 0x014, 0x016, 0x018, 0x019, 0x020] := by
      decide
    obtain ⟨hne, hnot⟩ := hlist _ hmem
    exact exec_sysw_refused hr hne (sysWrite_none hnot)

/-! ### Time, power and the recorder -/

theorem bitsOf_low_byte (n : Nat) : bitsOf n 7 0 = n % 256 := by simp [bitsOf]

/-- Settles O7: each of the instructions has one effect and retires. -/
theorem systemResults : Obligations.SystemResults := by
  unfold Obligations.SystemResults
  intro s m o
  refine ⟨fun hr => ⟨?_, ?_⟩, fun hr => ⟨?_, ?_⟩, fun hr => ⟨?_, ?_⟩, fun hr => ?_⟩
  · rw [exec_timeI, execTimeI]
    exact issue_done hr rfl
  · rw [exec_cyc, execCyc]
    exact issue_done hr rfl
  · rw [exec_perf, execPerf, ← bitsOf_low_byte]
    exact issue_done hr rfl
  · rw [exec_gang, execGang]
    exact issue_done hr rfl
  · rw [exec_thra, execThra]
    exact issue_done hr rfl
  · rw [exec_ermark, execErmark]
    exact issue_done hr rfl
  · rw [exec_nop, execNop]
    exact issue_done hr rfl

end Sys2Proof.Machine
end

section
/-!
PROOFS. What an attempt comes to that does not retire: it has ended, it waits, or it traps (15 R239, R242); and the updates that
leave the strands of a cluster.
-/
namespace Sys2Proof.Machine

section
variable {s : State} {m : Me} {op : Nat} {stop : Bool} {u : Uses} {k : Me → Eff} {s' : State}

theorem issue_trapped {cause : Nat} {info : Word} (hr : Ready s m u) (hbo : u.bo = false) (hk : k m = .trap cause info s') :
    issue s op stop u k = .next (trappedIn s' m cause info op) := by
  rw [issue, issueBy_trap (u := fun _ => u) hr hk, hbo]
  rfl

theorem issue_trappedBo {cause : Nat} {info : Word} (hr : Ready s m u) (hbo : u.bo = true) (hk : k m = .trap cause info s') :
    issue s op stop u k = .next (trappedBo s' m cause info op) := by
  rw [issue, issueBy_trap (u := fun _ => u) hr hk, hbo]
  rfl

/-- An instruction after which the strand does not go on in sequence. -/
theorem issue_ended (hr : Ready s m u) (hk : k m = .ended s') :
    issue s op stop u k = .next (if u.bo then tookTurn s' m else s') := by
  rw [issue_ready hr, hk]
  cases u.bo <;> rfl

/-- An instruction that waits and has had no `bo` point. -/
theorem issue_waits {r : Stall} (hr : Ready s m u) (hk : k m = .stall r s') (hc : u.bo = true → captured s' m = false) :
    issue s op stop u k = .next (s'.modStrand m.c m.k fun st => { st with stall := some r, waited := 0, pre := [] }) := by
  rw [issue_ready hr, hk]
  cases hb : u.bo
  · rfl
  · simp [settleTurn, finish, hc hb]
end

/-- An update of a cluster that leaves its strands. -/
theorem strand?_modCluster {s : State} {c k : Nat} {f : Cluster → Cluster} (h : (f (s.cluster c)).strands = (s.cluster c).strands) :
    (s.modCluster c f).strand? c k = s.strand? c k := by
  simp [State.strand?, h]

theorem block?_modCluster {s : State} {c b : Nat} {f : Cluster → Cluster} (h : (f (s.cluster c)).blocks = (s.cluster c).blocks) :
    (s.modCluster c f).block? c b = s.block? c b := by
  simp [State.block?, h]

/-- A tile task that waits no more changes the power domain alone. -/
theorem dropTask_cluster (s : State) (m : Me) : ∃ p, (m.dropTask s).cluster m.c = { s.cluster m.c with power := p } := by
  unfold Me.dropTask
  dsimp only
  split
  · exact ⟨_, rfl⟩
  · exact ⟨_, State.cluster_modCluster ..⟩

theorem dropTask_strand? (s : State) (m : Me) (k : Nat) : (m.dropTask s).strand? m.c k = s.strand? m.c k := by
  obtain ⟨p, hp⟩ := dropTask_cluster s m
  simp [State.strand?, hp]

end Sys2Proof.Machine
end

section
/-!
PROOFS. `trap`, `bkpt` and `tret` (06 R96, 15 R248), and `wait` and `yield` (06 R97, R98).
-/
namespace Sys2Proof.Machine

/-! ### Traps and the return from one -/

/-- The strand as `tret` leaves it (15 R248), with the latch that the handler set aside. -/
def returnedStrand (m : Me) (hlatch : Option Latch) : Strand :=
  let skip := m.st.regs.tstate.getLsbD 0
  let pc : PC := if skip then m.st.regs.tnpc.truncate 57 else m.st.regs.trpc.truncate 57
  { m.st with
    regs := { (m.st.regs.setCounts m.blk.n (m.unparked m.st.stack.top)) with
      latch := hlatch, pi := if skip then 0 else m.st.regs.tpi }
    pc := pc, wait := .none, stall := none, waited := 0, bpinh := !skip && m.st.regs.tstate.getLsbD 3
    solve := if skip then none else m.st.solve, alone := some pc
    jobFaults := (faultsDue m.st.jobFaults).map fun f => { f with later := false } }

theorem returnFromHandler_eq (s : State) (m : Me) : returnFromHandler s m =
    (if m.st.regs.tstate.getLsbD 0 then
        { m with inH := false }.dropTask (s.setStrand m.c m.k (returnedStrand m (s.cluster m.c).hlatch))
      else s.setStrand m.c m.k (returnedStrand m (s.cluster m.c).hlatch)).modCluster m.c Cluster.release := rfl

theorem returnFromHandler_strand? (s : State) (m : Me) :
    (returnFromHandler s m).strand? m.c m.k = some (returnedStrand m (s.cluster m.c).hlatch) := by
  rw [returnFromHandler_eq, strand?_modCluster rfl]
  split
  · exact (dropTask_strand? _ { m with inH := false } _).trans (State.strand?_setStrand ..)
  · exact State.strand?_setStrand ..

theorem returnFromHandler_handler (s : State) (m : Me) : ((returnFromHandler s m).cluster m.c).handler = none := by
  rw [returnFromHandler_eq, State.cluster_modCluster]
  rfl

/-- `tret` in a handler: the strand retires it, and returns. -/
theorem execTret_returns {s : State} {m : Me} {o : SOps} (hr : Ready s m {}) (hh : m.inH = true) :
    execTret o s = .next (returnFromHandler (retiredState s m o.hdr.stop false (successor m.st.pc) m.st)
      { m with st := retired s m o.hdr.stop false (successor m.st.pc) m.st }) := by
  have hst := (me?_some hr.here).2.1
  unfold execTret
  refine issue_ended hr ?_
  dsimp only
  rw [if_neg (by simp [hh]), retireAt_eq hst, meAt_retiredState hr.here]
  rfl

/-- Settles O14: the traps by what the instruction raises, and `tret` by what its return leaves. -/
theorem trapInstructions : Obligations.TrapInstructions := by
  unfold Obligations.TrapInstructions
  intro s m o hr
  refine ⟨?_, fun h => ?_, fun hs hh => ?_, fun hh => ?_, fun hh => ?_⟩
  · rw [exec_trapI, execTrapI]
    exact issue_trapped hr rfl rfl
  · rw [exec_bkpt, execBkpt]
    exact issue_trapped hr rfl (if_neg (by rcases h with h | h <;> simp [h]))
  · rw [exec_bkpt, execBkpt, hs]
    exact issue_done hr (if_pos (by simp [hh]))
  · refine ⟨_, _, execTret_returns hr hh, returnFromHandler_strand? .., returnFromHandler_handler .., ?_, fun h => ?_, fun h => ?_,
      fun n => rfl⟩
    · simp [returnedStrand, retiredState_cluster]
    · exact ⟨if_pos h, if_pos h⟩
    · have hskip := ne_true_of_eq_false h
      exact ⟨if_neg hskip, if_neg hskip⟩
  · rw [exec_tret, execTret]
    exact issue_trapped hr rfl (if_pos (by simp [hh]))

/-! ### `wait` and `yield` -/

/-- The stall of a strand that sleeps in `wait` (06 R97). -/
def waitStall (ext : Bool) : Stall := if ext then .extWait else .sleep

/-- `wait` by the strand's watch and its own wait (06 R97). -/
theorem issue_wait_answers {s : State} {m : Me} {o : SOps} {ext : Bool} {v : Word} {w : Option Watch} {keep : Bool}
    (hr : Ready s m (sUses o true true false false))
    (he : waitEff s m o ext = .done (m.setRegs s fun r => { r.put o.sd v with watch := if keep then r.watch else none }))
    (hw : (if keep then m.st.regs.watch else none) = w) :
    issue s 0x4F o.hdr.stop (sUses o true true false false) (fun m => waitEff s m o ext) =
      .next (completed m false o.hdr.stop (successor m.st.pc) (m.setRegs s fun r => { r.put o.sd v with watch := w })) := by
  rw [issue_done hr he, Me.setRegs_of hr.here, Me.setRegs_of hr.here, hw]
  rfl

theorem issue_wait_sleeps {s : State} {m : Me} {o : SOps} {ext : Bool} {w : Watch}
    (hr : Ready s m (sUses o true true false false)) (hw : m.st.regs.watch = some w) (hf : w.fired = false)
    (hn : m.st.wait = .none) :
    ∃ t st, issue s 0x4F o.hdr.stop (sUses o true true false false) (fun m => waitEff s m o ext) = .next t ∧
      t.strand? m.c m.k = some st ∧ st.pc = m.st.pc ∧ st.stall = some (waitStall ext) ∧
      st.wait = .asleep ext (if (m.st.regs.get o.sa).toNat = 0 then none else some (m.st.regs.get o.sa).toNat) := by
  have he : waitEff s m o ext = .stall (waitStall ext) (s.modStrand m.c m.k fun st => { st with
      wait := .asleep ext (if (m.st.regs.get o.sa).toNat == 0 then none else some (m.st.regs.get o.sa).toNat) }) := by
    simp only [waitEff, hw, hf, hn, Bool.false_eq_true, if_false]
    rfl
  refine ⟨_, _, issue_waits hr he (by simp [sUses]),
    State.strand?_modStrand _ _ (State.strand?_modStrand _ _ (me?_some hr.here).2.1), rfl, rfl, ?_⟩
  simp

/-- Settles O15: `wait` by the watch and by what the strand has waited for, `yield` by its one effect. -/
theorem waitAndYield : Obligations.WaitAndYield := by
  unfold Obligations.WaitAndYield
  intro s m o
  have hwait : ∀ ext, Ready s m (sUses o true true false false) →
      let run := issue s 0x4F o.hdr.stop (sUses o true true false false) fun m => waitEff s m o ext
      let wrote := fun (v : Word) (w : Option Watch) => Host.Outcome.next (completed m false o.hdr.stop (successor m.st.pc)
        (m.setRegs s fun r => { r.put o.sd v with watch := w }))
      (m.st.regs.watch = none → run = wrote 0 none) ∧
      ∀ w, m.st.regs.watch = some w →
        (w.fired = true → run = wrote 1 none) ∧
        (w.fired = false → m.st.wait = .timedOut → run = wrote 2 (some w)) ∧
        (w.fired = false → m.st.wait = .none → ∃ t st, run = .next t ∧ t.strand? m.c m.k = some st ∧
          st.pc = m.st.pc ∧ st.stall = some (waitStall ext) ∧ st.wait = .asleep ext
            (if (m.st.regs.get o.sa).toNat = 0 then none else some (m.st.regs.get o.sa).toNat)) := by
    intro ext hr
    refine ⟨fun hw => ?_, fun w hw => ⟨fun hf => ?_, fun hf ht => ?_, fun hf hn => issue_wait_sleeps hr hw hf hn⟩⟩
    · exact issue_wait_answers (keep := true) hr (by simp [waitEff, hw]) hw
    · exact issue_wait_answers (keep := false) hr (by simp [waitEff, hw, hf]) rfl
    · exact issue_wait_answers (keep := true) hr (by simp [waitEff, hw, hf, ht]) hw
  refine ⟨fun hr => ?_, fun hr => ?_⟩
  · simp only [List.forall_mem_cons, List.not_mem_nil, false_imp_iff, implies_true, and_true]
    exact ⟨hwait false hr, hwait true hr⟩
  · rw [exec_yield, execYield]
    exact issue_done hr rfl

end Sys2Proof.Machine
end

section
/-!
PROOFS. The events of a strand: walks (23 R308), watches and timeouts (09 R145, 06 R89, R97), and the timer and the entry of a trap
that waits (15 R243, R244, 23 R301).
-/
namespace Sys2Proof.Machine

/-! ### Walks -/

section
variable {s : State} {c k : Nat} {m : Me} {page : Nat}

@[simp] theorem tlbFill_mem (s : State) (c : Nat) (e : TlbEntry) : (tlbFill s c e).mem = s.mem := rfl

theorem tlbFill_cluster (s : State) (c : Nat) (e : TlbEntry) :
    (tlbFill s c e).cluster c = { s.cluster c with utlb := (e :: (s.cluster c).utlb).take 64 } :=
  State.cluster_modCluster s c fun cl => { cl with utlb := (e :: cl.utlb).take 64 }

theorem tlbFill_strand? (s : State) (c k : Nat) (e : TlbEntry) : (tlbFill s c e).strand? c k = s.strand? c k := by
  simp [State.strand?, tlbFill_cluster]

/-- A walk that finds a leaf ends the wait, and the leaf is the newest of the µTLB; one that finds none marks the page. -/
theorem walkEnds_does {found absent : Strand → Strand} (hm : meAt s c k = some m)
    (hp : walkPoison s m.ctx (page * 4096) = none) :
    (∀ base leaf, walk s m.ctx (page * 4096) = some (base, leaf) →
      (walkEnds s m page found absent).strand? c k = some (found m.st) ∧
      ((walkEnds s m page found absent).cluster c).utlb.head? = some ⟨m.ctx, base, leaf⟩ ∧
      SameBytes s (walkEnds s m page found absent)) ∧
    (walk s m.ctx (page * 4096) = none → walkEnds s m page found absent = s.modStrand c k absent) := by
  obtain ⟨rfl, rfl, hst, -⟩ := meAt_some hm
  refine ⟨fun base leaf hw => ?_, fun hw => ?_⟩
  · have hends : walkEnds s m page found absent =
        (tlbFill s m.c { ctx := m.ctx, base := base, leaf := leaf }).modStrand m.c m.k found := by
      simp only [walkEnds, hp, hw]
    rw [hends]
    refine ⟨State.strand?_modStrand _ _ ((tlbFill_strand? ..).trans hst), ?_, fun a => by simp⟩
    rw [State.cluster_modStrand]
    simp [tlbFill_cluster]
  · simp only [walkEnds, hp, hw]

/-- A walk whose tables can be read ends. -/
theorem walkDone_ready (h : ∀ a ∈ tableLines s m.ctx (page * 4096), portReady s a = true ∧ linkFree s c a = true) :
    ((tableLines s m.ctx (page * 4096)).all fun a => portReady s a && linkFree s c a) = true :=
  List.all_eq_true.mpr fun a ha => by simp [h a ha]

theorem walkDone_memory (hm : meAt s c k = some m) (hw : m.st.wait = .walk page)
    (h : ∀ a ∈ tableLines s m.ctx (page * 4096), portReady s a = true ∧ linkFree s c a = true) :
    walkDone c k s = some (walkEnds s m page (fun st => { st with wait := .none }) fun st => { st with wait := .walkFault page }) := by
  simp only [walkDone, hm, Option.bind_some, hw, walkDone_ready h, if_true]

theorem walkDone_code (hm : meAt s c k = some m) (hw : ∀ x, m.st.wait ≠ .walk x) (hc : m.st.code = .walking page)
    (h : ∀ a ∈ tableLines s m.ctx (page * 4096), portReady s a = true ∧ linkFree s c a = true) :
    walkDone c k s = some (walkEnds s m page (fun st => { st with code := .none }) fun st => { st with code := .absent page }) := by
  simp only [walkDone, hm, Option.bind_some]
  split
  · rename_i x hx
    exact absurd hx (hw x)
  · rename_i x hx _
    obtain rfl : page = x := CodeWalk.walking.inj (hc.symm.trans hx)
    simp only [walkDone_ready h, if_true]
  · rename_i hne
    exact absurd hc (hne page)

/-- A walk that is done ends the wait that `done` says is over, or marks the page. -/
theorem exec_walk_ends {done : Strand → Prop} {found absent : Strand → Strand} (hm : meAt s c k = some m)
    (hp : walkPoison s m.ctx (page * 4096) = none) (hdone : walkDone c k s = some (walkEnds s m page found absent))
    (hf : done (found m.st) ∧ (found m.st).pc = m.st.pc) :
    (∀ base leaf, walk s m.ctx (page * 4096) = some (base, leaf) → ∃ t st, exec (.pageWalkDone c k) s = .next t ∧
      t.strand? c k = some st ∧ done st ∧ st.pc = m.st.pc ∧
      (t.cluster c).utlb.head? = some ⟨m.ctx, base, leaf⟩ ∧ SameBytes s t) ∧
    (walk s m.ctx (page * 4096) = none → exec (.pageWalkDone c k) s = .next (s.modStrand c k absent)) := by
  have hex : exec (.pageWalkDone c k) s = .next (walkEnds s m page found absent) := by
    rw [exec_pageWalkDone, execPageWalkDone, hdone]
    rfl
  obtain ⟨hleaf, hnone⟩ := walkEnds_does (found := found) (absent := absent) hm hp
  refine ⟨fun base leaf hw => ?_, fun hw => by rw [hex, hnone hw]⟩
  obtain ⟨hst, hutlb, hmem⟩ := hleaf base leaf hw
  exact ⟨_, _, hex, hst, hf.1, hf.2, hutlb, hmem⟩
end

/-! ### Another strand as it was -/

section
variable (s : State) (c k : Nat) (st : Strand)

/-- An update of a strand is one of clusters alone, and of no µTLB. -/
theorem setStrand_seen : ∃ cs, s.setStrand c k st = { s with clusters := cs, vaults := s.vaults } ∧
    (State.cluster { s with clusters := cs, vaults := s.vaults } c).utlb = (s.cluster c).utlb :=
  ⟨_, rfl, by show ((s.setStrand c k st).cluster c).utlb = _; rw [State.cluster_setStrand]⟩

theorem targetOk_setStrand (ctx : Nat) (pc : PC) : targetOk (s.setStrand c k st) c ctx pc = targetOk s c ctx pc := by
  obtain ⟨cs, heq, hu⟩ := setStrand_seen s c k st
  rw [heq]
  exact targetOk_congr hu ctx pc

theorem midPair_setStrand {o : Me} (ho : o.c = c) : o.midPair (s.setStrand c k st) = o.midPair s := by
  obtain ⟨cs, heq, hu⟩ := setStrand_seen s c k st
  rw [heq]
  unfold Me.midPair Me.paired fetchLine fetchEntry tlbFind
  rw [ho, hu]
  rfl

theorem meAt_setStrand_ne {j : Nat} (h : j ≠ k) : meAt (s.setStrand c k st) c j = meAt s c j := by
  simp [meAt, State.strand?_setStrand_ne s st h]

/-- Whether the population is free for a strand's handler is a matter of the other strands. -/
theorem entryFree_setStrand : (s.setStrand c k st).entryFree c k = s.entryFree c k := by
  have hmid : ∀ p : Nat × Strand,
      (p.1 != k && (meAt (s.setStrand c k st) c p.1).any fun o => o.midPair (s.setStrand c k st)) =
      (p.1 != k && (meAt s c p.1).any fun o => o.midPair s) := fun p => by
    by_cases hp : p.1 = k
    · simp [hp]
    · rw [meAt_setStrand_ne s c k st hp]
      cases hx : meAt s c p.1 with
      | none => rfl
      | some o => simp [midPair_setStrand s c k st (meAt_some hx).1]
  have hpair : pairHeld (s.setStrand c k st) c k = pairHeld s c k := by
    unfold pairHeld
    simp only [hmid]
    rw [State.cluster_setStrand]
    exact any_set_ne _ _ _ fun p : Nat × Strand => (meAt s c p.1).any fun o => o.midPair s
  have hsolve : ((s.setStrand c k st).cluster c).solving k = (s.cluster c).solving k := by
    rw [State.cluster_setStrand]
    exact any_set_ne _ _ _ fun p : Nat × Strand => p.2.solve.isSome
  unfold State.entryFree
  rw [hpair, hsolve, State.cluster_setStrand]
end

/-! ### Traps that come between instructions -/

/-- The view of the strand once its registers have been written. -/
def Me.written (m : Me) (f : Regs → Regs) : Me := { m with st := { m.st with regs := f m.st.regs } }

/-- A trap of a strand whose registers were written before: its handler is entered at once where none runs, none waits and the
population is free. -/
theorem takeTrap_setRegs {s : State} {c k : Nat} {m : Me} {f : Regs → Regs} (t : Trap) (hm : meAt s c k = some m)
    (hfree : s.entryFree c k = true) (hw : ∀ p ∈ (s.cluster c).strands, p.2.trap = none) (hf : (f m.st.regs).tvec = m.st.regs.tvec)
    (hv : m.st.regs.tvec ≠ 0) (hx : targetOk s c m.ctx (m.st.regs.tvec.truncate 57) = true) :
    ∃ s', takeTrap (m.setRegs s f) c k t = enteredState s' (m.written f) t := by
  obtain ⟨rfl, rfl, hst, hb, hh⟩ := meAt_some hm
  have hset : m.setRegs s f = s.setStrand m.c m.k (m.written f).st := State.modStrand_of s _ hst
  have hm' : meAt (m.setRegs s f) m.c m.k = some (m.written f) := by
    have hst' : (m.setRegs s f).strand? m.c m.k = some (m.written f).st := hset ▸ State.strand?_setStrand ..
    rw [meAt_of hst' ((Me.block?_setRegs s m f m.c _ rfl).trans hb), hset]
    simp [Me.written, hh]
  have hw' : ∀ p ∈ ((m.setRegs s f).cluster m.c).strands, p.2.trap = none := by
    rw [hset, State.cluster_setStrand]
    intro p hp
    rcases SMap.mem_set hp with rfl | hp
    · exact hw (m.k, m.st) (SMap.mem_of_get? hst)
    · exact hw p hp
  have hx' : targetOk (m.setRegs s f) m.c m.ctx ((f m.st.regs).tvec.truncate 57) = true := by
    rw [hset, targetOk_setStrand, hf]
    exact hx
  have hfree' : (m.setRegs s f).entryFree m.c m.k = true := by
    rw [hset, entryFree_setStrand]
    exact hfree
  exact ⟨_, takeTrap_eq (m := m.written f) t hm' hfree' hw' (hf.trans_ne hv) hx'⟩

/-- TM_CTL with EN cleared (23 R301). -/
def Regs.timerOff (r : Regs) : Regs := { r with tmctl := r.tmctl &&& ~~~1 }

theorem Regs.timerOff_en (r : Regs) : r.timerOff.tmctl.getLsbD 0 = false := by simp [timerOff]

/-- TSTATE of an asynchronous trap: SKIP is 0 and ASYNC is 1 (15 R241). -/
theorem tstateOf_async (st : Strand) {t : Trap} (hs : t.skip = false) (ha : t.async = true) :
    (tstateOf st t).getLsbD 0 = false ∧ (tstateOf st t).getLsbD 1 = true := by
  unfold tstateOf
  rw [hs, ha]
  refine ⟨payload_bit_zero false _, ?_⟩
  simp only [payload, joinFields, bit01, BitVec.getLsbD_ofNat, Nat.testBit, Nat.shiftRight_eq_div_pow]
  norm_num

/-- Settles O43: an event is its own update of the strand, and a trap between instructions enters as any other. -/
theorem strandEvents : Obligations.StrandEvents := by
  unfold Obligations.StrandEvents
  intro s c k m hm
  obtain ⟨hc, hk, hst, -⟩ := meAt_some hm
  refine ⟨fun page hready hp => ⟨fun hw => ?_, fun hw hcode => ?_⟩, fun w hw hf hsees => ?_, fun ext hw => ?_, fun hw => ?_,
    fun hv hx => ⟨fun hdue hbound hfree hnone => ?_, fun x ht hstop hnext => ?_⟩⟩
  · exact exec_walk_ends hm hp (walkDone_memory hm hw hready) ⟨rfl, rfl⟩
  · exact exec_walk_ends hm hp (walkDone_code hm hw hcode hready) ⟨rfl, rfl⟩
  · have hcond : (w.fired || !(w.seen || watchSees s m.blk w != w.value)) = false := by
      rcases hsees with h | h <;> simp [hf, h]
    simp only [exec_watchFire, execWatchFire, watchFires, happen, hm, hw, Option.bind_some, hcond, Bool.false_eq_true, if_false,
      Option.getD_some]
  · simp [execWaitTimeout, waitTimesOut, happen, hst, hw]
  · simp [execSpawnSlotTimeout, searchEnds, happen, hst, hw]
  · let x := asyncTrap m causeTimer (if m.st.regs.tmctl.getLsbD 1 then 1 else 0)
    obtain ⟨s', htake⟩ := takeTrap_setRegs (f := Regs.timerOff) x hm hfree hnone rfl hv hx
    subst hc hk
    obtain ⟨hskip, hasync⟩ := tstateOf_async (m.written Regs.timerOff).st (t := x) rfl rfl
    refine ⟨_, _, ?_, enteredState_strand? s' (m.written Regs.timerOff) x, rfl, rfl, rfl, rfl, rfl, hskip, hasync,
      Regs.timerOff_en _, by simp [Me.written]⟩
    simp only [exec_timerFire, execTimerFire, timerFires, happen, hm, Option.bind_some, hdue, hbound, Bool.not_true,
      Bool.or_self, Bool.false_eq_true, if_false, Option.getD_some]
    exact congrArg Host.Outcome.next htake
  · subst hc hk
    have henter := enterHandler_eq x hm hv hx
    refine ⟨_, _, ?_, enteredState_strand? s m x, rfl, rfl, rfl, rfl, rfl, rfl, by simp⟩
    simp [execTrapEntry, trapEnters, happen, hst, ht, hstop, hnext, henter]

end Sys2Proof.Machine
end

section
/-!
PROOFS. `spawn` and `join` (06 R89-R92): the child in a slot, the callee in a frame, and what `join` restores.
-/
namespace Sys2Proof.Machine

/-! ### The stack where it lives -/

@[simp] theorem clearBits_clusters (s : State) (c block name : Nat) (words : List Nat) :
    (clearBits s c block name words).clusters = s.clusters := by
  unfold clearBits
  split <;> rfl

@[simp] theorem clearBits_strand? (s : State) (c block name : Nat) (words : List Nat) (d k : Nat) :
    (clearBits s c block name words).strand? d k = s.strand? d k := by
  simp [State.strand?, State.cluster]

/-- The strand after its stack is written: in a handler the stack lies in the cluster. -/
theorem setStack_strand? {s : State} {m : Me} {st : Strand} (k : Stack) (hst : s.strand? m.c m.k = some st) :
    (m.setStack s k).strand? m.c m.k = some { st with stack := if m.inH then st.stack else k } := by
  unfold Me.setStack
  generalize hz : (if k.levels.length < (m.stack s).levels.length then s
    else clearBits s m.c m.st.block (markName m.stackSlot (k.levels.length - 1)) (bitWords m.blk.n)) = z
  have hz' : z.strand? m.c m.k = some st := by
    rw [← hz]
    split
    · exact hst
    · exact (clearBits_strand? ..).trans hst
  split
  · exact (strand?_modCluster rfl).trans hz'
  · exact State.strand?_modStrand _ _ hz'

/-! ### A callee's registers -/

/-- A callee has its parent's scalars but for s63, which is 0. -/
theorem calleeRegs_get (m : Me) (l0 : TSet) (n : SReg) : (m.calleeRegs l0).get n = if n = 63 then 0 else m.st.regs.get n := by
  unfold Regs.get
  by_cases h0 : n = 0
  · simp [h0]
  · simp only [if_neg h0]
    show (m.st.regs.s.set 63 0)[n.toNat] = _
    split
    · rename_i h
      subst h
      exact Vector.getElem_set_self _
    · rename_i h
      exact Vector.getElem_set_ne _ _ fun e => h (BitVec.eq_of_toNat_eq e.symm)

/-! ### A child in a slot -/

section
variable {s : State} {m : Me}

/-- The lowest slot that is free is found. -/
theorem freeStrandSlot_of {cl : Cluster} {slot : Nat} (hlt : slot < 8) (hfree : cl.strands.get? slot = none)
    (hlow : ∀ j, j < slot → cl.strands.get? j ≠ none) : freeStrandSlot cl = some slot := by
  unfold freeStrandSlot upto
  rw [List.find?_range_eq_some]
  refine ⟨by simp [hfree], List.mem_range.mpr hlt, fun j hj => ?_⟩
  simpa [← Option.isSome_iff_ne_none] using hlow j hj

/-- The child that a strand starts, and its parent. -/
def Me.child (m : Me) (s : State) (target : PC) : Strand :=
  newStrand target (m.calleeRegs (m.unparked (m.stack s).top)) (m.unparked (m.stack s).top)
    ((m.stack s).limit - (m.stack s).depth) m.st.block m.st.role (some (m.k, m.st.frames.length)) s.time s.fresh

def Me.spawned (m : Me) (s : State) : Strand :=
  { m.st with
    parked := m.st.parked ||| m.unparked (m.stack s).top
    regs := { m.st.regs.setCounts m.blk.n 0 with children := m.st.regs.children + 1 } }

theorem startChild_strands {slot : Nat} {target : PC} (hst : s.strand? m.c m.k = some m.st) (hne : slot ≠ m.k) :
    (startChild s m slot target).strand? m.c slot = some (m.child s target) ∧
      (startChild s m slot target).strand? m.c m.k = some (m.spawned s) := by
  simp only [startChild, note_strand?, State.strand?_setStrand, State.strand?_setStrand_ne _ _ hne.symm]
  exact ⟨rfl, State.strand?_modStrand _ _ hst⟩

/-! ### A callee in a frame -/

/-- The frame of an inline callee, which begins with the parent's registers, parked threads and successor. -/
def Me.frame (m : Me) (s : State) (stop : Bool) : Frame :=
  { regs := m.st.regs, base := (m.stack s).base, limit := (m.stack s).limit, parked := m.st.parked
    resume := successor m.st.pc, inHandler := m.inH, first := (s.cluster m.c).nextId, spans := m.st.spans
    jobFaults := m.st.jobFaults, step := if stop && !m.inH && m.st.regs.dbg.getLsbD 0 then some m.st.pc else none }

theorem startInline_strand? (stop : Bool) (hst : s.strand? m.c m.k = some m.st) : ∃ stk,
    (startInline s m stop).strand? m.c m.k = some { m.st with
      regs := m.calleeRegs (m.unparked (m.stack s).top), frames := m.frame s stop :: m.st.frames, spans := [], jobFaults := []
      stack := stk } := by
  simp only [startInline, note_strand?]
  exact ⟨_, (State.strand?_modStrand _ _ (setStack_strand? _ hst)).trans rfl⟩

/-- An inline callee begins at the target, in a frame more, with its parent's scalars. -/
theorem inlineEff_starts {stop : Bool} {target : PC} (hst : s.strand? m.c m.k = some m.st) (hroom : m.st.frames.length < 4) :
    ∃ s' st, inlineEff s m stop target = .ended s' ∧ s'.strand? m.c m.k = some st ∧ st.pc = target ∧
      st.frames.length = m.st.frames.length + 1 ∧ ∀ n : SReg, n ≠ 63 → st.regs.get n = m.st.regs.get n := by
  obtain ⟨stk, hinline⟩ := startInline_strand? stop hst
  refine ⟨_, _, if_neg (by omega), State.strand?_modStrand _ _ (by rw [retireAt_eq hinline]; exact retiredState_strand? ..), rfl,
    rfl, fun n hn => ?_⟩
  exact (calleeRegs_get ..).trans (if_neg hn)

/-! ### `spawn` -/

variable {o : BOps}

/-- `spawn` past its checks (06 R89-R91). -/
def spawnEff (s : State) (m : Me) (o : BOps) : Eff :=
  if m.inH || m.st.wait == .noSlot then inlineEff s m o.hdr.stop (bTarget m o)
  else match freeStrandSlot (s.cluster m.c) with
    | some slot => .done (startChild s m slot (bTarget m o))
    | none => .stall .sleep (if m.st.wait == .none then s.modStrand m.c m.k fun st => { st with wait := .search 64 } else s)

theorem execSpawn_eq (o : BOps) (s : State) : execSpawn o s = issue s 0x47 o.hdr.stop { bo := true, ord := true } fun m =>
    if !m.st.late.isEmpty then .stall .feWait s
    else if 15 ≤ m.st.regs.children then .trap causeNestDepth 2 s
    else spawnEff s m o := rfl

/-- The checks of `spawn` pass. -/
theorem spawn_checked (hlate : m.st.late = []) (hchild : m.st.regs.children < 15) :
    (if !m.st.late.isEmpty then .stall .feWait s
      else if 15 ≤ m.st.regs.children then .trap causeNestDepth 2 s else spawnEff s m o) = spawnEff s m o := by
  rw [if_neg (by simp [hlate]), if_neg (by omega)]

/-- A child starts in the lowest free slot, and its parent goes on. -/
theorem spawn_starts {slot : Nat} (hr : Ready s m { bo := true, ord := true }) (hlate : m.st.late = [])
    (hchild : m.st.regs.children < 15) (hh : m.inH = false) (hw : m.st.wait ≠ .noSlot)
    (hslot : freeStrandSlot (s.cluster m.c) = some slot) :
    exec (.spawn o) s = .next (completed m true o.hdr.stop (successor m.st.pc) (startChild s m slot (bTarget m o))) := by
  rw [exec_spawn, execSpawn_eq]
  refine issue_done hr ?_
  rw [spawn_checked hlate hchild, spawnEff, if_neg (by simp [hh, hw]), hslot]

/-- In a handler, and after a search without a slot, the callee runs inline. -/
theorem spawn_inlines (hr : Ready s m { bo := true, ord := true }) (hlate : m.st.late = []) (hchild : m.st.regs.children < 15)
    (hin : m.inH = true ∨ m.st.wait = .noSlot) {e : Eff} (he : inlineEff s m o.hdr.stop (bTarget m o) = e) :
    (∀ s', e = .ended s' → exec (.spawn o) s = .next (tookTurn s' m)) ∧
    (∀ cause info, e = .trap cause info s → exec (.spawn o) s = .next (trappedBo s m cause info 0x47)) := by
  have heff : (if !m.st.late.isEmpty then .stall .feWait s
      else if 15 ≤ m.st.regs.children then .trap causeNestDepth 2 s else spawnEff s m o) = e := by
    rw [spawn_checked hlate hchild, spawnEff, if_pos (by rcases hin with h | h <;> simp [h]), he]
  rw [exec_spawn, execSpawn_eq]
  exact ⟨fun s' h => issue_ended hr (heff.trans h), fun cause info h => issue_trappedBo hr rfl (heff.trans h)⟩
end

/-- Settles O10: a child in the slot that is found, a callee in a frame, or the trap of the fifth; and `join`. -/
theorem spawnAndJoin : Obligations.SpawnAndJoin := by
  unfold Obligations.SpawnAndJoin
  intro s m o so slot hr
  have hst := (me?_some hr.here).2.1
  refine ⟨fun hlate hchild => ⟨fun hh hw hlt hfree hlow => ?_, fun hin hroom => ?_, fun _ hw hfull => ?_⟩, fun hh hdone => ?_⟩
  · have hne : slot ≠ m.k := by
      rintro rfl
      simp [hfree] at hst
    have hstack : m.stack s = m.st.stack := by simp [Me.stack, hh]
    obtain ⟨hchildst, hparent⟩ := startChild_strands (target := bTarget m o) hst hne
    refine ⟨_, spawn_starts hr hlate hchild hh hw (freeStrandSlot_of hlt hfree hlow), fun hu => ?_⟩
    obtain ⟨st, hst', hpc, hregs, -, hparked, -⟩ := completed_unstepped (bo := true) (next := successor m.st.pc) hparent rfl hu
    refine ⟨_, st, (completed_strand?_ne hparent rfl hu hne).trans hchildst, rfl, ?_, rfl, fun n hn => ?_, ?_, hst', ?_, ?_, hpc⟩
    · rw [← hstack]
      rfl
    · exact (calleeRegs_get ..).trans (if_neg hn)
    · exact (calleeRegs_get ..).trans (if_pos rfl)
    · rw [hparked, ← hstack]
      rfl
    · rw [hregs]
      rfl
  · obtain ⟨s', st, he, hs', hpc, hframes, hget⟩ := inlineEff_starts (stop := o.hdr.stop) (target := bTarget m o) hst hroom
    obtain ⟨g, hg⟩ := tookTurn_strand? hs'
    exact ⟨_, _, (spawn_inlines hr hlate hchild hin he).1 s' rfl, hg, hpc, hframes, hget⟩
  · exact (spawn_inlines hr hlate hchild (.inr hw) (if_pos hfull)).2 _ _ rfl
  · rw [exec_joinI, execJoinI]
    exact issue_done hr (by rw [if_neg (by simp [hh]), if_neg (by simp [hdone])])

end Sys2Proof.Machine
end

section
/-!
PROOFS. The end of a strand (06 R88, R91-R94): what `tail` leaves, when `halt` and the last `ret` wait, and what the end of a strand
or of an inline callee leaves.
-/
namespace Sys2Proof.Machine

/-! ### What `tail` leaves -/

section
variable {s : State} {m : Me}

/-- A gang that no arrival waits for is not broken. -/
theorem breakArrivals_none {c cause slot : Nat} {hit : Arrival → Bool} (h : ∀ a ∈ (s.cluster c).arrivals, hit a = false) :
    breakArrivals s c hit cause slot =
      s.setCluster c { s.cluster c with power := (s.cluster c).power.without fun _ => false } := by
  have hnone : (s.cluster c).arrivals.filter hit = [] := List.filter_eq_nil_iff.mpr fun a ha => by simp [h a ha]
  have hall : ((s.cluster c).arrivals.filter fun a => !hit a) = (s.cluster c).arrivals :=
    List.filter_eq_self.mpr fun a ha => by simp [h a ha]
  simp [breakArrivals, hnone, hall, sortBy, State.modCluster]

/-- The strand without its latch, its levels and their mark bits. -/
def Me.tailStrand (m : Me) : Strand :=
  { m.st with
    tailed := true, regs := { m.st.regs with latch := none }
    stack := { m.st.stack with levels := [0], base := 0 } }

/-- The tracker and the deliveries of the cluster once a strand has tailed. -/
def tailCluster (s : State) (m : Me) : Cluster :=
  { s.cluster m.c with
    tracker := if (trackedOf s m).empty then (s.cluster m.c).tracker else (s.cluster m.c).tracker ++ [trackedOf s m]
    nextId := (s.cluster m.c).nextId + 1
    deliveries := (s.cluster m.c).deliveries.map fun d => if d.slot == m.k then { d with discard := true, slot := 8 } else d }

/-- The cluster with the strand as it has tailed, and with its role's window freed where it was the role's last. -/
def tailedCluster (s : State) (m : Me) : Cluster :=
  { tailCluster s m with
    strands := (s.cluster m.c).strands.set m.k m.tailStrand
    blocks := if roleRemains (s.cluster m.c) m.k m.st.block m.st.role then (s.cluster m.c).blocks
      else (s.cluster m.c).blocks.set m.st.block (freeRole m.blk m.st.role) }

/-- Whether others of the role remain is a matter of the other strands. -/
theorem roleRemains_set (cl : Cluster) (l : SMap Strand) (k block role : Nat) (st : Strand) (h : cl.strands = l.set k st) :
    roleRemains cl k block role = l.any fun p => p.1 != k && p.2.block == block && p.2.role == role && !p.2.tailed := by
  unfold roleRemains
  rw [h]
  simp only [Bool.and_assoc]
  exact any_set_ne _ _ _ fun p : Nat × Strand => p.2.block == block && (p.2.role == role && !p.2.tailed)

/-- The effect of `tail`, but for the gangs that it breaks, is an update of the strand's cluster. -/
theorem doTail_eq (hm : me? s = some m) (harr : ∀ a ∈ (s.cluster m.c).arrivals, bitOf a.gang m.k = false) :
    doTail s m = s.setCluster m.c { tailedCluster s m with power := (s.cluster m.c).power.without fun _ => false } := by
  obtain ⟨-, hst, hb, -⟩ := me?_some hm
  have hst1 : (s.setCluster m.c (tailCluster s m)).strand? m.c m.k = some m.st := by
    simpa [State.strand?, tailCluster] using hst
  have hb2 : ((s.setCluster m.c (tailCluster s m)).setStrand m.c m.k m.tailStrand).block? m.c m.st.block = some m.blk := by
    simpa [State.block?, tailCluster] using hb
  have hrole : roleRemains (((s.setCluster m.c (tailCluster s m)).setStrand m.c m.k m.tailStrand).cluster m.c) m.k m.st.block
      m.st.role = roleRemains (s.cluster m.c) m.k m.st.block m.st.role :=
    roleRemains_set _ (s.cluster m.c).strands _ _ _ m.tailStrand (by simp [tailCluster])
  have htailed : (if roleRemains (((s.setCluster m.c (tailCluster s m)).setStrand m.c m.k m.tailStrand).cluster m.c) m.k m.st.block
        m.st.role then (s.setCluster m.c (tailCluster s m)).setStrand m.c m.k m.tailStrand
      else ((s.setCluster m.c (tailCluster s m)).setStrand m.c m.k m.tailStrand).modBlock m.c m.st.block
        fun b => freeRole b m.st.role) = s.setCluster m.c (tailedCluster s m) := by
    rw [hrole, State.modBlock_of _ _ hb2]
    unfold tailedCluster
    split
    · simp [State.setStrand, State.modCluster, State.setCluster_setCluster, tailCluster]
    · simp [State.setBlock, State.setStrand, State.modCluster, State.setCluster_setCluster, tailCluster]
  have htail : doTail s m = breakGangs (s.setCluster m.c (tailedCluster s m)) m.c m.k m.st.block := by
    rw [← htailed]
    show breakGangs _ _ _ _ = _
    rw [show (s.modCluster m.c fun cl => { cl with
        tracker := if (trackedOf s m).empty then cl.tracker else cl.tracker ++ [trackedOf s m]
        nextId := cl.nextId + 1
        deliveries := cl.deliveries.map fun d => if d.slot == m.k then { d with discard := true, slot := 8 } else d }) =
      s.setCluster m.c (tailCluster s m) from rfl, State.modStrand_of _ _ hst1]
    rfl
  rw [htail, breakGangs, breakArrivals_none fun a ha => ?_]
  · simp [State.setCluster_setCluster, tailedCluster, tailCluster]
  · have ha' : a ∈ (s.cluster m.c).arrivals := by simpa [tailedCluster, tailCluster] using ha
    simp [harr a ha']

theorem doTail_cluster (hm : me? s = some m) (harr : ∀ a ∈ (s.cluster m.c).arrivals, bitOf a.gang m.k = false) :
    (doTail s m).cluster m.c = { tailedCluster s m with power := (s.cluster m.c).power.without fun _ => false } := by
  rw [doTail_eq hm harr, State.cluster_setCluster]

/-- The roles of a block of which one is freed. -/
theorem freeRole_roles (b : Block) (role i : Nat) :
    (freeRole b role).roles[i]? = (b.roles[i]?).map fun r => if i = role then { r with freed := true } else r := by
  by_cases hi : i < b.roles.length
  · simp [freeRole, upto, hi]
  · simp [freeRole, upto, hi]

/-- What a strand has outstanding, where no entry of the tracker stands for any of it. -/
theorem trackedOf_fresh (h : ∀ x ∈ (s.cluster m.c).tracker, x.strand ≠ m.st.num) :
    (trackedOf s m).ids = (m.st.out.filter Access.tracked).map Access.id ∧
      (trackedOf s m).jobs = (ownJobs (s.cluster m.c) m.k m.st.block).map Job.id := by
  have hmine : ((s.cluster m.c).tracker.filter fun t => t.strand == m.st.num) = [] :=
    List.filter_eq_nil_iff.mpr fun x hx => by simp [h x hx]
  simp [trackedOf, hmine]
end

/-! ### When the end waits, and when a job fault is met first -/

section
variable {s : State} {m : Me} {o : SOps}

theorem jobFault?_none (h : m.st.jobFaults = []) : jobFault? s m = none := by
  simp [jobFault?, Me.faultsMet, h, lowestFault]

/-- Outside a handler the strand meets every job fault that waits for it. -/
theorem jobFault?_some {f : JobFault} (hh : m.inH = false) (hf : lowestFault m.st.jobFaults = some f) :
    jobFault? s m = some (.trap f.cause f.tinfo (dropFault s m f)) := by
  have hmet : m.faultsMet = m.st.jobFaults := List.filter_eq_self.mpr fun g _ => by simp [hh]
  simp [jobFault?, hmet, hf]

/-- A child that has not ended, or has something outstanding, is waited for. -/
theorem childrenDone_false (h : (∃ p ∈ (s.cluster m.c).strands, p.2.parent = some (m.k, m.st.frames.length)) ∨
    ∃ x ∈ (s.cluster m.c).tracker, x.block = m.st.block ∧ x.parent = some (m.k, m.st.frames.length)) :
    childrenDone s m = false := by
  unfold childrenDone
  rcases h with ⟨p, hp, hpar⟩ | ⟨x, hx, hb, hpar⟩
  · have hlive : liveChildren (s.cluster m.c) m.k m.st.frames.length ≠ 0 := by
      unfold liveChildren
      exact List.length_pos_iff_exists_mem.mpr ⟨p, List.mem_filter.mpr ⟨hp, by simp [hpar]⟩⟩ |>.ne'
    simp [hlive]
  · have htracked : ((s.cluster m.c).tracker.any fun t => t.block == m.st.block && t.parent == some (m.k, m.st.frames.length))
        = true := List.any_eq_true.mpr ⟨x, hx, by simp [hb, hpar]⟩
    simp [htracked]

/-- `i` ends its strand or its inline callee (06 R88, R94): `halt`, and the last `ret` of a callee. -/
def Ends (s : State) (stop : Bool) (i : Instr) : Prop :=
  ∃ op, exec i s = issue s op stop { bo := true, ord := true } fun m => haltEff s m stop

theorem ends_halt : Ends s o.hdr.stop (.halt o) := ⟨_, exec_halt o s⟩

theorem ends_ret (hm : me? s = some m) (hc : m.st.isCallee = true) (hd : m.st.regs.cdepth = 0) : Ends s o.hdr.stop (.ret o) := by
  refine ⟨0x45, ?_⟩
  rw [exec_ret, execRet, hm]
  exact if_pos (by simp [hc, hd])

variable {stop : Bool} {i : Instr}

/-- A strand that waits for a child sleeps. -/
theorem Ends.waits (hi : Ends s stop i) (hr : Ready s m { bo := true, ord := true }) (hcap : s.cap = none)
    (hjobs : m.st.jobFaults = []) (hchild : childrenDone s m = false) :
    exec i s = .next (s.modStrand m.c m.k fun st => { st with stall := some .sleep, waited := 0, pre := [] }) := by
  obtain ⟨op, hi⟩ := hi
  have hcaptured : captured s m = false := by simp [captured, (me?_some hr.here).2.1, hcap]
  rw [hi]
  exact issue_waits hr (by simp [haltEff, jobFault?_none hjobs, hchild]) fun _ => hcaptured

/-- A strand that has no frame ends. -/
theorem Ends.ends (hi : Ends s stop i) (hr : Ready s m { bo := true, ord := true }) (hjobs : m.st.jobFaults = [])
    (hroom : trackerRoom s m = true) (hchild : childrenDone s m = true) (hframes : m.st.frames = []) :
    exec i s = .next (tookTurn (endStrand (noteSite (doTail s m) m stop) m) m) := by
  obtain ⟨op, hi⟩ := hi
  rw [hi]
  exact issue_ended hr (by simp [haltEff, jobFault?_none hjobs, hchild, hframes, hroom])

/-- An inline callee ends. -/
theorem Ends.unwinds {f : Frame} {rest : List Frame} (hi : Ends s stop i) (hr : Ready s m { bo := true, ord := true })
    (hjobs : m.st.jobFaults = []) (hchild : childrenDone s m = true) (hframes : m.st.frames = f :: rest) :
    exec i s = .next (tookTurn (retireAt (endInline s m f rest) m stop false f.resume) m) := by
  obtain ⟨op, hi⟩ := hi
  rw [hi]
  exact issue_ended hr (by simp [haltEff, jobFault?_none hjobs, hchild, hframes])
end

/-! ### The strands after the end of a block or a grid -/

section
variable (s : State) (c k : Nat)

theorem strand?_of_clusters {s t : State} (h : t.clusters = s.clusters) (c k : Nat) : t.strand? c k = s.strand? c k := by
  simp [State.strand?, State.cluster, h]

@[simp] theorem storeBytes_clusters (s : State) (pa : Nat) (bs : List (Option Byte)) :
    (storeBytes s pa bs).clusters = s.clusters := by
  induction bs generalizing s pa with
  | nil => rfl
  | cons b bs ih =>
    refine (ih _ _).trans ?_
    cases b with
    | none => rfl
    | some b =>
      dsimp only
      split <;> rfl

/-- An update of every cluster that leaves the strands. -/
theorem strand?_mapClusters {f : Cluster → Cluster} (h : ∀ cl, (f cl).strands = cl.strands) :
    State.strand? { s with clusters := s.clusters.map fun p => (p.1, f p.2) } c k = s.strand? c k := by
  simp only [State.strand?, State.cluster, get?_mapValues s.clusters (fun _ => f)]
  cases s.clusters.get? c <;> simp [h]

theorem mergeCensus_strand? (ctx : Nat) : (mergeCensus s ctx).strand? c k = s.strand? c k := by
  have hmap := strand?_mapClusters s c k (f := fun cl => { cl with census := cl.census.filter fun e => e.ctx != ctx }) fun _ => rfl
  unfold mergeCensus
  dsimp only
  split <;> exact hmap

theorem signalGrid_clusters (ctx sigp status : Nat) : (signalGrid s ctx sigp status).1.clusters = s.clusters := by
  unfold signalGrid
  split
  · rfl
  split
  · rfl
  split
  · rfl
  · simp [storeNat]

/-- The completion of a grid leaves the strands. -/
theorem settleGrid_strand? (fuel g : Nat) : (settleGrid fuel s g).strand? c k = s.strand? c k := by
  induction fuel generalizing s g with
  | zero => rfl
  | succ fuel ih =>
    unfold settleGrid
    split
    · rfl
    split
    · rfl
    rename_i gr _ _
    have hdone : ∀ status, (launchRecord (signalGrid (mergeCensus s gr.rec'.ctx) gr.rec'.ctx gr.rec'.sigp gr.status).1 2
        gr.rec'.ctx gr.va gr.rec'.depth status).strand? c k = s.strand? c k := fun _ =>
      ((record_strand? ..).trans (strand?_of_clusters (signalGrid_clusters ..) c k)).trans (mergeCensus_strand? ..)
    dsimp only
    split
    · exact hdone _
    · exact (ih _ _).trans (hdone _)

theorem settleGbar_strand? (g : Nat) : (settleGbar s g).strand? c k = s.strand? c k := by
  unfold settleGbar
  cases s.grids.get? g with
  | none => rfl
  | some gr => exact (apply_ite (fun t : State => t.strand? c k) ..).trans (ite_self _)

theorem retireBlock_strand? (b : Nat) : (retireBlock s c b).strand? c k = s.strand? c k := by
  unfold retireBlock
  dsimp only
  split
  · rfl
  split
  · rfl
  · refine (settleGrid_strand? _ c k 12 _).trans ?_
    simp [State.strand?, State.cluster, State.modGrid]
end

section
variable {s : State} {m : Me}

/-- The slot of a strand that has ended is free. -/
theorem endStrand_strand? (hjobs : m.st.jobFaults = []) : (endStrand s m).strand? m.c m.k = none := by
  simp only [endStrand, hjobs, List.foldl_nil]
  rw [retireBlock_strand?, settleGbar_strand?, strand?_of_clusters (dropReplies_clusters _)]
  simp [State.strand?]

theorem tookTurn_strand?_none (h : s.strand? m.c m.k = none) : (tookTurn s m).strand? m.c m.k = none := by
  have h' : (s.modCluster m.c fun cl => { cl with lastSlot := m.k }).strand? m.c m.k = none := (strand?_modCluster rfl).trans h
  simp [tookTurn, State.modStrand, h']

/-- The end of an inline callee gives its strand the registers, the frames and the parked threads of the parent. -/
theorem endInline_strand? {f : Frame} {rest : List Frame} (hst : s.strand? m.c m.k = some m.st) (hjobs : m.st.jobFaults = []) :
    ∃ st, (endInline s m f rest).strand? m.c m.k = some st ∧ st.regs = f.regs ∧ st.frames = rest ∧ st.parked = f.parked := by
  simp only [endInline, hjobs, List.filter_nil, List.foldl_nil, List.append_nil]
  have hstack : ∃ st, (if m.inH == f.inHandler then m.setStack s ((m.stack s).unwind f)
      else (s.modStrand m.c m.k fun st => { st with stack := st.stack.unwind f }).modCluster m.c Cluster.release).strand? m.c m.k =
        some st := by
    split
    · exact ⟨_, setStack_strand? _ hst⟩
    · exact ⟨_, (strand?_modCluster rfl).trans (State.strand?_modStrand _ _ hst)⟩
  obtain ⟨st, hst'⟩ := hstack
  rw [strand?_of_clusters (dropReplies_clusters _)]
  exact ⟨_, State.strand?_modStrand _ _ ((strand?_modCluster rfl).trans hst'), rfl, rfl, rfl⟩
end

/-- Settles O11: the effect of `tail` as an update of one cluster, and the ends by what they wait for and what they leave. -/
theorem strandEnds : Obligations.StrandEnds := by
  unfold Obligations.StrandEnds
  intro s m o hr
  have hm := hr.here
  obtain ⟨-, hst, hb, -⟩ := me?_some hm
  refine ⟨fun f hh hf => ⟨?_, ?_⟩, fun harr => ?_, fun hcap hjobs hchild => ⟨?_, fun hc hd => ?_⟩,
    fun hjobs hroom => ⟨fun hh hc => ?_, fun hh hc => ?_, fun hdone hframes => ⟨?_, fun hpar hd => ?_⟩,
      fun f rest hdone hframes i hi hd => ?_⟩⟩
  · rw [exec_tail, execTail]
    exact issue_trappedBo hr rfl (by simp [hh, jobFault?_some hh hf])
  · rw [exec_halt, execHalt]
    exact issue_trappedBo hr rfl (by simp [haltEff, jobFault?_some hh hf])
  · have hcluster := doTail_cluster hm harr
    refine ⟨⟨m.tailStrand, if roleRemains (s.cluster m.c) m.k m.st.block m.st.role then m.blk else freeRole m.blk m.st.role, ?_, ?_,
      rfl, ?_, fun h => if_pos h, fun h i => ?_⟩, ?_, ?_, fun h => ?_, fun a => ?_, fun j hj => ?_⟩
    · simp [State.strand?, hcluster, tailedCluster]
    · unfold State.block?
      rw [hcluster]
      show (if _ then _ else _ : SMap Block).get? _ = _
      split
      · exact hb
      · exact SMap.get?_set_self ..
    · split <;> rfl
    · rw [if_neg (by simp [h])]
      exact freeRole_roles ..
    · simp [hcluster, tailedCluster, tailCluster]
    · rw [hcluster]
      rfl
    · obtain ⟨hids, hownJobs⟩ := trackedOf_fresh h
      exact ⟨hids, hownJobs, rfl, rfl, rfl⟩
    · rw [doTail_eq hm harr]
      rfl
    · unfold State.strand?
      rw [hcluster]
      exact SMap.get?_set_ne _ _ hj
  · exact ends_halt.waits hr hcap hjobs (childrenDone_false hchild)
  · exact (ends_ret hm hc hd).waits hr hcap hjobs (childrenDone_false hchild)
  · have hroom' : trackerRoom s m = true := by simpa [trackerRoom] using hroom
    rw [exec_tail, execTail]
    exact issue_done hr (by simp [hh, jobFault?_none hjobs, hc, hroom'])
  · rw [exec_tail, execTail]
    exact issue_trappedBo hr rfl (by simp [hh, jobFault?_none hjobs, hc])
  · have hgone := (ends_halt (o := o)).ends hr hjobs (by simpa [trackerRoom] using hroom) hdone hframes
    exact ⟨hgone, _, hgone, tookTurn_strand?_none (endStrand_strand? hjobs)⟩
  · have hcallee : m.st.isCallee = true := by simp [Strand.isCallee, Option.isSome_iff_ne_none.mpr hpar]
    have hgone := (ends_ret (o := o) hm hcallee hd).ends hr hjobs (by simpa [trackerRoom] using hroom) hdone hframes
    exact ⟨hgone, _, hgone, tookTurn_strand?_none (endStrand_strand? hjobs)⟩
  · have hends : Ends s o.hdr.stop i := by
      rcases List.mem_pair.mp hi with rfl | rfl
      · exact ends_halt
      · exact ends_ret hm (by simp [Strand.isCallee, hframes]) (hd rfl)
    obtain ⟨st, hst', hregs, hrest, hparked⟩ := endInline_strand? (f := f) (rest := rest) hst hjobs
    have hret : (retireAt (endInline s m f rest) m o.hdr.stop false f.resume).strand? m.c m.k =
        some (retired (endInline s m f rest) m o.hdr.stop false f.resume st) := by
      rw [retireAt_eq hst']
      exact retiredState_strand? ..
    obtain ⟨g, hg⟩ := tookTurn_strand? hret
    exact ⟨_, _, hends.unwinds hr hjobs hdone hframes, hg, rfl, hrest, hregs, hparked⟩

end Sys2Proof.Machine
end

section
/-!
PROOFS. `launch` (06 R95, 21 R281): what the hub's stores and a doorbell see and leave, and what a submission leaves.
-/
namespace Sys2Proof.Machine

/-! ### What the hub's stores and a doorbell leave -/

/-- Of the machine at most memory and the shared lines are written. -/
structure StoreFrame (s t : State) : Prop where
  rest : t = { s with mem := t.mem, sharedLines := t.sharedLines }

/-- Of the machine at most these, the queues and the model's numbers are written. -/
structure HubFrame (s t : State) : Prop where
  rest : t = { s with mem := t.mem, sharedLines := t.sharedLines, queues := t.queues, fresh := t.fresh }

section
variable {s t u : State}

theorem StoreFrame.refl (s : State) : StoreFrame s s := ⟨rfl⟩

theorem StoreFrame.trans (h : StoreFrame s t) (h' : StoreFrame t u) : StoreFrame s u := ⟨by rw [h'.rest, h.rest]⟩

theorem StoreFrame.queues (h : StoreFrame s t) : t.queues = s.queues := by rw [h.rest]
theorem StoreFrame.bells (h : StoreFrame s t) : t.bells = s.bells := by rw [h.rest]
theorem StoreFrame.grids (h : StoreFrame s t) : t.grids = s.grids := by rw [h.rest]

theorem StoreFrame.hub (h : StoreFrame s t) : HubFrame s t := ⟨by rw [h.rest]⟩

theorem HubFrame.refl (s : State) : HubFrame s s := ⟨rfl⟩

theorem HubFrame.trans (h : HubFrame s t) (h' : HubFrame t u) : HubFrame s u := ⟨by rw [h'.rest, h.rest]⟩

theorem HubFrame.bells (h : HubFrame s t) : t.bells = s.bells := by rw [h.rest]
theorem HubFrame.ctxs (h : HubFrame s t) : t.ctxs = s.ctxs := by rw [h.rest]

theorem StoreFrame.foldl {α : Type} {f : State → α → State} (hf : ∀ s x, StoreFrame s (f s x)) (l : List α) (s : State) :
    StoreFrame s (l.foldl f s) := by
  induction l generalizing s with
  | nil => exact .refl s
  | cons x l ih => exact (hf s x).trans (ih _)

theorem shareLine_frame (s : State) (b : Bool) (pa : Nat) : StoreFrame s (shareLine s b pa) := by
  unfold shareLine
  split <;> exact ⟨rfl⟩

theorem storeBytes_frame (s : State) (pa : Nat) (bs : List (Option Byte)) : StoreFrame s (storeBytes s pa bs) := by
  induction bs generalizing s pa with
  | nil => exact .refl s
  | cons b bs ih =>
    refine .trans ?_ (ih _ _)
    cases b with
    | none => exact .refl s
    | some b =>
      dsimp only
      split <;> exact ⟨rfl⟩

/-- One line that the hub holds, and one byte that it stores. -/
theorem holdLine_frame (s : State) (ctx a : Nat) : StoreFrame s (match walk s ctx a with
    | some (base, leaf) => shareLine s (leafShared leaf) (pteFrame leaf + (a - base))
    | none => s) := by
  split
  exacts [shareLine_frame .., .refl s]

theorem storeByte_frame (s : State) (ctx va : Nat) (b : Byte) : StoreFrame s (match hubPa s ctx (.store false) va with
    | some pa => storeBytes s pa [some b]
    | none => s) := by
  split
  exacts [storeBytes_frame .., .refl s]

theorem hubHolds_frame (s : State) (ctx va n : Nat) : StoreFrame s (hubHolds s ctx va n) :=
  .foldl (fun s _ => holdLine_frame s ctx _) _ s

theorem hubStore_frame (s : State) (ctx va n v : Nat) : StoreFrame s (hubStore s ctx va n v) :=
  (hubHolds_frame s ctx va n).trans (.foldl (fun s _ => storeByte_frame s ctx _ _) _ _)

theorem hubStore_hubFrame (s : State) (ctx va n v : Nat) : HubFrame s (hubStore s ctx va n v) := (hubStore_frame ..).hub

theorem unmapQueue_hubFrame (s : State) (q : Nat) : HubFrame s (unmapQueue s q) := by
  unfold unmapQueue
  split
  · exact .refl s
  · exact ((hubStore_hubFrame ..).trans (hubStore_hubFrame ..)).trans ⟨rfl⟩

theorem mapQueue_hubFrame (s : State) (q : Nat) : HubFrame s (mapQueue s q) := by
  unfold mapQueue
  split
  · exact ⟨rfl⟩
  split
  · exact .refl s
  · exact (unmapQueue_hubFrame ..).trans ⟨rfl⟩

theorem writeStat_hubFrame (s : State) (q status index : Nat) : HubFrame s (writeStat s q status index) := by
  unfold writeStat
  split
  · exact .refl s
  · exact HubFrame.trans ⟨rfl⟩ (hubStore_hubFrame ..)

theorem checkOverrun_hubFrame (s : State) (q : Nat) : HubFrame s (checkOverrun s q) := by
  unfold checkOverrun
  split
  · exact .refl s
  split
  · exact .refl s
  dsimp only
  split
  · exact HubFrame.trans ⟨rfl⟩ (writeStat_hubFrame ..)
  · exact ⟨rfl⟩

/-- A queue begins to wait where its tail had not run past its head before (21 R276). -/
def bellSince (s : State) (q : Nat) (r : Queue) (old : Nat) : State :=
  if old ≤ r.head.toNat then { s.modQueue q (fun r => { r with since := s.fresh }) with fresh := s.fresh + 1 } else s

/-- A queue that waits is mapped where no other waits before it. -/
def bellMapped (s : State) (q : Nat) (r : Queue) : State :=
  if r.slot.isSome || (nextUnmapped s).any (fun k => k != q) then s else mapQueue s q

theorem bellSince_hubFrame (s : State) (q : Nat) (r : Queue) (old : Nat) : HubFrame s (bellSince s q r old) := by
  unfold bellSince
  split <;> exact ⟨rfl⟩

theorem bellMapped_hubFrame (s : State) (q : Nat) (r : Queue) : HubFrame s (bellMapped s q r) := by
  unfold bellMapped
  split
  · exact .refl s
  · exact mapQueue_hubFrame ..

/-- The tail of a doorbell word after a store. -/
def bellRung (s : State) (word value : Nat) : State :=
  { s with bells := s.bells.set word (BitVec.ofNat 64 (max ((s.bells.get? word).getD 0).toNat value)) }

theorem ringBell_eq (s : State) (pa value : Nat) : ringBell s pa value =
    match queueOfBell s (pa / 8 * 8) with
    | none => s
    | some (q, r) => if !r.waits (bellRung s (pa / 8 * 8) value) then bellRung s (pa / 8 * 8) value
        else checkOverrun (bellMapped (bellSince (bellRung s (pa / 8 * 8) value) q r
          ((s.bells.get? (pa / 8 * 8)).getD 0).toNat) q r) q := rfl

/-- A doorbell store of a word that a record is bound to raises its tail. -/
theorem ringBell_hubFrame {pa value : Nat} {p : Nat × Queue} (h : queueOfBell s (pa / 8 * 8) = some p) :
    HubFrame (bellRung s (pa / 8 * 8) value) (ringBell s pa value) := by
  rw [ringBell_eq, h]
  dsimp only
  split
  · exact .refl _
  · exact ((bellSince_hubFrame ..).trans (bellMapped_hubFrame ..)).trans (checkOverrun_hubFrame ..)
end

/-! ### What they see -/

/-- The machine with other contexts and grids. -/
def State.under (s : State) (C : SMap Context) (G : SMap Grid) : State := { s with ctxs := C, grids := G }

/-- Contexts whose descriptors are those of `s`. -/
def DescsOf (C : SMap Context) (s : State) : Prop := ∀ n, (C.get? n).map Context.desc = s.desc? n

section
variable {s t : State} {C : SMap Context} {G : SMap Grid}

theorem DescsOf.of_frame (h : DescsOf C s) (hf : HubFrame s t) : DescsOf C t := fun n => by
  simpa [State.desc?, State.ctx?, hf.ctxs] using h n

theorem hubPa_under (h : DescsOf C s) (ctx : Nat) (need : Need) (va : Nat) :
    hubPa (s.under C G) ctx need va = hubPa s ctx need va := by
  have hdesc : (s.under C G).desc? ctx = s.desc? ctx := h ctx
  unfold hubPa checkDirect walk
  rw [hdesc]
  rfl

theorem walk_under (h : DescsOf C s) (ctx va : Nat) : walk (s.under C G) ctx va = walk s ctx va := by
  have hdesc : (s.under C G).desc? ctx = s.desc? ctx := h ctx
  unfold walk
  rw [hdesc]
  rfl

/-- Steps that see nothing of contexts but their descriptors, and nothing of grids, do the same one after another. -/
theorem foldl_under {α : Type} {f : State → α → State} (hframe : ∀ s x, StoreFrame s (f s x))
    (hf : ∀ s x, DescsOf C s → f (s.under C G) x = (f s x).under C G) (l : List α) (h : DescsOf C s) :
    l.foldl f (s.under C G) = (l.foldl f s).under C G := by
  induction l generalizing s with
  | nil => rfl
  | cons x l ih =>
    rw [List.foldl_cons, hf s x h, ih (h.of_frame (hframe s x).hub)]
    rfl

theorem shareLine_under (b : Bool) (pa : Nat) : shareLine (s.under C G) b pa = (shareLine s b pa).under C G := by
  unfold shareLine
  rw [apply_ite (fun t : State => t.under C G)]
  rfl

theorem storeBytes_under (pa : Nat) (bs : List (Option Byte)) :
    storeBytes (s.under C G) pa bs = (storeBytes s pa bs).under C G := by
  induction bs generalizing s pa with
  | nil => rfl
  | cons b bs ih =>
    cases b with
    | none => exact ih (pa + 1)
    | some b =>
      have hstep : (if (lockServes (s.under C G) pa).isSome then s.under C G
          else { s.under C G with mem := writeByte (s.under C G).mem pa b }) =
          (if (lockServes s pa).isSome then s else { s with mem := writeByte s.mem pa b }).under C G := by
        rw [apply_ite (fun t : State => t.under C G)]
        rfl
      show storeBytes (if _ then _ else _) (pa + 1) bs = _
      rw [hstep]
      exact ih (pa + 1)

theorem hubHolds_under (h : DescsOf C s) (ctx va n : Nat) : hubHolds (s.under C G) ctx va n = (hubHolds s ctx va n).under C G := by
  refine foldl_under (fun s _ => holdLine_frame s ctx _) (fun s i hs => ?_) _ h
  rw [walk_under hs]
  split
  exacts [shareLine_under .., rfl]

theorem hubStore_under (h : DescsOf C s) (ctx va n v : Nat) :
    hubStore (s.under C G) ctx va n v = (hubStore s ctx va n v).under C G := by
  unfold hubStore
  rw [hubHolds_under h]
  refine foldl_under (fun s _ => storeByte_frame s ctx _ _) (fun s i hs => ?_) _ (h.of_frame (hubHolds_frame ..).hub)
  rw [hubPa_under hs]
  split
  exacts [storeBytes_under .., rfl]

theorem tail_under (r : Queue) : r.tail (s.under C G) = r.tail s := rfl

theorem modQueue_under (q : Nat) (f : Queue → Queue) : (s.under C G).modQueue q f = (s.modQueue q f).under C G := rfl

theorem unmapQueue_under (h : DescsOf C s) (q : Nat) : unmapQueue (s.under C G) q = (unmapQueue s q).under C G := by
  unfold unmapQueue
  show (match s.queues.get? q with | none => _ | some r => _) = _
  cases s.queues.get? q with
  | none => rfl
  | some r =>
    dsimp only
    rw [hubStore_under h, tail_under, hubStore_under (h.of_frame (hubStore_hubFrame ..)), modQueue_under]

theorem mapQueue_under (h : DescsOf C s) (q : Nat) : mapQueue (s.under C G) q = (mapQueue s q).under C G := by
  unfold mapQueue
  show (match freeSlot s with | some i => _ | none => match idleVictim s with | none => _ | some (v, r) => _) = _
  cases freeSlot s with
  | some i => rfl
  | none =>
    cases idleVictim s with
    | none => rfl
    | some p =>
      dsimp only
      rw [unmapQueue_under h]
      rfl

theorem writeStat_under (h : DescsOf C s) (q status index : Nat) :
    writeStat (s.under C G) q status index = (writeStat s q status index).under C G := by
  unfold writeStat
  show (match s.queues.get? q with | none => _ | some r => _) = _
  cases s.queues.get? q with
  | none => rfl
  | some r => exact hubStore_under (s := s.modQueue q _) h ..

theorem checkOverrun_under (h : DescsOf C s) (q : Nat) : checkOverrun (s.under C G) q = (checkOverrun s q).under C G := by
  unfold checkOverrun
  show (match s.queues.get? q with | none => _ | some r => _) = _
  cases s.queues.get? q with
  | none => rfl
  | some r =>
    dsimp only
    rw [apply_ite (fun t : State => t.under C G), apply_ite (fun t : State => t.under C G),
      ← writeStat_under (s := s.modQueue q fun r => { r with stopped := true }) h]
    rfl

theorem bellSince_under (q : Nat) (r : Queue) (old : Nat) : bellSince (s.under C G) q r old = (bellSince s q r old).under C G := by
  unfold bellSince
  rw [apply_ite (fun t : State => t.under C G)]
  rfl

theorem bellMapped_under (h : DescsOf C s) (q : Nat) (r : Queue) : bellMapped (s.under C G) q r = (bellMapped s q r).under C G := by
  unfold bellMapped
  rw [apply_ite (fun t : State => t.under C G), ← mapQueue_under h]
  rfl

/-- A doorbell store sees nothing of contexts but their descriptors, and nothing of grids. -/
theorem ringBell_under (h : DescsOf C s) (pa value : Nat) : ringBell (s.under C G) pa value = (ringBell s pa value).under C G := by
  rw [ringBell_eq, ringBell_eq]
  show (match queueOfBell s (pa / 8 * 8) with | none => _ | some (q, r) => _) = _
  cases queueOfBell s (pa / 8 * 8) with
  | none => rfl
  | some p =>
    dsimp only
    have hrung : DescsOf C (bellRung s (pa / 8 * 8) value) := h
    have hmapped := (hrung.of_frame (bellSince_hubFrame _ p.1 p.2 ((s.bells.get? (pa / 8 * 8)).getD 0).toNat))
    rw [apply_ite (fun t : State => t.under C G), ← checkOverrun_under (hmapped.of_frame (bellMapped_hubFrame ..)),
      ← bellMapped_under hmapped, ← bellSince_under]
    rfl
end

/-! ### The submission -/

section
variable {s : State} {m : Me}

/-- The hub's hold of lines changes nothing that an address is translated by. -/
theorem hubPa_hubHolds (ctx va n ctx' : Nat) (need : Need) (x : Nat) :
    hubPa (hubHolds s ctx va n) ctx' need x = hubPa s ctx' need x := by
  have hmem := hubHolds_mem s ctx va n
  unfold hubPa checkDirect walk
  rw [(hubHolds_frame s ctx va n).rest, hmem]
  rfl

/-- Nothing is submitted: the context has no queue that takes a launch, its ring is full, or the entry may not be written. -/
theorem submitLaunch_refused {va : Nat} {bs : List Byte} (h : ∀ q r, deviceQueue s m.ctx = some (q, r) →
    (r.tail s).toNat - r.head.toNat = 2 ^ r.rlog ∨
      hubPa s m.ctx (.store false) (r.rbase + 256 * ((r.tail s).toNat % 2 ^ r.rlog)) = none) :
    submitLaunch s m va bs = (s, 1) := by
  unfold submitLaunch
  split
  · rfl
  · rename_i q r hq
    exact if_pos (by rcases h q r hq with h | h <;> simp [h])

/-- The record of a submission as it is written to its entry: DEPTH in byte 47 is one more than SELF's. -/
def Me.submitted (m : Me) (bs : List Byte) : List Byte := bs.take 47 ++ [BitVec.ofNat 8 (m.blk.depth + 1)] ++ bs.drop 48

/-- What a submission leaves: the entry and the doorbell, and a child more of the strand's grid. -/
structure Submitted (s : State) (m : Me) (r : Queue) (bs : List Byte) (t : State) : Prop where
  memory : t.mem = (ringBell (hubStore s m.ctx (r.rbase + 256 * ((r.tail s).toNat % 2 ^ r.rlog)) 256 (leNat (m.submitted bs)))
    r.door ((r.tail s).toNat + 1)).mem
  tail : r.door % 8 = 0 → t.bells.get? r.door = some (BitVec.ofNat 64 ((r.tail s).toNat + 1))
  children : ∀ g, s.grids.get? m.blk.grid = some g → (t.grids.get? m.blk.grid).map Grid.children = some (g.children + 1)

theorem record_bells (s : State) (u ty ctx slot ord : Nat) (pay : Word) : (record s u ty ctx slot ord pay).bells = s.bells := by
  rw [record_eq]

theorem record_grids (s : State) (u ty ctx slot ord : Nat) (pay : Word) : (record s u ty ctx slot ord pay).grids = s.grids := by
  rw [record_eq]

/-- A word that a record is bound to has the greater of its tail and the value stored. -/
theorem ringBell_bells {q : Nat} {r : Queue} (hq : (q, r) ∈ s.queues) (hd : r.door % 8 = 0) (value : Nat) :
    (ringBell s r.door value).bells.get? r.door = some (BitVec.ofNat 64 (max (r.tail s).toNat value)) := by
  have hword : r.door / 8 * 8 = r.door := by omega
  have hbound : ∃ p, queueOfBell s (r.door / 8 * 8) = some p :=
    Option.isSome_iff_exists.mp (List.find?_isSome.mpr ⟨_, hq, by simp [hword]⟩)
  obtain ⟨p, hp⟩ := hbound
  rw [(ringBell_hubFrame hp).bells, hword]
  exact SMap.get?_set_self ..

/-- What follows the store of the record `bs` to the entry of `tail`: the submission, the child, the doorbell and the record event. -/
def Me.launched (m : Me) (t : State) (r : Queue) (tail va : Nat) (bs : List Byte) : State :=
  record (ringBell ((t.modCtx m.ctx fun x => { x with subs := x.subs.set tail (m.blk.grid, fieldAt bs 24 8) }).modGrid m.blk.grid
    fun g => { g with children := g.children + 1 }) r.door (tail + 1)) m.c 0x0A m.ctx m.k m.blk.index
    (payload [(49, va / 256), (1, 0), (8, 0), (4, m.blk.depth + 1), (2, 3)])

theorem submitLaunch_eq_launched {va : Nat} {bs : List Byte} {q : Nat} {r : Queue} (hq : deviceQueue s m.ctx = some (q, r))
    (hroom : (r.tail s).toNat - r.head.toNat ≠ 2 ^ r.rlog)
    (hentry : hubPa s m.ctx (.store false) (r.rbase + 256 * ((r.tail s).toNat % 2 ^ r.rlog)) ≠ none) :
    submitLaunch s m va bs = (m.launched (hubStore s m.ctx (r.rbase + 256 * ((r.tail s).toNat % 2 ^ r.rlog)) 256
      (leNat (m.submitted bs))) r (r.tail s).toNat va (m.submitted bs), 0) := by
  have hchecks : ¬((r.tail s).toNat - r.head.toNat == 2 ^ r.rlog ||
      (hubPa s m.ctx (.store false) (r.rbase + 256 * ((r.tail s).toNat % 2 ^ r.rlog))).isNone) = true := by
    simp [hroom, hentry]
  unfold submitLaunch Me.launched Me.submitted
  rw [hq]
  dsimp only
  rw [if_neg hchecks]

/-- The submission stands in the context, and the child in the grid, before the doorbell, which sees neither. -/
theorem launched_eq (t : State) (r : Queue) (tail va : Nat) (bs : List Byte) :
    m.launched t r tail va bs = record ((ringBell t r.door (tail + 1)).under
      (t.ctxs.modify m.ctx fun x => { x with subs := x.subs.set tail (m.blk.grid, fieldAt bs 24 8) })
      (t.grids.modify m.blk.grid fun g => { g with children := g.children + 1 })) m.c 0x0A m.ctx m.k m.blk.index
      (payload [(49, va / 256), (1, 0), (8, 0), (4, m.blk.depth + 1), (2, 3)]) := by
  have hdescs : DescsOf (t.ctxs.modify m.ctx fun x => { x with subs := x.subs.set tail (m.blk.grid, fieldAt bs 24 8) }) t := by
    intro n
    rw [SMap.get?_modify]
    split
    · rename_i h
      subst h
      exact Option.map_map ..
    · rfl
  rw [← ringBell_under hdescs]
  rfl

theorem launched_mem (t : State) (r : Queue) (tail va : Nat) (bs : List Byte) :
    (m.launched t r tail va bs).mem = (ringBell t r.door (tail + 1)).mem := by
  rw [launched_eq, record_mem]
  rfl

theorem launched_bells (t : State) (r : Queue) (tail va : Nat) (bs : List Byte) :
    (m.launched t r tail va bs).bells = (ringBell t r.door (tail + 1)).bells := by
  rw [launched_eq, record_bells]
  rfl

theorem launched_grids (t : State) (r : Queue) (tail va : Nat) (bs : List Byte) :
    (m.launched t r tail va bs).grids = t.grids.modify m.blk.grid fun g => { g with children := g.children + 1 } := by
  rw [launched_eq, record_grids]
  rfl

theorem launched_tail {t : State} (hf : StoreFrame s t) {q : Nat} {r : Queue} (hr : (q, r) ∈ s.queues) (hd : r.door % 8 = 0)
    (va : Nat) (bs : List Byte) : (m.launched t r (r.tail s).toNat va bs).bells.get? r.door =
      some (BitVec.ofNat 64 ((r.tail s).toNat + 1)) := by
  have hmem : (q, r) ∈ t.queues := by rwa [hf.queues]
  have htail : r.tail t = r.tail s := by rw [Queue.tail, hf.bells, Queue.tail]
  rw [launched_bells, ringBell_bells hmem hd, htail, Nat.max_eq_right (Nat.le_succ _)]

theorem submitLaunch_accepted {va : Nat} {bs : List Byte} {q : Nat} {r : Queue} (hq : deviceQueue s m.ctx = some (q, r))
    (hroom : (r.tail s).toNat - r.head.toNat ≠ 2 ^ r.rlog)
    (hentry : hubPa s m.ctx (.store false) (r.rbase + 256 * ((r.tail s).toNat % 2 ^ r.rlog)) ≠ none) :
    (submitLaunch s m va bs).2 = 0 ∧ Submitted s m r bs (submitLaunch s m va bs).1 := by
  have hstored : StoreFrame s (hubStore s m.ctx (r.rbase + 256 * ((r.tail s).toNat % 2 ^ r.rlog)) 256 (leNat (m.submitted bs))) :=
    hubStore_frame ..
  rw [submitLaunch_eq_launched hq hroom hentry]
  refine ⟨rfl, launched_mem .., fun hd => launched_tail hstored (List.mem_of_find?_eq_some hq) hd .., fun g hg => ?_⟩
  rw [launched_grids, hstored.grids, SMap.get?_modify, if_pos rfl, hg]
  rfl

/-- The answer is 0 or 1. -/
theorem submitLaunch_answer (va : Nat) (bs : List Byte) : (submitLaunch s m va bs).2 = 0 ∨ (submitLaunch s m va bs).2 = 1 := by
  by_cases h : ∀ q r, deviceQueue s m.ctx = some (q, r) → (r.tail s).toNat - r.head.toNat = 2 ^ r.rlog ∨
      hubPa s m.ctx (.store false) (r.rbase + 256 * ((r.tail s).toNat % 2 ^ r.rlog)) = none
  · exact .inr (by rw [submitLaunch_refused h])
  · push Not at h
    obtain ⟨q, r, hq, hroom, hentry⟩ := h
    exact .inl (submitLaunch_accepted hq hroom hentry).1

/-- The hub's hold of lines leaves the queue that takes a launch. -/
theorem deviceQueue_hubHolds (ctx va n ctx' : Nat) :
    deviceQueue (hubHolds s ctx va n) ctx' = s.queues.find? fun p => p.2.ctx == ctx' && p.2.dev := by
  rw [deviceQueue, (hubHolds_frame ..).queues]

theorem tail_hubHolds (r : Queue) (ctx va n : Nat) : r.tail (hubHolds s ctx va n) = (s.bells.get? r.door).getD 0 := by
  rw [Queue.tail, (hubHolds_frame ..).bells]

/-- `launch` of a record that may be read, with its ports ready and nothing of the strand outstanding. -/
theorem launch_submits {o : SOps} {pa leaf : Nat} (hr : Ready s m { sUses o true true false false with ord := true })
    (halign : (m.st.regs.get o.sa).toNat % 256 = 0) (hpa : checkDirect s m.ctx .load (m.st.regs.get o.sa).toNat = .ok pa leaf)
    (hlow : poisonedAt s pa = false) (hhigh : poisonedAt s (pa + 128) = false)
    (hports : launchPorts s m (m.st.regs.get o.sa).toNat = true) (hdepth : m.blk.depth < 10) (hquiet : m.quiet s = true)
    (howed : owed s m.c m.k m.st.block none pa 256 = false) :
    let x := submitLaunch (hubHolds s m.ctx (m.st.regs.get o.sa).toNat 256) m (m.st.regs.get o.sa).toNat (seenBytes s pa 256)
    exec (.launchI o) s = .next (completed m false o.hdr.stop (successor m.st.pc)
      (lateScalar x.1 m o.sd (some (BitVec.ofNat 64 x.2)))) := by
  have hnest : ¬10 < m.blk.depth + 1 := by omega
  rw [exec_launchI, execLaunchI]
  refine issue_done hr ?_
  simp only [halign, hpa, hports, hlow, hhigh, hnest, hquiet, howed, bne_self_eq_false, Bool.not_true, Bool.or_self,
    Bool.false_eq_true, if_false]
end

/-- Settles O12: `launch` past its checks is `submitLaunch`, which is refused or writes the entry and rings its doorbell. -/
theorem launchSubmits : Obligations.LaunchSubmits := by
  unfold Obligations.LaunchSubmits
  intro s m o pa leaf hr
  refine ⟨fun halign hpa hlow hhigh hports hdepth hquiet howed => ⟨launch_submits hr halign hpa hlow hhigh hports hdepth hquiet howed,
    submitLaunch_answer .., fun hnone => ?_, fun q r hq => ⟨fun h => ?_, fun hroom hentry => ?_⟩⟩, fun halign => ?_⟩
  · refine submitLaunch_refused fun q r hq => ?_
    rw [deviceQueue_hubHolds] at hq
    have hqueue := List.find?_some hq
    have hdev := hnone _ (List.mem_of_find?_eq_some hq)
    simp_all
  · refine submitLaunch_refused fun q' r' hq' => ?_
    obtain ⟨rfl, rfl⟩ : q = q' ∧ r = r' := by simpa [deviceQueue_hubHolds, hq] using hq'
    rwa [tail_hubHolds, hubPa_hubHolds]
  · rw [← tail_hubHolds r m.ctx (m.st.regs.get o.sa).toNat 256] at hroom hentry ⊢
    rw [← hubPa_hubHolds m.ctx (m.st.regs.get o.sa).toNat 256] at hentry
    obtain ⟨hanswer, hsubmitted⟩ := submitLaunch_accepted (va := (m.st.regs.get o.sa).toNat) (bs := seenBytes s pa 256)
      ((deviceQueue_hubHolds ..).trans hq) hroom hentry
    obtain ⟨hmemory, htail, hchildren⟩ := hsubmitted
    exact ⟨hanswer, hmemory, htail, fun g hg => hchildren g (by rwa [(hubHolds_frame ..).grids])⟩
  · rw [exec_launchI, execLaunchI]
    exact issue_trapped hr rfl (if_pos (by simpa using halign))

end Sys2Proof.Machine
end

section
/-!
PROOFS. The set instructions (07 R69, R103, R104): what a level pushed, popped or replaced leaves of the stack.
-/
namespace Sys2Proof.Machine

section
variable {s : State} {m : Me} {o : QOps} {op n : Nat}

/-- An instruction with a `bo` point that is ready and done is completed, and took its opportunity (15 R233). -/
theorem issue_doneBo {stop : Bool} {u : Uses} {k : Me → Eff} {s' : State} (hr : Ready s m u) (hbo : u.bo = true)
    (hk : k m = .done s') : issue s op stop u k = .next (completed m true stop (successor m.st.pc) s') :=
  hbo ▸ issue_done hr hk

/-! ### Effects on the stack -/

theorem popEff_done (h : n ≤ (m.stack s).depth) :
    popEff m s o op n = .done (m.restack s o { m.stack s with levels := (m.stack s).levels.drop n }) :=
  if_neg (Nat.not_lt.mpr h)

theorem popEff_underflow (h : (m.stack s).depth < n) : popEff m s o op n = setUnderflow s op := if_pos h

/-! ### What each instruction does -/

/-- `else` leaves the unparked threads of the level below that TOP lacks, and the parked threads of TOP (R104). -/
theorem exec_elseSet_of (hr : Ready s m (belowUses o)) :
    ((m.stack s).depth ≠ 0 → exec (.elseSet o) s = .next (completed m true o.hdr.stop (successor m.st.pc) (m.restack s o
      ((m.stack s).replaceTop ((m.unparked (m.stack s).parent &&& ~~~(m.stack s).top) ||| m.kept (m.stack s).top))))) ∧
    ((m.stack s).depth = 0 → exec (.elseSet o) s = .next (trappedBo s m causeSetUnf (opInfo 0x66) 0x66)) := by
  rw [exec_elseSet, execElseSet]
  exact ⟨fun h => issue_done hr (if_neg (by simp [h])), fun h => issue_trappedBo hr rfl (if_pos (by simp [h]))⟩

/-- `fold` drops the level below TOP (R104). -/
theorem exec_fold_of (hr : Ready s m (setUses o)) :
    (2 ≤ (m.stack s).depth → exec (.fold o) s = .next (completed m true o.hdr.stop (successor m.st.pc)
      (m.restack s o { m.stack s with levels := (m.stack s).top :: (m.stack s).levels.drop 2 }))) ∧
    ((m.stack s).depth < 2 → exec (.fold o) s = .next (trappedBo s m causeSetUnf (opInfo 0x67) 0x67)) := by
  rw [exec_fold, execFold]
  exact ⟨fun h => issue_done hr (if_neg (Nat.not_lt.mpr h)), fun h => issue_trappedBo hr rfl (if_pos h)⟩

/-- `next` removes the lowest unparked member of TOP, and only counts where there is none (R69, R104, log 51). -/
theorem exec_nextSet_of {x : TSet} (hx : firstSet m.blk.n (m.unparked (m.stack s).top) = x) (hr : Ready s m (setUses o)) :
    (x = 0 → exec (.nextSet o) s = .next (completed m true o.hdr.stop (successor m.st.pc) (m.count s o 0))) ∧
    (x ≠ 0 → (m.stack s).depth = 0 → exec (.nextSet o) s = .next (trappedBo s m causeSetUnf (opInfo 0x69) 0x69)) ∧
    (x ≠ 0 → (m.stack s).depth ≠ 0 → exec (.nextSet o) s = .next (completed m true o.hdr.stop (successor m.st.pc)
      (m.restack s o ((m.stack s).replaceTop ((m.stack s).top &&& ~~~x))))) := by
  subst hx
  rw [exec_nextSet, execNextSet]
  exact ⟨fun h => issue_done hr (if_pos h),
    fun h hk => issue_trappedBo hr rfl ((if_neg h).trans (if_pos (by simp [hk]))),
    fun h hk => issue_done hr ((if_neg h).trans (if_neg (by simp [hk])))⟩

/-- An instruction whose effect is a push writes the level, a record where that is empty, or overflows (R103, R336). -/
theorem exec_push_of {i : Instr} {u : Uses} {f : Me → TSet} {x : TSet} (hx : f m = x) (hr : Ready s m u) (hbo : u.bo = true)
    (hi : exec i s = issue s op o.hdr.stop u fun m => m.push s o op (f m)) :
    ((m.stack s).depth ≠ (m.stack s).limit → x ≠ 0 → exec i s = .next (completed m true o.hdr.stop (successor m.st.pc)
      (m.restack s o { m.stack s with levels := x :: (m.stack s).levels }))) ∧
    ((m.stack s).depth ≠ (m.stack s).limit → x = 0 → exec i s = .next (completed m true o.hdr.stop (successor m.st.pc)
      (setEvent m (m.restack s o { m.stack s with levels := 0 :: (m.stack s).levels }) op ((m.stack s).depth + 1) false))) ∧
    ((m.stack s).depth = (m.stack s).limit →
      exec i s = .next (trappedBo (setEvent m s op (m.stack s).depth true) m causeSetOvf (opInfo op) op)) := by
  subst hx
  rw [hi]
  exact ⟨fun hk h => issue_doneBo hr hbo (push_done _ hk h),
    fun hk h => issue_doneBo hr hbo ((congrArg (m.push s o op) h).trans (push_empty hk)),
    fun hk => issue_trappedBo hr hbo (push_full _ hk)⟩

/-- An instruction whose effect is a pop removes levels that lie above the base level, or underflows (R103, R104). -/
theorem exec_pop_of {i : Instr} {u : Uses} (hr : Ready s m u) (hbo : u.bo = true)
    (hi : exec i s = issue s op o.hdr.stop u fun m => popEff m s o op n) :
    (n ≤ (m.stack s).depth → exec i s = .next (completed m true o.hdr.stop (successor m.st.pc)
      (m.restack s o { m.stack s with levels := (m.stack s).levels.drop n }))) ∧
    ((m.stack s).depth < n → exec i s = .next (trappedBo s m causeSetUnf (opInfo op) op)) := by
  rw [hi]
  exact ⟨fun h => issue_doneBo hr hbo (popEff_done h), fun h => issue_trappedBo hr hbo (popEff_underflow h)⟩
end

/-- Settles O17: two of the instructions push, two pop, and `else`, `fold` and `next` replace TOP or underflow. `next` removes
the lowest unparked member of TOP (R69, log 51). -/
theorem setResults : Obligations.SetResults := by
  unfold Obligations.SetResults
  intro s m o
  refine ⟨fun hr => exec_elseSet_of hr, fun hr => ?_⟩
  obtain ⟨hall, hallEmpty, hallFull⟩ := exec_push_of (f := fun m => (m.stack s).top) rfl hr rfl (exec_pushAll o s)
  obtain ⟨hfirst, hfirstEmpty, hfirstFull⟩ :=
    exec_push_of (f := fun m => firstSet m.blk.n (m.unparked (m.stack s).top)) rfl hr rfl (exec_firstSet o s)
  obtain ⟨hpop, hpopUnder⟩ := exec_pop_of hr rfl (exec_pop o s)
  obtain ⟨hpopn, hpopnUnder⟩ := exec_pop_of hr rfl (exec_popn o s)
  obtain ⟨hfold, hfoldUnder⟩ := exec_fold_of hr
  obtain ⟨hnextEmpty, hnextUnder, hnext⟩ := exec_nextSet_of rfl hr
  exact ⟨hallEmpty, hfirstEmpty, fun hk => ⟨hallFull hk, hfirstFull hk⟩, hnextUnder, hall,
    fun hk => hpop (Nat.one_le_iff_ne_zero.mpr hk), fun hk => hpopUnder (Nat.lt_one_iff.mpr hk), hpopn, hpopnUnder, hfold,
    hfoldUnder, hfirst, hnextEmpty, hnext⟩

end Sys2Proof.Machine
end

section
/-!
PROOFS. Keys, group counts and maps of a set (07 R105-R108): the checks of a scratchpad address, and what lies behind them.
-/
namespace Sys2Proof.Machine

/-! ### The checks of an address -/

section
variable {s : State} {m : Me} {a n align : Nat} {reads : Bool} {k : Unit → Eff}

/-- An access at once to a range that nothing holds back takes place. -/
theorem scratchGate_free (h : RangeFree s m reads a n) : scratchGate s m a n reads k = k () := by
  obtain ⟨⟨hbusy, hpoison⟩, hsent, hfenced⟩ := h
  have hclean : (if reads then scratchPoison s m.c m.st.block a n else none) = none := by
    split
    · exact hpoison ‹_›
    · rfl
  simp [scratchGate, hbusy, hsent, hfenced, hclean]

theorem mapGate_misaligned (h : a % align ≠ 0) : mapGate m s a n align reads k = .trap causeMisalign (addrInfo 0 a) s := by
  simp [mapGate, h]

theorem mapGate_outside (h : a % align = 0) (hout : m.blk.scratchLen < a + n) :
    mapGate m s a n align reads k = .trap causeAccess (addrInfo 0 a) s := by
  simp [mapGate, h, Block.holds, hout]

theorem mapGate_free (h : a % align = 0) (hin : a + n ≤ m.blk.scratchLen) (hfree : RangeFree s m reads a n) :
    mapGate m s a n align reads k = k () := by
  simp [mapGate, h, Block.holds, hin, scratchGate_free hfree]

/-- An instruction whose effect is behind the checks of a scratchpad address traps where they fail, with thread 0 and the address
in TINFO, and has its effect where they pass and nothing holds the range back. -/
theorem exec_mapGate_of {i : Instr} {u : Uses} {op : Nat} {stop : Bool} {e : Me → Eff} (hr : Ready s m u) (hbo : u.bo = true)
    (hi : exec i s = issue s op stop u e) (he : e m = mapGate m s a n align reads k) :
    ((a % align ≠ 0 → exec i s = .next (trappedBo s m causeMisalign (addrInfo 0 a) op)) ∧
      (a % align = 0 → m.blk.scratchLen < a + n → exec i s = .next (trappedBo s m causeAccess (addrInfo 0 a) op))) ∧
    (a % align = 0 ∧ a + n ≤ m.blk.scratchLen ∧ RangeFree s m reads a n → ∀ s', k () = .done s' →
      exec i s = .next (completed m true stop (successor m.st.pc) s')) := by
  rw [hi]
  exact ⟨⟨fun h => issue_trappedBo hr hbo (he.trans (mapGate_misaligned h)),
    fun h hout => issue_trappedBo hr hbo (he.trans (mapGate_outside h hout))⟩,
    fun ⟨h, hin, hfree⟩ s' hk => issue_doneBo hr hbo ((he.trans (mapGate_free h hin hfree)).trans hk)⟩
end

/-! ### `wrset` -/

section
variable {s : State} {m : Me} {o : QOps}

/-- TOP after `wrset` (R107): the level below as far as the map at `a` has it, and the parked threads of TOP. -/
def wrsetTop (s : State) (m : Me) (a : Nat) : TSet :=
  (m.unparked (m.stack s).parent &&& BitVec.ofNat 4096 (readNat m.blk.scratch a 512)) ||| m.kept (m.stack s).top

/-- `wrset` past its checks, with the record of an empty level (R336). -/
def wrsetEff (s : State) (m : Me) (o : QOps) (a : Nat) : Eff :=
  let t := m.restack s o ((m.stack s).replaceTop (wrsetTop s m a))
  .done (if wrsetTop s m a = 0 then setEvent m t 0x6C (m.stack s).depth false else t)

theorem execWrset_eq (o : QOps) (s : State) :
    execWrset o s = issue s 0x6C o.hdr.stop { belowUses o with src := [(o.sc, o.hdr.wfb)] } fun m =>
      if (m.stack s).depth == 0 then setUnderflow s 0x6C
      else mapGate m s (mapAddr o m.st.regs) 512 8 true fun _ => wrsetEff s m o (mapAddr o m.st.regs) := rfl

theorem wrsetEff_of_ne {a : Nat} (h : wrsetTop s m a ≠ 0) :
    wrsetEff s m o a = .done (m.restack s o ((m.stack s).replaceTop (wrsetTop s m a))) :=
  congrArg Eff.done (if_neg h)

theorem wrsetEff_of_eq {a : Nat} (h : wrsetTop s m a = 0) :
    wrsetEff s m o a = .done (setEvent m (m.restack s o ((m.stack s).replaceTop 0)) 0x6C (m.stack s).depth false) := by
  simp [wrsetEff, h]
end

/-- Settles O19: `mark` has one effect, the others have theirs behind the checks of an address, `wrset` above the base level. -/
theorem keyAndMapResults : Obligations.KeyAndMapResults := by
  unfold Obligations.KeyAndMapResults
  intro s m o
  refine ⟨fun hr => issue_done hr rfl, fun hr => ?_, fun hr => ?_, fun hr => ⟨fun hk => ?_, fun hk => ?_, fun hk hin => ?_⟩⟩
  · obtain ⟨hbad, hdone⟩ := exec_mapGate_of hr rfl (exec_gcnt o s) rfl
    exact ⟨hbad, fun hin => hdone hin _ rfl⟩
  · obtain ⟨hbad, hdone⟩ := exec_mapGate_of hr rfl (exec_rdset o s) rfl
    exact ⟨hbad, fun hin => hdone hin _ rfl⟩
  · rw [exec_wrset, execWrset_eq]
    exact issue_trappedBo hr rfl (if_pos (by simp [hk]))
  · exact (exec_mapGate_of hr rfl ((exec_wrset o s).trans (execWrset_eq o s)) (if_neg (by simp [hk]))).1
  · have hdone := (exec_mapGate_of hr rfl ((exec_wrset o s).trans (execWrset_eq o s)) (if_neg (by simp [hk]))).2 hin
    exact ⟨fun h => hdone _ (wrsetEff_of_ne h), fun h => hdone _ (wrsetEff_of_eq h)⟩

end Sys2Proof.Machine
end

section
/-!
PROOFS. What an instruction with a `bo` point leaves that writes its own block (15 R233), and the frame of the lane instructions
(08 R114-R116).
-/
namespace Sys2Proof.Machine

/-! ### What a strand's own writes leave alone -/

/-- Of the machine at most the clusters, the vaults and the poison have changed, of the clusters the strand's own, and of that the
strand, its block, and which slots came last. -/
structure OwnFrame (s t : State) (m : Me) : Prop where
  machine : t = { s with clusters := t.clusters, vaults := t.vaults, poison := t.poison }
  clusters : ∀ d, d ≠ m.c → t.clusters.get? d = s.clusters.get? d
  strands : ∀ j, j ≠ m.k → t.strand? m.c j = s.strand? m.c j
  blocks : ∀ b, b ≠ m.st.block → t.block? m.c b = s.block? m.c b
  cluster : t.cluster m.c = { s.cluster m.c with
    strands := (t.cluster m.c).strands, blocks := (t.cluster m.c).blocks
    lastSlot := (t.cluster m.c).lastSlot, turn := (t.cluster m.c).turn }

section
variable {s t u : State} {m : Me}

theorem OwnFrame.trans (h : OwnFrame s t m) (h' : OwnFrame t u m) : OwnFrame s u m where
  machine := h'.machine.trans (by rw [h.machine])
  clusters d hd := (h'.clusters d hd).trans (h.clusters d hd)
  strands j hj := (h'.strands j hj).trans (h.strands j hj)
  blocks b hb := (h'.blocks b hb).trans (h.blocks b hb)
  cluster := h'.cluster.trans (by rw [h.cluster])

/-- An update of the vaults and the poison. -/
theorem OwnFrame.of_clusters (h : t = { s with vaults := t.vaults, poison := t.poison }) : OwnFrame s t m := by
  have hc : t.clusters = s.clusters := by rw [h]
  have hcl : t.cluster m.c = s.cluster m.c := by rw [State.cluster, hc, State.cluster]
  exact ⟨by rw [hc]; exact h, fun _ _ => by rw [hc], fun _ _ => by rw [State.strand?, hcl, State.strand?],
    fun _ _ => by rw [State.block?, hcl, State.block?], by rw [hcl]⟩

theorem OwnFrame.refl (s : State) (m : Me) : OwnFrame s s m := .of_clusters rfl

/-- An update of the strand's cluster. -/
theorem OwnFrame.of_cluster {cl : Cluster}
    (hcl : cl = { s.cluster m.c with
      strands := cl.strands, blocks := cl.blocks, lastSlot := cl.lastSlot, turn := cl.turn })
    (hs : ∀ j, j ≠ m.k → cl.strands.get? j = (s.cluster m.c).strands.get? j)
    (hb : ∀ b, b ≠ m.st.block → cl.blocks.get? b = (s.cluster m.c).blocks.get? b) : OwnFrame s (s.setCluster m.c cl) m where
  machine := rfl
  clusters d hd := SMap.get?_set_ne _ _ hd
  strands j hj := by simpa [State.strand?] using hs j hj
  blocks b hb' := by simpa [State.block?] using hb b hb'
  cluster := by simpa using hcl

theorem OwnFrame.setStrand (st : Strand) : OwnFrame s (s.setStrand m.c m.k st) m :=
  .of_cluster rfl (fun _ hj => SMap.get?_set_ne _ _ hj) fun _ _ => rfl

theorem OwnFrame.modStrand (f : Strand → Strand) : OwnFrame s (s.modStrand m.c m.k f) m := by
  unfold State.modStrand
  split
  · exact .refl s m
  · exact .setStrand _

theorem OwnFrame.modBlock (f : Block → Block) : OwnFrame s (s.modBlock m.c m.st.block f) m := by
  unfold State.modBlock
  split
  · exact .refl s m
  · exact .of_cluster rfl (fun _ _ => rfl) fun _ hb => SMap.get?_set_ne _ _ hb

theorem OwnFrame.clearRegPoison (c block win name : Nat) (ts : List Nat) :
    OwnFrame s (clearRegPoison s c block win name ts) m :=
  .of_clusters (by unfold Machine.clearRegPoison; split <;> rfl)

theorem OwnFrame.putV (name : Nat) (vals : List (Nat × W32)) : OwnFrame s (m.putV s name vals) m :=
  (OwnFrame.modBlock _).trans (.clearRegPoison ..)

theorem OwnFrame.noteSite (stop : Bool) : OwnFrame s (noteSite s m stop) m :=
  .of_clusters (by rw [noteSite_eq])

theorem OwnFrame.turn (k : Nat) : OwnFrame s (s.modCluster m.c fun cl => { cl with turn := k }) m :=
  .of_cluster rfl (fun _ _ => rfl) fun _ _ => rfl

theorem OwnFrame.retiredState (stop step : Bool) (next : PC) (st : Strand) :
    OwnFrame s (retiredState s m stop step next st) m :=
  ((OwnFrame.setStrand _).trans (.turn _)).trans (.noteSite stop)

theorem OwnFrame.tookTurn : OwnFrame s (tookTurn s m) m :=
  (OwnFrame.of_cluster (cl := { s.cluster m.c with lastSlot := m.k }) rfl (fun _ _ => rfl) fun _ _ => rfl).trans (.modStrand _)

/-- The strand's slot is then the last that took an opportunity, and whose turn the last was stays. -/
theorem tookTurn_slots (s : State) (m : Me) :
    ((tookTurn s m).cluster m.c).lastSlot = m.k ∧ ((tookTurn s m).cluster m.c).turn = (s.cluster m.c).turn := by
  unfold tookTurn
  rw [State.cluster_modStrand, State.cluster_modCluster]
  exact ⟨rfl, rfl⟩

/-- A strand that does not trap STEP completes an instruction with a `bo` point whose effect it had on its own block: the frame of
the effect is that of the instruction. -/
theorem OwnFrame.completed {stop : Bool} {next : PC} {st : Strand} (h : OwnFrame s t m) (hst : t.strand? m.c m.k = some st)
    (hdbg : st.regs.dbg = m.st.regs.dbg) (hu : Unstepped m stop) : BlockFrame s (completed m true stop next t) m := by
  have hret : Machine.completed m true stop next t = Machine.tookTurn (Machine.retiredState t m stop false next st) m := by
    rw [Machine.completed, retire_unstepped hst (hu.not_step hdbg)]
    rfl
  have hown : OwnFrame s (Machine.completed m true stop next t) m :=
    hret ▸ (h.trans (.retiredState stop false next st)).trans .tookTurn
  obtain ⟨hlast, hturn⟩ := tookTurn_slots (Machine.retiredState t m stop false next st) m
  rw [retiredState_cluster] at hturn
  refine ⟨fun a => by rw [hown.machine], hown.machine, hown.clusters, hown.strands, hown.blocks, ?_⟩
  rw [hown.cluster, hret, hlast, hturn]
end

/-! ### Registers that a write leaves alone -/

theorem winName_lt {name : Nat} (h : name < 512) : winName name < 320 := by
  unfold winName
  split <;> omega

theorem colKey_inj {w w' n n' : Nat} (hn : n < 320) (hn' : n' < 320) (h : colKey w n = colKey w' n') : w = w' ∧ n = n' := by
  unfold colKey at h
  omega

theorem get?_foldl_set_of_not_mem {α : Type} {l : List (Nat × α)} {j : Nat} (m : SMap α) (h : j ∉ l.map Prod.fst) :
    (l.foldl (fun m p => m.set p.1 p.2) m).get? j = m.get? j := by
  induction l generalizing m with
  | nil => rfl
  | cons p l ih =>
    rw [List.map_cons, List.mem_cons, not_or] at h
    obtain ⟨hp, hl⟩ := h
    exact (ih _ hl).trans (SMap.get?_set_ne _ _ hp)

section
variable {b : Block} {w n w' n' j : Nat} {vals : List (Nat × W32)}

/-- A register of another window or name. -/
theorem reg_putReg_of_colKey_ne (h : colKey w' n' ≠ colKey w n) : (b.putReg w n vals).reg w' n' j = b.reg w' n' j := by
  unfold Block.reg Block.putReg
  cases vals.isEmpty <;> simp [SMap.get?_set_ne _ _ h]

/-- The same register in another thread. -/
theorem reg_putReg_of_not_mem (h : j ∉ vals.map Prod.fst) : (b.putReg w n vals).reg w n j = b.reg w n j := by
  have hcol : ((b.putReg w n vals).regs.get? (colKey w n)).bind (fun col => col.get? j) =
      (b.regs.get? (colKey w n)).bind fun col => col.get? j := by
    unfold Block.putReg
    cases vals.isEmpty
    · have hget := get?_foldl_set_of_not_mem ((b.regs.get? (colKey w n)).getD []) h
      cases hk : b.regs.get? (colKey w n) <;> simpa [hk] using hget
    · rfl
  unfold Block.reg
  rw [hcol]
  rfl

/-- A write changes its own name of its own window, in its own threads. -/
theorem reg_putReg_other (hn : n < 320) (hn' : n' < 320) (h : ¬(w' = w ∧ n' = n ∧ j ∈ vals.map Prod.fst)) :
    (b.putReg w n vals).reg w' n' j = b.reg w' n' j := by
  by_cases hk : colKey w' n' = colKey w n
  · obtain ⟨rfl, rfl⟩ := colKey_inj hn' hn hk
    exact reg_putReg_of_not_mem fun hj => h ⟨rfl, rfl, hj⟩
  · exact reg_putReg_of_colKey_ne hk
end

theorem putV_block? {s : State} {m : Me} (hm : me? s = some m) (name : Nat) (vals : List (Nat × W32)) :
    (m.putV s name vals).block? m.c m.st.block = some (m.blk.putReg (windowOf m.st.role name) (winName name) vals) := by
  obtain ⟨-, -, hb, -⟩ := me?_some hm
  simp only [Me.putV, State.block?, State.cluster, clearRegPoison_clusters]
  exact State.block?_modBlock _ _ hb

/-! ### Instructions that write one register in the acting threads -/

section
variable {s : State} {m : Me} {o : VOps}

/-- An instruction that writes VD in the acting threads and retires. -/
def WritesLanes (s : State) (m : Me) (o : VOps) (i : Instr) : Prop :=
  ∃ g : Nat → W32, exec i s = .next (completed m true o.hdr.stop (successor m.st.pc)
    (m.putV s o.vd.toNat ((m.acting s o.all).map fun t => (t, g t))))

theorem writesLanes_of_laneOp {i : Instr} {op : Nat} {a b c : Bool} {f : W32 → W32 → W32 → W32}
    (hi : exec i s = laneOp s op o a b c f) (hr : Ready s m (vUses o true a b c)) : WritesLanes s m o i :=
  ⟨_, exec_laneOp hr hi fun _ => rfl⟩

/-- `vperm` reads A of the thread that B names where that thread acts, and 0 where it does not (08 R127). -/
theorem exec_vperm_done (hr : Ready s m (vUses o true true true false)) :
    exec (.vperm o) s = .next (completed m true o.hdr.stop (successor m.st.pc)
      (m.putV s o.vd.toNat ((m.acting s o.all).map fun t =>
        (t, if (vOpB o m t).toNat ∈ m.acting s o.all then m.v o.va.toNat (vOpB o m t).toNat else 0)))) := by
  rw [exec_vperm, execVperm]
  refine issue_done hr ?_
  simp [Me.acting, mem_members]

/-- What an instruction that writes VD in the acting threads leaves of the machine, of its strand and of its block. -/
theorem WritesLanes.frame {i : Instr} {t : State} (h : WritesLanes s m o i) (hm : me? s = some m) (hu : Unstepped m o.hdr.stop)
    (ht : exec i s = .next t) :
    BlockFrame s t m ∧
    (∃ st, t.strand? m.c m.k = some st ∧ st.pc = successor m.st.pc ∧ st.regs = m.st.regs ∧ st.stack = m.st.stack ∧
      st.parked = m.st.parked) ∧
    ∃ b, t.block? m.c m.st.block = some b ∧ b = { m.blk with regs := b.regs, lostRegs := b.lostRegs } ∧
      ∀ win name j, name < 320 →
        ¬(win = windowOf m.st.role o.vd.toNat ∧ name = winName o.vd.toNat ∧ j ∈ m.acting s o.all) →
        b.reg win name j = m.blk.reg win name j := by
  obtain ⟨g, hg⟩ := h
  obtain rfl := Host.Outcome.next.inj (ht.symm.trans hg)
  obtain ⟨-, hst, -, -⟩ := me?_some hm
  have hput := (putV_strand? s m o.vd.toNat ((m.acting s o.all).map fun t => (t, g t)) m.k).trans hst
  obtain ⟨st, hst', hpc, hregs, hstack, hparked, -, -, -, -, -, hblock⟩ :=
    completed_unstepped (bo := true) (next := successor m.st.pc) hput rfl hu
  refine ⟨(OwnFrame.putV ..).completed hput rfl hu, ⟨st, hst', hpc, hregs, hstack, hparked⟩,
    _, (hblock _).trans (putV_block? hm ..), rfl, fun win name j hname hother => ?_⟩
  exact reg_putReg_other (winName_lt o.vd.isLt) hname (by simpa using hother)
end

/-- Settles O22: each of the instructions writes VD in the acting threads, which leaves the rest alone. -/
theorem laneFrame : Obligations.LaneFrame := by
  unfold Obligations.LaneFrame
  intro s t m o ab a abc p hp hr hu ht
  suffices hlanes : ∀ q ∈ (_ : List (Instr × Uses)), Ready s m q.2 → WritesLanes s m o q.1 from
    (hlanes p hp hr).frame hr.here hu ht
  simp only [List.forall_mem_cons, List.not_mem_nil, false_imp_iff, implies_true, and_true]
  exact ⟨writesLanes_of_laneOp (exec_vadd o s), writesLanes_of_laneOp (exec_vsub o s), writesLanes_of_laneOp (exec_vmul o s),
    writesLanes_of_laneOp (exec_vmulh o s), writesLanes_of_laneOp (exec_vmad o s), writesLanes_of_laneOp (exec_vadds o s),
    writesLanes_of_laneOp (exec_vsubs o s), writesLanes_of_laneOp (exec_vand o s), writesLanes_of_laneOp (exec_vor o s),
    writesLanes_of_laneOp (exec_vxor o s), writesLanes_of_laneOp (exec_vnot o s), writesLanes_of_laneOp (exec_vshl o s),
    writesLanes_of_laneOp (exec_vshr o s), writesLanes_of_laneOp (exec_vsra o s), writesLanes_of_laneOp (exec_vmin o s),
    writesLanes_of_laneOp (exec_vminu o s), writesLanes_of_laneOp (exec_vmax o s), writesLanes_of_laneOp (exec_vmaxu o s),
    writesLanes_of_laneOp (exec_vabs o s), writesLanes_of_laneOp (exec_vneg o s), writesLanes_of_laneOp (exec_vclz o s),
    writesLanes_of_laneOp (exec_vpopc o s), writesLanes_of_laneOp (exec_vbfx o s), writesLanes_of_laneOp (exec_vbfi o s),
    fun hr => ⟨_, exec_vsel_done hr⟩, writesLanes_of_laneOp (exec_vmov o s), writesLanes_of_laneOp (exec_vfabs o s),
    writesLanes_of_laneOp (exec_vfneg o s), writesLanes_of_laneOp (exec_vfclass o s), fun hr => ⟨_, exec_vperm_done hr⟩⟩

end Sys2Proof.Machine
end

section
/-!
PROOFS. Keys, moves between threads, and what is combined, permuted and looked up across them (08 R117, R124-R128).
-/
namespace Sys2Proof.Machine

/-! ### Keys and moves -/

section
variable {s : State} {m : Me} {o : VOps}

/-- `vcmp` writes the key of the acting threads in which its relation holds. -/
theorem exec_vcmp_done (hr : Ready s m (vUses o false true true false)) (r : VRel) {rel : W32 → W32 → Bool}
    (hrel : ∀ x y, vrelHolds r (o.ty == .i32) x y = rel x y) : exec (.vcmp r o) s = .next
      (completed m true o.hdr.stop (successor m.st.pc) (m.putKey s (o.vd.toNat % 8) (m.act s o.all)
        (filterSet m.blk.n (m.act s o.all) fun t => rel (m.v o.va.toNat t) (vOpB o m t)))) := by
  obtain rfl : vrelHolds r (o.ty == .i32) = rel := funext fun x => funext (hrel x)
  exact issue_done hr rfl

/-- The relations of `vcmp`, with I32 (`sg`) or another TY (08 R117). -/
def laneRelations (sg : Bool) : List (VRel × (W32 → W32 → Bool)) :=
  [(.eq, fun x y => decide (x = y)), (.ne, fun x y => decide (x ≠ y)), (.lt, fun x y => if sg then x.slt y else x.ult y),
    (.le, fun x y => if sg then x.sle y else x.ule y), (.gt, fun x y => if sg then y.slt x else y.ult x),
    (.ge, fun x y => if sg then y.sle x else y.ule x)]

theorem vrelHolds_of_mem {sg : Bool} : ∀ p ∈ laneRelations sg, ∀ x y, vrelHolds p.1 sg x y = p.2 x y := by
  simp only [laneRelations, List.forall_mem_cons, List.not_mem_nil, false_imp_iff, implies_true, and_true]
  refine ⟨fun _ _ => rfl, fun x y => ?_, fun _ _ => rfl, fun x y => ?_, fun _ _ => rfl, fun x y => ?_⟩
  · by_cases h : x = y <;> simp [vrelHolds, h]
  · cases sg <;> simp [vrelHolds, BitVec.sle_eq_not_slt, BitVec.ule_eq_not_ult]
  · cases sg <;> simp [vrelHolds, BitVec.sle_eq_not_slt, BitVec.ule_eq_not_ult]

theorem Me.reaches_iff {i : Nat} : m.reaches i = true ↔ i < m.blk.n ∧ m.st.parked.getLsbD i = false := by
  simp [Me.reaches]

/-- What a form of `vrd` of thread `t` does: its late result is the register of that thread, or 0 where it does not reach it. -/
def VrdDone (s : State) (m : Me) (o : VOps) (i : Instr) (t : Nat) : Prop :=
  let late := fun (v : Word) => Host.Outcome.next (completed m true o.hdr.stop (successor m.st.pc)
    (lateScalar s m (scalarOf o.vd) (some v)))
  (t < m.blk.n ∧ m.st.parked.getLsbD t = false → exec i s = late (extendTy o.ty (m.v o.va.toNat t))) ∧
    (¬(t < m.blk.n ∧ m.st.parked.getLsbD t = false) → exec i s = late 0)

theorem vrdDone_of {i : Instr} {t : Nat} {u : Me → Uses} {k : Me → Eff} {op : Nat} (hr : Ready s m (u m)) (hbo : (u m).bo = true)
    (hi : exec i s = issueBy s op o.hdr.stop u k) (hk : k m = vrdOf m s o t) : VrdDone s m o i t := by
  unfold VrdDone
  simp only [← Me.reaches_iff]
  rw [hi, issueBy_done hr hk, hbo]
  exact ⟨fun h => by rw [if_pos h], fun h => by rw [if_neg h]⟩

theorem exec_vrd_done (hr : Ready s m (oneUses o m (vIndex o m.st.regs) o.va false true false [scalarOf o.vd])) :
    VrdDone s m o (.vrd o) (vIndex o m.st.regs) :=
  vrdDone_of (u := fun m => oneUses o m (vIndex o m.st.regs) o.va false true false [scalarOf o.vd]) hr rfl (exec_vrd o s) rfl

theorem exec_vrdFirst_done (hr : Ready s m (oneUses o m m.st.regs.rfr.toNat o.va false false false [scalarOf o.vd])) :
    VrdDone s m o (.vrdFirst o) m.st.regs.rfr.toNat :=
  vrdDone_of (u := fun m => oneUses o m m.st.regs.rfr.toNat o.va false false false [scalarOf o.vd]) hr rfl
    (exec_vrdFirst o s) rfl

/-- `vwr` writes its thread, or nothing where it does not reach it. -/
theorem exec_vwr_done (hr : Ready s m (oneUses o m (vIndex o m.st.regs) o.vd true true true [])) :
    exec (.vwr o) s = .next (completed m true o.hdr.stop (successor m.st.pc) (if m.reaches (vIndex o m.st.regs) then
      m.putV s o.vd.toNat [(vIndex o m.st.regs, (m.st.regs.get (scalarOf o.vc)).truncate 32)] else s)) :=
  issueBy_done (u := fun m => oneUses o m (vIndex o m.st.regs) o.vd true true true []) hr rfl
end

/-- Settles O23: `vcmp` has the relation of its mnemonic, the moves act on the thread they reach. -/
theorem laneMoves : Obligations.LaneMoves := by
  unfold Obligations.LaneMoves
  intro s m o
  refine ⟨fun hr p hp => exec_vcmp_done hr p.1 (vrelHolds_of_mem p hp), exec_vrd_done, exec_vrdFirst_done, fun hr => ?_⟩
  simp only [← Me.reaches_iff]
  rw [exec_vwr_done hr]
  exact ⟨fun h => by rw [if_pos h], fun h => by rw [if_neg h]⟩

/-! ### Values across threads -/

section
variable {s : State} {m : Me} {o : VOps} {f : RedOp}

/-- The running values of `vred` and `vscan`, and the flags of the whole sequence (08 R125, R126). -/
def Me.running (m : Me) (s : State) (f : RedOp) (o : VOps) : List (Nat × W32) × BitVec 5 :=
  redRun f (o.ty == .i32) o.ftz o.rnd none (m.aValues s o)

/-- The late result of `vred` where the combination comes to `x`. -/
def redWord (f : RedOp) (o : VOps) (x : W32) : Word :=
  if o.ty == .i32 && !isFloatRed f then x.signExtend 64 else x.zeroExtend 64

/-- `vred` raises its flags, and answers the last running value, or the identity where there is none. -/
theorem exec_vred_flags (hr : Ready s m { vUses o false true false false with dst := [scalarOf o.vd] }) :
    FlagsThen s m true o.hdr.stop (.vred f o) (m.running s f o).2 fun s' => lateScalar s' m (scalarOf o.vd)
      (some (redWord f o (((m.running s f o).1.getLast?.map Prod.snd).getD (redIdentity f (o.ty == .i32))))) :=
  flagsThen_of (u := fun _ => { vUses o false true false false with dst := [scalarOf o.vd] }) hr (exec_vred f o s) rfl

theorem exec_vscan_flags (hr : Ready s m (vUses o true true false false)) :
    FlagsThen s m true o.hdr.stop (.vscan f o) (m.running s f o).2 fun s' => m.putV s' o.vd.toNat (m.running s f o).1 :=
  flagsThen_of (u := fun _ => vUses o true true false false) hr (exec_vscan f o s) rfl

theorem running_nil (h : m.acting s o.all = []) : (m.running s f o).1 = [] := by
  simp [Me.running, Me.aValues, h, redRun]

/-! ### The table in scratchpad -/

/-- What `vlut` reads of a table at `p`: the acting threads with their addresses. -/
def Me.lutReads (m : Me) (s : State) (o : VOps) (p : Nat) : List (Nat × Nat) :=
  ((m.aValues s o).map fun q => (lutAddrs o p q.2).map fun x => (q.1, x)).flatten

theorem mem_lutReads {p : Nat} {q : Nat × Nat} (h : q ∈ m.lutReads s o p) :
    ∃ t ∈ m.acting s o.all, q.2 ∈ lutAddrs o p (m.v o.va.toNat t) := by
  simp only [Me.lutReads, Me.aValues, List.map_map, List.mem_flatten, List.mem_map, Function.comp_apply] at h
  obtain ⟨_, ⟨t, ht, rfl⟩, hq⟩ := h
  obtain ⟨x, hx, rfl⟩ := List.mem_map.mp hq
  exact ⟨t, ht, hx⟩

theorem aValues_ne_nil (h : m.acting s o.all ≠ []) : m.aValues s o ≠ [] := by
  simpa [Me.aValues] using h

/-- A thread that acts reads something. -/
theorem lutReads_ne_nil (p : Nat) (h : m.acting s o.all ≠ []) : m.lutReads s o p ≠ [] := by
  have haddrs : ∀ a, lutAddrs o p a ≠ [] := fun a => by
    unfold lutAddrs
    split
    · simp [upto]
    · simp
  obtain ⟨first, rest, hvals⟩ := List.exists_cons_of_ne_nil (aValues_ne_nil h)
  simp [Me.lutReads, hvals, haddrs]

/-- Words that lie in the scratchpad and are free pass the checks of the words that an instruction reads. -/
theorem reads_pass {l : List (Nat × Nat)} {w : Nat}
    (h : ∀ q ∈ l, q.2 + w ≤ m.blk.scratchLen ∧ RangeFree s m true q.2 w) :
    l.find? (fun q => !m.blk.holds q.2 w) = none ∧
    (l.any fun q => scratchBusy s m q.2 w || sentBusy s m q.2 w) = false ∧
    (l.findSome? fun q => scratchPoison s m.c m.st.block q.2 w) = none := by
  refine ⟨List.find?_eq_none.mpr fun q hq => ?_, List.any_eq_false.mpr fun q hq => ?_,
    List.findSome?_eq_none_iff.mpr fun q hq => ?_⟩
  all_goals obtain ⟨hfits, ⟨hbusy, hclean⟩, hsent, -⟩ := h q hq
  · simp [Block.holds, hfits]
  · simp [hbusy, hsent]
  · exact hclean rfl

/-- `vlut` reads a table whose base is aligned, where the words that are read lie in the scratchpad and are free. -/
theorem exec_vlut_done (hr : Ready s m { vUses o true true false false with src := [(scalarOf o.vb, o.hdr.wfb)] })
    (halign : (m.st.regs.get (scalarOf o.vb)).toNat % lutWidth o = 0)
    (hreads : ∀ q ∈ m.lutReads s o (m.st.regs.get (scalarOf o.vb)).toNat,
      q.2 + lutWidth o ≤ m.blk.scratchLen ∧ RangeFree s m true q.2 (lutWidth o))
    (hact : m.acting s o.all ≠ []) : exec (.vlut o) s = .next (completed m true o.hdr.stop (successor m.st.pc)
      (m.putV s o.vd.toNat ((m.acting s o.all).map fun t =>
        (t, lutValue o m.blk (m.st.regs.get (scalarOf o.vb)).toNat (m.v o.va.toNat t))))) := by
  obtain ⟨hfits, hbusy, hclean⟩ := reads_pass hreads
  have hfenced : m.st.fenced 0 = false := by
    obtain ⟨q, hq⟩ := List.exists_mem_of_ne_nil _ (lutReads_ne_nil _ hact)
    obtain ⟨-, -, -, hfenced⟩ := hreads q hq
    exact hfenced
  obtain ⟨first, rest, hvals⟩ := List.exists_cons_of_ne_nil (aValues_ne_nil hact)
  simp only [Me.lutReads, hvals] at hfits hbusy hclean
  rw [exec_vlut, execVlut]
  refine issue_done hr ?_
  simp only [hvals, halign, hfits, hbusy, hclean, hfenced, bne_self_eq_false, Bool.or_false, Bool.false_eq_true, if_false]
  rw [← hvals, Me.aValues, List.map_map]
  rfl
end

/-- Settles O24: a reduction is its running values, `vperm` asks whether the thread that B names acts, and a table whose words
are free is read. -/
theorem acrossThreads : Obligations.AcrossThreads := by
  unfold Obligations.AcrossThreads
  intro s m o f
  refine ⟨fun hr hquiet => ?_, fun hr hquiet => (exec_vscan_flags hr).1 hquiet, exec_vperm_done, fun hr halign hfree hact => ?_⟩
  · have hred := (exec_vred_flags hr).1 hquiet
    refine ⟨fun h => ?_, fun x hx => ?_⟩
    · rwa [running_nil h] at hred
    · rwa [show (m.running s f o).1.getLast? = some x from hx] at hred
  · refine exec_vlut_done hr halign (fun q hq => ?_) hact
    obtain ⟨t, ht, hx⟩ := mem_lutReads hq
    exact hfree t ht q.2 hx

end Sys2Proof.Machine
end


section
/-!
PROOFS. Scratchpad broadcasts, scalar accesses, atomics and counted loads (09 R135-R139): what sending their accesses leaves.
-/
namespace Sys2Proof.Machine

/-! ### Updates that leave the blocks alone -/

theorem block?_of_clusters {s t : State} (h : t.clusters = s.clusters) (c b : Nat) : t.block? c b = s.block? c b := by
  simp [State.block?, State.cluster, h]

@[simp] theorem sendAll_block? (s : State) (m : Me) (l : List Access) (b : Nat) :
    (sendAll s m l).block? m.c b = s.block? m.c b := by
  unfold sendAll
  dsimp only
  rw [block?_of_clusters (sendRequests_clusters ..), State.block?_modStrand]
  exact block?_modCluster (f := fun cl => { cl with nextId := cl.nextId + _ }) rfl

@[simp] theorem takeEntry_block? (s : State) (m : Me) (name count : Nat) (ts : List Nat) (data : SMap (List W32)) (b : Nat) :
    (takeEntry s m name count ts data).1.block? m.c b = s.block? m.c b := by
  simp [takeEntry, State.block?]

@[simp] theorem lateScalar_block? (s : State) (m : Me) (n : SReg) (v : Option Word) (b : Nat) :
    (lateScalar s m n v).block? m.c b = s.block? m.c b := by
  unfold lateScalar
  split
  · rfl
  · exact (State.block?_modStrand ..).trans (block?_modCluster rfl)

@[simp] theorem lateScalar_mem (s : State) (m : Me) (n : SReg) (v : Option Word) : (lateScalar s m n v).mem = s.mem := by
  unfold lateScalar
  split
  · rfl
  · simp

@[simp] theorem clearPi_block? (s : State) (m : Me) (b : Nat) : (m.clearPi s).block? m.c b = s.block? m.c b :=
  State.block?_modStrand ..

@[simp] theorem bmemRecord_block? (s : State) (m : Me) (kind : Nat) (scope : Scope) (addrs : List (Nat × Nat)) (c b : Nat) :
    (bmemRecord s m kind scope addrs).block? c b = s.block? c b := by
  cases addrs <;> simp [bmemRecord]

/-! ### Checks that pass -/

section
variable {s : State} {m : Me} {stop : Bool}

/-- Addresses in the scratchpad that are aligned and clear come to the effect. -/
theorem withScratch_pass {reads : Bool} {bytes : Nat} {addrs : List (Nat × Nat)} (h : InScratch s m reads bytes addrs)
    (k : Unit → Eff) : withScratch s m bytes reads addrs k = k () := by
  have hplace : (addrs.find? fun q => q.2 % bytes != 0 || !m.blk.holds q.2 bytes) = none :=
    List.find?_eq_none.mpr fun q hq => by
      obtain ⟨halign, hfits, -⟩ := h q hq
      simp [halign, hfits, Block.holds]
  have hfree : (addrs.any fun q => scratchBusy s m q.2 bytes) = false :=
    List.any_eq_false.mpr fun q hq => by
      obtain ⟨-, -, hbusy, -⟩ := h q hq
      simp [hbusy]
  have hclean : (if reads then addrs.findSome? fun q => scratchPoison s m.c m.st.block q.2 bytes else none) = none := by
    split
    · rename_i hreads
      refine List.findSome?_eq_none_iff.mpr fun q hq => ?_
      obtain ⟨-, -, -, hclean⟩ := h q hq
      exact hclean hreads
    · rfl
  unfold withScratch
  rw [hplace, hfree, hclean]
  rfl

/-! ### Accesses of a scratchpad and of one location -/

theorem scratchAccesses_told (addrs : List (Nat × Nat)) (bytes : Nat) (act : Nat → List Nat → Act) (dest : List Nat → Dest)
    (acq rel : Bool) (scope : Scope) : (scratchAccesses m addrs bytes act dest acq rel scope).map Access.told =
      (byLocation (addrs.map fun q => (q.1, q.2, 0))).map fun p =>
        (some m.st.block, p.1, bytes, act p.1 p.2, acq, rel, dest p.2) := by
  simp [scratchAccesses, Access.told, newAccess]

/-! ### Instructions that send -/

/-- An instruction whose effect `s'` has sent the accesses of `l` and leaves memory, the scalars and the sets alone completes: the
strand goes on with them sent. -/
theorem completed_sent_of {s' : State} {bo : Bool} {st : Strand} {l : List Access} {what : List SentAccess}
    (hst : s'.strand? m.c m.k = some st) (hdbg : st.regs.dbg = m.st.regs.dbg) (hget : ∀ n, st.regs.get n = m.st.regs.get n)
    (hstack : st.stack = m.st.stack) (hout : st.out = m.st.out ++ l) (hwhat : l.map Access.told = what)
    (hu : Unstepped m stop) : ∃ st', (completed m bo stop (successor m.st.pc) s').strand? m.c m.k = some st' ∧
      st'.regs = st.regs ∧ st'.late = st.late ∧ Sent m st' st.regs.pi what := by
  obtain ⟨st', hst', hpc, hregs', hstack', -, hout', -, hlate', -⟩ :=
    completed_unstepped (bo := bo) (next := successor m.st.pc) hst hdbg hu
  refine ⟨st', hst', hregs', hlate', hpc, hstack'.trans hstack, ?_, ?_, by rw [hregs'], fun n => by rw [hregs', hget n]⟩
  · rw [hout', hout, List.take_left]
  · rw [sentBy, hout', hout, List.drop_left]
    exact hwhat

/-- What an instruction that completes leaves of memory and the blocks is what its effect left. -/
theorem completed_keeps {s' : State} {bo : Bool} {st : Strand} (hst : s'.strand? m.c m.k = some st)
    (hdbg : st.regs.dbg = m.st.regs.dbg) (hmem : s'.mem = s.mem) (hu : Unstepped m stop) :
    SameBytes s (completed m bo stop (successor m.st.pc) s') ∧
      ∀ b, (completed m bo stop (successor m.st.pc) s').block? m.c b = s'.block? m.c b := by
  obtain ⟨-, -, -, -, -, -, -, -, -, -, hmem', hblk'⟩ :=
    completed_unstepped (bo := bo) (next := successor m.st.pc) hst hdbg hu
  exact ⟨fun a => by rw [hmem', hmem], hblk'⟩

/-- An instruction whose effect `s'` has sent the accesses of `l` and changed nothing else of the strand, its block and memory
completes with them sent. -/
theorem completed_only_sent {s' : State} {bo : Bool} {l : List Access} {what : List SentAccess}
    (hst : s'.strand? m.c m.k = some { m.st with out := m.st.out ++ l }) (hblk : s'.block? m.c m.st.block = some m.blk)
    (hmem : s'.mem = s.mem) (hwhat : l.map Access.told = what) (hu : Unstepped m stop) :
    let t := completed m bo stop (successor m.st.pc) s'
    SameBytes s t ∧ t.block? m.c m.st.block = some m.blk ∧
      ∃ st, t.strand? m.c m.k = some st ∧ Sent m st m.st.regs.pi what := by
  obtain ⟨hbytes, hblocks⟩ := completed_keeps (bo := bo) hst rfl hmem hu
  obtain ⟨st, hst', -, -, h⟩ := completed_sent_of (bo := bo) hst rfl (fun _ => rfl) rfl rfl hwhat hu
  exact ⟨hbytes, (hblocks _).trans hblk, st, hst', h⟩

/-- A scratchpad broadcast from a state `s₁` with the strand, the block and the memory of the one before sends `l`. -/
theorem broadcast_sends {s₁ : State} {i : Instr} {l : List Access} {what : List SentAccess} (hm : me? s = some m)
    (hst : s₁.strand? m.c m.k = s.strand? m.c m.k) (hblk : s₁.block? m.c m.st.block = s.block? m.c m.st.block)
    (hmem : s₁.mem = s.mem) (hwhat : l.map Access.told = what)
    (hex : exec i s = .next (completed m true stop (successor m.st.pc) (sendAll s₁ m l))) : ∃ t, exec i s = .next t ∧
      (Unstepped m stop → SameBytes s t ∧ t.block? m.c m.st.block = some m.blk ∧ ∃ st, t.strand? m.c m.k = some st ∧
        Sent m st m.st.regs.pi what) := by
  obtain ⟨-, hme, hown, -⟩ := me?_some hm
  exact ⟨_, hex, completed_only_sent (sendAll_strand? l (hst.trans hme)) ((sendAll_block? ..).trans (hblk.trans hown))
    ((sendAll_mem ..).trans hmem) ((numbered_told ..).trans hwhat)⟩

/-- One of no acting thread sends nothing. -/
theorem broadcast_none {i : Instr} (hm : me? s = some m)
    (hex : exec i s = .next (completed m true stop (successor m.st.pc) s)) : ∃ t, exec i s = .next t ∧
      (Unstepped m stop → SameBytes s t ∧ t.block? m.c m.st.block = some m.blk ∧ ∃ st, t.strand? m.c m.k = some st ∧
        Sent m st m.st.regs.pi []) := by
  obtain ⟨-, hme, hown, -⟩ := me?_some hm
  exact ⟨_, hex, completed_only_sent (l := []) (by rw [List.append_nil, hme]) hown rfl rfl⟩

theorem atomAddrs_nil {o : MOps} (h : atomAddrs o m s = []) : (atomAddrs o m s).isEmpty = true := by simp [h]

theorem atomAddrs_cons {o : MOps} (h : atomAddrs o m s ≠ []) : ¬(atomAddrs o m s).isEmpty = true := by simpa using h

/-- An entry is free. -/
theorem noEntry_free (h : entriesOf (s.cluster m.c) m.k < Config.deliveryEntries) : ¬noEntry s m = true := by
  simpa [noEntry] using h

/-- The state in which the threads of `addrs` have taken a delivery entry for VD. -/
def withEntry (s : State) (m : Me) (o : MOps) (addrs : List (Nat × Nat)) : State :=
  (takeEntry s m o.vd.toNat (widNames o.wid) (addrs.map Prod.fst) []).1
end

/-- Settles O27: past its checks each of the three sends the accesses of its addresses and has no other effect. -/
theorem scratchpadBroadcast : Obligations.ScratchpadBroadcast := by
  unfold Obligations.ScratchpadBroadcast
  intro s m o
  refine ⟨fun hr => ⟨fun h => broadcast_none hr.here ?_, fun h hin hfree => ?_⟩,
    fun hr => ⟨fun h => broadcast_none hr.here ?_, fun h hin => ?_⟩,
    fun hr => ⟨fun h => broadcast_none hr.here ?_, fun h hin hfree => ?_⟩⟩
  · rw [exec_lds, execLds]
    exact issue_done hr (if_pos (mAddrs_nil h))
  · refine broadcast_sends (s₁ := withEntry s m o (mAddrs o m s)) hr.here (takeEntry_strand? ..) (takeEntry_block? ..) rfl
      (scratchAccesses_told (mAddrs o m s) (widBytes o.wid) (fun _ _ => .load) (.delivery (s.cluster m.c).nextId) (isAcq o.ord)
        false o.scope) ?_
    rw [exec_lds, execLds]
    refine issue_done hr ?_
    rw [if_neg (mAddrs_cons h), if_neg (noEntry_free hfree)]
    exact withScratch_pass hin _
  · rw [exec_sts, execSts]
    exact issue_done hr (if_pos (mAddrs_nil h))
  · refine broadcast_sends (s₁ := s) hr.here rfl rfl rfl
      (scratchAccesses_told (mAddrs o m s) (widBytes o.wid) (fun _ ts => storeAct o (storeVals o m ts) false) (fun _ => .none)
        false (isRel o.ord) o.scope) ?_
    rw [exec_sts, execSts]
    refine issue_done hr ?_
    rw [if_neg (mAddrs_cons h)]
    exact withScratch_pass hin _
  · rw [exec_atoms, execAtoms]
    exact issue_done hr (if_pos (atomAddrs_nil h))
  · refine broadcast_sends (s₁ := withEntry s m o (atomAddrs o m s)) hr.here (takeEntry_strand? ..) (takeEntry_block? ..) rfl
      (scratchAccesses_told (atomAddrs o m s) (widBytes o.wid) (fun _ ts => .rmw o.aop (ts.map (atomMember o m)))
        (.delivery (s.cluster m.c).nextId) (isAcq o.ord) (isRel o.ord) o.scope) ?_
    rw [exec_atoms, execAtoms]
    refine issue_done hr ?_
    rw [if_neg (atomAddrs_cons h), if_neg (noEntry_free hfree)]
    exact withScratch_pass hin _

end Sys2Proof.Machine
end

section
/-!
PROOFS. Scalar loads, stores and atomics (09 R136, R139): one access, to memory or by DST to the scratchpad.
-/
namespace Sys2Proof.Machine

section
variable {s : State} {m : Me} {o : MOps} {pa leaf : Nat} {stop : Bool}

/-- What a strand that awaits a late scalar keeps. -/
theorem Strand.awaits_keeps (st : Strand) (n : SReg) (p : Nat × Option Word) : (st.awaits n p).out = st.out ∧
    (st.awaits n p).stack = st.stack ∧ (st.awaits n p).regs.dbg = st.regs.dbg ∧ (st.awaits n p).regs.pi = st.regs.pi ∧
    ∀ j, (st.awaits n p).regs.get j = st.regs.get j := by
  unfold Strand.awaits
  split <;> exact ⟨rfl, rfl, rfl, rfl, fun _ => rfl⟩

/-- The address of a scalar form passes the checks of the space that DST names. -/
def ScalarReach (s : State) (m : Me) (o : MOps) (need : Need) (pa leaf : Nat) : Prop :=
  let w := widBytes o.wid
  let a := scalarAddr o m.st.regs
  if o.dst then InScratch s m (decide (need ≠ .store (w == 8))) w [(0, a)]
  else Reached s m need w noAlso [(0, a)] [(0, pa, leaf)]

/-- The place of its access. -/
def scalarPlace (m : Me) (o : MOps) (pa : Nat) : Option Nat × Nat :=
  if o.dst then (some m.st.block, scalarAddr o m.st.regs) else (none, pa)

/-- The access of a scalar form as statements name it. -/
def scalarSent (m : Me) (o : MOps) (pa : Nat) (what : Act × Bool × Bool × Dest) : List SentAccess :=
  [((scalarPlace m o pa).1, (scalarPlace m o pa).2, widBytes o.wid, what)]

/-- The effect of a scalar form whose address passes is that of the space that DST names. -/
theorem scalar_reaches {need : Need} {reads : Bool} {k : Unit → Eff} {k' : List (Nat × Nat × Nat) → Eff}
    (h : ScalarReach s m o need pa leaf) (hreads : reads = decide (need ≠ .store (widBytes o.wid == 8))) :
    (if o.dst then withScratch s m (widBytes o.wid) reads [(0, scalarAddr o m.st.regs)] k
      else withTrans s m need (widBytes o.wid) false [(0, scalarAddr o m.st.regs)] noAlso k') =
      if o.dst then k () else k' [(0, pa, leaf)] := by
  unfold ScalarReach at h
  subst hreads
  cases hd : o.dst
  · simp only [hd, Bool.false_eq_true, if_false] at h ⊢
    exact withTrans_reached h _ _
  · simp only [hd, if_true] at h ⊢
    exact withScratch_pass h _

/-- An instruction without a `bo` point whose effect is to send accesses completes with them sent. -/
theorem accesses_sent {i : Instr} {l : List Access} {what : List SentAccess} (hm : me? s = some m)
    (hwhat : l.map Access.told = what) (hex : exec i s = .next (completed m false stop (successor m.st.pc) (sendAll s m l))) :
    ∃ t st, exec i s = .next t ∧ (Unstepped m stop → SameBytes s t ∧ t.strand? m.c m.k = some st ∧
      t.block? m.c m.st.block = some m.blk ∧ Sent m st m.st.regs.pi what) := by
  obtain ⟨-, hme, hown, -⟩ := me?_some hm
  by_cases hu : Unstepped m stop
  · obtain ⟨hbytes, hblk, st, hst, h⟩ := completed_only_sent (bo := false) (sendAll_strand? l hme)
      ((sendAll_block? ..).trans hown) (sendAll_mem ..) ((numbered_told ..).trans hwhat) hu
    exact ⟨_, st, hex, fun _ => ⟨hbytes, hst, hblk, h⟩⟩
  · exact ⟨_, m.st, hex, fun h => absurd h hu⟩

/-- One that completes in `s'`, where its strand awaits a late scalar too, has sent them and left the scalar empty. -/
theorem accesses_sent_late {i : Instr} {l : List Access} {what : List SentAccess} {s' : State} {reg : SReg} (hm : me? s = some m)
    (hwhat : l.map Access.told = what) (hst : s'.strand? m.c m.k = (lateScalar (sendAll s m l) m reg none).strand? m.c m.k)
    (hblk : s'.block? m.c m.st.block = s.block? m.c m.st.block) (hmem : s'.mem = s.mem)
    (hex : exec i s = .next (completed m false stop (successor m.st.pc) s')) :
    ∃ t st, exec i s = .next t ∧ (Unstepped m stop → SameBytes s t ∧ t.strand? m.c m.k = some st ∧
      t.block? m.c m.st.block = some m.blk ∧ Sent m st m.st.regs.pi what ∧ (reg ≠ 0 →
        st.regs.isEmpty reg = true ∧ (st.late.get? reg.toNat).map Prod.snd = some none)) := by
  obtain ⟨-, hme, hown, -⟩ := me?_some hm
  have hlate := hst.trans (lateScalar_strand? reg none (sendAll_strand? (m := m) l hme))
  obtain ⟨hout, hstack, hdbg, hpi, hget⟩ := Strand.awaits_keeps
    { m.st with out := m.st.out ++ numbered (s.cluster m.c).nextId (s.cluster m.c).nextId l } reg
    (((sendAll s m l).cluster m.c).nextId, none)
  by_cases hu : Unstepped m stop
  · obtain ⟨hbytes, hblocks⟩ := completed_keeps (bo := false) hlate hdbg hmem hu
    obtain ⟨st, hst', hregs, hl, h⟩ := completed_sent_of (bo := false) hlate hdbg hget hstack hout
      ((numbered_told ..).trans hwhat) hu
    refine ⟨_, st, hex, fun _ => ⟨hbytes, hst', (hblocks _).trans (hblk.trans hown), hpi ▸ h, fun h0 => ⟨?_, ?_⟩⟩⟩
    · rw [hregs]
      exact Strand.isEmpty_awaits _ _ _ h0 (.inr rfl)
    · rw [hl, Strand.late_awaits_self _ _ _ h0]
      rfl
  · exact ⟨_, m.st, hex, fun h => absurd h hu⟩

/-- What `sld` sends: a load that fills the scalar VD names. -/
theorem exec_sld_done (hr : Ready s m (accUses o [] [mReg o])) (h : ScalarReach s m o .load pa leaf) :
    ∃ l, l.map Access.told = scalarSent m o pa (.load, isAcq o.ord, false, .scalar (mReg o)) ∧
      exec (.sld o) s = .next (completed m false o.hdr.stop (successor m.st.pc) (lateScalar (sendAll s m l) m (mReg o) none)) := by
  refine ⟨if o.dst then scratchAccesses m [(0, scalarAddr o m.st.regs)] (widBytes o.wid) (fun _ _ => .load)
      (fun _ => .scalar (mReg o)) (isAcq o.ord) false o.scope
    else globalAccesses [(0, pa, leaf)] (widBytes o.wid) (fun _ _ => .load) (fun _ => .scalar (mReg o)) (isAcq o.ord)
      (fun _ => false) fun _ => o.scope, ?_, ?_⟩
  · unfold scalarSent scalarPlace
    split
    · exact scratchAccesses_told ..
    · exact globalAccesses_told ..
  · rw [exec_sld, execSld]
    refine issue_done hr ((scalar_reaches h (by simp)).trans ?_)
    split <;> rfl

/-- The number that a scalar store writes, and that a compare compares with. -/
def scalarData (m : Me) (o : MOps) : Nat := (m.st.regs.get (mReg o)).toNat % 2 ^ (8 * widBytes o.wid)

/-- A doorbell store of one value rings with it. -/
theorem storeAct_bell (v : Nat) : storeAct o [v] true = .bell v := by simp [storeAct]

/-- The operand of a scalar atomic. -/
def scalarMember (m : Me) (o : MOps) : Nat × Nat × Nat :=
  (0, (m.st.regs.get o.sx).toNat % 2 ^ (8 * widBytes o.wid), if o.aop == .cas then scalarData m o else 0)

/-- What `satom` sends: a read-modify-write that fills the scalar VD names. -/
theorem exec_satom_done (hr : Ready s m
      (accUses o ((o.sx, o.hdr.wfc) :: if o.aop == .cas then [(mReg o, o.hdr.wfc)] else []) [mReg o]))
    (h : ScalarReach s m o .atomic pa leaf) : ∃ l pay, l.map Access.told = scalarSent m o pa
        (.rmw o.aop [scalarMember m o], isAcq o.ord, isRel o.ord, .scalar (mReg o)) ∧
      exec (.satom o) s = .next (completed m false o.hdr.stop (successor m.st.pc)
        (m.note (lateScalar (sendAll s m l) m (mReg o) none) 0x03 pay)) := by
  refine ⟨if o.dst then scratchAccesses m [(0, scalarAddr o m.st.regs)] (widBytes o.wid)
      (fun _ _ => .rmw o.aop [scalarMember m o]) (fun _ => .scalar (mReg o)) (isAcq o.ord) (isRel o.ord) o.scope
    else globalAccesses [(0, pa, leaf)] (widBytes o.wid) (fun _ _ => .rmw o.aop [scalarMember m o]) (fun _ => .scalar (mReg o))
      (isAcq o.ord) (fun _ => isRel o.ord) fun _ => o.scope,
    payload [(57, scalarAddr o m.st.regs), (3, scopeCode o.scope), (4, aopCode o.aop)], ?_, ?_⟩
  · unfold scalarSent scalarPlace
    split
    · exact scratchAccesses_told ..
    · exact globalAccesses_told ..
  · rw [exec_satom, execSatom]
    refine issue_done hr ((scalar_reaches h (by simp)).trans ?_)
    split <;> rfl

/-- What `sst` sends: a store, which to a doorbell is a release. -/
theorem exec_sst_done (hr : Ready s m (accUses o [(mReg o, o.hdr.wfc)] []))
    (h : ScalarReach s m o (.store (widBytes o.wid == 8)) pa leaf) : ∃ l, l.map Access.told = scalarSent m o pa
        (storeAct o [scalarData m o] (!o.dst && isBell pa), false, isRel o.ord || (!o.dst && isBell pa), .none) ∧
      exec (.sst o) s = .next (completed m false o.hdr.stop (successor m.st.pc) (sendAll s m l)) := by
  refine ⟨if o.dst then scratchAccesses m [(0, scalarAddr o m.st.regs)] (widBytes o.wid)
      (fun _ _ => storeAct o [scalarData m o] false) (fun _ => .none) false (isRel o.ord) o.scope
    else globalAccesses [(0, pa, leaf)] (widBytes o.wid) (fun pa _ => storeAct o [scalarData m o] (isBell pa)) (fun _ => .none)
      false (storeRel o) (storeScope o), ?_, ?_⟩
  · unfold scalarSent scalarPlace
    cases o.dst
    · simp only [Bool.false_eq_true, if_false, Bool.not_false, Bool.true_and]
      exact globalAccesses_told ..
    · simp only [if_true, Bool.not_true, Bool.false_and, Bool.or_false]
      exact scratchAccesses_told ..
  · rw [exec_sst, execSst]
    refine issue_done hr ((scalar_reaches h (by simp)).trans ?_)
    split <;> rfl
end

/-- Settles O28: each of the three completes with the one access of its place sent. -/
theorem scalarMemory : Obligations.ScalarMemory := by
  unfold Obligations.ScalarMemory
  intro s m o pa leaf w r reg a v member reach at' bell next
  refine ⟨fun hr hreach => ?_, fun hr hreach => ?_, fun hr hreach => ?_⟩
  · obtain ⟨l, hl, hex⟩ := exec_sld_done hr hreach
    obtain ⟨t, st, hex', h⟩ := accesses_sent_late hr.here hl rfl (by simp) (by simp) hex
    refine ⟨t, st, hex', fun hu => ?_⟩
    obtain ⟨hbytes, hst, hblk, hsent, hlate⟩ := h hu
    exact ⟨hbytes, hst, hblk, hsent, fun _ => hlate⟩
  · obtain ⟨l, hl, hex⟩ := exec_sst_done hr hreach
    obtain ⟨t, st, hex', h⟩ := accesses_sent hr.here hl hex
    refine ⟨fun hb => ⟨t, st, hex', fun hu => ?_⟩, fun hb => ⟨t, st, hex', fun hu => ?_⟩⟩
    · have hb' : (!o.dst && isBell pa) = false := by simpa [bell] using hb
      obtain ⟨hbytes, hst, hblk, hsent⟩ := h hu
      rw [hb', Bool.or_false] at hsent
      exact ⟨hbytes, hst, hblk, hsent, fun h => by cases h⟩
    · have hb' : (!o.dst && isBell pa) = true := by simpa [bell] using hb
      obtain ⟨hbytes, hst, hblk, hsent⟩ := h hu
      rw [hb', Bool.or_true, storeAct_bell] at hsent
      exact ⟨hbytes, hst, hblk, hsent, fun h => by cases h⟩
  · obtain ⟨l, pay, hl, hex⟩ := exec_satom_done hr hreach
    obtain ⟨t, st, hex', h⟩ := accesses_sent_late (reg := mReg o) hr.here hl (note_strand? ..) (by simp) (by simp [Me.note]) hex
    refine ⟨t, st, hex', fun hu => ?_⟩
    obtain ⟨hbytes, hst, hblk, hsent, hlate⟩ := h hu
    exact ⟨hbytes, hst, hblk, hsent, fun _ => hlate⟩

end Sys2Proof.Machine
end

section
/-!
PROOFS. `atom` and `ldsc` (09 R137, R138): one access for each location, and the barrier word that counts the bytes to come.
-/
namespace Sys2Proof.Machine

/-! ### A barrier word that expects bytes -/

section
variable {s : State} {c block a n : Nat} {b : Block}

theorem scratchWrite_strand? (s : State) (c block a : Nat) (bs : List Byte) (k : Nat) :
    (scratchWrite s c block a bs).strand? c k = s.strand? c k := by
  have h := State.strand?_modBlock s c block k fun b => { b with scratch := writeBytes b.scratch a bs }
  unfold scratchWrite
  dsimp only
  split <;> exact h

theorem barTest_strand? (s : State) (c block a k : Nat) : (barTest s c block a).strand? c k = s.strand? c k := by
  unfold barTest
  split
  · rfl
  dsimp only
  split
  · rfl
  split
  · rw [record_strand?]
    split
    · rw [State.strand?_modBlock, scratchWrite_strand?]
    · exact scratchWrite_strand? ..
  · rfl

theorem barStep_strand? (s : State) (c block a arrive : Nat) (pend : Int) (k : Nat) :
    (barStep s c block a arrive pend).strand? c k = s.strand? c k := by
  unfold barStep
  split
  · rfl
  · exact (barTest_strand? ..).trans (scratchWrite_strand? ..)

/-- The word that expects `n` bytes more. -/
def barExpecting (w n : Nat) : Nat := barWord (barExp w) (barArr w) (barPhase w) (barPend w + n)

/-- Bytes that are to come raise PEND, and the phase does not complete while they are. -/
theorem barStep_expects (hb : s.block? c block = some b) (hwf : Memory.wf b.scratch = true) (ha : a % 8 = 0) (hn : 0 < n)
    (hlt : barPend (readNat b.scratch a 8) + n < 2 ^ 31) : ∃ b', (barStep s c block a 0 n).block? c block = some b' ∧
      readNat b'.scratch a 8 = barExpecting (readNat b.scratch a 8) n := by
  generalize hw : readNat b.scratch a 8 = w at hlt ⊢
  have hread : readNat (writeBytes b.scratch a (leBytes 8 (barExpecting w n))) a 8 = barExpecting w n :=
    (readNat_writeNat a 8 _ hwf).trans (barWord_mod ..)
  have hpend : barPend (barExpecting w n) = barPend w + n := (barPend_barWord ..).trans (Nat.mod_eq_of_lt hlt)
  obtain ⟨b', hb', -, hopen⟩ := barTest_scratch (scratchWrite_block? a (leBytes 8 (barExpecting w n)) hb) ha
  refine ⟨b', ?_, ?_⟩
  · unfold barStep
    rw [hb]
    dsimp only
    rw [hw]
    exact hb'
  · rw [hopen fun hdone => ?_]
    · exact hread
    · have h0 : barPend (readNat (writeBytes b.scratch a (leBytes 8 (barExpecting w n))) a 8) = 0 := hdone.2.2
      rw [hread, hpend] at h0
      omega
end

/-! ### What `ldsc` leaves before it sends -/

section
variable {s : State} {m : Me} {o : MOps} {l : List (Nat × Nat × Nat)}

/-- The delivery entry that an `ldsc` into registers takes. -/
def ldscEntry (s : State) (m : Me) (o : MOps) : State × Option Nat :=
  if o.dst then (s, none) else (withEntry s m o (mAddrs o m s), some (s.cluster m.c).nextId)

/-- The landing of an `ldsc`, which counts its bytes for its barrier word. -/
def ldscLanding (s : State) (m : Me) (o : MOps) : Landing :=
  { id := ((ldscEntry s m o).1.cluster m.c).nextId, slot := m.k, block := m.st.block, word := (m.st.regs.get o.sx).toNat
    bytes := widBytes o.wid, dests := if o.dst then landAddrs o m s else [], threads := (mAddrs o m s).map Prod.fst, data := []
    delivery := (ldscEntry s m o).2 }

/-- The state with the landing. -/
def withLanding (s : State) (m : Me) (o : MOps) : State :=
  (ldscEntry s m o).1.modCluster m.c fun cl => { cl with landings := cl.landings ++ [ldscLanding s m o], nextId := cl.nextId + 1 }

theorem ldscLanding_id : (ldscLanding s m o).id = if o.dst then (s.cluster m.c).nextId else (s.cluster m.c).nextId + 1 := by
  unfold ldscLanding ldscEntry
  split
  · rfl
  · simp [withEntry, takeEntry]

theorem withLanding_mem : (withLanding s m o).mem = s.mem := by
  unfold withLanding ldscEntry
  split <;> rfl

theorem withLanding_strand? : (withLanding s m o).strand? m.c m.k = s.strand? m.c m.k := by
  refine (strand?_modCluster rfl).trans ?_
  unfold ldscEntry
  split
  · rfl
  · exact takeEntry_strand? ..

theorem withLanding_block? (b : Nat) : (withLanding s m o).block? m.c b = s.block? m.c b := by
  refine (block?_modCluster rfl).trans ?_
  unfold ldscEntry
  split
  · rfl
  · exact takeEntry_block? ..

/-- The state in which the barrier word of an `ldsc` expects its bytes. -/
def ldscCounted (s : State) (m : Me) (o : MOps) : State :=
  barStep (withLanding s m o) m.c m.st.block (m.st.regs.get o.sx).toNat 0 (widBytes o.wid * (mAddrs o m s).length : Nat)

theorem ldscCounted_mem : (ldscCounted s m o).mem = s.mem := (barStep_frame ..).memory.trans withLanding_mem

theorem ldscCounted_strand? : (ldscCounted s m o).strand? m.c m.k = s.strand? m.c m.k :=
  (barStep_strand? ..).trans withLanding_strand?

/-- The accesses of an `ldsc`. -/
def ldscAccesses (s : State) (m : Me) (o : MOps) (l : List (Nat × Nat × Nat)) : List Access :=
  globalAccesses l (widBytes o.wid) (fun _ _ => .load) (.landing (ldscLanding s m o).id) false (fun _ => false) fun _ => o.scope

/-- `ldsc` sends its loads where its barrier word is one of the block's and takes their bytes, and the ranges it counts into are
free. -/
theorem exec_ldsc_done (hr : Ready s m (ldscUses o)) (haddrs : mAddrs o m s ≠ [])
    (hfree : o.dst = false → entriesOf (s.cluster m.c) m.k < Config.deliveryEntries)
    (hbar : barrierAt m.blk (m.st.regs.get o.sx).toNat = true)
    (hreach : Reached s m .load (widBytes o.wid) (landAlso o m s) (mAddrs o m s) l)
    (hword : rangeBusy s m (m.st.regs.get o.sx).toNat 8 = false ∧ sentBusy s m (m.st.regs.get o.sx).toNat 8 = false)
    (hfence : m.st.fenced 1 = false)
    (hlands : ∀ q ∈ (if o.dst then landAddrs o m s else []),
      rangeBusy s m q.2 (widBytes o.wid) = false ∧ sentBusy s m q.2 (widBytes o.wid) = false)
    (hpend : barPend (readNat m.blk.scratch (m.st.regs.get o.sx).toNat 8) + widBytes o.wid * (mAddrs o m s).length < 2 ^ 31) :
    exec (.ldsc o) s = .next (completed m true o.hdr.stop (successor m.st.pc)
      (bmemRecord (m.clearPi (sendAll (ldscCounted s m o) m (ldscAccesses s m o l))) m 2 o.scope (mAddrs o m s))) := by
  have hentry : ¬(!o.dst && noEntry s m) = true := by
    cases hd : o.dst
    · simpa using noEntry_free (hfree hd)
    · simp
  have hranged : (rangeBusy s m (m.st.regs.get o.sx).toNat 8 || sentBusy s m (m.st.regs.get o.sx).toNat 8 || m.st.fenced 1
      || (if o.dst then landAddrs o m s else []).any fun q =>
        rangeBusy s m q.2 (widBytes o.wid) || sentBusy s m q.2 (widBytes o.wid)) = false := by
    rw [hword.1, hword.2, hfence, List.any_eq_false.mpr fun q hq => by simp [hlands q hq]]
    rfl
  rw [exec_ldsc, execLdsc]
  refine issue_doneBo hr rfl ?_
  dsimp only
  rw [if_neg (mAddrs_cons haddrs), hbar, if_neg (by simp), if_neg hentry, withTrans_reached hreach, hranged,
    if_neg Bool.false_ne_true, if_neg (Nat.not_le.mpr hpend)]
  unfold ldscCounted ldscAccesses withLanding ldscLanding ldscEntry
  cases o.dst <;> rfl

theorem widBytes_pos (w : Wid) : 0 < widBytes w := by cases w <;> decide

/-- The barrier word of an `ldsc` expects its bytes more than before. -/
theorem ldscCounted_block? (hm : me? s = some m) (haddrs : mAddrs o m s ≠ [])
    (hbar : barrierAt m.blk (m.st.regs.get o.sx).toNat = true) (hwf : Memory.wf m.blk.scratch = true)
    (hpend : barPend (readNat m.blk.scratch (m.st.regs.get o.sx).toNat 8) + widBytes o.wid * (mAddrs o m s).length < 2 ^ 31) :
    ∃ b, (ldscCounted s m o).block? m.c m.st.block = some b ∧ readNat b.scratch (m.st.regs.get o.sx).toNat 8 =
      barExpecting (readNat m.blk.scratch (m.st.regs.get o.sx).toNat 8) (widBytes o.wid * (mAddrs o m s).length) := by
  obtain ⟨-, -, hown, -⟩ := me?_some hm
  have halign : (m.st.regs.get o.sx).toNat % 8 = 0 := by
    simp only [barrierAt, Bool.and_eq_true, beq_iff_eq] at hbar
    exact hbar.1
  exact barStep_expects ((withLanding_block? _).trans hown) hwf halign
    (Nat.mul_pos (widBytes_pos _) (List.length_pos_iff.mpr haddrs)) hpend
end

/-- Settles O29: both send their accesses from a state with the strand's own registers and memory, `ldsc` once its word expects the
bytes. -/
theorem broadcastAtomics : Obligations.BroadcastAtomics := by
  unfold Obligations.BroadcastAtomics
  intro s m o l
  refine ⟨fun hr haddrs hfree hreach => ?_, fun hr haddrs hfree hbar hwf hreach hrange hsent hfence hlands hpend => ?_⟩
  · refine completed_sends (s₁ := withEntry s m o (atomAddrs o m s)) hr.here
      (l := globalAccesses l (widBytes o.wid) (fun _ ts => .rmw o.aop (ts.map (atomMember o m)))
        (.delivery (s.cluster m.c).nextId) (isAcq o.ord) (fun _ => isRel o.ord) fun _ => o.scope)
      (kind := 3) (scope := o.scope) (addrs := atomAddrs o m s) (takeEntry_strand? ..) rfl (globalAccesses_told ..) ?_
    rw [exec_atom, execAtom]
    refine issue_doneBo hr rfl ?_
    rw [if_neg (atomAddrs_cons haddrs), if_neg (noEntry_free hfree)]
    exact withTrans_reached hreach _ _
  · obtain ⟨b, hb, hcount⟩ := ldscCounted_block? hr.here haddrs hbar hwf hpend
    have hst := sent_strand? (s₁ := ldscCounted s m o) hr.here ldscCounted_strand? (ldscAccesses s m o l) 2 o.scope (mAddrs o m s)
    refine ⟨_, exec_ldsc_done hr haddrs hfree hbar hreach ⟨hrange, hsent⟩ hfence hlands hpend, fun hu => ?_⟩
    obtain ⟨hbytes, hblocks⟩ := completed_keeps (s := s) (bo := true) hst rfl (by simp [ldscCounted_mem]) hu
    obtain ⟨st, hst', -, -, hsent'⟩ := completed_sent_of (bo := true) hst rfl (fun _ => rfl) rfl rfl
      ((numbered_told ..).trans (globalAccesses_told ..)) hu
    refine ⟨hbytes, st, b, hst', ?_, (hblocks _).trans ?_, ?_, ?_⟩
    · rwa [ldscLanding_id] at hsent'
    · rw [bmemRecord_block?, clearPi_block?, sendAll_block?, hb]
    · rw [hcount]
      exact (barPend_barWord ..).trans (Nat.mod_eq_of_lt hpend)
    · rw [hcount]
      exact (barArr_barWord ..).trans (barArr_mod _)

end Sys2Proof.Machine
end

section
/-!
PROOFS. `baraw` on a barrier word in a scratchpad that is not in its canonical form (09 R142): the byte of PHASE stands in it twice,
and is read as before when the phase has completed. The statement asks for the canonical form of what is written, and not of when
`baraw` goes on.
-/
namespace Sys2Proof.Machine

/-- A block whose barrier word expects one arrival in a phase of 1, with the byte of PHASE listed twice. -/
def twiceListed : Block := { stageBlock with scratch := [(0, 1), (4, 1), (4, 1)] }

/-- A machine whose current strand, of that block, stands at the word. -/
def twiceState : State :=
  { State.reset with
    clusters := [(0, { stageCluster with blocks := [(0, twiceListed)] })], ctxs := [(0, stageContext)], cur := some (0, 0) }

def twiceMe : Me := { c := 0, k := 0, st := stageStrand, blk := twiceListed, inH := false }

/-- The operands of a barrier instruction at address 0. -/
def wordZero : MOps :=
  { hdr := { stop := false, wfa := false, wfb := false, wfc := false }, vd := 0, vx := 0, sb := 0, wid := .b64, scope := .block
    ord := .relaxed, dst := false, aop := .add, sx := 0, off32 := 0 }

theorem twice_ready : Ready twiceState twiceMe (smUses wordZero [] []) :=
  ready_of_gate (by decide +kernel) (fun h => by cases h) (by decide +kernel)

/-- The word is one of the block's, and nothing holds the strand back from it. -/
theorem twice_clear : barrierAt twiceListed 0 = true ∧ RangeClear twiceState twiceMe true 0 8 ∧
    wordFree twiceState twiceMe 0 = true ∧ twiceMe.mayArrive twiceState 0 = true := by
  unfold RangeClear
  decide +kernel

/-- One arrival completes the phase. -/
theorem twice_last : barArr (readNat twiceListed.scratch 0 8) + 1 = barExp (readNat twiceListed.scratch 0 8) ∧
    barPend (readNat twiceListed.scratch 0 8) = 0 := by decide +kernel

/-- The PC of that strand in the state an outcome answers. -/
def pcOf (o : Host.Outcome State Fault Refusal) : Option PC :=
  match o with
  | .next t => (t.strand? 0 0).map Strand.pc
  | _ => none

/-- The model leaves the strand at its PC. -/
theorem twice_waits : pcOf (exec (.baraw wordZero) twiceState) = some stageStrand.pc := by decide +kernel

/-- Refutes O30: in a scratchpad that lists the byte of PHASE twice, `baraw` waits although its own arrival completes the phase. -/
theorem not_barrierWords : ¬ Obligations.BarrierWords := by
  unfold Obligations.BarrierWords
  intro h
  obtain ⟨harrival, -⟩ := h twiceState twiceMe wordZero
  obtain ⟨hbar, hrange, hfree, hmay⟩ := twice_clear
  have hlt : barArr (readNat twiceListed.scratch 0 8) < barExp (readNat twiceListed.scratch 0 8) :=
    twice_last.1 ▸ Nat.lt_succ_self _
  obtain ⟨-, hwaits⟩ := harrival twice_ready ⟨hbar, hrange, hfree⟩ hlt hmay
  obtain ⟨t, st, hex, -, hleft⟩ := hwaits rfl
  obtain ⟨hst, hlast, -⟩ := hleft fun hstop => by cases hstop
  have hstays : pcOf (.next t) = some stageStrand.pc := hex ▸ twice_waits
  have hpc : st.pc = stageStrand.pc := by simpa [pcOf, show t.strand? 0 0 = some st from hst] using hstays
  rw [hlast twice_last] at hpc
  exact absurd hpc (by decide)

end Sys2Proof.Machine
end

section
/-!
PROOFS. `fence`, `gbar` and `waitv` (09 R140, R143, R145).
-/
namespace Sys2Proof.Machine

/-! ### Fences (R140) -/

theorem bitOf_eq_testBit (n i : Nat) : bitOf n i = n.testBit i := by
  rw [Nat.testBit_eq_decide_div_mod_eq, bitOf]
  rfl

/-- A set of classes is the low bits of the word that names it. -/
theorem bitOf_classes {i : Nat} (x : W32) (h : i < 8) : bitOf (x.toNat % 256) i = x.getLsbD i := by
  rw [bitOf_eq_testBit, show 256 = 2 ^ 8 from rfl, Nat.testBit_mod_two_pow, decide_eq_true h, Bool.true_and]
  rfl

theorem wideScope_iff {x : Scope} : wideScope x = true ↔ x = .pkg ∨ x = .sys := by simp [wideScope]

section
variable {s : State} {m : Me} {pred succ : Nat} {scope : Scope}

/-- A class of the predecessor set has work outstanding. -/
def fenceWaits (s : State) (m : Me) (pred : Nat) : Bool :=
  (upto 8).any fun i => bitOf pred i && classPending (s.cluster m.c) m i

/-- So does class R or W beside what the strand has sent. -/
def fenceUnsent (s : State) (m : Me) (pred : Nat) : Bool :=
  (upto 2).any fun i => bitOf pred i && classPending (s.cluster m.c) { m with st := { m.st with out := [] } } i

/-- The fence is of classes R and W alone, at `.strand`, and the strand has no job or engine operation under way. -/
def fenceAlone (s : State) (m : Me) (pred succ : Nat) (scope : Scope) : Prop :=
  (pred < 4 ∧ succ < 4) ∧ scope = .strand ∧ (s.cluster m.c).enginesOf m.k m.st.block = false

theorem any_classes {n : Nat} (x : W32) (f : Nat → Bool) (hn : n ≤ 8) :
    ((upto n).any fun i => bitOf (x.toNat % 256) i && f i) = true ↔ ∃ i, i < n ∧ x.getLsbD i = true ∧ f i = true := by
  simp only [upto, List.any_eq_true, List.mem_range, Bool.and_eq_true]
  refine exists_congr fun i => and_congr_right fun hi => ?_
  rw [bitOf_classes x (by omega)]

/-- A fence that waits has a predecessor set. -/
theorem pred_ne_zero (h : fenceWaits s m pred = true) : pred ≠ 0 := by
  rintro rfl
  simp [fenceWaits, bitOf] at h

/-- A fence is of classes R and W alone where both sets lie below 4. -/
theorem plain_iff : (pred / 4 == 0 && succ / 4 == 0) = true ↔ pred < 4 ∧ succ < 4 := by
  simp only [Bool.and_eq_true, beq_iff_eq]
  omega

/-- A fence goes on that has nothing to wait for or orders nothing. -/
theorem fenceEff_done (h : ¬fenceWaits s m pred = true ∨ succ = 0 ∨ fenceAlone s m pred succ scope) :
    fenceEff s m pred succ scope = .done s := by
  unfold fenceEff
  refine if_pos ?_
  rcases h with h | h | ⟨hplain, hscope, hengines⟩
  · rw [Bool.not_eq_true] at h
    rw [show ((upto 8).any fun i => bitOf pred i && classPending (s.cluster m.c) m i) = false from h]
    simp
  · simp [h]
  · rw [plain_iff.mpr hplain, hengines]
    simp [hscope]

/-- A fence that waits and orders something does not go on at once. -/
theorem fence_open (hwaits : fenceWaits s m pred = true) (hsucc : succ ≠ 0) (halone : ¬fenceAlone s m pred succ scope) :
    (pred == 0 || succ == 0 || !(fenceWaits s m pred) ||
      ((pred / 4 == 0 && succ / 4 == 0) && scope == .strand && !(s.cluster m.c).enginesOf m.k m.st.block)) = false := by
  have h : ((pred / 4 == 0 && succ / 4 == 0) && scope == .strand && !(s.cluster m.c).enginesOf m.k m.st.block) = false := by
    rw [Bool.eq_false_iff]
    intro h
    rw [Bool.and_eq_true, Bool.and_eq_true, plain_iff] at h
    obtain ⟨⟨hplain, hscope⟩, hengines⟩ := h
    exact halone ⟨hplain, by simpa using hscope, by simpa using hengines⟩
  rw [h]
  simp [pred_ne_zero hwaits, hsucc, hwaits]

/-- One of the package or the system stalls, and one that cannot be sent and does not go ahead. -/
theorem fenceEff_stalls (hwaits : fenceWaits s m pred = true) (hsucc : succ ≠ 0) (halone : ¬fenceAlone s m pred succ scope)
    (h : wideScope scope = true ∨
      ((¬(pred < 4 ∧ succ < 4) ∨ fenceUnsent s m pred = true) ∧ (scope = .strand ∨ s.ahead = false))) :
    fenceEff s m pred succ scope = .stall .engine s := by
  unfold fenceEff
  refine (if_neg (Bool.eq_false_iff.mp (fence_open hwaits hsucc halone))).trans ?_
  by_cases hwide : wideScope scope = true
  · exact if_pos hwide
  rw [if_neg hwide]
  obtain ⟨hkept, hscope⟩ := h.resolve_left hwide
  have hsent : ¬((pred / 4 == 0 && succ / 4 == 0) && !(fenceUnsent s m pred)) = true := by
    rw [Bool.and_eq_true, plain_iff, Bool.not_eq_true', not_and, Bool.not_eq_false]
    exact fun hplain => hkept.resolve_left (not_not_intro hplain)
  refine (if_neg hsent).trans ?_
  by_cases hstrand : scope = .strand
  · simp [hstrand]
  · simp [hstrand, aheadOf, hscope.resolve_left hstrand]

/-- One of a narrower scope with the classes R and W alone is sent. -/
theorem fenceEff_sends (hwaits : fenceWaits s m pred = true) (hsucc : succ ≠ 0) (halone : ¬fenceAlone s m pred succ scope)
    (hplain : pred < 4 ∧ succ < 4) (hwide : ¬wideScope scope = true) (hunsent : ¬fenceUnsent s m pred = true) :
    fenceEff s m pred succ scope =
      .done (sendAll s m [newAccess none 0 0 (.fence pred succ) .none false false scope false]) := by
  unfold fenceEff
  refine (if_neg (Bool.eq_false_iff.mp (fence_open hwaits hsucc halone))).trans ((if_neg hwide).trans (if_pos ?_))
  rw [Bool.and_eq_true, plain_iff, Bool.not_eq_true']
  exact ⟨hplain, Bool.eq_false_iff.mpr hunsent⟩
end

/-- The sets of a fence's operand. -/
theorem fence_sets (x : W32) : bitsOf x.toNat 7 0 = x.toNat % 256 ∧ bitsOf x.toNat 15 8 = x.toNat / 256 % 256 := by
  simp [bitsOf]

/-! ### Watches (R145) -/

/-- What is seen of memory rests on memory, the locks and the doorbells. -/
theorem seenNat_congr {s t : State} (hm : t.mem = s.mem) (hl : t.locks = s.locks) (hb : t.bells = s.bells) (pa n : Nat) :
    seenNat t pa n = seenNat s pa n := by
  simp [seenNat, seenBytes, bellBytes, lockServes, hm, hl, hb]

theorem seenNat_shareLine (s : State) (b : Bool) (pa a n : Nat) : seenNat (shareLine s b pa) a n = seenNat s a n := by
  have h := (shareLine_frame s b pa).rest
  exact seenNat_congr (shareLine_mem ..) (by rw [h]) (shareLine_frame s b pa).bells a n

section
variable {s : State} {m : Me}

/-- An access that takes place at once is not held back. -/
theorem reachHeld_free {bit pa n : Nat} (hsent : sentMeets s m pa n = false) (hfence : m.st.fenced bit = false)
    (hport : portReady s pa = true) (hlink : linkFree s m.c pa = true) : reachHeld s m bit pa n = false := by
  simp [reachHeld, hsent, hfence, hport, hlink]

/-- A watch has fired when it is armed where the word differs already. -/
theorem armWatch_eq (w : Watch) : armWatch s m w =
    .done (m.setRegs s fun r => { r with watch := some { w with fired := decide (watchSees s m.blk w ≠ w.value) } }) := by
  simp [armWatch, bne, decide_not, beq_eq_decide]

/-- The watch that `waitv` arms on a word of memory. -/
def memWatch (s : State) (m : Me) (o : MOps) (pa : Nat) : Watch :=
  let v := (m.st.regs.get o.sx).toNat % 2 ^ (8 * widBytes o.wid)
  { scratch := false, addr := pa, bytes := widBytes o.wid, value := v, seen := false
    fired := decide (seenNat s pa (widBytes o.wid) ≠ v) }

/-- `waitv` arms a watch on a word of memory that it reaches, whose line is then held where it is shared. -/
theorem exec_waitv_memory {o : MOps} {pa leaf : Nat} (hr : Ready s m (smUses o [(o.sx, o.hdr.wfc)] [])) (hd : o.dst = false)
    (hreach : Reached s m .load (widBytes o.wid) noAlso [(0, scalarAddr o m.st.regs)] [(0, pa, leaf)])
    (hfree : reachHeld s m 0 pa (widBytes o.wid) = false) : ∃ shared, exec (.waitv o) s =
      .next (completed m false o.hdr.stop (successor m.st.pc)
        (m.setRegs (shareLine s shared pa) fun r => { r with watch := some (memWatch s m o pa) })) := by
  refine ⟨[((0, pa, leaf) : Nat × Nat × Nat)].any fun q => leafShared q.2.2, ?_⟩
  rw [exec_waitv, execWaitv]
  refine issue_done hr ?_
  dsimp only
  rw [if_neg (by simp [hd])]
  refine (withTrans_reached hreach _ _).trans ((if_neg (Bool.eq_false_iff.mp hfree)).trans ?_)
  rw [armWatch_eq]
  simp only [watchSees, Bool.false_eq_true, if_false, seenNat_shareLine]
  rfl

/-- The strand goes on with it. -/
theorem waitv_memory_armed {o : MOps} {pa leaf : Nat} (hr : Ready s m (smUses o [(o.sx, o.hdr.wfc)] [])) (hd : o.dst = false)
    (hreach : Reached s m .load (widBytes o.wid) noAlso [(0, scalarAddr o m.st.regs)] [(0, pa, leaf)])
    (hfree : reachHeld s m 0 pa (widBytes o.wid) = false) : ∃ t st, exec (.waitv o) s = .next t ∧
      (Unstepped m o.hdr.stop → t.strand? m.c m.k = some st ∧ st.pc = successor m.st.pc ∧
        st.regs.watch = some (memWatch s m o pa)) := by
  obtain ⟨shared, hex⟩ := exec_waitv_memory hr hd hreach hfree
  have hst : (m.setRegs (shareLine s shared pa) fun r => { r with watch := some (memWatch s m o pa) }).strand? m.c m.k =
      some { m.st with regs := { m.st.regs with watch := some (memWatch s m o pa) } } :=
    State.strand?_modStrand _ _ ((strand?_of_clusters (shareLine_clusters ..) ..).trans (me?_some hr.here).2.1)
  by_cases hu : Unstepped m o.hdr.stop
  · obtain ⟨st, hst', hpc, hregs, -⟩ := completed_unstepped (bo := false) (next := successor m.st.pc) hst rfl hu
    exact ⟨_, st, hex, fun _ => ⟨hst', hpc, by rw [hregs]⟩⟩
  · exact ⟨_, m.st, hex, fun h => absurd h hu⟩
end

/-- Settles O31: each of the three goes on, waits or traps by one test of what is outstanding. -/
theorem fencesAndWatches : Obligations.FencesAndWatches := by
  unfold Obligations.FencesAndWatches
  intro s m o pa leaf w a v done pred succ plain wide waits unsent alone
  have hwaits : fenceWaits s m pred = true ↔ waits := any_classes o.off32 _ (by decide)
  have hunsent : fenceUnsent s m pred = true ↔ unsent := any_classes o.off32 _ (by decide)
  have hwide : wideScope o.scope = true ↔ wide := wideScope_iff
  have hfence : exec (.fence o) s =
      issue s 0xCB o.hdr.stop { ord := true, mem := true } fun m => fenceEff s m pred succ o.scope := by
    obtain ⟨hpred, hsucc⟩ := fence_sets o.off32
    rw [exec_fence, execFence, hpred, hsucc]
  refine ⟨fun hr => ⟨fun h => ?_, fun hw hs ha h => ?_, fun hw hs ha hp hn hu => ?_⟩,
    fun hr => ⟨fun h => ?_, fun r hc hh hg hlt => ?_⟩,
    fun hr => ⟨fun hd hin hsent hf => ?_, fun hd hreach hsent hf hport hlink => ?_⟩⟩
  · rw [← hwaits] at h
    rw [hfence]
    exact issue_done hr (fenceEff_done h)
  · rw [hfence]
    rw [← hwide, ← hunsent] at h
    exact issue_waits hr (fenceEff_stalls (hwaits.mpr hw) hs ha h) (fun h => by cases h)
  · obtain ⟨t, st, hex, h⟩ := accesses_sent (what := [(none, 0, 0, .fence pred succ, false, false, .none)]) hr.here rfl
      (hfence.trans (issue_done hr (fenceEff_sends (hwaits.mpr hw) hs ha hp (mt hwide.mp hn) (mt hunsent.mp hu))))
    refine ⟨t, st, hex, fun hstep => ?_⟩
    obtain ⟨hbytes, hst, -, hsent⟩ := h hstep
    exact ⟨hbytes, hst, hsent⟩
  · rw [exec_gbar, execGbar]
    refine issue_trapped hr rfl ?_
    simp only [h, Bool.not_false, if_true]
    rfl
  · rw [exec_gbar, execGbar]
    refine issue_done hr ?_
    simp only [hc, hh, gbarEff, hg, hlt, if_true, Bool.not_true, Bool.false_eq_true, if_false]
  · rw [exec_waitv, execWaitv]
    refine issue_done hr ?_
    dsimp only
    rw [if_pos hd]
    refine (withScratch_pass hin _).trans ?_
    rw [show sentBusy s m (scalarAddr o m.st.regs) (widBytes o.wid) = false from hsent, hf]
    exact armWatch_eq _
  · exact waitv_memory_armed hr hd hreach (reachHeld_free hsent hf hport hlink)

end Sys2Proof.Machine
end

section
/-!
PROOFS. `lock`, `trylock` and `unlock` (09 R144).
-/
namespace Sys2Proof.Machine

/-! ### The word of a lock -/

/-- The bytes of a number, by their place. -/
theorem leBytes_eq_map (k n : Nat) : leBytes k n = (upto k).map fun i => BitVec.ofNat 8 (n / 2 ^ (8 * i)) := by
  induction k generalizing n with
  | zero => rfl
  | succ k ih =>
    rw [leBytes, ih]
    simp only [upto]
    rw [List.range_succ_eq_map, List.map_cons, List.map_map]
    refine congrArg₂ _ (by simp) (List.map_congr_left fun i _ => ?_)
    rw [Nat.div_div_eq_div_mul, Function.comp_apply, Nat.mul_succ, Nat.pow_add, Nat.mul_comm]

section
variable {s : State} {m : Me} {pa va : Nat}

/-- A word that a lock state serves reads as the lock's. -/
theorem seenNat_served {l : Lock} (halign : pa % 8 = 0) (hbell : isBell pa = false) (h : lockServes s pa = some l) :
    seenNat s pa 8 = (lockWord l).toNat := by
  have hbytes : seenBytes s pa 8 = leBytes 8 (lockWord l).toNat := by
    rw [seenBytes, if_neg (Bool.eq_false_iff.mp hbell), leBytes_eq_map]
    refine List.map_congr_left fun i hi => ?_
    have hi : i < 8 := List.mem_range.mp hi
    have hserves : lockServes s (pa + i) = some l := by
      rwa [lockServes, show (pa + i) / 8 * 8 = pa / 8 * 8 by omega]
    rw [hserves, show (pa + i) % 8 = i by omega]
  rw [seenNat, hbytes, leNat_leBytes]
  exact Nat.mod_eq_of_lt (lockWord l).isLt

/-- A lock that is held and not waited for reads HELD with its holder's slot, cluster and context. -/
theorem lockWord_held (h : Holder) (va : Nat) : (lockWord { holder := some h, waiters := [], va := va }).toNat =
    1 + 2 ^ 30 * (h.slot % 8) + 2 ^ 33 * (h.cluster % 512) + 2 ^ 42 * (h.ctx % 64) := by
  simp only [lockWord, payload, joinFields, BitVec.toNat_ofNat, List.length_nil]
  omega

/-! ### What lock records and locks leave -/

/-- A record of a lock changes a vault and nothing else. -/
theorem lockRecord_eq (s : State) (kind : Nat) (h : Holder) (pa va : Nat) :
    lockRecord s kind h pa va = { s with vaults := (lockRecord s kind h pa va).vaults } := record_eq ..

@[simp] theorem lockRecord_locks (s : State) (kind : Nat) (h : Holder) (pa va : Nat) :
    (lockRecord s kind h pa va).locks = s.locks := by rw [lockRecord_eq]

@[simp] theorem lockRecord_mem (s : State) (kind : Nat) (h : Holder) (pa va : Nat) :
    (lockRecord s kind h pa va).mem = s.mem := record_mem ..

@[simp] theorem lockRecord_clusters (s : State) (kind : Nat) (h : Holder) (pa va : Nat) :
    (lockRecord s kind h pa va).clusters = s.clusters := record_clusters ..

/-- What the lock of a word is where its state is the last that was set. -/
theorem lockAt_set {t : State} {l : Lock} (h : t.locks = s.locks.set pa l) : t.lockAt pa = l := by
  simp [State.lockAt, h]

theorem takeLock_locks : (takeLock s m pa va).locks = s.locks.set pa { holder := some m.asHolder, waiters := [], va := va } :=
  lockRecord_locks ..

/-- The word of a lock that is taken names the strand. -/
theorem seenNat_takeLock (halign : pa % 8 = 0) (hbell : isBell pa = false) : seenNat (takeLock s m pa va) pa 8 =
    1 + 2 ^ 30 * (m.k % 8) + 2 ^ 33 * (m.c % 512) + 2 ^ 42 * (m.ctx % 64) := by
  rw [seenNat_served (l := { holder := some m.asHolder, waiters := [], va := va }) halign hbell, lockWord_held]
  · rfl
  · rw [lockServes, show pa / 8 * 8 = pa by omega, takeLock_locks, SMap.get?_set_self]
    rfl

/-! ### An attempt at a lock -/

/-- The strand reaches the word of a lock. -/
structure LockReached (s : State) (m : Me) (o : MOps) (pa leaf : Nat) : Prop where
  reached : Reached s m .lock 8 noAlso [(0, scalarAddr o m.st.regs)] [(0, pa, leaf)]
  sent : sentMeets s m pa 8 = false
  port : portReady s pa = true
  reads : m.st.fenced 0 = false
  writes : m.st.fenced 1 = false
  link : linkFree s m.c pa = true

/-- A lock instruction that reaches its word has the effect on it. -/
theorem withLock_reached {o : MOps} {leaf : Nat} (h : LockReached s m o pa leaf) (k : Nat → Nat → Lock → Eff) :
    withLock s m o k = k pa (scalarAddr o m.st.regs) (s.lockAt pa) := by
  unfold withLock
  refine (withTrans_reached h.reached _ _).trans (if_neg ?_)
  simp [reachHeld_free h.sent h.reads h.port h.link, h.writes]

/-- A lock that nobody holds or waits for is free. -/
theorem Lock.free_of {l : Lock} (hh : l.holder = none) (hw : l.waiters = []) : l.free = true := by
  simp [Lock.free, hh, hw]

theorem Lock.free_held {l : Lock} {h : Holder} (hh : l.holder = some h) : l.free = false := by
  simp [Lock.free, hh]
end

section
variable {s : State} {m : Me} {o : MOps} {pa leaf : Nat}

/-- The lock of a word with the strand at the end of its queue. -/
def Lock.joined (l : Lock) (m : Me) : Lock := { l with waiters := l.waiters ++ [m.asHolder] }

/-- The strand waits in the queue of a lock. -/
def queuedAt (s : State) (m : Me) (pa va : Nat) : State :=
  let t : State := { s with locks := s.locks.set pa ((s.lockAt pa).joined m) }
  lockRecord (t.modStrand m.c m.k fun st => { st with wait := .queued pa }) 1 m.asHolder pa va

theorem queuedAt_locks (va : Nat) : (queuedAt s m pa va).locks = s.locks.set pa ((s.lockAt pa).joined m) := by simp [queuedAt]

theorem queuedAt_mem (va : Nat) : (queuedAt s m pa va).mem = s.mem := by simp [queuedAt]

theorem queuedAt_strand? (hm : me? s = some m) (va : Nat) :
    (queuedAt s m pa va).strand? m.c m.k = some { m.st with wait := .queued pa } :=
  (strand?_of_clusters (lockRecord_clusters ..) ..).trans (State.strand?_modStrand _ _ (me?_some hm).2.1)

/-- `lock` at its first attempt. -/
theorem exec_lockW_first (hr : Ready s m (smUses o [] [])) (h : LockReached s m o pa leaf) (hw : m.st.wait = .none) :
    exec (.lockW o) s = issue s 0xD0 o.hdr.stop (smUses o [] []) fun _ =>
      if (s.lockAt pa).holder == some m.asHolder then .trap causeIllSync (opInfo 0xD0) s
      else if (s.lockAt pa).free then .done (takeLock s m pa (scalarAddr o m.st.regs))
      else if sliceFull s pa then .stall .lock s
      else .stall .lock (queuedAt s m pa (scalarAddr o m.st.regs)) := by
  rw [exec_lockW, execLockW, issue_ready hr, issue_ready hr]
  simp only [hw]
  rw [withLock_reached h]
  rfl

/-- `lock` of a word that another holds joins its queue. -/
theorem exec_lockW_queues (hr : Ready s m (smUses o [] [])) (h : LockReached s m o pa leaf) (hw : m.st.wait = .none)
    (hother : (s.lockAt pa).holder ≠ some m.asHolder) (hheld : (s.lockAt pa).free = false) (hfull : sliceFull s pa = false) :
    ∃ t st, exec (.lockW o) s = .next t ∧ SameBytes s t ∧ t.strand? m.c m.k = some st ∧ st.pc = m.st.pc ∧
      st.stall = some .lock ∧ st.wait = .queued pa ∧ (t.lockAt pa).holder = (s.lockAt pa).holder ∧
      (t.lockAt pa).waiters = (s.lockAt pa).waiters ++ [m.asHolder] := by
  have hex : exec (.lockW o) s = .next ((queuedAt s m pa (scalarAddr o m.st.regs)).modStrand m.c m.k fun st =>
      { st with stall := some .lock, waited := 0, pre := [] }) := by
    refine (exec_lockW_first hr h hw).trans (issue_waits hr ?_ fun hbo => by cases hbo)
    rw [if_neg (by simpa using hother), if_neg (Bool.eq_false_iff.mp hheld), if_neg (Bool.eq_false_iff.mp hfull)]
  refine ⟨_, _, hex, fun x => by simp [queuedAt_mem], State.strand?_modStrand _ _ (queuedAt_strand? hr.here _), rfl, rfl, rfl,
    ?_, ?_⟩
  all_goals
    rw [lockAt_set (s := s) (l := (s.lockAt pa).joined m) (by simp [queuedAt_locks])]
    rfl

/-- What a lock instruction that completes leaves of the locks and of memory is what its effect left. -/
theorem completed_locks {stop : Bool} {t : State} (hst : t.strand? m.c m.k = some m.st) (hu : Unstepped m stop) :
    (completed m false stop (successor m.st.pc) t).locks = t.locks ∧
      (completed m false stop (successor m.st.pc) t).mem = t.mem := by
  have h : completed m false stop (successor m.st.pc) t = retiredState t m stop false (successor m.st.pc) m.st :=
    retire_unstepped hst (hu.not_step rfl)
  have hframe := (OwnFrame.retiredState (s := t) (m := m) stop false (successor m.st.pc) m.st).machine
  rw [h, hframe]
  exact ⟨rfl, rfl⟩

/-- `unlock` by the holder passes the lock on. -/
theorem exec_unlockW_passes (hr : Ready s m (smUses o [] [])) (h : LockReached s m o pa leaf)
    (hmine : (s.lockAt pa).holder = some m.asHolder) (hquiet : m.quiet s = true) : exec (.unlockW o) s =
      .next (completed m false o.hdr.stop (successor m.st.pc) (passLock s m pa (scalarAddr o m.st.regs) (s.lockAt pa))) := by
  rw [exec_unlockW, execUnlockW]
  refine issue_done hr ((withLock_reached h _).trans ?_)
  rw [if_neg (by simp [hmine]), if_neg (by simp [hquiet])]

/-- A lock that passes to a waiter has it as its holder. -/
theorem passLock_waiter {va : Nat} {l : Lock} {w : Holder} {rest : List Holder} (h : l.waiters = w :: rest) :
    (passLock s m pa va l).locks = s.locks.set pa { l with holder := some w, waiters := rest } ∧
      (passLock s m pa va l).mem = s.mem := by
  unfold passLock
  rw [h]
  simp

/-- A lock that nobody waits for is freed, and its word is written 0. -/
theorem passLock_free {va : Nat} {l : Lock} (h : l.waiters = []) : (passLock s m pa va l).locks = s.locks.del pa ∧
    (passLock s m pa va l).mem = writeNat s.mem pa 8 0 := by
  unfold passLock
  rw [h]
  simp

theorem passLock_clusters (va : Nat) (l : Lock) : (passLock s m pa va l).clusters = s.clusters := by
  unfold passLock
  split <;> simp

/-- What `unlock` by the holder leaves: the oldest waiter holds the lock, or it is free and its word reads 0. -/
theorem exec_unlockW_leaves (hr : Ready s m (smUses o [] [])) (h : LockReached s m o pa leaf)
    (hmine : (s.lockAt pa).holder = some m.asHolder) (hquiet : m.quiet s = true) :
    ∃ t, exec (.unlockW o) s = .next t ∧ (Unstepped m o.hdr.stop →
      (∀ w rest, (s.lockAt pa).waiters = w :: rest →
        (t.lockAt pa).holder = some w ∧ (t.lockAt pa).waiters = rest ∧ SameBytes s t) ∧
      ((s.lockAt pa).waiters = [] → t.locks.get? pa = none ∧ (Memory.wf s.mem = true → readNat t.mem pa 8 = 0 ∧
        ∀ x, x < pa ∨ pa + 8 ≤ x → readByte t.mem x = readByte s.mem x))) := by
  refine ⟨_, exec_unlockW_passes hr h hmine hquiet, fun hu => ?_⟩
  obtain ⟨hlocks, hmem⟩ := completed_locks
    ((strand?_of_clusters (passLock_clusters (pa := pa) (scalarAddr o m.st.regs) (s.lockAt pa)) ..).trans (me?_some hr.here).2.1) hu
  refine ⟨fun w rest hq => ?_, fun hq => ?_⟩
  · obtain ⟨hset, hsame⟩ := passLock_waiter (s := s) (m := m) (pa := pa) (va := scalarAddr o m.st.regs) hq
    have hnext := lockAt_set (s := s) (hlocks.trans hset)
    exact ⟨by rw [hnext], by rw [hnext], fun x => by rw [hmem, hsame]⟩
  · obtain ⟨hdel, hzero⟩ := passLock_free (s := s) (m := m) (pa := pa) (va := scalarAddr o m.st.regs) hq
    refine ⟨by rw [hlocks, hdel, SMap.get?_del_self], fun hwf => ⟨?_, fun x hx => ?_⟩⟩
    · rw [hmem, hzero, readNat_writeNat _ _ _ hwf]
      rfl
    · rw [hmem, hzero]
      exact readByte_writeBytes_apart _ _ _ (by rwa [length_leBytes])
end

/-- Settles O32: an attempt that reaches its word comes to what the lock's holder and waiters say. -/
theorem locks : Obligations.Locks := by
  unfold Obligations.Locks
  intro s m o pa leaf a l mine done hreach hsent hport hreads hwrites hlink
  have h : LockReached s m o pa leaf := ⟨hreach, hsent, hport, hreads, hwrites, hlink⟩
  refine ⟨⟨lockAt_set takeLock_locks, lockRecord_mem .., seenNat_takeLock⟩, fun hr =>
    ⟨fun hw hh hq => ?_, exec_lockW_queues hr h, fun hw hh => ?_, fun hw hh => ?_, exec_unlockW_leaves hr h, fun hh => ?_⟩,
    fun hr => ⟨fun hh => ?_, fun hh hq => ?_, fun w hh hw => ?_⟩⟩
  · have hfree : ¬((s.lockAt pa).holder == some m.asHolder) = true := by simp [show (s.lockAt pa).holder = none from hh]
    exact (exec_lockW_first hr h hw).trans (issue_done hr ((if_neg hfree).trans (if_pos (Lock.free_of hh hq))))
  · exact (exec_lockW_first hr h hw).trans (issue_trapped hr rfl (if_pos (by simpa using hh)))
  · rw [exec_lockW, execLockW]
    refine issue_done hr ?_
    simp only [hw]
    exact if_pos (by simpa using hh)
  · rw [exec_unlockW, execUnlockW]
    exact issue_trapped hr rfl ((withLock_reached h _).trans (if_pos (by simpa using hh)))
  · rw [exec_trylock, execTrylock]
    exact issue_trapped hr rfl ((withLock_reached h _).trans (if_pos (by simpa using hh)))
  · have hfree : ¬((s.lockAt pa).holder == some m.asHolder) = true := by simp [show (s.lockAt pa).holder = none from hh]
    rw [exec_trylock, execTrylock]
    exact issue_done hr ((withLock_reached h _).trans ((if_neg hfree).trans (if_pos (Lock.free_of hh hq))))
  · have hother : ¬((s.lockAt pa).holder == some m.asHolder) = true := by
      simpa [show (s.lockAt pa).holder = some w from hh] using hw
    rw [exec_trylock, execTrylock]
    exact issue_done hr ((withLock_reached h _).trans
      ((if_neg hother).trans (if_neg (Bool.eq_false_iff.mp (Lock.free_held hh)))))

end Sys2Proof.Machine
end

section
/-!
PROOFS. Accesses that are performed (09 R134, R135, R138, 14 R217-R219), and an atomic whose reply does not come (23 R302).
-/
namespace Sys2Proof.Machine

/-! ### Bytes that are stored and seen (R134, R144) -/

section
variable {s t : State} {pa n : Nat}

/-- What serves a word rests on the locks. -/
theorem lockServes_congr (h : t.locks = s.locks) (pa : Nat) : lockServes t pa = lockServes s pa := by simp [lockServes, h]

/-- One byte is stored where no lock serves its word. -/
def storeOne (s : State) (pa : Nat) (b : Option Byte) : State :=
  match b with
  | none => s
  | some b => if (lockServes s pa).isSome then s else { s with mem := writeByte s.mem pa b }

theorem storeBytes_cons (s : State) (pa : Nat) (b : Option Byte) (bs : List (Option Byte)) :
    storeBytes s pa (b :: bs) = storeBytes (storeOne s pa b) (pa + 1) bs := rfl

theorem storeOne_locks (s : State) (pa : Nat) (b : Option Byte) : (storeOne s pa b).locks = s.locks := by
  unfold storeOne
  split
  · rfl
  · split <;> rfl

theorem storeOne_apart (s : State) {pa x : Nat} (b : Option Byte) (hx : x ≠ pa) :
    readByte (storeOne s pa b).mem x = readByte s.mem x := by
  unfold storeOne
  split
  · rfl
  · split
    · rfl
    · exact readByte_writeByte_ne _ _ hx

theorem storeOne_free {v : Byte} (h : lockServes s pa = none) : (storeOne s pa (some v)).mem = writeByte s.mem pa v := by
  simp [storeOne, h]

theorem wf_storeOne (pa : Nat) (b : Option Byte) (h : Memory.wf s.mem = true) : Memory.wf (storeOne s pa b).mem = true := by
  unfold storeOne
  split
  · exact h
  · split
    · exact h
    · exact wf_writeByte _ _ h

/-- A store leaves every byte beside it. -/
theorem storeBytes_apart (s : State) (pa : Nat) (bs : List (Option Byte)) {x : Nat} (hx : x < pa ∨ pa + bs.length ≤ x) :
    readByte (storeBytes s pa bs).mem x = readByte s.mem x := by
  induction bs generalizing s pa with
  | nil => rfl
  | cons b bs ih =>
    rw [List.length_cons] at hx
    rw [storeBytes_cons, ih _ _ (by omega), storeOne_apart _ _ (by omega)]

/-- A byte that is stored where no lock serves its word reads back. -/
theorem storeBytes_at {bs : List (Option Byte)} {i : Nat} {v : Byte} (hwf : Memory.wf s.mem = true)
    (hi : bs[i]? = some (some v)) (hfree : lockServes s (pa + i) = none) : readByte (storeBytes s pa bs).mem (pa + i) = v := by
  induction bs generalizing s pa i with
  | nil => simp at hi
  | cons b bs ih =>
    rw [storeBytes_cons]
    cases i with
    | zero =>
      obtain rfl : b = some v := by simpa using hi
      rw [storeBytes_apart _ _ _ (by omega), Nat.add_zero, storeOne_free (by simpa using hfree)]
      exact readByte_writeByte_self _ _ hwf
    | succ i =>
      rw [show pa + (i + 1) = pa + 1 + i by omega] at hfree ⊢
      exact ih (wf_storeOne _ _ hwf) hi ((lockServes_congr (storeOne_locks ..) _).trans hfree)

/-- A number that is stored where no lock serves a byte of it is written. -/
theorem storeBytes_free {bs : List Byte} (h : ∀ i, i < bs.length → lockServes s (pa + i) = none) :
    (storeBytes s pa (bs.map some)).mem = writeBytes s.mem pa bs := by
  induction bs generalizing s pa with
  | nil => rfl
  | cons b bs ih =>
    have hnext : ∀ i, i < bs.length → lockServes (storeOne s pa (some b)) (pa + 1 + i) = none := fun i hi => by
      rw [lockServes_congr (storeOne_locks ..), show pa + 1 + i = pa + (i + 1) by omega]
      exact h _ (by simpa using hi)
    rw [List.map_cons, storeBytes_cons, ih hnext, storeOne_free (by simpa using h 0 (by simp))]
    rfl

theorem readBytes_eq_map (mem : List Host.Cell) (pa n : Nat) :
    readBytes mem pa n = (upto n).map fun i => readByte mem (pa + i) := by
  induction n generalizing pa with
  | zero => rfl
  | succ n ih =>
    rw [readBytes, ih]
    simp only [upto]
    rw [List.range_succ_eq_map, List.map_cons, List.map_map]
    refine congrArg₂ _ rfl (List.map_congr_left fun i _ => ?_)
    rw [Function.comp_apply, show pa + 1 + i = pa + i.succ by omega]

/-- Memory that no lock serves is seen as it is. -/
theorem seenNat_free (hbell : isBell pa = false) (h : ∀ i, i < n → lockServes s (pa + i) = none) :
    seenNat s pa n = readNat s.mem pa n := by
  rw [seenNat, readNat, seenBytes, if_neg (Bool.eq_false_iff.mp hbell), readBytes_eq_map]
  refine congrArg leNat (List.map_congr_left fun i hi => ?_)
  rw [h i (List.mem_range.mp hi)]

/-- The bytes of an aligned number of 4 or 8 bytes lie in one word. -/
theorem lockServes_within (hn : n = 4 ∨ n = 8) (halign : pa % n = 0) (h : lockServes s pa = none) :
    ∀ i, i < n → lockServes s (pa + i) = none := fun i hi => by
  rwa [lockServes, show (pa + i) / 8 = pa / 8 by rcases hn with rfl | rfl <;> omega]
end

/-! ### What a reply brings -/

/-- The strand is as before, but that the late scalar `d` has its value. -/
structure Brought (st st' : Strand) (d : Dest) (v : Nat) : Prop where
  pc : st'.pc = st.pc
  out : st'.out = st.out
  late : ∀ r n, d = .scalar r → st.late.get? r.toNat = some (n, none) →
    st'.late.get? r.toNat = some (n, some (BitVec.ofNat 64 v))

section
variable {s : State} {c slot : Nat} {st : Strand} {a : Access}

@[simp] theorem giveBack_mem (s : State) (c slot bytes : Nat) (d : Dest) (vals : List (Nat × Nat)) :
    (giveBack s c slot bytes d vals).mem = s.mem := by
  cases d <;> simp [giveBack, lateKnown]

@[simp] theorem giveBack_block? (s : State) (c slot bytes : Nat) (d : Dest) (vals : List (Nat × Nat)) (b : Nat) :
    (giveBack s c slot bytes d vals).block? c b = s.block? c b := by
  cases d with
  | none => rfl
  | delivery id ts => exact block?_modCluster rfl
  | landing id ts => exact block?_modCluster rfl
  | scalar r => exact State.block?_modStrand ..

/-- A value that a load brings for each thread of its destination. -/
theorem giveBack_load (bytes v : Nat) (d : Dest) (hst : s.strand? c slot = some st) :
    ∃ st', (giveBack s c slot bytes d (d.threads.map fun t => (t, v))).strand? c slot = some st' ∧ Brought st st' d v := by
  cases d with
  | none => exact ⟨st, hst, rfl, rfl, fun _ _ h => by cases h⟩
  | delivery id ts => exact ⟨st, (strand?_modCluster rfl).trans hst, rfl, rfl, fun _ _ h => by cases h⟩
  | landing id ts => exact ⟨st, (strand?_modCluster rfl).trans hst, rfl, rfl, fun _ _ h => by cases h⟩
  | scalar r =>
    refine ⟨_, State.strand?_modStrand _ _ hst, rfl, rfl, fun q n hq hn => ?_⟩
    cases hq
    rw [SMap.get?_modify, if_pos rfl, hn]
    rfl

@[simp] theorem sendReply_clusters (s : State) (c slot : Nat) (a : Access) : (sendReply s c slot a).clusters = s.clusters := by
  unfold sendReply
  split
  · rfl
  · exact sendToken_clusters ..

@[simp] theorem sendReply_mem (s : State) (c slot : Nat) (a : Access) : (sendReply s c slot a).mem = s.mem := by
  unfold sendReply
  split
  · rfl
  · exact sendToken_mem ..

/-! ### An access to memory -/

/-- Where the reply of an access goes: nowhere once it was given up (R302). -/
def Access.replyTo (a : Access) : Dest := if a.dropped then .none else a.dest

theorem performAct_global (h : a.space = none) : performAct s c slot a =
    sendReply (performGlobal (shareLine s a.shared a.pa) c slot a) c slot (if a.dropped then { a with dest := .none } else a) := by
  rw [performAct, h]

/-- A load changes no memory and brings what is seen. -/
theorem performAct_load (h : a.space = none) (hact : a.act = .load) (hst : s.strand? c slot = some st) :
    (performAct s c slot a).mem = s.mem ∧ ∃ st', (performAct s c slot a).strand? c slot = some st' ∧
      Brought st st' a.replyTo (seenNat s a.pa a.bytes) := by
  have hglobal : performGlobal (shareLine s a.shared a.pa) c slot a = giveBack (shareLine s a.shared a.pa) c slot a.bytes a.replyTo
      (a.replyTo.threads.map fun t => (t, seenNat s a.pa a.bytes)) := by
    simp only [performGlobal, hact, seenNat_shareLine]
    rfl
  obtain ⟨st', hst', hbrought⟩ := giveBack_load (s := shareLine s a.shared a.pa) a.bytes (seenNat s a.pa a.bytes) a.replyTo
    ((strand?_of_clusters (shareLine_clusters ..) ..).trans hst)
  rw [performAct_global h, hglobal]
  exact ⟨by simp, st', (strand?_of_clusters (sendReply_clusters ..) ..).trans hst', hbrought⟩

/-- A store stores its bytes. -/
theorem performAct_store (h : a.space = none) {bs : List (Option Byte)} (hact : a.act = .store bs) :
    (performAct s c slot a).mem = (storeBytes (shareLine s a.shared a.pa) a.pa bs).mem := by
  rw [performAct_global h, sendReply_mem, performGlobal, hact]

theorem shareLine_locks (s : State) (b : Bool) (pa : Nat) : (shareLine s b pa).locks = s.locks := by
  rw [(shareLine_frame s b pa).rest]

/-- A read-modify-write of a word that no lock serves writes the value of its group. -/
theorem performAct_rmw (h : a.space = none) {op : AOp} {l : List (Nat × Nat × Nat)} (hact : a.act = .rmw op l)
    (hfree : ∀ i, i < a.bytes → lockServes s (a.pa + i) = none) (hword : lockServes s a.pa = none)
    (hbell : isBell a.pa = false) :
    (performAct s c slot a).mem = writeNat s.mem a.pa a.bytes
      (rmwOf op a.bytes (a.read.getD (readNat s.mem a.pa a.bytes)) l).2 := by
  have hlocks := lockServes_congr (shareLine_locks s a.shared a.pa)
  have hstored : (storeNat (shareLine s a.shared a.pa) a.pa a.bytes
      (rmwOf op a.bytes (a.read.getD (readNat s.mem a.pa a.bytes)) l).2).mem =
      writeNat s.mem a.pa a.bytes (rmwOf op a.bytes (a.read.getD (readNat s.mem a.pa a.bytes)) l).2 := by
    rw [storeNat, storeBytes_free fun i hi => (hlocks _).trans (hfree i (by simpa using hi)), shareLine_mem]
    rfl
  rw [performAct_global h, sendReply_mem, performGlobal, hact]
  simp only [hlocks, hword, Option.isSome_none, Bool.false_eq_true, if_false, giveBack_mem, seenNat_shareLine,
    seenNat_free hbell hfree]
  exact hstored

/-! ### An access to a scratchpad -/

section
variable {k : Nat} {b : Block}

/-- A load of a scratchpad changes no memory and no block, and brings what its location holds. -/
theorem performAct_scratchLoad (h : a.space = some k) (hact : a.act = .load) (hst : s.strand? c slot = some st)
    (hb : s.block? c k = some b) : (performAct s c slot a).mem = s.mem ∧ (performAct s c slot a).block? c k = some b ∧
      ∃ st', (performAct s c slot a).strand? c slot = some st' ∧ Brought st st' a.dest (readNat b.scratch a.pa a.bytes) := by
  have hload : performAct s c slot a = giveBack s c slot a.bytes a.dest
      (a.dest.threads.map fun t => (t, readNat b.scratch a.pa a.bytes)) := by
    simp only [performAct, h, performScratch, hact, hb]
  rw [hload]
  exact ⟨by simp, by simp [hb], giveBack_load _ _ _ hst⟩

/-- A store to a scratchpad writes its bytes. -/
theorem performAct_scratchStore (h : a.space = some k) {bs : List (Option Byte)} (hact : a.act = .store bs)
    (hb : s.block? c k = some b) : (performAct s c slot a).mem = s.mem ∧
      (performAct s c slot a).block? c k = some { b with scratch := writeBytes b.scratch a.pa (bs.map fun x => x.getD 0) } := by
  have hstore : performAct s c slot a = scratchWrite s c k a.pa (bs.map fun x => x.getD 0) := by
    simp only [performAct, h, performScratch, hact]
  rw [hstore]
  exact ⟨scratchWrite_mem .., scratchWrite_block? _ _ hb⟩

/-- A word beyond the barrier region has no phase to complete. -/
theorem barTest_beyond {addr : Nat} (hb : s.block? c k = some b) (h : b.bars ≤ addr / 8) : barTest s c k addr = s := by
  unfold barTest
  rw [hb]
  exact if_pos (by omega)

/-- A read-modify-write of a scratchpad writes the value of its group, with the test of a barrier word. -/
theorem performAct_scratchRmw (h : a.space = some k) {op : AOp} {l : List (Nat × Nat × Nat)} (hact : a.act = .rmw op l)
    (hb : s.block? c k = some b) : (performAct s c slot a).mem = s.mem ∧
      ∃ b', (performAct s c slot a).block? c k = some b' ∧ (b.bars ≤ a.pa / 8 → b'.scratch = writeNat b.scratch a.pa a.bytes
        (rmwOf op a.bytes (a.read.getD (readNat b.scratch a.pa a.bytes)) l).2) := by
  generalize hv : rmwOf op a.bytes (a.read.getD (readNat b.scratch a.pa a.bytes)) l = r
  have hrmw : performAct s c slot a =
      giveBack (barTest (scratchWrite s c k a.pa (leBytes a.bytes r.2)) c k a.pa) c slot a.bytes a.dest r.1 := by
    simp only [performAct, h, performScratch, hact, scratchRmw, hb, hv]
  have hw := scratchWrite_block? a.pa (leBytes a.bytes r.2) hb
  obtain ⟨b', hb', -⟩ := (barTest_frame (s := scratchWrite s c k a.pa (leBytes a.bytes r.2)) k a.pa).regs _ _ hw
  rw [hrmw]
  refine ⟨?_, b', by simp [hb'], fun hbars => ?_⟩
  · rw [giveBack_mem, (barTest_frame (c := c) ..).memory, scratchWrite_mem]
  · rw [barTest_beyond hw hbars, hw] at hb'
    cases hb'
    rfl

/-- An access to a scratchpad leaves memory, and its block stays. -/
theorem performAct_scratch (h : a.space = some k) (hst : s.strand? c slot = some st) (hb : s.block? c k = some b) :
    (performAct s c slot a).mem = s.mem ∧ ∃ b', (performAct s c slot a).block? c k = some b' := by
  cases hact : a.act with
  | load =>
    obtain ⟨hmem, hblk, -⟩ := performAct_scratchLoad h hact hst hb
    exact ⟨hmem, b, hblk⟩
  | store bs => exact (performAct_scratchStore h hact hb).imp_right fun hblk => ⟨_, hblk⟩
  | rmw op l =>
    obtain ⟨hmem, b', hblk, -⟩ := performAct_scratchRmw (slot := slot) h hact hb
    exact ⟨hmem, b', hblk⟩
  | bell v =>
    have hnone : performAct s c slot a = s := by simp only [performAct, h, performScratch, hact]
    exact hnone.symm ▸ ⟨rfl, b, hb⟩
  | fence pred succ =>
    have hnone : performAct s c slot a = s := by simp only [performAct, h, performScratch, hact]
    exact hnone.symm ▸ ⟨rfl, b, hb⟩
end

/-! ### An access leaves its strand's list -/

/-- The state in which an access of a strand has left its list and reaches its bytes. -/
def accessTaken (s : State) (c slot : Nat) (st : Strand) (a : Access) : State :=
  touch (removeAccess s c slot a.id (.strand st)) c slot st.block a.space a.pa a.bytes

/-- An access of a strand whose order is kept is performed. -/
theorem accessPerforms_of {id : Nat} (hst : s.strand? c slot = some st) (ha : st.out.find? (fun x => x.id == id) = some a)
    (horder : orderedIn ((s.cluster c).enginesOf slot st.block) st.out a = true)
    (hready : accessReady s c slot (.strand st) a = true) (hclean : accessPoison s c a = none) :
    accessPerforms c slot id s = some (performAct (accessTaken s c slot st a) c slot a) := by
  have hsender : senderOf s c slot id = some (.strand st) := by
    have hsent : st.sent id = true := List.any_eq_true.mpr ⟨a, List.mem_of_find?_eq_some ha,
      List.find?_some (p := fun x : Access => x.id == id) ha⟩
    rw [senderOf, hst, Option.filter_some, if_pos hsent]
  have hmay : (orderedIn ((Sender.strand st).own (s.cluster c) slot) st.out a && accessReady s c slot (.strand st) a) = true := by
    rw [hready, Bool.and_true]
    exact horder
  rw [accessPerforms, hsender, Option.bind_some]
  dsimp only [Sender.out]
  rw [ha, Option.bind_some, if_pos hmay]
  simp only [performFrom, hclean]
  rfl

theorem touch_locks (s : State) (c k block : Nat) (space : Option Nat) (x n : Nat) :
    (touch s c k block space x n).locks = s.locks := by
  unfold touch; split <;> rfl

theorem touch_bells (s : State) (c k block : Nat) (space : Option Nat) (x n : Nat) :
    (touch s c k block space x n).bells = s.bells := by
  unfold touch; split <;> rfl

theorem dropDebts_locks (s : State) (c : Nat) (gone : Nat → Bool) : (dropDebts s c gone).locks = s.locks := by
  unfold dropDebts; split <;> rfl

theorem dropDebts_bells (s : State) (c : Nat) (gone : Nat → Bool) : (dropDebts s c gone).bells = s.bells := by
  unfold dropDebts; split <;> rfl

theorem accessTaken_mem : (accessTaken s c slot st a).mem = s.mem := by simp [accessTaken, removeAccess, untrack]

theorem accessTaken_locks : (accessTaken s c slot st a).locks = s.locks := by
  simp [accessTaken, removeAccess, untrack, touch_locks, dropDebts_locks]

theorem accessTaken_seen (pa n : Nat) : seenNat (accessTaken s c slot st a) pa n = seenNat s pa n :=
  seenNat_congr accessTaken_mem accessTaken_locks (by simp [accessTaken, removeAccess, untrack, touch_bells, dropDebts_bells]) pa n

theorem accessTaken_block? (b : Nat) : (accessTaken s c slot st a).block? c b = s.block? c b := by
  rw [accessTaken, touch_block?, removeAccess, untrack_block?, State.block?_modStrand, dropDebts_block?]

theorem untrack_strand? (s : State) (c : Nat) (f : Tracked → Tracked) (k : Nat) : (untrack s c f).strand? c k = s.strand? c k :=
  strand?_modCluster rfl

theorem accessTaken_strand? (hst : s.strand? c slot = some st) : (accessTaken s c slot st a).strand? c slot =
    some { st with out := st.out.filter fun x => x.id != a.id } := by
  rw [accessTaken, strand?_of_clusters (touch_clusters ..)]
  unfold removeAccess
  dsimp only
  rw [untrack_strand?]
  exact State.strand?_modStrand _ _ ((strand?_of_clusters (dropDebts_clusters ..) ..).trans hst)

/-- What a strand was brought from its list without the access. -/
theorem Brought.from_taken {st' : Strand} {id v : Nat} {d : Dest} (hid : a.id = id) (hd : a.dropped = false → d = a.dest)
    (h : Brought { st with out := st.out.filter fun x => x.id != a.id } st' d v) : st'.pc = st.pc ∧
      st'.out = st.out.filter (fun x => x.id != id) ∧ ∀ r n, a.dest = .scalar r → a.dropped = false →
        st.late.get? r.toNat = some (n, none) → st'.late.get? r.toNat = some (n, some (BitVec.ofNat 64 v)) :=
  ⟨h.pc, hid ▸ h.out, fun r n hr hdrop hn => h.late r n ((hd hdrop).trans hr) hn⟩

/-! ### An atomic whose reply does not come (R302) -/

theorem loseScalar_lost {r : SReg} (h : r ≠ 0) : (loseScalar st r).regs.isLost r = true ∧
    (loseScalar st r).regs.isEmpty r = false ∧ (loseScalar st r).late.get? r.toNat = none ∧
    ∀ n, (loseScalar st r).regs.get n = st.regs.get n := by
  have hlt : r.toNat < 64 := r.isLt
  exact ⟨by simpa [loseScalar, Regs.isLost, hlt] using h, by simp [loseScalar, Regs.isEmpty, hlt], SMap.get?_del_self ..,
    fun _ => rfl⟩

/-- Giving up an atomic of a strand leaves the strand but for its list. -/
theorem giveUp_strand? (hslot : slot < 8) (hst : s.strand? c slot = some st) :
    ∃ out, (giveUp s c slot a).strand? c slot = some { st with out := out } := by
  have hne : ¬(slot == 8) = true := by simpa using Nat.ne_of_lt hslot
  unfold giveUp
  dsimp only
  rw [if_neg hne, untrack_strand?]
  exact ⟨_, State.strand?_modStrand _ _ hst⟩

theorem giveUp_mem (hslot : slot < 8) : (giveUp s c slot a).mem = s.mem := by
  have hne : ¬(slot == 8) = true := by simpa using Nat.ne_of_lt hslot
  unfold giveUp
  dsimp only
  rw [if_neg hne]
  simp [untrack]

/-- After 12,000 cc the destination of an atomic of a strand is lost. -/
theorem replyTimesOut_of {id : Nat} {op : AOp} {l : List (Nat × Nat × Nat)} (hst : s.strand? c slot = some st)
    (ha : st.out.find? (fun x => x.id == id) = some a) (hspace : a.space = none) (hact : a.act = .rmw op l)
    (hdrop : a.dropped = false) (hslot : slot < 8) (hstop : (s.cluster c).stopping ≠ none)
    (hlate : 24000 ≤ (s.time - (s.cluster c).stopAt).toNat) :
    replyTimesOut c slot id s = some (loseDest (giveUp s c slot a) c slot a.dest) := by
  have hsent : sentAt s c slot id = some a := by
    rw [sentAt, if_neg (by simpa using Nat.ne_of_lt hslot), hst, Option.bind_some, ha]
  have hopen : ¬((s.cluster c).stopping.isNone || decide ((s.time - (s.cluster c).stopAt).toNat < 24000)) = true := by
    simpa [hstop] using hlate
  unfold replyTimesOut
  dsimp only
  rw [if_neg hopen, hsent, Option.filter_some, if_pos (by simp [hspace, Access.atomic, hact, hdrop])]
end

/-- Settles O42: an access whose order is kept leaves its strand's list, and the rest is what its act does at its location. -/
theorem accessesPerformed : Obligations.AccessesPerformed := by
  unfold Obligations.AccessesPerformed
  intro s c slot id st a hst ha apart brings
  have hid : a.id = id := by simpa using List.find?_some ha
  refine ⟨fun horder hready hclean => ?_, fun op l r hspace hact hdrop hdest hr hslot hstop hlate => ?_⟩
  · have hstrand := accessTaken_strand? (a := a) hst
    refine ⟨performAct (accessTaken s c slot st a) c slot a, ?_,
      fun hspace => ⟨fun hact => ?_, fun bs hact => ⟨?_, ?_⟩, ?_⟩, fun k b hspace hb hwf => ?_⟩
    · rw [exec_accessPerformed, execAccessPerformed, accessPerforms_of hst ha horder hready hclean]
      rfl
    · obtain ⟨hmem, st', hst', h⟩ := performAct_load hspace hact hstrand
      rw [accessTaken_seen] at h
      exact ⟨fun x => by rw [hmem, accessTaken_mem], st', hst',
        h.from_taken hid fun hd => by rw [Access.replyTo, hd]; rfl⟩
    · intro x hx
      rw [performAct_store hspace hact, storeBytes_apart _ _ _ hx, shareLine_mem, accessTaken_mem]
    · intro hwf i v hi hfree
      rw [performAct_store hspace hact]
      refine storeBytes_at ?_ hi ((lockServes_congr ((shareLine_locks ..).trans accessTaken_locks) _).trans hfree)
      rwa [shareLine_mem, accessTaken_mem]
    · intro op l hact hword hbell hbytes halign hwf
      have hlocks := lockServes_congr (accessTaken_locks (s := s) (c := c) (slot := slot) (st := st) (a := a))
      rw [performAct_rmw hspace hact (fun i hi => (hlocks _).trans (lockServes_within hbytes halign hword i hi))
        ((hlocks _).trans hword) hbell, accessTaken_mem]
      exact ⟨fun x hx => readByte_writeBytes_apart _ _ _ (by rwa [length_leBytes]), readNat_writeNat _ _ _ hwf⟩
    · have hblk : (accessTaken s c slot st a).block? c k = some b := (accessTaken_block? k).trans hb
      obtain ⟨hmem, b', hb'⟩ := performAct_scratch hspace hstrand hblk
      refine ⟨fun x => by rw [hmem, accessTaken_mem], b', hb', fun hact => ?_, fun bs hact => ?_, fun op l hact hbars => ?_⟩
      · obtain ⟨-, hsame, st', hst', h⟩ := performAct_scratchLoad hspace hact hstrand hblk
        exact ⟨Option.some.inj (hb'.symm.trans hsame), st', hst', h.from_taken hid fun _ => rfl⟩
      · obtain rfl := Option.some.inj (hb'.symm.trans (performAct_scratchStore hspace hact hblk).2)
        refine ⟨fun x hx => readByte_writeBytes_apart _ _ _ (by simpa using hx), fun i v hi => ?_⟩
        exact readByte_writeBytes _ _ hwf (by simp [hi])
      · obtain ⟨-, b'', hb'', hdone⟩ := performAct_scratchRmw (slot := slot) hspace hact hblk
        obtain rfl := Option.some.inj (hb'.symm.trans hb'')
        rw [hdone hbars]
        exact ⟨fun x hx => readByte_writeBytes_apart _ _ _ (by rwa [length_leBytes]), readNat_writeNat _ _ _ hwf⟩
  · obtain ⟨out, hout⟩ := giveUp_strand? (a := a) hslot hst
    obtain ⟨hlost, hempty, hnone, hget⟩ := loseScalar_lost (st := { st with out := out }) hr
    refine ⟨loseDest (giveUp s c slot a) c slot a.dest, loseScalar { st with out := out } r, ?_, fun x => ?_, ?_, hlost, hempty,
      hnone, hget⟩
    · rw [exec_atomicReplyTimeout, execAtomicReplyTimeout, replyTimesOut_of hst ha hspace hact hdrop hslot hstop hlate]
      rfl
    · rw [hdest, loseDest, (dropReplies_frame (c := c)).memory, State.modStrand_mem, giveUp_mem hslot]
    · rw [hdest, loseDest, strand?_of_clusters (dropReplies_clusters _)]
      exact State.strand?_modStrand _ _ hout

end Sys2Proof.Machine
end

section
/-!
PROOFS. The instructions that bind, load and store tiles (10 R148, R151, R160).
-/
namespace Sys2Proof.Machine

section
variable {s : State} {m : Me}

/-- With no fresh tile and none that drains, an instruction that takes one traps. -/
theorem withFresh_trap {at5 : BitVec 5} (h : ¬FreshTile s m) (hd : drainingTiles (s.cluster m.c) m.st.block = 0)
    (k : Unit → Eff) : withFresh s m at5 1 k = tileTrap s at5 0x09 := by
  unfold withFresh
  exact (if_neg h).trans (if_neg (by simp [hd]))

/-- A piece of a row that is held up by nothing. -/
theorem pieces_clear {phys : List (Nat × Nat × Nat)} (h : ∀ q ∈ phys, sentMeets s m q.2.2 q.2.1 = false ∧
    portReady s q.2.2 = true ∧ linkFree s m.c q.2.2 = true) : (phys.any fun q =>
      sentMeets s m q.2.2 q.2.1 || !portReady s q.2.2 || !linkFree s m.c q.2.2) = false :=
  List.any_eq_false.mpr fun q hq => by
    obtain ⟨hsent, hport, hlink⟩ := h q hq
    simp [hsent, hport, hlink]

/-- No piece of a row that is read is poisoned. -/
theorem pieces_sound {need : Need} {phys : List (Nat × Nat × Nat)}
    (h : need = .load → ∀ q ∈ phys, poisonedIn s q.2.2 q.2.1 = none) :
    (if need == .load then phys.findSome? fun q => poisonedIn s q.2.2 q.2.1 else none) = none := by
  split
  · rename_i hload
    exact List.findSome?_eq_none_iff.mpr (h (by simpa using hload))
  · rfl

/-- Rows that pass come to what the instruction does with them. -/
theorem withRows_pass {o : TOps} {need : Need} {u : State} {phys : List (Nat × Nat × Nat)} (h : RowsPass s m o need u phys)
    (k : State → List (Nat × Nat × Nat) → Eff) : withRows s m o need k = k u phys := by
  unfold withRows
  rcases h with ⟨hlocal, hu, hphys, harr⟩ | ⟨hlocal, l, htrans, hphys, hu, hclear⟩
  · rw [hu, hphys, if_pos hlocal, show (need == Need.load) = decide (need = Need.load) by cases need <;> rfl,
      withArrays_clear harr]
  · rw [if_neg (ne_true_of_eq_false hlocal)]
    dsimp only
    rw [htrans]
    dsimp only
    rw [← hphys, ← hu, pieces_clear fun q hq => (hclear q hq).imp_right fun h => h.imp_right And.left,
      pieces_sound fun hload q hq => (hclear q hq).2.2.2 hload]
    rfl

theorem tstReason_of {b : Block} {o : TOps} {a : AccName} (ha : b.acc.get? (tName o) = some a)
    (hw : a.mode.width = shpWidth o.shpn) : tstReason b o = none := by
  simp [tstReason, ha, hw]

theorem tstReason_unbound {b : Block} {o : TOps} (h : b.acc.get? (tName o) = none) : tstReason b o = some 0x01 := by
  simp [tstReason, h]
end

/-- Settles O35: the checks of each instruction in their order, and its effect or its tile reason once they are through. -/
theorem tileTransfers : Obligations.TileTransfers := by
  unfold Obligations.TileTransfers
  intro s u m o phys
  refine ⟨fun hr hs hsh => ⟨fun hfresh => ?_, fun hnone => ?_⟩, fun hr hs =>
    ⟨fun hsh hfresh hrows => ?_, fun hsh hnone => ?_, fun a ha hw hclear hrows => ?_, fun hunbound => ?_⟩⟩
  · rw [exec_tzero, execTzero]
    refine issue_done hr ?_
    rw [withReasons_pass hs (bindReason_of_no_shadow hsh), withFresh_pass hfresh]
  · rw [exec_tzero, execTzero]
    refine issue_trapped hr rfl ?_
    rw [withReasons_pass hs (bindReason_of_no_shadow hsh), withFresh_trap hnone.1 hnone.2]
    rfl
  · rw [exec_tld, execTld]
    refine issue_done hr ?_
    rw [withReasons_pass hs (bindReason_of_no_shadow hsh), withFresh_pass hfresh, withRows_pass hrows]
    rfl
  · rw [exec_tld, execTld]
    refine issue_trapped hr rfl ?_
    rw [withReasons_pass hs (bindReason_of_no_shadow hsh), withFresh_trap hnone.1 hnone.2]
    rfl
  · rw [exec_tst, execTst]
    refine issue_done hr ?_
    rw [withReasons_pass hs (tstReason_of ha hw), withTile_pass hclear.2, withRows_pass hrows, ha]
    rfl
  · rw [exec_tst, execTst]
    refine issue_trapped hr rfl ?_
    rw [withReasons_trap hs (tstReason_unbound hunbound)]
    rfl

end Sys2Proof.Machine
end

section
/-!
PROOFS. `fupd` and `fdwn`: the sweep that begins, and what an attempt comes to once it has retired (10 R165-R167, R170, R172).
-/
namespace Sys2Proof.Machine

/-! ### A trap after an instruction has retired -/

/-- No trap waits in the strands after a strand without one is set where none waited before. -/
theorem setStrand_traps_none {s : State} {c k : Nat} {st : Strand} (h : st.trap = none)
    (hw : ∀ p ∈ (s.cluster c).strands, p.2.trap = none) :
    ∀ p ∈ ((s.setStrand c k st).cluster c).strands, p.2.trap = none := by
  intro p hp
  rw [State.cluster_setStrand] at hp
  rcases SMap.mem_set hp with rfl | hp
  · exact h
  · exact hw p hp

/-- The same after a retirement, whether or not a STEP trap is due. -/
theorem retiredState_traps_none {s : State} {m : Me} {stop step : Bool} {next : PC} {st : Strand} (h : st.trap = none)
    (hw : ∀ p ∈ (s.cluster m.c).strands, p.2.trap = none) :
    ∀ p ∈ ((retiredState s m stop step next st).cluster m.c).strands, p.2.trap = none := by
  rw [retiredState_cluster]
  simpa using setStrand_traps_none (k := m.k) (st := retired s m stop step next st) h hw

/-- The view of a strand after a retirement in `s`. -/
def Me.retiredIn (m : Me) (s : State) (stop step : Bool) (next : PC) : Me := { m with st := retired s m stop step next m.st }

section
variable {s : State} {m : Me} {f : Regs → Regs}

/-- The strand whose registers were written is still the current one. -/
theorem me?_setRegs (hm : me? s = some m) : me? (m.setRegs s f) = some (m.written f) := by
  obtain ⟨hc, hst, hb, hh⟩ := me?_some hm
  have hst' : (m.setRegs s f).strand? m.c m.k = some (m.written f).st := State.strand?_modStrand _ _ hst
  have hcur : (m.setRegs s f).cur = some (m.c, m.k) := by rw [Me.setRegs_of hm]; exact hc
  rw [me?, hcur]
  dsimp only
  rw [meAt_of hst' ((Me.block?_setRegs s m f m.c _ rfl).trans hb), Me.setRegs_of hm]
  simp [Me.written, hh]

/-- A trap that follows the retirement of an instruction whose effect wrote registers of its strand: where the handler can be
entered, it is, with the registers as written. -/
theorem takeTrap_retired {stop step : Bool} {next : PC} (t : Trap) (hm : me? s = some m) (hf : (f m.st.regs).tvec = m.st.regs.tvec)
    (hfree : s.entryFree m.c m.k = true) (hw : ∀ p ∈ (s.cluster m.c).strands, p.2.trap = none) (hv : m.st.regs.tvec ≠ 0)
    (hx : targetOk s m.c m.ctx (m.st.regs.tvec.truncate 57) = true) :
    ∃ s' m', m'.c = m.c ∧ m'.k = m.k ∧ m'.st.regs = f m.st.regs ∧
      takeTrap (retireAt (m.setRegs s f) m stop step next) m.c m.k t = enteredState s' m' t := by
  have htrap : m.st.trap = none := hw (m.k, m.st) (SMap.mem_of_get? (me?_some hm).2.1)
  have hset := Me.setRegs_of hm f
  have hret : retireAt (m.setRegs s f) m stop step next =
      retiredState (m.setRegs s f) (m.written f) stop step next (m.written f).st :=
    retireAt_eq (State.strand?_modStrand _ _ (me?_some hm).2.1)
  have hfree' : (m.setRegs s f).entryFree m.c m.k = true := by
    rw [hset, entryFree_setStrand]
    exact hfree
  have hx' : targetOk (m.setRegs s f) m.c m.ctx ((f m.st.regs).tvec.truncate 57) = true := by
    rw [hset, targetOk_setStrand, hf]
    exact hx
  have hw' : ∀ p ∈ ((m.setRegs s f).cluster m.c).strands, p.2.trap = none := by
    rw [hset]
    exact setStrand_traps_none htrap hw
  rw [hret]
  exact ⟨_, (m.written f).retiredIn (m.setRegs s f) stop step next, rfl, rfl, rfl,
    takeTrap_eq (m := (m.written f).retiredIn (m.setRegs s f) stop step next) t (meAt_retiredState (me?_setRegs hm))
      ((entryFree_retiredState (m := m.written f)).trans hfree') (retiredState_traps_none (m := m.written f) htrap hw')
      (hf.trans_ne hv) ((targetOk_retiredState (m := m.written f) ..).trans hx')⟩
end

/-! ### Attempts of `fupd` and `fdwn` -/

/-- Both are one attempt, apart from the direction and the opcode. -/
theorem exec_sweep (o : FOps) (s : State) : ∀ p ∈ [(Instr.fupd o, false), (Instr.fdwn o, true)],
    ∃ op, exec p.1 s = sweepIssue p.2 op o s := by
  simp only [List.forall_mem_cons, List.not_mem_nil, false_imp_iff, implies_true, and_true]
  exact ⟨⟨0xEB, exec_fupd o s⟩, ⟨0xEC, exec_fdwn o s⟩⟩

/-- The sweep that an attempt begins with a current. -/
def Me.sweepOf (m : Me) (s : State) (down : Bool) (o : FOps) (current : Nat) : Sweep :=
  { slot := m.k, block := m.st.block, name := fName o, down := down, trl := o.trl
    x := (upto (factorTile m.blk (fName o)).1).map fun i => match (m.responders s)[i]? with
      | some j => m.v o.vx.toNat j
      | none => 0
    work := (factorTile m.blk (fName o)).2, index := 0, current := current }

/-- The state in which that sweep is under way, and the strand waits for it. -/
def Me.swept (m : Me) (s : State) (w : Sweep) : State :=
  (m.clearPi (s.modCluster m.c fun cl => { cl with sweeps := cl.sweeps ++ [w] })).modStrand m.c m.k
    fun st => { st with wait := .sweep }

section
variable {s s' : State} {m : Me} {o : FOps} {down : Bool} {op current : Nat}

theorem sweepIssue_retired (hm : me? s = some m) (hw : m.st.wait = .swept none) :
    sweepIssue down op o s = .next (completed m false o.hdr.stop (successor m.st.pc) (m.clearPi s)) := by
  unfold sweepIssue
  rw [hm]
  dsimp only
  rw [hw]
  rfl

theorem sweepIssue_begins (hm : me? s = some m) (hw : m.st.wait = .none) :
    sweepIssue down op o s = issueBy s op o.hdr.stop (fun m => vxUses m s o false) fun m => sweepEff down s m o := by
  unfold sweepIssue
  rw [hm]
  dsimp only
  rw [hw]

/-- After an abort with TRL the instruction retires, and the strand's handler is entered for FT_LOSTDEF. -/
theorem sweepIssue_lost {info : Nat} (hm : me? s = some m) (hw : m.st.wait = .swept (some info))
    (hfree : s.entryFree m.c m.k = true) (hnone : ∀ p ∈ (s.cluster m.c).strands, p.2.trap = none) (hv : m.st.regs.tvec ≠ 0)
    (hx : targetOk s m.c m.ctx (m.st.regs.tvec.truncate 57) = true) :
    ∃ u st, sweepIssue down op o s = .next u ∧ u.strand? m.c m.k = some st ∧ st.pc = m.st.regs.tvec.truncate 57 ∧
      st.regs.tcause = BitVec.ofNat 64 0x20 ∧ st.regs.tinfo = BitVec.ofNat 64 info ∧
      st.regs.trpc = m.st.pc.zeroExtend 64 ∧ st.regs.tnpc = (successor m.st.pc).zeroExtend 64 ∧
      st.regs.tstate.getLsbD 0 = true ∧ st.regs.pi = 0 := by
  have hin : m.inH = false := by
    simp only [State.entryFree, Bool.and_eq_true, Option.isNone_iff_eq_none] at hfree
    simp [(me?_some hm).2.2.2, hfree.1.1]
  let t : Trap := { cause := causeLostDef, info := BitVec.ofNat 64 info, pc := m.st.pc, next := successor m.st.pc, skip := true
                    async := false, pair := m.paired s, bpinh := false }
  obtain ⟨s', m', hc, hk, hregs, htake⟩ := takeTrap_retired (f := fun r => { r with pi := 0 }) (stop := o.hdr.stop)
    (step := o.hdr.stop && !m.inH && m.st.regs.dbg.getLsbD 0) (next := successor m.st.pc) t hm rfl hfree hnone hv hx
  have hex : sweepIssue down op o s = .next (enteredState s' m' t) := by
    unfold sweepIssue
    rw [hm]
    dsimp only
    rw [hw]
    refine congrArg Host.Outcome.next (Eq.trans ?_ htake)
    simp only [finish, hin, Bool.false_eq_true, if_false]
    rfl
  have hst := enteredState_strand? s' m' t
  rw [hc, hk] at hst
  refine ⟨_, _, hex, hst, ?_, rfl, rfl, rfl, rfl, payload_bit_zero true _, ?_⟩
  · show m'.st.regs.tvec.truncate 57 = _
    rw [hregs]
  · show m'.st.regs.pi = 0
    rw [hregs]

section
variable (hr : factorReason m.blk (fName o) true = none) (hfresh : FreshTile s m) (hadm : Admitted s m o.th current s')
include hr hfresh hadm

/-- With no responder there is no sweep. -/
theorem sweepEff_none (hs : sweeping s m (fName o) = false) (hts : m.responders s = []) :
    sweepEff down s m o = .done (m.clearPi (releaseCurrent s' m.c current)) := by
  unfold sweepEff
  rw [withReasons_pass hs hr, withTile_pass (tileKey_sound (.inl hts)), withFresh_pass hfresh, Me.admission, admission_of hadm,
    if_pos (by simp [hts])]

theorem sweepEff_some (hclear : TileClear s m (fName o) (some (fName o))) (hts : m.responders s ≠ []) :
    sweepEff down s m o = .stall .engine (m.swept s' (m.sweepOf s down o current)) := by
  unfold sweepEff
  rw [withReasons_pass hclear.1 hr, withTile_pass (tileKey_sound (.inr hclear)), withFresh_pass hfresh, Me.admission,
    admission_of hadm, if_neg (by simpa using hts)]
  rfl
end

/-- The vector that a sweep begins with: what the responders have in VX, and 0 where there is none. -/
theorem sweepOf_eq : m.sweepOf s down o current = ⟨m.k, m.st.block, fName o, down, o.trl,
    (upto (factorTile m.blk (fName o)).1).map fun i => ((m.responders s)[i]?.map fun j => m.v o.vx.toNat j).getD 0,
    (factorTile m.blk (fName o)).2, 0, current⟩ := by
  refine congrArg (Sweep.mk m.k m.st.block (fName o) down o.trl · (factorTile m.blk (fName o)).2 0 current) ?_
  exact List.map_congr_left fun i _ => by cases (m.responders s)[i]? <;> rfl

/-- An update of a strand leaves the sweeps. -/
theorem sweeps_modStrand (s : State) (c k : Nat) (f : Strand → Strand) :
    ((s.modStrand c k f).cluster c).sweeps = (s.cluster c).sweeps := by
  rw [State.cluster_modStrand]

/-- The strand that waits for its sweep. -/
theorem swept_strand? {w : Sweep} {st : Strand} (hst : s.strand? m.c m.k = some st) :
    (m.swept s w).strand? m.c m.k = some { st with regs := { st.regs with pi := 0 }, wait := .sweep } :=
  State.strand?_modStrand _ _ (clearPi_strand? ((strand?_modCluster (s := s) rfl).trans hst))

theorem swept_sweeps (w : Sweep) : ((m.swept s w).cluster m.c).sweeps = (s.cluster m.c).sweeps ++ [w] := by
  simp only [Me.swept, Me.clearPi, Me.setRegs, sweeps_modStrand, State.cluster_modCluster]

/-- The attempt that begins a sweep has had its `bo` point: its strand waits, with PI clear. -/
theorem issueBy_swept {stop : Bool} {u : Me → Uses} {k : Me → Eff} {w : Sweep} (h : Ready s m (u m)) (hbo : (u m).bo = true)
    (hwait : m.st.wait = .none) (hk : k m = .stall .engine (m.swept s' w)) (hst : s'.strand? m.c m.k = some m.st) :
    ∃ t st, issueBy s op stop u k = .next t ∧ t.strand? m.c m.k = some st ∧ st.pc = m.st.pc ∧ st.wait = .sweep ∧
      st.regs = { m.st.regs with pi := 0 } ∧ (t.cluster m.c).sweeps = (s'.cluster m.c).sweeps ++ [w] := by
  have hst' := swept_strand? (w := w) hst
  have hcap : captured (m.swept s' w) m = true := by
    simp [captured, hst', hwait]
  obtain ⟨g, hg⟩ := tookTurn_strand? (State.strand?_modStrand (m.swept s' w)
    (fun st => { st with stall := some .engine, waited := 0, pre := [] }) hst')
  refine ⟨_, _, ?_, hg, rfl, rfl, rfl, ?_⟩
  · rw [issueBy_ready h, hk, hbo]
    simp only [settleTurn, hcap]
    rfl
  · simp only [tookTurn, sweeps_modStrand, State.cluster_modCluster]
    exact swept_sweeps w
end

/-- Settles O37: an attempt by the strand's wait, and the one that begins a sweep by the checks of its tile. -/
theorem factorSweeps : Obligations.FactorSweeps := by
  unfold Obligations.FactorSweeps
  intro s s' m o current p hp name ts t
  obtain ⟨op, hex⟩ := exec_sweep o s p hp
  rw [hex]
  refine ⟨sweepIssue_retired, fun info => sweepIssue_lost, fun hr hwait hreason =>
    ⟨fun hts hs hfresh hadm => ?_, fun hts hclear hfresh hadm => ?_⟩⟩
  · rw [sweepIssue_begins hr.here hwait]
    exact issueBy_done hr (sweepEff_none hreason hfresh hadm hs hts)
  · rw [sweepIssue_begins hr.here hwait]
    obtain ⟨c, hc⟩ := hadm.cluster
    obtain ⟨u, st, hu, hst, hpc, hw, hregs, hsweeps⟩ := issueBy_swept (op := op) (stop := o.hdr.stop)
      (u := fun m => vxUses m s o false) (k := fun m => sweepEff p.2 s m o) hr rfl hwait
      (sweepEff_some hreason hfresh hadm hclear hts)
      ((hadm.frame.strands m.k).trans (me?_some hr.here).2.1)
    exact ⟨u, st, hu, hst, hpc, hw, hregs, hsweeps.trans (by rw [hc, sweepOf_eq])⟩

end Sys2Proof.Machine
end

section
/-!
PROOFS. `mmag`: the rendezvous of a gang, its completion, and each member's part of it (10 R156-R158).
-/
namespace Sys2Proof.Machine

/-! ### The members of a gang -/

/-- The arrival of a slot in a gang for which its strand waits. -/
def Cluster.arrived (cl : Cluster) (g i : Nat) : Option Arrival :=
  if (cl.strands.get? i).any fun st => st.wait == .gang then cl.arrivals.find? fun a => a.slot == i && a.gang == g else none

theorem gangComplete_eq (cl : Cluster) (g : Nat) : gangComplete cl g =
    if ((gangSlots g).filterMap (cl.arrived g)).length == (gangSlots g).length then some ((gangSlots g).filterMap (cl.arrived g))
    else none := rfl

theorem arrived_some {cl : Cluster} {g i : Nat} {a : Arrival} (h : cl.arrived g i = some a) :
    a.slot = i ∧ a ∈ cl.arrivals ∧ a.gang = g ∧ ∃ st, cl.strands.get? i = some st ∧ st.wait = .gang := by
  unfold Cluster.arrived at h
  split at h
  · rename_i hwait
    cases hst : cl.strands.get? i with
    | none => simp [hst] at hwait
    | some st =>
      have ha := List.find?_some h
      simp only [Bool.and_eq_true, beq_iff_eq] at ha
      exact ⟨ha.1, List.mem_of_find?_eq_some h, ha.2, st, rfl, by simpa [hst] using hwait⟩
  · cases h

/-- A slot without an arrival. -/
theorem arrived_none {cl : Cluster} {g i : Nat} (h : ∀ a ∈ cl.arrivals, a.slot ≠ i) : cl.arrived g i = none := by
  unfold Cluster.arrived
  split
  · exact List.find?_eq_none.mpr fun a ha => by simp [h a ha]
  · rfl

theorem gangComplete_some {cl : Cluster} {g : Nat} {members : List Arrival} (h : gangComplete cl g = some members) :
    members.map Arrival.slot = gangSlots g ∧
      ∀ a ∈ members, a ∈ cl.arrivals ∧ a.gang = g ∧ ∃ st, cl.strands.get? a.slot = some st ∧ st.wait = .gang := by
  rw [gangComplete_eq] at h
  split at h
  · rename_i hlen
    obtain rfl := Option.some.inj h
    have hall := List.filterMap_length_eq_length.mp (by simpa using hlen)
    refine ⟨?_, fun a ha => ?_⟩
    · rw [List.map_filterMap]
      refine (List.filterMap_congr (g := some) fun i hi => ?_).trans List.filterMap_some
      obtain ⟨a, ha⟩ := Option.isSome_iff_exists.mp (hall i hi)
      rw [ha, Option.map_some, (arrived_some ha).1]
    · obtain ⟨i, -, hi⟩ := List.mem_filterMap.mp ha
      obtain ⟨rfl, hmem, hgang, hst⟩ := arrived_some hi
      exact ⟨hmem, hgang, hst⟩
  · cases h

/-- A gang that lacks a member is not complete. -/
theorem gangComplete_none {cl : Cluster} {g i : Nat} (hi : i ∈ gangSlots g) (h : ∀ a ∈ cl.arrivals, a.slot ≠ i) :
    gangComplete cl g = none := by
  rw [gangComplete_eq, if_neg]
  intro hlen
  have hsome := List.filterMap_length_eq_length.mp (by simpa using hlen) i hi
  simp [arrived_none h] at hsome

/-! ### The shares of its current -/

section
variable (s : State) (c : Nat)

theorem gangShares_fst (members : List Arrival) (current : Nat) : (gangShares s c members current).map Prod.fst = members := by
  fun_induction gangShares s c members current with
  | case1 => rfl
  | case2 => rfl
  | case3 a rest left _ own ih => simp [ih]

/-- The shares of a gang with a member make up its current. -/
theorem gangShares_sum (members : List Arrival) (current : Nat) (h : members ≠ []) :
    ((gangShares s c members current).map Prod.snd).sum = current := by
  fun_induction gangShares s c members current with
  | case1 => exact absurd rfl h
  | case2 a left => simp
  | case3 a rest left hrest own ih =>
    have hle : own ≤ left := by
      show (match meAt s c a.slot with | some m => min left (m.header s a.ops.th).2 | none => 0) ≤ left
      split
      · exact Nat.min_le_left ..
      · exact Nat.zero_le _
    rw [List.map_cons, List.sum_cons, ih hrest]
    omega
end

/-- A completion: the arrivals of the members go, and each member's part follows with its share. -/
theorem completeGang_eq (s : State) (c g : Nat) (members : List Arrival) (current : Nat) : completeGang s c g members current =
    (gangShares s c members current).foldl (fun t x => gangMember t c ((s.cluster c).nextId + 1) x.2 x.1)
      (s.setCluster c { s.cluster c with
        nextId := (s.cluster c).nextId + 1
        arrivals := (s.cluster c).arrivals.filter fun a => !(a.gang == g && members.contains a) }) := by
  simp only [completeGang, State.modCluster, Bool.not_and, bne]


/-! ### A member's part -/

/-- A product is put in the tile its instruction names where that tile is fresh, a shadow, or bound: a member's part asks for no
more, and its tile's mode and width were looked at when it arrived. -/
theorem putProduct_puts {s : State} {m : Me} {blk : Block} {o : TOps} (stop : Bool) (tile : TileData) (written : List Rounded)
    (hb : s.block? m.c m.st.block = some blk) (hbound : o.za = false → o.sp = false → ∃ a, blk.acc.get? (tName o) = some a) :
    TileFrame s (putProduct s m o stop tile written) m ∧
      ∃ b, (putProduct s m o stop tile written).block? m.c m.st.block = some b ∧ TilePut blk b o tile := by
  have hcensus := fun t => countCensus_frame t m m.ctx [(m.siteKey s stop, siteCounts written)]
  unfold putProduct
  dsimp only
  cases hsp : o.sp
  · cases hza : o.za
    · obtain ⟨a, ha⟩ := hbound hza hsp
      refine ⟨(modBlock_frame ..).trans (hcensus _).toTileFrame, _, (hcensus _).own.trans (State.block?_modBlock _ _ hb),
        rfl, by simp [hsp], fun _ => rfl, fun n hn => ⟨?_, rfl⟩, ?_⟩
      · simp [SMap.get?_modify, hn]
      · simp [hsp, SMap.get?_modify, ha]
    · have hbind := (drainName_frame s m (tName o)).trans (moveTilePoison_frame _ m (tName o) none)
      exact ⟨(hbind.toTileFrame.trans (modBlock_frame ..)).trans (hcensus _).toTileFrame, _,
        (hcensus _).own.trans (State.block?_modBlock _ _ (hbind.own.trans hb)),
        rfl, by simp [hsp], fun _ => rfl, fun n hn => ⟨SMap.get?_set_ne _ _ hn, rfl⟩, by simp [hsp, keeping_tile]⟩
  · exact ⟨modBlock_frame .., _, State.block?_modBlock _ _ hb, rfl, fun _ => rfl, by simp [hsp],
      fun n hn => ⟨rfl, SMap.get?_set_ne _ _ hn⟩, by simp [hsp]⟩

section
variable {m : Me} {b : Block} {sat : Bool} {ty : MatTy} {o : TOps} {p q : Nat} {a : Latch}

/-- A tile that is put as it was is the product with no row. -/
theorem TilePut.productDone_none (h : TilePut m.blk b o (mmaBase m.blk o)) (hrows : a.rows = []) :
    ProductDone m.blk m.seen b sat ty o p q a :=
  ⟨h.rest, h.acc, h.shadows, h.names, _, h.tile, fun i c _ => by simp [hrows]⟩

theorem TilePut.productDone (h : TilePut m.blk b o (m.product sat ty o p q a).1) : ProductDone m.blk m.seen b sat ty o p q a := by
  refine ⟨h.rest, h.acc, h.shadows, h.names, _, h.tile, fun i c hc => ?_⟩
  rw [Me.product, tileAt_matProduct (by rwa [matCols_length]), matRows_length]
  split
  · rename_i hi
    rw [matRows_getElem? m ty o p q a hi, matCols_getElem? m ty o p q hc]
  · rfl

variable {s : State} (current : Nat)

/-- What a product leaves, whatever the width and the mode of its tile. -/
theorem applyMat_puts (hb : s.block? m.c m.st.block = some m.blk)
    (hbound : o.za = false → o.sp = false → ∃ a, m.blk.acc.get? (tName o) = some a) :
    TileFrame s (applyMat s m sat ty o p q a current) m ∧ ∃ b,
      (applyMat s m sat ty o p q a current).block? m.c m.st.block = some b ∧ ProductDone m.blk m.seen b sat ty o p q a := by
  by_cases hrows : a.rows = []
  · obtain ⟨hframe, b, hb', hput⟩ := putProduct_puts o.hdr.stop (mmaBase m.blk o) [] hb hbound
    have hrel := releaseCurrent_frame (putProduct s m o o.hdr.stop (mmaBase m.blk o) []) m current
    rw [applyMat_none m sat ty o p q a s current hrows]
    exact ⟨hframe.trans hrel.toTileFrame, b, hrel.own.trans hb', hput.productDone_none hrows⟩
  · obtain ⟨hframe, b, hb', hput⟩ := putProduct_puts o.hdr.stop (m.product sat ty o p q a).1
      (m.product sat ty o p q a).2.flatten hb hbound
    have hop := fun u => addTileOp_frame u m ((tName o) + if o.sp then 16 else 0) (arrayRegions [(matArrays m.blk ty o p q).1,
      (matArrays m.blk ty o p q).2.1, (matArrays m.blk ty o p q).2.2]) true false current
    rw [applyMat_rows m sat ty o p q a s current hrows]
    exact ⟨hframe.trans (hop _).toTileFrame, b, (hop _).own.trans hb', hput.productDone⟩
end

/-- A strand's update leaves the arrivals. -/
theorem arrivals_modStrand (s : State) (c k : Nat) (f : Strand → Strand) :
    ((s.modStrand c k f).cluster c).arrivals = (s.cluster c).arrivals := by
  rw [State.cluster_modStrand]

theorem arrivals_modBlock (s : State) (c b : Nat) (f : Block → Block) :
    ((s.modBlock c b f).cluster c).arrivals = (s.cluster c).arrivals := by
  unfold State.modBlock
  split
  · rfl
  · rw [State.cluster_setBlock]

theorem arrivals_putProduct (s : State) (m : Me) (o : TOps) (stop : Bool) (tile : TileData) (written : List Rounded) :
    ((putProduct s m o stop tile written).cluster m.c).arrivals = (s.cluster m.c).arrivals := by
  have hmove : ∀ (t : State) key, ((moveTilePoison t m.c m.st.block key none).cluster m.c) = t.cluster m.c := fun t key => by
    simp only [State.cluster, moveTilePoison_clusters]
  unfold putProduct
  dsimp only
  split
  · exact arrivals_modBlock ..
  · simp only [countCensus, State.cluster_modCluster]
    split
    · simp only [bindTile, bindWith, arrivals_modBlock, hmove, drainName, State.cluster_modCluster]
    · exact arrivals_modBlock ..

theorem arrivals_applyMat (s : State) (m : Me) (sat : Bool) (ty : MatTy) (o : TOps) (p q : Nat) (a : Latch) (current : Nat) :
    ((applyMat s m sat ty o p q a current).cluster m.c).arrivals = (s.cluster m.c).arrivals := by
  by_cases hrows : a.rows = []
  · rw [applyMat_none m sat ty o p q a s current hrows]
    simp only [releaseCurrent, State.cluster_modCluster, arrivals_putProduct]
  · rw [applyMat_rows m sat ty o p q a s current hrows]
    simp only [addTileOp, State.cluster_modCluster, arrivals_putProduct]

/-- The strand of a member whose product has been applied in a completion. -/
def Strand.ganged (st : Strand) (number : Nat) (a : Arrival) : Strand :=
  { st with regs := { st.regs with latch := if a.ops.ru then some a.latch else none }, gangDone := number }

/-- The state with a member's product applied, before the member retires. -/
def gangApplied (s : State) (m : Me) (number current : Nat) (a : Arrival) : State :=
  (m.setLatch (applyMat s m a.sat a.ty a.ops a.sb a.sx a.latch current) a.ops a.latch).modStrand m.c m.k
    fun st => { st with gangDone := number }

section
variable {s : State} {m : Me} {number share : Nat} {a : Arrival}

theorem gangApplied_strand? (hst : s.strand? m.c m.k = some m.st)
    (hframe : TileFrame s (applyMat s m a.sat a.ty a.ops a.sb a.sx a.latch share) m) :
    (gangApplied s m number share a).strand? m.c m.k = some (m.st.ganged number a) :=
  State.strand?_modStrand _ _ (State.strand?_modStrand _ _ ((hframe.strands m.k).trans hst))

theorem gangApplied_strand?_ne {j : Nat} (hj : j ≠ m.k)
    (hframe : TileFrame s (applyMat s m a.sat a.ty a.ops a.sb a.sx a.latch share) m) :
    (gangApplied s m number share a).strand? m.c j = s.strand? m.c j :=
  (State.strand?_modStrand_ne _ _ hj).trans ((State.strand?_modStrand_ne _ _ hj).trans (hframe.strands j))

theorem gangApplied_block? (b : Nat) : (gangApplied s m number share a).block? m.c b =
    (applyMat s m a.sat a.ty a.ops a.sb a.sx a.latch share).block? m.c b :=
  (State.block?_modStrand ..).trans (State.block?_modStrand ..)

theorem gangApplied_mem : (gangApplied s m number share a).mem = (applyMat s m a.sat a.ty a.ops a.sb a.sx a.latch share).mem :=
  (State.modStrand_mem ..).trans (State.modStrand_mem ..)

theorem gangApplied_arrivals : ((gangApplied s m number share a).cluster m.c).arrivals = (s.cluster m.c).arrivals :=
  (arrivals_modStrand ..).trans ((arrivals_modStrand ..).trans (arrivals_applyMat ..))

/-- A member that does not trap STEP retires behind its product. -/
theorem gangMember_eq (hm : meAt s m.c a.slot = some m) (hu : Unstepped m a.ops.hdr.stop)
    (hst : (gangApplied s m number share a).strand? m.c m.k = some (m.st.ganged number a)) :
    gangMember s m.c number share a = retiredState (gangApplied s m number share a) m a.ops.hdr.stop false (successor m.st.pc)
      (m.st.ganged number a) := by
  rw [← retire_unstepped hst (hu.not_step rfl)]
  unfold gangMember
  rw [hm]
  dsimp only
  rw [← (meAt_some hm).2.1]
  rfl
end

/-! ### An attempt of a member -/

section
variable {s s' : State} {m : Me} {members : List Arrival} {g current : Nat}

/-- All that a gang waits for but its members' arrival: its tiles, its arrays and its admission (10 R148, R157, R172). -/
structure GangWhole (s : State) (m : Me) (g : Nat) (members : List Arrival) (current : Nat) (s' : State) : Prop where
  complete : gangComplete (s.cluster m.c) g = some members
  unswept : ∀ a ∈ members, sweeping s m (tName a.ops) = false
  tiles : gangLacks members
    (m.blk.tiles - (heldTiles (s.cluster m.c) m.blk m.st.block + drainingTiles (s.cluster m.c) m.st.block)) = none
  arrays : ∀ a ∈ members.head?, ArraysClear s m true (matReads m a.ty a.ops a.sb a.sx a.latch)
  admitted : AdmittedAs s m.c (gangTask g) (gangHeader s m.c members) current s'

/-- The rendezvous of a gang for which nothing is missing completes it. -/
theorem awaitGang_completes (h : GangWhole s m g members current s') :
    awaitGang s m g = .ended (completeGang s' m.c g members current) := by
  have hsweep : (members.any fun a => sweeping s m (tName a.ops)) = false :=
    List.any_eq_false.mpr fun a ha => by simp [h.unswept a ha]
  unfold awaitGang
  rw [h.complete]
  dsimp only
  rw [hsweep, h.tiles]
  cases hmem : members with
  | nil =>
    have hadm := h.admitted
    rw [hmem] at hadm
    dsimp only
    rw [withArrays_clear (fun _ ha => by cases ha), admission_of hadm]
    rfl
  | cons a rest =>
    have hadm := h.admitted
    rw [hmem] at hadm
    dsimp only
    rw [withArrays_clear (h.arrays a (by simp [hmem])), admission_of hadm]
    rfl

theorem awaitGang_waits (h : gangComplete (s.cluster m.c) g = none) : awaitGang s m g = .stall .rendezvous s := by
  unfold awaitGang
  rw [h]
end

/-- The rendezvous as a strand that has just come to it sees it. -/
def rendezvous (s : State) (m : Me) (g : Nat) : Eff :=
  match meAt s m.c m.k with
  | none => .ended s
  | some m => awaitGang s m g

/-- The strand as it waits at its rendezvous. -/
def Me.atGang (m : Me) : Me := { m with st := { m.st with wait := .gang } }

/-- The state in which an arrival stands, and its strand waits. -/
def Me.arrivesIn (m : Me) (s : State) (a : Arrival) : State :=
  (s.setCluster m.c { s.cluster m.c with arrivals := (s.cluster m.c).arrivals ++ [a] }).modStrand m.c m.k
    fun st => { st with wait := .gang }

section
variable {s : State} {m : Me} {a : Arrival}

theorem arrivesIn_strand? (hst : s.strand? m.c m.k = some m.st) : (m.arrivesIn s a).strand? m.c m.k = some m.atGang.st :=
  State.strand?_modStrand _ _ (.trans (by simp [State.strand?]) hst)

theorem arrivesIn_arrivals : ((m.arrivesIn s a).cluster m.c).arrivals = (s.cluster m.c).arrivals ++ [a] :=
  (arrivals_modStrand ..).trans (by rw [State.cluster_setCluster])

theorem arrivesIn_mem : (m.arrivesIn s a).mem = s.mem := State.modStrand_mem ..

theorem meAt_arrivesIn (hm : me? s = some m) : meAt (m.arrivesIn s a) m.c m.k = some m.atGang := by
  obtain ⟨-, hst, hb, hh⟩ := me?_some hm
  have hb' : (m.arrivesIn s a).block? m.c m.atGang.st.block = some m.blk :=
    (State.block?_modStrand ..).trans (.trans (by simp [State.block?, Me.atGang]) hb)
  rw [meAt_of (arrivesIn_strand? hst) hb', Me.arrivesIn, State.cluster_modStrand, State.cluster_setCluster]
  simp [Me.atGang, hh]

variable (hnew : ∀ x ∈ (s.cluster m.c).arrivals, x.slot ≠ m.k)
include hnew

theorem arriveGang_bad (hbad : gangBad (s.cluster m.c) m a.gang = true) :
    arriveGang s m a = .trap causeGangBroken (payload [(8, 1), (8, m.k)]) s := by
  unfold arriveGang
  dsimp only
  rw [if_neg (by simpa using fun x hx h => absurd h (hnew x hx)), if_pos hbad]

/-- An arrival that no other contradicts stands, and its strand waits at the rendezvous. -/
theorem arriveGang_stands (hm : me? s = some m) (hgood : gangBad (s.cluster m.c) m a.gang = false)
    (hmeets : ∀ x ∈ (s.cluster m.c).arrivals, (bitOf x.gang m.k || bitOf a.gang x.slot) = true →
      x.gang = a.gang ∧ x.common = a.common) :
    arriveGang s m a = awaitGang (m.arrivesIn s a) m.atGang a.gang := by
  have hagree : ((s.cluster m.c).arrivals.any fun b =>
      (bitOf b.gang m.k || bitOf a.gang b.slot) && (b.gang != a.gang || b.common != a.common)) = false := by
    refine List.any_eq_false.mpr fun x hx => ?_
    cases hb : bitOf x.gang m.k || bitOf a.gang x.slot
    · simp
    · simp [hmeets x hx hb]
  unfold arriveGang
  dsimp only
  rw [if_neg (by simpa using fun x hx h => absurd h (hnew x hx)), if_neg (ne_true_of_eq_false hgood),
    if_neg (ne_true_of_eq_false hagree)]
  show rendezvous (m.arrivesIn s a) m a.gang = _
  rw [rendezvous, meAt_arrivesIn hm]
end

/-! ### `mmag` -/

/-- The arrival of a member that issues `mmag`. -/
def Me.arrival (m : Me) (s : State) (sat : Bool) (ty : MatTy) (o : TOps) : Arrival :=
  { slot := m.k, gang := m.st.regs.gang.toNat % 256, sat := sat, ty := ty, ops := o, sb := (m.st.regs.get o.sb).toNat
    sx := (m.st.regs.get o.sx).toNat, latch := m.matA s ty o }

section
variable {s s' : State} {m : Me} {sat : Bool} {ty : MatTy} {o : TOps}

theorem execMmag_waiting (hm : me? s = some m) (hw : m.st.wait = .gang) : exec (.mmag sat ty o) s =
    .next (finish m 0xE0 o.hdr.stop s (awaitGang s m (m.st.regs.gang.toNat % 256))) := by
  rw [exec_mmag, execMmag, hm]
  exact if_pos (by simp [hw])

/-- The checks of an arrival outside a handler pass: the attempt comes to what the arrival does. -/
structure MmagPasses (s : State) (m : Me) (ty : MatTy) (o : TOps) : Prop where
  ready : Ready s m (mmaUses s ty o m)
  fresh : m.st.wait = .none
  outside : m.inH = false
  reason : mmaReason m.blk o = none
  clear : TileClear s m (tName o) (mmaReads m.blk o (m.matA s ty o))
  shadow : o.sp = true → m.blk.shadows.get? (tName o) ≠ none ∨
    ((s.cluster m.c).blocks.foldl (fun n p => n + p.2.shadows.length) 0 < Config.shadowTiles ∧ FreshTile s m)
  tile : o.sp = false → o.za = true → FreshTile s m
  arrays : ArraysClear s m true (matReads m ty o (m.st.regs.get o.sb).toNat (m.st.regs.get o.sx).toNat (m.matA s ty o))

/-- The state after an attempt of `mmag` that comes to an effect. -/
def settled (m : Me) (bo stop : Bool) (s : State) (e : Eff) : State := settleTurn m bo e (finish m 0xE0 stop s e)

theorem execMmag_arrives (h : MmagPasses s m ty o) : exec (.mmag sat ty o) s = .next (settled m (mmaUses s ty o m).bo o.hdr.stop s
    ((arriveGang s m (m.arrival s sat ty o)).orFor
      (holds := arraysBusy s m (matReads m ty o (m.st.regs.get o.sb).toNat (m.st.regs.get o.sx).toNat (m.matA s ty o)))
      (r := .range))) := by
  rw [exec_mmag, execMmag, h.ready.here]
  dsimp only
  rw [if_neg (by simp [h.fresh]), issueBy_ready h.ready, if_neg (ne_true_of_eq_false h.outside),
    withReasons_pass h.clear.1 h.reason, withTile_pass h.clear.2,
    withMmaTile_pass h.shadow h.tile, withArrays_clear h.arrays]
  rfl

/-- A member that waits leaves its arrival, and nothing of memory. -/
theorem settled_waits {a : Arrival} (stop : Bool) (bo : Bool) (hm : me? s = some m) :
    let t := settled m bo stop s (.stall .rendezvous (m.arrivesIn s a))
    SameBytes s t ∧ (t.cluster m.c).arrivals = (s.cluster m.c).arrivals ++ [a] ∧ ∃ st, t.strand? m.c m.k = some st ∧
      st.pc = m.st.pc ∧ st.wait = .gang ∧ st.stall = some .rendezvous ∧ st.regs = m.st.regs := by
  let f : Strand → Strand := fun st => { st with stall := some .rendezvous, waited := 0, pre := [] }
  have hst : ((m.arrivesIn s a).modStrand m.c m.k f).strand? m.c m.k = some (f m.atGang.st) :=
    State.strand?_modStrand _ _ (arrivesIn_strand? (me?_some hm).2.1)
  have hmem : ((m.arrivesIn s a).modStrand m.c m.k f).mem = s.mem := (State.modStrand_mem ..).trans arrivesIn_mem
  have harr : (((m.arrivesIn s a).modStrand m.c m.k f).cluster m.c).arrivals = (s.cluster m.c).arrivals ++ [a] :=
    (arrivals_modStrand ..).trans arrivesIn_arrivals
  rcases settleTurn_eq m bo (.stall .rendezvous (m.arrivesIn s a)) ((m.arrivesIn s a).modStrand m.c m.k f) with h | h
  · have heq : settled m bo stop s (.stall .rendezvous (m.arrivesIn s a)) = _ := h
    simp only [heq]
    exact ⟨fun x => by rw [hmem], harr, _, hst, rfl, rfl, rfl, rfl⟩
  · have heq : settled m bo stop s (.stall .rendezvous (m.arrivesIn s a)) = _ := h
    obtain ⟨n, hn⟩ := tookTurn_strand? hst
    simp only [heq]
    refine ⟨fun x => by rw [tookTurn_mem, hmem], ?_, _, hn, rfl, rfl, rfl, rfl⟩
    simp only [tookTurn, arrivals_modStrand, State.cluster_modCluster]
    exact arrivesIn_arrivals

theorem settled_trap (bo stop : Bool) (cause : Nat) (info : Word) : settled m bo stop s (.trap cause info s') =
    (if bo then trappedBo else trappedIn) s' m cause info 0xE0 := by
  cases bo <;> rfl

theorem settled_ended (bo stop : Bool) : settled m bo stop s (.ended s') = if bo then tookTurn s' m else s' := by
  cases bo <;> rfl
end

/-- Settles O34: the rendezvous by the arrivals that stand, a completion member by member, and an arrival by what it meets. -/
theorem gangProduct : Obligations.GangProduct := by
  unfold Obligations.GangProduct
  intro s s' m sat ty o members current cl g p q u mine shadows whole
  refine ⟨fun hm hw ⟨h1, h2, h3, h4, h5⟩ => ?_, gangComplete_some, fun hne => ⟨gangShares_fst .., ?_, completeGang_eq ..⟩,
    fun k c number share a hk hu hbound => ?_, fun hr hw hin hreason hclear hsp hza harr hnew => ?_⟩
  · rw [execMmag_waiting hm hw, awaitGang_completes ⟨h1, h2, h3, h4, h5⟩]
    rfl
  · rw [← List.sum_eq_foldl]
    exact gangShares_sum s m.c members current hne
  · obtain ⟨rfl, hslot, hst, hb, -⟩ := meAt_some hk
    rw [← hslot] at hst
    obtain ⟨hframe, b, hb', hdone⟩ := applyMat_puts (sat := a.sat) (ty := a.ty) (p := a.sb) (q := a.sx) (a := a.latch) share hb
      fun hza hsp => Option.ne_none_iff_exists'.mp (hbound hza hsp)
    have hst' := gangApplied_strand? (number := number) hst hframe
    dsimp only
    rw [gangMember_eq hk hu hst', ← hslot]
    refine ⟨_, b, retiredState_strand? .., rfl, rfl, rfl, rfl, ?_, hdone, fun x => ?_, ?_, fun j hj => ?_⟩
    · rw [retiredState_block?, gangApplied_block?]
      exact hb'
    · rw [retiredState_mem, gangApplied_mem, hframe.memory]
    · rw [retiredState_cluster]
      exact gangApplied_arrivals
    · rw [retiredState_strand?_ne _ _ _ _ _ _ hj]
      exact gangApplied_strand?_ne hj hframe
  · have hpass : MmagPasses s m ty o := ⟨hr, hw, hin, hreason, hclear, hsp, hza, harr⟩
    have hex := execMmag_arrives (sat := sat) hpass
    refine ⟨fun hbad => ?_, fun hgood hmeets => ?_, fun hgood hmeets ⟨i, hi, hne, hmiss⟩ => ?_⟩
    · rw [hex, arriveGang_bad hnew hbad]
      exact congrArg Host.Outcome.next (settled_trap u.bo o.hdr.stop ..)
    · rintro n ⟨h1, h2, h3, h4, h5⟩
      have hwhole : GangWhole (m.arrivesIn s mine) m.atGang g members current s' := ⟨h1, h2, h3, h4, h5⟩
      rw [hex, show arriveGang s m (m.arrival s sat ty o) = .ended (completeGang s' m.c g members current) from
        (arriveGang_stands hnew hr.here hgood hmeets).trans (awaitGang_completes hwhole)]
      exact congrArg Host.Outcome.next (settled_ended u.bo o.hdr.stop)
    · have hnone : gangComplete ((m.arrivesIn s mine).cluster m.c) g = none := by
        refine gangComplete_none hi fun x hx => ?_
        rw [arrivesIn_arrivals] at hx
        rcases List.mem_append.mp hx with hx | hx
        · exact hmiss x hx
        · rw [List.mem_singleton.mp hx]
          exact hne.symm
      rw [show arriveGang s m (m.arrival s sat ty o) = .stall .rendezvous (m.arrivesIn s mine) from
        (arriveGang_stands hnew hr.here hgood hmeets).trans (awaitGang_waits hnone)] at hex
      obtain ⟨hmem, harr, st, hst, hpc, hwait, hstall, hregs⟩ :=
        settled_waits (a := mine) o.hdr.stop u.bo hr.here
      refine ⟨_, st, hex.trans ?_, hmem, hst, hpc, hwait, hstall, hregs, harr⟩
      cases arraysBusy s m (matReads m ty o (m.st.regs.get o.sb).toNat (m.st.regs.get o.sx).toNat (m.matA s ty o)) <;> rfl

end Sys2Proof.Machine
end

section
/-!
PROOFS. The events of the engines: a job's start, its accesses, its stop and its retirement, the end of a tile-engine run, a sweep
that retires, and a tracker entry that is freed (10 R155, R165-R167, 11 R176-R182, 12 R201).
-/
namespace Sys2Proof.Machine

/-! ### Stores -/

/-- What a store leaves of memory rests on memory and the locks. -/
theorem storeBytes_congr {s t : State} (hm : t.mem = s.mem) (hl : t.locks = s.locks) (pa : Nat) (bs : List (Option Byte)) :
    (storeBytes t pa bs).mem = (storeBytes s pa bs).mem := by
  induction bs generalizing s t pa with
  | nil => exact hm
  | cons b bs ih =>
    rw [storeBytes_cons, storeBytes_cons]
    refine ih ?_ ((storeOne_locks ..).trans (hl.trans (storeOne_locks ..).symm)) _
    unfold storeOne
    split
    · exact hm
    · rw [lockServes_congr hl]
      split
      · exact hm
      · dsimp only
        rw [hm]

/-! ### Blocks alone -/

/-- Of a cluster at most the blocks differ. -/
def OnlyBlocks (s t : State) (c : Nat) : Prop := t.cluster c = { s.cluster c with blocks := (t.cluster c).blocks }

theorem OnlyBlocks.refl (s : State) (c : Nat) : OnlyBlocks s s c := rfl

theorem OnlyBlocks.trans {s t u : State} {c : Nat} (h : OnlyBlocks s t c) (h' : OnlyBlocks t u c) : OnlyBlocks s u c := by
  unfold OnlyBlocks at h h' ⊢
  rw [h', h]

theorem OnlyBlocks.of_clusters {s t : State} {c : Nat} (h : t.clusters = s.clusters) : OnlyBlocks s t c := by
  simp [OnlyBlocks, State.cluster, h]

section
variable (s : State) (c block : Nat)

theorem modBlock_only (f : Block → Block) : OnlyBlocks s (s.modBlock c block f) c := by
  unfold State.modBlock
  split
  · exact .refl s c
  · simp [OnlyBlocks]

theorem scratchWrite_only (a : Nat) (bs : List Byte) : OnlyBlocks s (scratchWrite s c block a bs) c := by
  unfold scratchWrite
  dsimp only
  split
  · exact modBlock_only ..
  · exact (modBlock_only s c block fun b => { b with scratch := writeBytes b.scratch a bs }).trans (.of_clusters rfl)

theorem barTest_only (a : Nat) : OnlyBlocks s (barTest s c block a) c := by
  unfold barTest
  split
  · exact .refl s c
  · dsimp only
    split
    · exact .refl s c
    · split
      · refine .trans ?_ (.of_clusters (record_clusters ..))
        split
        · exact (scratchWrite_only ..).trans (modBlock_only ..)
        · exact scratchWrite_only ..
      · exact .refl s c

theorem barStep_only (a arrive : Nat) (pend : Int) : OnlyBlocks s (barStep s c block a arrive pend) c := by
  unfold barStep
  split
  · exact .refl s c
  · exact (scratchWrite_only ..).trans (barTest_only ..)
end

/-! ### Jobs of a cluster -/

@[simp] theorem jobRecord_cluster (s : State) (c kind cause : Nat) (j : Job) (d : Nat) :
    (jobRecord s c kind cause j).cluster d = s.cluster d := record_cluster ..

@[simp] theorem jobRecord_mem (s : State) (c kind cause : Nat) (j : Job) : (jobRecord s c kind cause j).mem = s.mem := record_mem ..

/-- The jobs that are found are those of the cluster. -/
theorem jobAt_congr {s t : State} {c : Nat} (h : (t.cluster c).jobs = (s.cluster c).jobs) (b ticket : Nat) :
    jobAt t c b ticket = jobAt s c b ticket := by
  simp [jobAt, h]

theorem jobAt_some {s : State} {c b ticket : Nat} {j : Job} (h : jobAt s c b ticket = some j) :
    j.block = b ∧ j.ticket = ticket := by
  simpa using List.find?_some h

/-- A job that is written in the place of one that a search finds is found in its place. -/
theorem find?_replace {l : List Job} {p : Job → Bool} {j j' : Job} (h : l.find? p = some j) (hid : j'.id = j.id)
    (hp : p j' = true) :
    (l.map fun x => if x.id == j'.id then j' else x).find? p = some j' := by
  induction l with
  | nil => cases h
  | cons x l ih =>
    rw [List.map_cons]
    by_cases hx : x.id = j'.id
    · rw [if_pos (by simpa using hx)]
      exact List.find?_cons_of_pos hp
    · have hpx : ¬p x = true := fun hpx => hx (by
        rw [List.find?_cons_of_pos hpx] at h
        rw [Option.some.inj h, hid])
      rw [if_neg (by simpa using hx), List.find?_cons_of_neg hpx]
      exact ih (by rwa [List.find?_cons_of_neg hpx] at h)

theorem jobAt_setJob {s : State} {c b ticket : Nat} {j j' : Job} (h : jobAt s c b ticket = some j) (hid : j'.id = j.id)
    (hb : j'.block = j.block) (ht : j'.ticket = j.ticket) : jobAt (setJob s c j') c b ticket = some j' := by
  obtain ⟨rfl, rfl⟩ := jobAt_some h
  unfold jobAt setJob
  rw [State.cluster_modCluster]
  exact find?_replace h hid (by simp [hb, ht])

theorem setJob_block? (s : State) (c : Nat) (j : Job) (b : Nat) : (setJob s c j).block? c b = s.block? c b := block?_modCluster rfl

theorem jobTouch_cluster (s : State) (c : Nat) (j : Job) (space : Option Nat) (a n d : Nat) :
    (jobTouch s c j space a n).cluster d = s.cluster d := by
  simp [jobTouch, State.cluster]

theorem jobTouch_mem (s : State) (c : Nat) (j : Job) (space : Option Nat) (a n : Nat) : (jobTouch s c j space a n).mem = s.mem :=
  touch_mem ..

/-! ### The start of a job -/

/-- A job that has read its descriptors. -/
def Job.begins (j : Job) (b : Block) : Job :=
  { j with started := true, src := readBytes b.scratch (j.card + 16) 24, dst := readBytes b.scratch (j.card + 40) 24 }

section
variable {s : State} {c b ticket : Nat} {j : Job} {blk : Block}

/-- The state in which a job has started. -/
def jobBegun (s : State) (c b : Nat) (j : Job) (blk : Block) : State :=
  jobRecord (setJob (jobTouch s c j (some b) (j.card + 16) 48) c (j.begins blk)) c 1 0 (j.begins blk)

theorem jobStarts_of (hj : jobAt s c b ticket = some j) (hb : s.block? c b = some blk) (hrun : jobMayRun s c j = true)
    (hnew : j.started = false) (hedges : j.edges = []) (hsent : sentBefore (s.cluster c) j = false)
    (howed : jobOwed s c j (some b) (j.card + 16) 48 = false) (hclean : scratchPoison s c b (j.card + 16) 48 = none) :
    jobStarts c b ticket s = some (jobBegun s c b j blk) := by
  unfold jobStarts
  rw [hj, hb]
  dsimp only
  rw [if_neg (by simp [hnew, hedges, hsent, hrun, howed]), hclean]
  rfl

theorem jobBegun_mem : (jobBegun s c b j blk).mem = s.mem := (jobRecord_mem ..).trans (jobTouch_mem ..)

theorem jobBegun_jobAt (hj : jobAt s c b ticket = some j) : jobAt (jobBegun s c b j blk) c b ticket = some (j.begins blk) := by
  have hj' : jobAt (jobTouch s c j (some b) (j.card + 16) 48) c b ticket = some j :=
    (jobAt_congr (by rw [jobTouch_cluster]) ..).trans hj
  exact (jobAt_congr (by rw [jobBegun, jobRecord_cluster]) ..).trans (jobAt_setJob hj' rfl rfl rfl)

/-! ### The stop of a job -/

/-- A job without a fault stops with one that is no poison. -/
theorem stopJob_jobAt {f : Nat × Nat} (hj : jobAt s c b ticket = some j) (hnone : j.faults = []) (hf : f.1 ≠ causeEcc) :
    jobAt (stopJob s c j f) c b ticket = some { j with faults := [f] } := by
  unfold stopJob
  rw [if_neg (by simpa using hf), show j.faults ++ [f] = [f] by rw [hnone]; rfl]
  exact (jobAt_congr (by rw [jobRecord_cluster]) ..).trans (jobAt_setJob hj rfl rfl rfl)

section
variable (hj : jobAt s c b ticket = some j) (hb : s.block? c b = some blk) (hstart : j.started = true) (hnone : j.faults = [])
include hj hb hstart hnone

theorem jobFaults_malformed (hbad : j.malformed = true) : jobFaults c b ticket s = some (stopJob s c j (causeDesc, j.card)) := by
  simp [jobFaults, hj, hb, hstart, hnone, hbad]

variable {p : JobPart} {a : JobAccess} (hrun : jobMayRun s c j = true) (hgood : j.malformed = false) (ha : j.access p = some a)
include hrun hgood ha

theorem jobPart_stops {f : Nat × Nat} (hplace : jobPlace s c blk j a = .inr f) :
    jobPart c b ticket p s = some (stopJob s c j f) := by
  simp [jobPart, hj, hb, hstart, hnone, hrun, hgood, ha, hplace]

theorem jobFaults_access {f : Nat × Nat} (hnext : j.next = some p) (hplace : jobPlace s c blk j a = .inr f) :
    jobFaults c b ticket s = some (stopJob s c j f) := by
  rw [← jobPart_stops hj hb hstart hnone hrun hgood ha hplace]
  simp [jobFaults, hj, hb, hstart, hnone, hgood, hnext, ha, hplace]

/-! ### One access of a job -/

theorem jobPart_done {pa : Nat} {shared : Bool} (hplace : jobPlace s c blk j a = .inl (pa, shared))
    (hwaits : jobWaits s c j a pa = false) : jobPart c b ticket p s = some (jobAccessDone s c blk j p a pa shared) := by
  simp [jobPart, hj, hb, hstart, hnone, hrun, hgood, ha, hplace, hwaits]
end

/-- A part that is done leaves what names the job. -/
theorem after_names (j : Job) (p : JobPart) (v : Nat) :
    (j.after p v).id = j.id ∧ (j.after p v).block = j.block ∧ (j.after p v).ticket = j.ticket := by
  cases p <;> exact ⟨rfl, rfl, rfl⟩

/-- The state in which an access of a job has reached its bytes. -/
def jobReached (s : State) (c : Nat) (j : Job) (a : JobAccess) (pa : Nat) (shared : Bool) : State :=
  jobTouch (if a.scratch then s else shareLine s shared pa) c j (if a.scratch then some j.block else none) pa a.bytes

section
variable {a : JobAccess} {pa : Nat} {shared : Bool}

theorem jobReached_mem : (jobReached s c j a pa shared).mem = s.mem := by
  refine (jobTouch_mem ..).trans ?_
  split
  · rfl
  · exact shareLine_mem ..

theorem jobReached_locks : (jobReached s c j a pa shared).locks = s.locks := by
  refine (touch_locks ..).trans ?_
  split
  · rfl
  · exact shareLine_locks ..

theorem jobReached_seen (n : Nat) : seenNat (jobReached s c j a pa shared) pa n = seenNat s pa n := by
  refine seenNat_congr jobReached_mem jobReached_locks ((touch_bells ..).trans ?_) pa n
  split
  · rfl
  · exact (shareLine_frame ..).bells

theorem jobReached_cluster : (jobReached s c j a pa shared).cluster c = s.cluster c := by
  refine (jobTouch_cluster ..).trans ?_
  split
  · rfl
  · simp [State.cluster]

theorem jobReached_jobAt : jobAt (jobReached s c j a pa shared) c b ticket = jobAt s c b ticket :=
  jobAt_congr (by rw [jobReached_cluster]) ..

/-- The state in which it has taken place, but for the job's own record of it. -/
def jobWrote (s : State) (c : Nat) (j : Job) (a : JobAccess) (pa v : Nat) : State :=
  if a.scratch then scratchWrite s c j.block pa (leBytes a.bytes v) else storeNat s pa a.bytes v

theorem jobAccessDone_reads (p : JobPart) (hw : a.write = false) : jobAccessDone s c blk j p a pa shared =
    setJob (jobReached s c j a pa shared) c (j.after p
      (if a.scratch then readNat blk.scratch pa a.bytes else seenNat s pa a.bytes)) := by
  rw [← jobReached_seen (c := c) (j := j) (a := a) (shared := shared)]
  unfold jobAccessDone
  dsimp only
  rw [if_neg (ne_true_of_eq_false hw)]
  rfl

theorem jobAccessDone_writes (p : JobPart) (hw : a.write = true) : jobAccessDone s c blk j p a pa shared =
    setJob (jobWrote (jobReached s c j a pa shared) c j a pa ((j.value p.element).getD (0, 0)).2) c (j.after p 0) := by
  unfold jobAccessDone
  dsimp only
  rw [if_pos hw]
  rfl

theorem jobWrote_jobAt (v : Nat) : jobAt (jobWrote s c j a pa v) c b ticket = jobAt s c b ticket := by
  refine jobAt_congr ?_ ..
  unfold jobWrote
  split
  · rw [scratchWrite_only]
  · simp [State.cluster, storeNat]

/-- A write to the scratchpad writes its bytes, and memory not at all. -/
theorem jobWrote_scratch (v : Nat) (hlocal : a.scratch = true) (hb : s.block? c j.block = some blk)
    (hwf : Memory.wf blk.scratch = true) : (jobWrote s c j a pa v).mem = s.mem ∧ ∃ b',
      (jobWrote s c j a pa v).block? c j.block = some b' ∧ readNat b'.scratch pa a.bytes = v % 2 ^ (8 * a.bytes) ∧
      ∀ x, x < pa ∨ pa + a.bytes ≤ x → readByte b'.scratch x = readByte blk.scratch x := by
  rw [jobWrote, if_pos hlocal]
  exact ⟨scratchWrite_mem .., { blk with scratch := writeBytes blk.scratch pa (leBytes a.bytes v) }, scratchWrite_block? _ _ hb,
    readNat_writeNat _ _ _ hwf, fun x hx => readByte_writeBytes_apart _ _ _ (by rwa [length_leBytes])⟩

/-- An access that takes place is noted in its job. -/
theorem jobAt_after {t : State} (hj : jobAt t c b ticket = some j) (p : JobPart) (v : Nat) :
    jobAt (setJob t c (j.after p v)) c b ticket = some (j.after p v) := by
  obtain ⟨hid, hb, ht⟩ := after_names j p v
  exact jobAt_setJob hj hid hb ht
end
end

/-! ### The completion of a job -/

/-- Memory, the blocks of a cluster and its power are as before. -/
structure JobFrame (s t : State) (c : Nat) : Prop where
  memory : t.mem = s.mem
  blocks : ∀ x, t.block? c x = s.block? c x
  power : (t.cluster c).power = (s.cluster c).power

theorem JobFrame.refl (s : State) (c : Nat) : JobFrame s s c := ⟨rfl, fun _ => rfl, rfl⟩

theorem JobFrame.trans {s t u : State} {c : Nat} (h : JobFrame s t c) (h' : JobFrame t u c) : JobFrame s u c :=
  ⟨h'.memory.trans h.memory, fun x => (h'.blocks x).trans (h.blocks x), h'.power.trans h.power⟩

theorem JobFrame.of_clusters {s t : State} {c : Nat} (hm : t.mem = s.mem) (h : t.clusters = s.clusters) : JobFrame s t c :=
  ⟨hm, fun x => by simp only [State.block?, State.cluster, h], by simp only [State.cluster, h]⟩

theorem modStrand_jobFrame (s : State) (c k : Nat) (f : Strand → Strand) : JobFrame s (s.modStrand c k f) c :=
  ⟨State.modStrand_mem .., fun _ => State.block?_modStrand .., by rw [State.cluster_modStrand]⟩

section
variable {s : State} {c : Nat} {b : Block} {j : Job}

/-- A fault reaches a strand, or the grid's status. -/
theorem deliverFault_frame (f : Nat × Nat) : JobFrame s (deliverFault s c b j f) c := by
  unfold deliverFault orphanFault
  dsimp only
  split
  · exact modStrand_jobFrame ..
  · split
    · exact modStrand_jobFrame ..
    · exact .of_clusters rfl rfl

theorem deliverFaults_frame (l : List (Nat × Nat)) : JobFrame s (l.foldl (fun s f => deliverFault s c b j f) s) c := by
  induction l generalizing s with
  | nil => exact .refl s c
  | cons f l ih => exact (deliverFault_frame f).trans ih

/-- A job's fault as its issuer is told of it. -/
def Job.told (j : Job) (f : Nat × Nat) : JobFault :=
  { ticket := j.ticket, cause := f.1, info := f.2, orphan := false, mid := false, later := false }

/-- The strand itself issued the job, and takes its faults (11 R181, 12 R202). -/
structure Strand.Issued (st : Strand) (j : Job) : Prop where
  block : st.block = j.block
  untailed : st.tailed = false
  frames : ∀ f ∈ st.frames, f.first ≤ j.id
  spans : inSpans st.spans j.id = false

theorem Strand.Issued.no_callee {st : Strand} (h : st.Issued j) : (st.frames.takeWhile fun fr => decide (j.id < fr.first)) = [] :=
  List.takeWhile_eq_nil_iff.mpr fun hlen => by
    simpa using h.frames _ (List.getElem_mem hlen)

theorem deliverFault_strand? {st : Strand} (f : Nat × Nat) (hst : s.strand? c j.slot = some st) (h : st.Issued j) :
    (deliverFault s c b j f).strand? c j.slot = some { st with jobFaults := st.jobFaults ++ [j.told f] } := by
  have htakes : (st.block == j.block && !st.tailed && !st.faultOrphan j.id) = true := by
    simp [h.block, h.untailed, Strand.faultOrphan, h.no_callee, h.spans]
  unfold deliverFault
  dsimp only
  rw [hst, Option.filter_some, if_pos htakes]
  refine (State.strand?_modStrand _ _ hst).trans ?_
  simp only [Strand.takeFault, h.no_callee]
  rfl

theorem deliverFaults_strand? {st : Strand} (l : List (Nat × Nat)) (hst : s.strand? c j.slot = some st) (h : st.Issued j) :
    (l.foldl (fun s f => deliverFault s c b j f) s).strand? c j.slot =
      some { st with jobFaults := st.jobFaults ++ l.map j.told } := by
  induction l generalizing s st with
  | nil => simpa using hst
  | cons f l ih =>
    rw [List.foldl_cons, ih (deliverFault_strand? f hst h) ⟨h.block, h.untailed, h.frames, h.spans⟩]
    simp

/-- A completion leaves the power. -/
theorem jobComplete_power : ((jobComplete s c b j).1.cluster c).power = (s.cluster c).power := by
  have hreach : ∀ space a n, OnlyBlocks s (jobTouch s c j space a n) c := fun _ _ _ => .of_clusters (touch_clusters ..)
  have h : OnlyBlocks s (jobComplete s c b j).1 c := by
    unfold jobComplete
    split
    · dsimp only
      split
      · exact .refl s c
      · exact (hreach _ _ _).trans (barStep_only ..)
    · split
      · exact .of_clusters (by simp [storeNat, jobTouch])
      · exact .refl s c
      · exact .refl s c
    · exact .refl s c
  rw [h]

/-- A completion word in memory counts one more. -/
theorem jobComplete_signals {pa leaf : Nat} (hc : j.cmpl = 2) (hpa : checkDirect s j.ctx (.store false) j.cpl = .ok pa leaf) :
    (jobComplete s c b j).1.mem = (storeNat s pa 8 ((seenNat s pa 8 + 1) % 2 ^ 64)).mem := by
  have hseen : seenNat (jobTouch s c j none pa 8) pa 8 = seenNat s pa 8 :=
    seenNat_congr (jobTouch_mem ..) (touch_locks ..) (touch_bells ..) pa 8
  unfold jobComplete
  simp only [hc, hpa, shareLine_mem, hseen]
  exact storeBytes_congr (jobTouch_mem ..) (touch_locks ..) ..

theorem jobComplete_none (hc : j.cmpl = 0) : jobComplete s c b j = (s, none) := by
  simp [jobComplete, hc]

/-! ### The release of a job -/

/-- The state in which a job's faults have reached whom they concern. -/
def jobFaulted (s : State) (c : Nat) (b : Block) (j : Job) (late : Option (Nat × Nat)) : State :=
  (j.faults ++ late.toList).foldl (fun s f => deliverFault s c b j f)
    (match late with
    | some f => jobRecord s c 3 f.1 j
    | none => s)

theorem jobFaulted_frame (late : Option (Nat × Nat)) : JobFrame s (jobFaulted s c b j late) c := by
  refine .trans ?_ (deliverFaults_frame _)
  cases late
  · exact .refl s c
  · exact .of_clusters (record_mem ..) (record_clusters ..)

/-- What a job leaves behind in its cluster. -/
theorem releaseJob_cluster (late : Option (Nat × Nat)) : (releaseJob s c b j late).cluster c =
    { (jobFaulted s c b j late).cluster c with
      jobs := (((jobFaulted s c b j late).cluster c).jobs.filter fun x => x.id != j.id).map
        fun x => { x with edges := x.edges.filter fun e => e != j.id }
      tracker := ((jobFaulted s c b j late).cluster c).tracker.map fun t => { t with jobs := t.jobs.filter fun i => i != j.id }
      power := { ((jobFaulted s c b j late).cluster c).power with
        infl := ((jobFaulted s c b j late).cluster c).power.infl - j.current } } := by
  have hdebts : ∀ (t : State) gone, (dropDebts t c gone).cluster c = t.cluster c := fun t gone => by simp [State.cluster]
  unfold releaseJob
  simp only [jobRecord_cluster, releaseCurrent, State.cluster_modCluster, hdebts, untrack] <;> rfl

theorem releaseJob_mem (late : Option (Nat × Nat)) : (releaseJob s c b j late).mem = s.mem := by
  refine .trans ?_ (jobFaulted_frame (c := c) (b := b) (j := j) late).memory
  unfold releaseJob
  simp only [jobRecord_mem, releaseCurrent, State.modCluster_mem, dropDebts_mem, untrack] <;> rfl

theorem releaseJob_gone (late : Option (Nat × Nat)) :
    (∀ x ∈ ((releaseJob s c b j late).cluster c).jobs, x.id ≠ j.id ∧ j.id ∉ x.edges) ∧
      ∀ x ∈ ((releaseJob s c b j late).cluster c).tracker, j.id ∉ x.jobs := by
  rw [releaseJob_cluster]
  refine ⟨fun x hx => ?_, fun x hx => ?_⟩
  · obtain ⟨y, hy, rfl⟩ := List.mem_map.mp hx
    exact ⟨by simpa using (List.mem_filter.mp hy).2, by simp⟩
  · obtain ⟨y, -, rfl⟩ := List.mem_map.mp hx
    simp

theorem releaseJob_infl (late : Option (Nat × Nat)) :
    ((releaseJob s c b j late).cluster c).power.infl = (s.cluster c).power.infl - j.current := by
  rw [releaseJob_cluster, (jobFaulted_frame late).power]

theorem releaseJob_block? (late : Option (Nat × Nat)) (x : Nat) : (releaseJob s c b j late).block? c x = s.block? c x := by
  rw [State.block?, releaseJob_cluster]
  exact (jobFaulted_frame late).blocks x

theorem releaseJob_strand? {st : Strand} (hst : s.strand? c j.slot = some st) (h : st.Issued j) :
    (releaseJob s c b j none).strand? c j.slot = some { st with jobFaults := st.jobFaults ++ j.faults.map j.told } := by
  have hfaulted : jobFaulted s c b j none = j.faults.foldl (fun s f => deliverFault s c b j f) s := by simp [jobFaulted]
  rw [State.strand?, releaseJob_cluster, hfaulted]
  exact deliverFaults_strand? _ hst h

/-- A job that has written every element, or has stopped, completes and is released. -/
theorem jobRetires_of {ticket : Nat} {n : Nat} (hj : jobAt s c n ticket = some j) (hb : s.block? c n = some b)
    (hrun : jobMayRun s c j = true)
    (hstart : j.started = true) (hfirst : serialFirst s c j = true) (hready : completionReady s c j = true)
    (hclean : completionPoison s c j = none) (hover : j.faults ≠ [] ∨ (j.malformed = false ∧ j.done = true)) :
    jobRetires c n ticket s = some (releaseJob (jobComplete s c b j).1 c b j (jobComplete s c b j).2) := by
  have hends : (j.faults.isEmpty && (j.malformed || !j.done)) = false := by
    rcases hover with h | ⟨h, h'⟩
    · simp [h]
    · simp [h, h']
  simp [jobRetires, hj, hb, hrun, hstart, hfirst, hready, hclean, hends]
end

/-! ### The end of a run of the tile engine -/

theorem releaseCurrent_cluster (s : State) (c i : Nat) : (releaseCurrent s c i).cluster c =
    { s.cluster c with power := { (s.cluster c).power with infl := (s.cluster c).power.infl - i } } := State.cluster_modCluster ..

/-- The state in which a run of the tile engine is over. -/
def tileEnded (s : State) (c id : Nat) (x : TileOp) : State :=
  releaseCurrent (dropDebts (untrack (s.modCluster c fun cl => { cl with tileOps := cl.tileOps.filter fun y => y.id != id }) c
    fun t => { t with tiles := t.tiles.filter fun i => i != id }) c fun i => i == id) c x.current

theorem tileEngineDone_of {s : State} {c id : Nat} {x : TileOp} (hx : (s.cluster c).tileOps.find? (fun y => y.id == id) = some x)
    (hserial : serialMode s c = false) : tileEngineDone c id s = some (tileEnded s c id x) := by
  simp only [tileEngineDone, hx, Option.bind_some, hserial, Bool.false_and, Bool.false_eq_true, if_false]
  rfl

theorem tileEnded_cluster (s : State) (c id : Nat) (x : TileOp) : (tileEnded s c id x).cluster c = { s.cluster c with
    tileOps := (s.cluster c).tileOps.filter fun y => y.id != id
    tracker := (s.cluster c).tracker.map fun t => { t with tiles := t.tiles.filter fun i => i != id }
    power := { (s.cluster c).power with infl := (s.cluster c).power.infl - x.current } } := by
  have hdebts : ∀ (t : State) gone, (dropDebts t c gone).cluster c = t.cluster c := fun t gone => by simp [State.cluster]
  simp only [tileEnded, releaseCurrent_cluster, hdebts, untrack, State.cluster_modCluster]

/-! ### A sweep that retires -/

/-- Memory, the strands of a cluster, its sweeps and its power are as before. -/
structure SweepFrame (s t : State) (c : Nat) : Prop where
  memory : t.mem = s.mem
  strands : ∀ k, t.strand? c k = s.strand? c k
  sweeps : (t.cluster c).sweeps = (s.cluster c).sweeps
  power : (t.cluster c).power = (s.cluster c).power

theorem SweepFrame.trans {s t u : State} {c : Nat} (h : SweepFrame s t c) (h' : SweepFrame t u c) : SweepFrame s u c :=
  ⟨h'.memory.trans h.memory, fun k => (h'.strands k).trans (h.strands k), h'.sweeps.trans h.sweeps, h'.power.trans h.power⟩

theorem modBlock_sweepFrame (s : State) (c b : Nat) (f : Block → Block) : SweepFrame s (s.modBlock c b f) c := by
  have h := modBlock_only s c b f
  exact ⟨State.modBlock_mem .., fun _ => State.strand?_modBlock .., by rw [h], by rw [h]⟩

theorem bindWith_sweepFrame (s : State) (c b name : Nat) (a : AccName) : SweepFrame s (bindWith s c b name a) c := by
  have hcluster : (moveTilePoison (drainName s c b name) c b name none).cluster c = (drainName s c b name).cluster c := by
    simp only [State.cluster, moveTilePoison_clusters]
  refine .trans (t := moveTilePoison (drainName s c b name) c b name none)
    ⟨?_, fun k => (moveTilePoison_strand? ..).trans (drainName_strand? ..), ?_, ?_⟩ (modBlock_sweepFrame ..)
  · unfold moveTilePoison
    split <;> rfl
  · rw [hcluster, drainName, State.cluster_modCluster]
  · rw [hcluster, drainName, State.cluster_modCluster]

theorem bindWith_block? {s : State} {c x name : Nat} {b : Block} (a : AccName) (hb : s.block? c x = some b) :
    (bindWith s c x name a).block? c x = some { b with acc := b.acc.set name a } :=
  State.block?_modBlock _ _ ((moveTilePoison_block? ..).trans ((drainName_block? ..).trans hb))

section
variable {s : State} {c k : Nat} {w : Sweep} {b : Block}

/-- How a sweep of a block ends. -/
def Sweep.ends (w : Sweep) (b : Block) : SweepEnd := sweep w.down b.tol (factorTile b w.name).1 w.work w.x w.index

def Sweep.last (w : Sweep) : Last := if w.down then .fdwn else .fupd

/-- The state without the sweep and without its current. -/
def sweepGone (s : State) (c k : Nat) (w : Sweep) : State :=
  releaseCurrent (s.setCluster c { s.cluster c with sweeps := (s.cluster c).sweeps.filter fun x => x.slot != k }) c w.current

/-- The end of a sweep takes place, and what its strand is told. -/
def sweepApplied (s : State) (c : Nat) (w : Sweep) (b : Block) : State × Option Nat :=
  match w.ends b with
  | .commit t => (bindWith s c w.block w.name { mode := .factor (factorTile b w.name).1, tile := t, status := 0
                                                k := (factorTile b w.name).1, last := w.last }, none)
  | .abort k st => (s.modBlock c w.block fun b =>
      { b with acc := b.acc.modify w.name fun a => { a with status := st, k := k, last := w.last } },
      if w.trl then some (joinFields [(8, k), (8, st), (1, bit01 w.down)]) else none)

/-- The state after a sweep has retired. -/
def sweepRetired (s : State) (c k : Nat) (w : Sweep) (b : Block) : State :=
  (sweepApplied (sweepGone s c k w) c w b).1.modStrand c k
    fun st => { st with wait := .swept (sweepApplied (sweepGone s c k w) c w b).2 }

theorem sweepRetires_of (hrun : (s.cluster c).stopping = none) (hw : (s.cluster c).sweeps.find? (fun x => x.slot == k) = some w)
    (hb : s.block? c w.block = some b) : sweepRetires c k s = some (sweepRetired s c k w b) := by
  have hb' : (s.cluster c).blocks.get? w.block = some b := hb
  unfold sweepRetires
  dsimp only
  rw [if_neg (by simp [hrun]), hw]
  dsimp only
  rw [hb', Option.map_some]
  rfl

theorem sweepGone_block? (x : Nat) : (sweepGone s c k w).block? c x = s.block? c x :=
  (block?_modCluster rfl).trans (by simp [State.block?])

theorem sweepGone_strand? (j : Nat) : (sweepGone s c k w).strand? c j = s.strand? c j :=
  (strand?_modCluster rfl).trans (by simp [State.strand?])

theorem sweepGone_cluster : (sweepGone s c k w).cluster c = { s.cluster c with
    sweeps := (s.cluster c).sweeps.filter fun x => x.slot != k
    power := { (s.cluster c).power with infl := (s.cluster c).power.infl - w.current } } := by
  rw [sweepGone, releaseCurrent_cluster, State.cluster_setCluster]

/-- A sweep that ends changes its block alone. -/
theorem sweepApplied_frame : SweepFrame s (sweepApplied s c w b).1 c := by
  unfold sweepApplied
  split
  · exact bindWith_sweepFrame ..
  · exact modBlock_sweepFrame ..

/-- A commit binds the working tile; an abort writes the status and the row of a name that is bound. -/
theorem sweepApplied_block? (hb : s.block? c w.block = some b) : ∃ b', (sweepApplied s c w b).1.block? c w.block = some b' ∧
    (∀ t, w.ends b = .commit t → (sweepApplied s c w b).2 = none ∧ b'.acc.get? w.name =
      some { mode := .factor (factorTile b w.name).1, tile := t, status := 0, k := (factorTile b w.name).1, last := w.last }) ∧
    ∀ row why, w.ends b = .abort row why →
      (sweepApplied s c w b).2 = (if w.trl then some (joinFields [(8, row), (8, why), (1, bit01 w.down)]) else none) ∧
      ∀ x, b.acc.get? w.name = some x → b'.acc.get? w.name = some { x with status := why, k := row, last := w.last } := by
  unfold sweepApplied
  cases hend : w.ends b with
  | commit t =>
    refine ⟨_, bindWith_block? _ hb, fun t' ht => ?_, fun row why h => by cases h⟩
    cases ht
    exact ⟨rfl, SMap.get?_set_self ..⟩
  | abort row why =>
    refine ⟨_, State.block?_modBlock _ _ hb, fun t h => (by cases h), fun row' why' h => ?_⟩
    cases h
    exact ⟨rfl, fun x hx => by simp [SMap.get?_modify, hx]⟩
end

/-! ### A tracker entry that is freed -/

section
variable {s : State} {c : Nat} {β : Type} {g : Cluster → β}

/-- An update of every cluster that leaves a part of each. -/
theorem cluster_mapClusters {f : Cluster → Cluster} (h : ∀ cl, g (f cl) = g cl) :
    g (State.cluster { s with clusters := s.clusters.map fun p => (p.1, f p.2) } c) = g (s.cluster c) := by
  simp only [State.cluster, get?_mapValues s.clusters (fun _ => f)]
  cases s.clusters.get? c <;> simp [h]

variable (hg : ∀ cl census, g { cl with census := census } = g cl)
include hg

theorem mergeCensus_cluster (ctx : Nat) : g ((mergeCensus s ctx).cluster c) = g (s.cluster c) := by
  have hmap := cluster_mapClusters (s := s) (c := c) (g := g)
    (f := fun cl => { cl with census := cl.census.filter fun e => e.ctx != ctx }) fun _ => hg ..
  unfold mergeCensus
  dsimp only
  split <;> exact hmap

/-- The completion of a grid leaves of a cluster all but its census. -/
theorem settleGrid_cluster (fuel gr : Nat) : g ((settleGrid fuel s gr).cluster c) = g (s.cluster c) := by
  induction fuel generalizing s gr with
  | zero => rfl
  | succ fuel ih =>
    unfold settleGrid
    split
    · rfl
    split
    · rfl
    rename_i x _ _
    have hdone : ∀ status, g ((launchRecord (signalGrid (mergeCensus s x.rec'.ctx) x.rec'.ctx x.rec'.sigp x.status).1 2
        x.rec'.ctx x.va x.rec'.depth status).cluster c) = g (s.cluster c) := fun _ => by
      refine .trans (congrArg g ?_) (mergeCensus_cluster hg x.rec'.ctx)
      rw [launchRecord, record_cluster, State.cluster, signalGrid_clusters]
      rfl
    dsimp only
    split
    · exact hdone _
    · exact (ih _).trans (hdone _)
end

section
variable {s : State} {c b : Nat}

theorem modGrid_cluster (s : State) (g : Nat) (f : Grid → Grid) (c : Nat) : (s.modGrid g f).cluster c = s.cluster c := rfl

/-- A block with a strand stays. -/
theorem retireBlock_kept (h : ∃ p ∈ (s.cluster c).strands, p.2.block = b) : retireBlock s c b = s := by
  have hany : ((s.cluster c).strands.any fun p => p.2.block == b) = true := by
    simpa [List.any_eq_true] using h
  unfold retireBlock
  dsimp only
  split
  · rfl
  · rw [if_pos (by simp [hany])]

/-- A block that retires leaves the tracker. -/
theorem retireBlock_tracker : ((retireBlock s c b).cluster c).tracker = (s.cluster c).tracker := by
  unfold retireBlock
  dsimp only
  split
  · rfl
  split
  · rfl
  · refine (settleGrid_cluster (g := Cluster.tracker) (fun _ _ => rfl) 12 _).trans ?_
    rw [modGrid_cluster, State.cluster_setCluster]

/-- A block without a strand, a tracker entry or a fold to make is gone. -/
theorem retireBlock_gone (hst : ∀ p ∈ (s.cluster c).strands, p.2.block ≠ b) (htr : ∀ y ∈ (s.cluster c).tracker, y.block ≠ b)
    (hfold : ∀ bl, s.block? c b = some bl → bl.foldDue = []) : (retireBlock s c b).block? c b = none := by
  unfold retireBlock
  dsimp only
  split
  · assumption
  · rename_i bl hbl
    have hstay : ((s.cluster c).strands.any (fun p => p.2.block == b) || (s.cluster c).tracker.any (fun t => t.block == b) ||
        !bl.foldDue.isEmpty) = false := by
      simp only [Bool.or_eq_false_iff, List.any_eq_false]
      exact ⟨⟨fun p hp => by simpa using hst p hp, fun y hy => by simpa using htr y hy⟩, by simp [hfold bl hbl]⟩
    rw [if_neg (ne_true_of_eq_false hstay)]
    refine (congrArg (SMap.get? · b) (settleGrid_cluster (g := Cluster.blocks) (fun _ _ => rfl) 12 _)).trans ?_
    rw [modGrid_cluster, State.cluster_setCluster]
    exact SMap.get?_del_self ..
end

theorem trackerFrees_of {s : State} {c id : Nat} {x : Tracked} (hx : (s.cluster c).tracker.find? (fun y => y.id == id) = some x)
    (hempty : x.empty = true) : trackerFrees c id s = some (retireBlock
      (s.modCluster c fun cl => { cl with tracker := cl.tracker.filter fun y => y.id != id }) c x.block) := by
  simp only [trackerFrees, hx, Option.bind_some, hempty, Bool.not_true, Bool.false_eq_true, if_false]

/-- An event whose condition holds takes place. -/
theorem happen_some {s t : State} {e : Option State} (h : e = some t) : happen s e = .next t := by
  rw [h]
  rfl

/-- Settles O44: each event by the state that it leaves, with one lemma for each thing it writes and a frame for the rest. -/
theorem engineEvents : Obligations.EngineEvents := by
  unfold Obligations.EngineEvents
  intro s c cl
  refine ⟨fun b ticket j blk hj hb hrun => ⟨fun hnew hedges hsent howed hclean => ?_, fun hstart hnone =>
      ⟨fun hbad => ?_, fun hgood p a ha => ⟨fun f hnext hplace hf => ?_, fun pa shared hplace hwaits => ?_⟩⟩,
      fun hstart hfirst hready hclean hover => ?_⟩,
    fun id x hx hserial => ?_, fun k w b st hrun hw hb hst => ?_, fun id x hx hempty => ?_⟩
  · exact ⟨_, happen_some (jobStarts_of hj hb hrun hnew hedges hsent howed hclean), fun x => by rw [jobBegun_mem],
      jobBegun_jobAt hj⟩
  · exact ⟨_, happen_some (jobFaults_malformed hj hb hstart hnone hbad),
      stopJob_jobAt hj hnone (show causeDesc ≠ causeEcc by decide)⟩
  · exact ⟨_, happen_some (jobFaults_access hj hb hstart hnone hrun hgood ha hnext hplace), stopJob_jobAt hj hnone hf⟩
  · have hj' : jobAt (jobReached s c j a pa shared) c b ticket = some j := jobReached_jobAt.trans hj
    refine ⟨_, jobPart_done hj hb hstart hnone hrun hgood ha hplace hwaits, fun hw => ?_, fun hw => ?_⟩
    · rw [jobAccessDone_reads p hw]
      exact ⟨fun x => congrArg (readByte · x) jobReached_mem, jobAt_after hj' ..⟩
    · rw [jobAccessDone_writes p hw]
      refine ⟨jobAt_after ((jobWrote_jobAt _).trans hj') .., fun hglobal => ?_, fun hlocal hwf => ?_⟩
      · exact (congrArg State.mem (if_neg (ne_true_of_eq_false hglobal))).trans
          (storeBytes_congr jobReached_mem jobReached_locks ..)
      · have hb' : (jobReached s c j a pa shared).block? c j.block = some blk := by
          rw [State.block?, jobReached_cluster, (jobAt_some hj).1]
          exact hb
        obtain ⟨hmem, b', hblock, hread, hapart⟩ := jobWrote_scratch ((j.value p.element).getD (0, 0)).2 hlocal hb' hwf
        exact ⟨fun x => congrArg (readByte · x) (hmem.trans jobReached_mem), b',
          (setJob_block? ..).trans ((jobAt_some hj).1 ▸ hblock), hread, hapart⟩
  · refine ⟨_, happen_some (jobRetires_of hj hb hrun hstart hfirst hready hclean hover), (releaseJob_gone _).1, ?_,
      (releaseJob_gone _).2, fun pa leaf hc hpa => ?_, fun hc => ?_⟩
    · rw [releaseJob_infl, jobComplete_power]
    · exact (releaseJob_mem _).trans (jobComplete_signals hc hpa)
    · rw [jobComplete_none hc]
      exact ⟨fun x => by rw [releaseJob_mem], (releaseJob_block? ..).trans hb, fun st hst hblock htailed hframes hspans =>
        ⟨_, releaseJob_strand? hst ⟨hblock, htailed, hframes, hspans⟩, rfl⟩⟩
  · refine ⟨_, happen_some (tileEngineDone_of hx hserial), fun _ => ?_, by rw [tileEnded_cluster], by rw [tileEnded_cluster]⟩
    simp [tileEnded, releaseCurrent, untrack]
  · have hframe := sweepApplied_frame (s := sweepGone s c k w) (c := c) (w := w) (b := b)
    obtain ⟨b', hb', hcommit, habort⟩ := sweepApplied_block? (s := sweepGone s c k w) (c := c) ((sweepGone_block? _).trans hb)
    have hst' := (hframe.strands k).trans ((sweepGone_strand? _).trans hst)
    refine ⟨_, _, b', happen_some (sweepRetires_of hrun hw hb), fun x => ?_, State.strand?_modStrand _ _ hst',
      (State.block?_modStrand ..).trans hb', ?_, ?_, fun tile htile => ?_, fun row why hend => ?_⟩
    · rw [sweepRetired, State.modStrand_mem, hframe.memory]
      rfl
    · rw [sweepRetired, sweeps_modStrand, hframe.sweeps, sweepGone_cluster]
    · rw [sweepRetired, State.cluster_modStrand, hframe.power, sweepGone_cluster]
    · obtain ⟨hnone, hacc⟩ := hcommit tile htile
      exact ⟨by rw [hnone], hacc⟩
    · obtain ⟨hlost, hacc⟩ := habort row why hend
      exact ⟨by rw [hlost], hacc⟩
  · have hcluster := State.cluster_modCluster s c fun cl => { cl with tracker := cl.tracker.filter fun y => y.id != id }
    refine ⟨_, happen_some (trackerFrees_of hx hempty), ?_, fun hkept => ?_, fun hstrands htracker hfolds => ?_⟩
    · rw [retireBlock_tracker, hcluster]
    · rw [retireBlock_kept (by rw [hcluster]; exact hkept)]
      exact block?_modCluster rfl
    · refine retireBlock_gone (by rw [hcluster]; exact hstrands) (fun y hy => ?_) fun bl hbl => ?_
      · rw [hcluster] at hy
        obtain ⟨hy, hne⟩ := List.mem_filter.mp hy
        exact htracker y hy (by simpa using hne)
      · exact hfolds bl (by rwa [block?_modCluster rfl] at hbl)

end Sys2Proof.Machine
end

section
/-!
PROOFS. `quota` and `cksum` (11 R191, R193, R198, R353): the reason a `quota` traps for, the names that leave one window and those
that join another, and the checksum of a range of the scratchpad.
-/
namespace Sys2Proof.Machine

/-! ### The reason of `quota` -/

section
variable {b : Block} {src dst n : Nat} {f t : Role}

theorem quotaReason_wrong_roles (h : b.roles[src]? = none ∨ b.roles[dst]? = none ∨ src = dst) :
    quotaReason b src dst n = some 1 := by
  unfold quotaReason
  split
  · rename_i hf ht
    rcases h with h | h | h
    · simp [h] at hf
    · simp [h] at ht
    · simp [h]
  · rfl

theorem quotaReason_of_roles (hf : b.roles[src]? = some f) (ht : b.roles[dst]? = some t) (hne : src ≠ dst) :
    quotaReason b src dst n =
      if f.freed = true then some 4
      else if n = 0 ∨ f.window < 32 * n then some 2
      else if t.freed = false ∧ 256 < t.window + 32 * n then some 3
      else none := by
  simp [quotaReason, hf, ht, hne]
end

/-! ### Names that leave a window -/

/-- A map of a block's names without `count` of them from `lo` on in a window. -/
def withoutNames {α : Type} (l : SMap α) (win lo count : Nat) : SMap α :=
  (upto count).foldl (fun l i => l.del (colKey win (lo + i))) l

theorem get?_foldl_del {α : Type} (key : Nat → Nat) (is : List Nat) (l : SMap α) (k : Nat) :
    (is.foldl (fun l i => l.del (key i)) l).get? k = if k ∈ is.map key then none else l.get? k := by
  induction is generalizing l with
  | nil => rfl
  | cons i is ih =>
    rw [List.foldl_cons, ih]
    by_cases hk : k = key i
    · simp [hk]
    · simp [hk, SMap.get?_del_ne l hk]

section
variable {α : Type} (l : SMap α) {win lo count key : Nat}

theorem get?_withoutNames_gone {i : Nat} (hi : i < count) : (withoutNames l win lo count).get? (colKey win (lo + i)) = none := by
  rw [withoutNames, get?_foldl_del fun i => colKey win (lo + i)]
  exact if_pos (List.mem_map.mpr ⟨i, List.mem_range.mpr hi, rfl⟩)

theorem get?_withoutNames_kept (h : ∀ i, i < count → key ≠ colKey win (lo + i)) :
    (withoutNames l win lo count).get? key = l.get? key := by
  rw [withoutNames, get?_foldl_del fun i => colKey win (lo + i), if_neg]
  intro hmem
  obtain ⟨i, hi, rfl⟩ := List.mem_map.mp hmem
  exact h i (List.mem_range.mp hi) rfl
end

/-! ### The block after the move -/

/-- The name with this key leaves FROM or joins TO. -/
def QuotaMoves (src dst n : Nat) (f t : Role) (key : Nat) : Prop :=
  ∃ i, i < 32 * n ∧ (key = colKey src (f.window - 32 * n + i) ∨ (t.freed = false ∧ key = colKey dst (t.window + i)))

section
variable {b : Block} {src dst n : Nat} {f t : Role} {number : Option Nat}
  (hf : b.roles[src]? = some f) (ht : b.roles[dst]? = some t)
include hf ht

/-- A TO that was freed gains nothing (12 R198). -/
theorem quota_of_freed (hfreed : t.freed = true) : b.quota src dst n number =
    { b with roles := b.roles.set src { f with window := f.window - 32 * n }
             regs := withoutNames b.regs src (f.window - 32 * n) (32 * n)
             lostRegs := withoutNames b.lostRegs src (f.window - 32 * n) (32 * n) } := by
  rw [Block.quota, hf, ht]
  exact if_pos hfreed

theorem quota_of_live (hlive : t.freed = false) : b.quota src dst n number =
    { b with roles := (b.roles.set src { f with window := f.window - 32 * n }).set dst { t with window := t.window + 32 * n }
             regs := withoutNames (withoutNames b.regs src (f.window - 32 * n) (32 * n)) dst t.window (32 * n)
             lostRegs := withoutNames (withoutNames b.lostRegs src (f.window - 32 * n) (32 * n)) dst t.window (32 * n)
             open' := (dst, t.window, 32 * n, number) :: b.open' } := by
  rw [Block.quota, hf, ht]
  exact if_neg (by simp [hlive])

theorem quota_only : b.quota src dst n number = { b with
    roles := (b.quota src dst n number).roles, regs := (b.quota src dst n number).regs
    lostRegs := (b.quota src dst n number).lostRegs, open' := (b.quota src dst n number).open' } := by
  cases hfreed : t.freed
  · rw [quota_of_live hf ht hfreed]
  · rw [quota_of_freed hf ht hfreed]

theorem quota_roles (hne : src ≠ dst) : (b.quota src dst n number).roles[src]? = some { f with window := f.window - 32 * n } ∧
    (b.quota src dst n number).roles[dst]? = some (if t.freed then t else { t with window := t.window + 32 * n }) ∧
    ∀ i, i ≠ src → i ≠ dst → (b.quota src dst n number).roles[i]? = b.roles[i]? := by
  obtain ⟨hsrc, -⟩ := List.getElem?_eq_some_iff.mp hf
  obtain ⟨hdst, -⟩ := List.getElem?_eq_some_iff.mp ht
  cases hfreed : t.freed
  · rw [quota_of_live hf ht hfreed]
    exact ⟨by simp [hne.symm, hsrc], by simp [hdst, hfreed], fun i hi hi' => by simp [hi.symm, hi'.symm]⟩
  · rw [quota_of_freed hf ht hfreed]
    exact ⟨by simp [hsrc], by simp [hne, ht], fun i hi _ => by simp [hi.symm]⟩

/-- A name that does not move reads as before. -/
theorem quota_reg_kept {win name : Nat} (hkeep : ¬QuotaMoves src dst n f t (colKey win name)) (j : Nat) :
    (b.quota src dst n number).reg win name j = b.reg win name j := by
  have hleft : ∀ i, i < 32 * n → colKey win name ≠ colKey src (f.window - 32 * n + i) := fun i hi he =>
    hkeep ⟨i, hi, .inl he⟩
  cases hfreed : t.freed
  · have hjoined : ∀ i, i < 32 * n → colKey win name ≠ colKey dst (t.window + i) := fun i hi he =>
      hkeep ⟨i, hi, .inr ⟨hfreed, he⟩⟩
    have hout : ¬(win = dst ∧ t.window ≤ name ∧ name < t.window + 32 * n) := fun ⟨hw, hlo, hhi⟩ =>
      hjoined (name - t.window) (by omega) (by rw [hw, Nat.add_sub_cancel' hlo])
    rw [quota_of_live hf ht hfreed]
    unfold Block.reg
    dsimp only
    rw [get?_withoutNames_kept _ hjoined, get?_withoutNames_kept _ hleft, List.find?_cons_of_neg]
    simp only [Bool.and_eq_true, beq_iff_eq, decide_eq_true_eq]
    exact fun ⟨⟨hw, hlo⟩, hhi⟩ => hout ⟨hw.symm, hlo, hhi⟩
  · rw [quota_of_freed hf ht hfreed]
    unfold Block.reg
    dsimp only
    rw [get?_withoutNames_kept _ hleft]

/-- A name that joins TO is open, or reads 0 (11 R191, 27 R353). -/
theorem quota_reg_joined {name : Nat} (hlive : t.freed = false) (hlo : t.window ≤ name) (hhi : name < t.window + 32 * n) (j : Nat) :
    (b.quota src dst n number).reg dst name j =
      match number with
      | some k => Config.freeRegister k (colKey dst name * 4096 + j)
      | none => 0 := by
  have hgone : (b.quota src dst n number).regs.get? (colKey dst name) = none := by
    rw [quota_of_live hf ht hlive, ← Nat.add_sub_cancel' hlo]
    exact get?_withoutNames_gone _ (by omega)
  have hopen : (b.quota src dst n number).open' = (dst, t.window, 32 * n, number) :: b.open' := by
    rw [quota_of_live hf ht hlive]
  unfold Block.reg
  rw [hgone, hopen, List.find?_cons_of_pos (by simp [hlo, hhi])]
  cases number <;> rfl
end

/-! ### The state after the move -/

section
variable (s : State) (m : Me) (src dst n : Nat)

/-- The number of the free value that the names which join are: none where POL.VALID makes them 0 (27 R353). -/
def quotaNumber : Option Nat := if s.ctxValid m.ctx then none else some s.freeCount

/-- The state in which a `quota` has had its effect. -/
def quotaDone : State :=
  if s.ctxValid m.ctx then m.quotaHeals (s.modBlock m.c m.st.block fun b => b.quota src dst n none) dst n
  else { s.modBlock m.c m.st.block (fun b => b.quota src dst n (some s.freeCount)) with freeCount := s.freeCount + 1 }

theorem quotaHeals_clusters : (m.quotaHeals s dst n).clusters = s.clusters := by
  unfold Me.quotaHeals
  split
  · split
    · rfl
    · exact foldl_keeps (fun _ _ => clearRegPoison_clusters ..) ..
  · rfl

theorem quotaHeals_mem : (m.quotaHeals s dst n).mem = s.mem := by
  unfold Me.quotaHeals
  split
  · split
    · rfl
    · exact foldl_keeps (fun s i => by rw [(OwnFrame.clearRegPoison (s := s) (m := m) ..).machine]) ..
  · rfl

theorem quotaDone_mem : (quotaDone s m src dst n).mem = s.mem := by
  unfold quotaDone
  split
  · exact (quotaHeals_mem ..).trans (State.modBlock_mem ..)
  · exact State.modBlock_mem ..

variable {s m}

theorem quotaDone_block? (hm : me? s = some m) :
    (quotaDone s m src dst n).block? m.c m.st.block = some (m.blk.quota src dst n (quotaNumber s m)) := by
  obtain ⟨-, -, hb, -⟩ := me?_some hm
  unfold quotaDone quotaNumber
  split
  · exact (block?_of_clusters (quotaHeals_clusters ..) ..).trans (State.block?_modBlock _ _ hb)
  · exact State.block?_modBlock _ _ hb
end

/-! ### The two instructions -/

section
variable {s : State} {m : Me} {o : SOps}

theorem quotaArgs_eq (o : SOps) :
    quotaArgs o = (o.imm32.toNat % 8, o.imm32.toNat / 16 % 8, o.imm32.toNat / 256 % 16) := by
  simp [quotaArgs, bitsOf]

theorem exec_quota_refused {src dst n r : Nat} (hr : Ready s m { bo := true, ord := true }) (ho : quotaArgs o = (src, dst, n))
    (h : quotaReason m.blk src dst n = some r) :
    exec (.quota o) s = .next (trappedBo s m causeQuota (BitVec.ofNat 64 r) 0x31) := by
  rw [exec_quota, execQuota]
  exact issue_trappedBo hr rfl (by simp only [ho, h])

theorem exec_quota_moves {src dst n : Nat} (hr : Ready s m { bo := true, ord := true }) (ho : quotaArgs o = (src, dst, n))
    (h : quotaReason m.blk src dst n = none) (hfree : quotaPending s m src dst n = false) :
    exec (.quota o) s = .next (completed m true o.hdr.stop (successor m.st.pc) (quotaDone s m src dst n)) := by
  rw [exec_quota, execQuota]
  refine issue_doneBo hr rfl ?_
  simp only [ho, h, hfree, Bool.false_eq_true, if_false, quotaDone]
  split <;> rfl

theorem exec_cksum_done (hr : Ready s m { sUses o true true true false with ord := true })
    (hin : (m.st.regs.get o.sb).toNat = 0 ∨ (m.st.regs.get o.sa).toNat + (m.st.regs.get o.sb).toNat ≤ m.blk.scratchLen)
    (hfree : RangeFree s m true (m.st.regs.get o.sa).toNat (m.st.regs.get o.sb).toNat) :
    exec (.cksum o) s = .next (completed m false o.hdr.stop (successor m.st.pc) (lateScalar s m o.sd
      (some (crc64 (readBytes m.blk.scratch (m.st.regs.get o.sa).toNat (m.st.regs.get o.sb).toNat))))) := by
  rw [exec_cksum, execCksum]
  refine issue_done hr ?_
  dsimp only
  rw [if_neg (by simp only [Bool.and_eq_true, decide_eq_true_eq]; omega), scratchGate_free hfree]

theorem exec_cksum_outside (hr : Ready s m { sUses o true true true false with ord := true })
    (hlen : (m.st.regs.get o.sb).toNat ≠ 0)
    (hout : m.blk.scratchLen < (m.st.regs.get o.sa).toNat + (m.st.regs.get o.sb).toNat) :
    exec (.cksum o) s = .next (trappedIn s m causeAccess (addrInfo 0 (m.st.regs.get o.sa).toNat) 0x33) := by
  rw [exec_cksum, execCksum]
  exact issue_trapped hr rfl (if_pos (by simp only [Bool.and_eq_true, decide_eq_true_eq]; omega))
end

/-- Settles O8: the four reasons in their order, and the block that the move leaves, name by name. -/
theorem quotaAndChecksum : Obligations.QuotaAndChecksum := by
  unfold Obligations.QuotaAndChecksum
  intro s m o done
  refine ⟨?_, fun hr => ⟨exec_cksum_done hr, exec_cksum_outside hr⟩⟩
  intro hr src dst n traps
  have hrefused : ∀ r, quotaReason m.blk src dst n = some r → traps r := fun r => exec_quota_refused hr (quotaArgs_eq o)
  refine ⟨fun h => hrefused 1 (quotaReason_wrong_roles h), ?_⟩
  intro f t hf ht hne size full moved
  have hreason := quotaReason_of_roles (n := n) hf ht hne
  refine ⟨fun h => hrefused 4 ?_, fun h hsize => hrefused 2 ?_, fun h hsize hfull => hrefused 3 ?_,
    fun h hsize hfull hpending => ?_⟩
  · rw [hreason, if_pos h]
  · rw [hreason, if_neg (by simp [h]), if_pos hsize]
  · rw [hreason, if_neg (by simp [h]), if_neg hsize, if_pos hfull]
  · have hnone : quotaReason m.blk src dst n = none := by
      rw [hreason, if_neg (by simp [h]), if_neg hsize, if_neg hfull]
    obtain ⟨hfrom, hto, hothers⟩ := quota_roles (n := n) (number := quotaNumber s m) hf ht hne
    refine ⟨quotaDone s m src dst n, _, exec_quota_moves hr (quotaArgs_eq o) hnone hpending,
      fun a => by rw [quotaDone_mem], quotaDone_block? src dst n hr.here, hfrom, hto, hothers, quota_only hf ht,
      fun win name j hkeep => quota_reg_kept hf ht hkeep j, fun hlive name j hlo hhi => ?_⟩
    rw [quota_reg_joined hf ht hlive hlo hhi, quotaNumber]
    cases s.ctxValid m.ctx
    · rfl
    · rfl

end Sys2Proof.Machine
end

section
/-!
PROOFS. `job`, `jwait` and `jpoll` (11 R178-R181): the job faults that come first, the checks of a card, the ticket that a job takes,
and what the two instructions on a ticket answer.
-/
namespace Sys2Proof.Machine

/-! ### Job faults -/

theorem lowestFault_eq_none {l : List JobFault} (h : lowestFault l = none) : l = [] := by
  cases l with
  | nil => rfl
  | cons f l =>
    unfold lowestFault at h
    split at h <;> cases h

/-- The fault that is taken first is one of those that wait, and none has a lower ticket. -/
theorem lowestFault_least {l : List JobFault} {f : JobFault} (h : lowestFault l = some f) :
    f ∈ l ∧ ∀ g ∈ l, f.ticket ≤ g.ticket := by
  induction l generalizing f with
  | nil => cases h
  | cons x l ih =>
    unfold lowestFault at h
    split at h
    · rename_i y hy
      obtain ⟨hmem, hleast⟩ := ih hy
      obtain rfl := Option.some.inj h
      split
      · rename_i hlt
        exact ⟨List.mem_cons_of_mem _ hmem, List.forall_mem_cons.mpr ⟨hlt.le, hleast⟩⟩
      · rename_i hle
        exact ⟨List.mem_cons_self .., List.forall_mem_cons.mpr ⟨le_rfl, fun g hg => (not_lt.mp hle).trans (hleast g hg)⟩⟩
    · rename_i hnone
      obtain rfl := lowestFault_eq_none hnone
      obtain rfl := Option.some.inj h
      simp

section
variable {s : State} {m : Me}

theorem jobFault?_unmet (h : m.faultsMet = []) : jobFault? s m = none := by
  simp [jobFault?, h, lowestFault]

theorem jobFault?_met {f : JobFault} (h : lowestFault m.faultsMet = some f) :
    jobFault? s m = some (.trap f.cause f.tinfo (dropFault s m f)) := by
  simp [jobFault?, h]

/-! ### The checks of a card -/

/-- A list of ranges that are free can be read. -/
theorem withReads_free {rs : List (Nat × Nat)} (hne : rs ≠ []) (h : ∀ r ∈ rs, RangeFree s m true r.1 r.2) (k : Unit → Eff) :
    withReads s m rs k = k () := by
  have hfence : m.st.fenced 0 = false := (h _ (List.head_mem hne)).2.2
  have hbusy : (rs.any fun r => scratchBusy s m r.1 r.2 || sentBusy s m r.1 r.2) = false :=
    List.any_eq_false.mpr fun r hr => by
      obtain ⟨⟨hbusy, -⟩, hsent, -⟩ := h r hr
      simp [hbusy, hsent]
  have hclean : (rs.findSome? fun r => scratchPoison s m.c m.st.block r.1 r.2) = none :=
    List.findSome?_eq_none_iff.mpr fun r hr => (h r hr).1.2 rfl
  unfold withReads
  rw [if_neg (by simp [hfence, hbusy]), hclean]

variable {o : EOps}

/-- Where the card of a `job` stands. -/
def Me.cardAt (m : Me) (o : EOps) : Nat := (m.st.regs.get o.sc).toNat

/-- The bytes of the card. -/
def Me.card (m : Me) (o : EOps) : List Byte := readBytes m.blk.scratch (m.cardAt o) 64

/-- Where the footprint block of the card stands. -/
def Me.footAt (m : Me) (o : EOps) : Nat := 64 * fieldAt (m.card o) 4 2

/-- What the checks of the card come to. -/
def Me.verdict (m : Me) (o : EOps) : Nat ⊕ (List Region × List Region) :=
  cardReason m.blk o.eng o.th.toNat (m.card o) (readBytes m.blk.scratch (m.footAt o) 64)

/-- The card of a `job` and its footprint block are in the scratchpad, and what it reads of them at issue is free (11 R178). -/
structure CardRead (s : State) (m : Me) (o : EOps) : Prop where
  aligned : m.cardAt o % 64 = 0
  fits : m.cardAt o + 64 ≤ m.blk.scratchLen
  head : RangeFree s m true (m.cardAt o) 16
  counts : RangeFree s m true (m.cardAt o + 48) 6
  footFits : m.footAt o + 64 ≤ m.blk.scratchLen
  foot : RangeFree s m true (m.footAt o) 64

theorem jobEff_faulted {e : Eff} (h : jobFault? s m = some e) : jobEff s m o = e := by
  unfold jobEff
  rw [h]

/-- A card that can be read is judged. -/
theorem jobEff_read (hfault : m.faultsMet = []) (hread : CardRead s m o) : jobEff s m o = match m.verdict o with
    | .inl why => .trap causeAccess (payload [(48, 0), (8, why)]) s
    | .inr (r, w) => issueJob s m o (m.cardAt o) (m.card o) r w := by
  obtain ⟨haligned, hfits, hhead, hcounts, hfootFits, hfoot⟩ := hread
  have hcard : ∀ p ∈ [(m.cardAt o, 16), (m.cardAt o + 48, 6)], RangeFree s m true p.1 p.2 := by
    simp [hhead, hcounts]
  unfold jobEff
  rw [jobFault?_unmet hfault]
  dsimp only [Me.cardAt, Me.footAt, Me.card] at haligned hfits hfootFits hcard hfoot ⊢
  rw [if_neg (by simp [haligned]), if_neg (by simp [Block.holds, hfits]), withReads_free (by simp) hcard,
    if_neg (by simp [Block.holds, hfootFits]), withReads_one hfoot]
  rfl

/-! ### The job that is issued -/

/-- A job's task is admitted: one with fewer than 65,536 bytes to write has no header to keep (11 R172). -/
def JobAdmitted (s : State) (m : Me) (o : EOps) (current : Nat) (t : State) : Prop :=
  if fieldAt (m.card o) 48 2 * fieldAt (m.card o) 50 2 * fieldAt (m.card o) 52 2 * 2 ^ fieldAt (m.card o) 1 1 < 65536 then
    AdmittedAs s m.c m.task (0, 0) current t
  else Admitted s m o.th current t

variable {r w : List Region} {current : Nat} {t : State}

/-- An admission changes of the cluster its power alone, and no memory. -/
theorem JobAdmitted.power (h : JobAdmitted s m o current t) :
    t.mem = s.mem ∧ ∃ p, t.cluster m.c = { s.cluster m.c with power := p } := by
  unfold JobAdmitted at h
  split at h
  · rcases h with ⟨-, rfl⟩ | ⟨-, -, -, rfl⟩ | ⟨-, -, -, -, -, rfl⟩
    · exact ⟨rfl, _, State.cluster_setCluster ..⟩
    · exact ⟨rfl, _, rfl⟩
    · exact ⟨rfl, _, State.cluster_setCluster ..⟩
  · exact ⟨h.frame.memory, h.cluster⟩

theorem issueJob_admitted (hroom : (s.cluster m.c).jobs.length < Config.schedulerJobs)
    (hranges : ((s.cluster m.c).jobs.map fun j => (j.writes.filter Region.scratch).length).foldl (· + ·) 0
      + (w.filter Region.scratch).length ≤ Config.rangeEntries)
    (hadm : JobAdmitted s m o current t) :
    issueJob s m o (m.cardAt o) (m.card o) r w = .done (addJob t m o (m.cardAt o) (m.card o) r w current) := by
  unfold issueJob
  dsimp only
  rw [if_neg hranges.not_gt, if_neg hroom.not_ge, Me.admission]
  unfold JobAdmitted at hadm
  split at hadm
  · rename_i hsmall
    rw [if_pos hsmall, if_pos hsmall, admission_of hadm]
  · rename_i hlarge
    rw [if_neg hlarge, if_neg hlarge, admission_of hadm]

/-- What a job holds when it is issued. -/
structure JobIssued (cl : Cluster) (m : Me) (o : EOps) (r w : List Region) (current : Nat) (j : Job) : Prop where
  ticket : j.ticket = m.blk.tickets + 1
  eng : j.eng = o.eng
  waits : j.started = false
  reads : j.reads = r
  writes : j.writes = w
  edges : j.edges = jobEdges cl m.ctx m.st.block r w
  current : j.current = current

variable (card : Nat) (bs : List Byte)

theorem addJob_jobs : ∃ j, ((addJob s m o card bs r w current).cluster m.c).jobs = (s.cluster m.c).jobs ++ [j] ∧
    JobIssued (s.cluster m.c) m o r w current j := by
  refine ⟨?entry, ?joined, ?issued⟩
  case joined =>
    unfold addJob
    dsimp only
    rw [jobRecord_cluster, Me.setRegs, State.cluster_modStrand, modBlock_only, State.cluster_setCluster]
  case issued => constructor <;> rfl

theorem addJob_mem : (addJob s m o card bs r w current).mem = s.mem := by simp [addJob, Me.setRegs]

theorem addJob_strand? {st : Strand} (hst : s.strand? m.c m.k = some st) :
    (addJob s m o card bs r w current).strand? m.c m.k =
      some { st with regs := st.regs.put o.sd (BitVec.ofNat 64 (m.blk.tickets + 1)) } := by
  unfold addJob
  dsimp only
  rw [jobRecord, record_strand?, Me.setRegs]
  refine State.strand?_modStrand _ _ ?_
  rw [State.strand?_modBlock, State.strand?, State.cluster_setCluster]
  exact hst

theorem addJob_block? {b : Block} (hb : s.block? m.c m.st.block = some b) :
    (addJob s m o card bs r w current).block? m.c m.st.block = some { b with tickets := m.blk.tickets + 1 } := by
  unfold addJob
  dsimp only
  rw [jobRecord, record_block?, Me.block?_setRegs _ _ _ _ _ rfl]
  refine State.block?_modBlock _ _ ?_
  rw [State.block?, State.cluster_setCluster]
  exact hb

/-- The state in which a `job` has been issued, from the one that its admission left. -/
def jobDone (t : State) (m : Me) (o : EOps) (r w : List Region) (current : Nat) : State :=
  completed m false o.hdr.stop (successor m.st.pc) (addJob t m o (m.cardAt o) (m.card o) r w current)

/-- A completed instruction without a `bo` point leaves the jobs of its cluster as its effect left them. -/
theorem completed_jobs {stop : Bool} {next : PC} {st : Strand} (hst : t.strand? m.c m.k = some st)
    (hdbg : st.regs.dbg = m.st.regs.dbg) (hu : Unstepped m stop) :
    ((completed m false stop next t).cluster m.c).jobs = (t.cluster m.c).jobs := by
  have h : completed m false stop next t = retiredState t m stop false next st := retire_unstepped hst (hu.not_step hdbg)
  rw [h, retiredState_cluster]

/-! ### The three instructions -/

theorem exec_job_refused {why : Nat} (hr : Ready s m { ord := true, src := [(o.sc, o.hdr.wfa)], dst := [o.sd] })
    (hfault : m.faultsMet = []) (hread : CardRead s m o) (hv : m.verdict o = .inl why) :
    exec (.job o) s = .next (trappedIn s m causeAccess (payload [(48, 0), (8, why)]) 0xEF) := by
  rw [exec_job, execJob]
  exact issue_trapped hr rfl (by rw [jobEff_read hfault hread, hv])

theorem exec_job_issued (hr : Ready s m { ord := true, src := [(o.sc, o.hdr.wfa)], dst := [o.sd] })
    (hfault : m.faultsMet = []) (hread : CardRead s m o) (hv : m.verdict o = .inr (r, w))
    (hroom : (s.cluster m.c).jobs.length < Config.schedulerJobs)
    (hranges : ((s.cluster m.c).jobs.map fun j => (j.writes.filter Region.scratch).length).foldl (· + ·) 0
      + (w.filter Region.scratch).length ≤ Config.rangeEntries)
    (hadm : JobAdmitted s m o current t) :
    exec (.job o) s = .next (jobDone t m o r w current) := by
  rw [exec_job, execJob]
  refine issue_done hr ?_
  rw [jobEff_read hfault hread, hv]
  exact issueJob_admitted hroom hranges hadm

/-- What a job that is issued leaves: its ticket in SD and in the block, and its entry among the jobs. -/
theorem jobDone_leaves (hm : me? s = some m) (hu : Unstepped m o.hdr.stop) (hadm : JobAdmitted s m o current t) :
    (∃ st, (jobDone t m o r w current).strand? m.c m.k = some st ∧ st.pc = successor m.st.pc ∧
      (o.sd ≠ 0 → st.regs.get o.sd = BitVec.ofNat 64 (m.blk.tickets + 1))) ∧
    (jobDone t m o r w current).block? m.c m.st.block = some { m.blk with tickets := m.blk.tickets + 1 } ∧
    SameBytes s (jobDone t m o r w current) ∧
    ∃ j, ((jobDone t m o r w current).cluster m.c).jobs = (s.cluster m.c).jobs ++ [j] ∧
      JobIssued (s.cluster m.c) m o r w current j := by
  obtain ⟨-, hst, hb, -⟩ := me?_some hm
  obtain ⟨hmem, p, hcl⟩ := hadm.power
  have hst' : t.strand? m.c m.k = some m.st := by rw [State.strand?, hcl]; exact hst
  have hb' : t.block? m.c m.st.block = some m.blk := by rw [State.block?, hcl]; exact hb
  have hleft := addJob_strand? (o := o) (r := r) (w := w) (current := current) (m.cardAt o) (m.card o) hst'
  obtain ⟨j, hjobs, hj⟩ := addJob_jobs (s := t) (m := m) (o := o) (r := r) (w := w) (current := current) (m.cardAt o) (m.card o)
  rw [hcl] at hjobs hj
  obtain ⟨st, hdone, hpc, hregs, -, -, -, -, -, -, hdoneMem, hdoneBlock⟩ :=
    completed_unstepped (bo := false) (next := successor m.st.pc) hleft (Regs.dbg_put ..) hu
  refine ⟨⟨st, hdone, hpc, fun hd => ?_⟩, (hdoneBlock _).trans (addJob_block? _ _ hb'), fun a => ?_, j, ?_,
    { hj with edges := hj.edges }⟩
  · rw [hregs]
    exact Regs.get_put_self _ _ hd
  · rw [jobDone, hdoneMem, addJob_mem, hmem]
  · exact (completed_jobs hleft (Regs.dbg_put ..) hu).trans hjobs

variable {op : Nat} {k : Nat → Eff}

theorem withTicket_faulted {e : Eff} (h : jobFault? s m = some e) : withTicket s m o op k = e := by
  unfold withTicket
  rw [h]

theorem withTicket_met (h : m.faultsMet = []) : withTicket s m o op k =
    if m.blk.tickets < (m.st.regs.get o.sc).toNat then .trap causeIllSync (opInfo op) s else k (m.st.regs.get o.sc).toNat := by
  unfold withTicket
  rw [jobFault?_unmet h]

theorem exec_jpoll_answers (hr : Ready s m { ord := true, src := [(o.sc, o.hdr.wfa)], dst := [o.sd] })
    (hfault : m.faultsMet = []) : exec (.jpoll o) s =
      if m.blk.tickets < (m.st.regs.get o.sc).toNat then .next (trappedIn s m causeIllSync (BitVec.ofNat 64 0xF1) 0xF1)
      else .next (completed m false o.hdr.stop (successor m.st.pc)
        (m.setRegs s fun r => r.put o.sd (if inFlight s m (m.st.regs.get o.sc).toNat then 0 else 1))) := by
  rw [exec_jpoll, execJpoll]
  split
  · rename_i hearly
    exact issue_trapped hr rfl (by rw [withTicket_met hfault, if_pos hearly]; rfl)
  · rename_i hgiven
    refine issue_done hr ?_
    rw [withTicket_met hfault, if_neg hgiven]
    cases inFlight s m (m.st.regs.get o.sc).toNat
    · rfl
    · rfl

section
variable (hr : Ready s m { ord := true, src := [(o.sc, o.hdr.wfa)] }) (hfault : m.faultsMet = [])
include hr hfault

theorem exec_jwait_early (hearly : m.blk.tickets < (m.st.regs.get o.sc).toNat) :
    exec (.jwait o) s = .next (trappedIn s m causeIllSync (BitVec.ofNat 64 0xF0) 0xF0) := by
  rw [exec_jwait, execJwait]
  exact issue_trapped hr rfl (by rw [withTicket_met hfault, if_pos hearly]; rfl)

variable (hgiven : (m.st.regs.get o.sc).toNat ≤ m.blk.tickets)
include hgiven

theorem exec_jwait_goes_on (hflight : inFlight s m (m.st.regs.get o.sc).toNat = false) :
    exec (.jwait o) s = .next (completed m false o.hdr.stop (successor m.st.pc) s) := by
  rw [exec_jwait, execJwait]
  refine issue_done hr ?_
  rw [withTicket_met hfault, if_neg hgiven.not_gt, hflight]
  rfl

theorem exec_jwait_stalls (hflight : inFlight s m (m.st.regs.get o.sc).toNat = true) : exec (.jwait o) s =
    .next (s.modStrand m.c m.k fun st => { st with stall := some .engine, waited := 0, pre := [] }) := by
  rw [exec_jwait, execJwait]
  refine issue_waits hr ?_ fun hbo => absurd hbo Bool.false_ne_true
  rw [withTicket_met hfault, if_neg hgiven.not_gt, hflight]
  rfl
end

/-- A job fault that is met comes before the card, and before the ticket. -/
theorem exec_faulted {f : JobFault} (h : lowestFault m.faultsMet = some f) :
    (Ready s m { ord := true, src := [(o.sc, o.hdr.wfa)] } →
      exec (.jwait o) s = .next (trappedIn (dropFault s m f) m f.cause f.tinfo 0xF0)) ∧
    (Ready s m { ord := true, src := [(o.sc, o.hdr.wfa)], dst := [o.sd] } →
      exec (.job o) s = .next (trappedIn (dropFault s m f) m f.cause f.tinfo 0xEF) ∧
      exec (.jpoll o) s = .next (trappedIn (dropFault s m f) m f.cause f.tinfo 0xF1)) := by
  have hfault := jobFault?_met (s := s) h
  rw [exec_jwait, execJwait, exec_job, execJob, exec_jpoll, execJpoll]
  exact ⟨fun hr => issue_trapped hr rfl (withTicket_faulted hfault),
    fun hr => ⟨issue_trapped hr rfl (jobEff_faulted hfault), issue_trapped hr rfl (withTicket_faulted hfault)⟩⟩
end

/-- Settles O39: the fault that is met, then the card or the ticket; the job's entry is that of the model. -/
theorem jobTickets : Obligations.JobTickets := by
  unfold Obligations.JobTickets
  intro s s' m o current cl card bs fp size admitted ranges read meets noFault verdict use done
  have hread : read → CardRead s m o := fun ⟨haligned, hfits, hhead, hcounts, hfootFits, hfoot⟩ =>
    ⟨haligned, hfits, hhead, hcounts, hfootFits, hfoot⟩
  refine ⟨fun hr hfault => ⟨fun r w hcard hv hroom hranges hadm => ?_,
      fun why hcard hv => exec_job_refused hr hfault (hread hcard) hv, exec_jpoll_answers hr hfault⟩,
    fun hr hfault => ⟨exec_jwait_early hr hfault, exec_jwait_goes_on hr hfault, exec_jwait_stalls hr hfault⟩,
    fun f => exec_faulted, fun f => lowestFault_least⟩
  have hadm' : JobAdmitted s m o current s' := hadm
  refine ⟨_, exec_job_issued hr hfault (hread hcard) hv hroom hranges hadm', fun hu => ?_⟩
  obtain ⟨⟨st, hst, hpc, hsd⟩, hblock, hmem, j, hjobs, hj⟩ := jobDone_leaves hr.here hu hadm'
  exact ⟨st, _, j, hst, hpc, hsd, hblock, rfl, rfl, hjobs, hj.ticket, hj.eng, hj.waits, hj.reads, hj.writes, hj.edges,
    hj.current, hmem⟩

end Sys2Proof.Machine
end

section
/-!
PROOFS. Memory in its canonical form (log 2): what it means of a state that there may be, of an attempt, of a placement, of a
command's reply and of a step's answer that the memory they leave is in this form, and the folds that keep it.
-/
namespace Sys2Proof.Machine

/-- An optional state, where it is one, has memory in its canonical form. -/
def SomeWf (o : Option State) : Prop := ∀ t, o = some t → Memory.wf t.mem = true

/-- What a step answers, where it is a next state, has memory in its canonical form. -/
def NextWf (o : Host.Outcome State Fault Refusal) : Prop := ∀ t, o = .next t → Memory.wf t.mem = true

/-- The state that an attempt leaves has memory in its canonical form. -/
def EffWf : Eff → Prop
  | .done s | .jump s _ | .ended s | .stall _ s | .trap _ _ s | .after _ _ s => Memory.wf s.mem = true
  | .double _ => True

@[simp] theorem effWf_done (s : State) : EffWf (.done s) ↔ Memory.wf s.mem = true := Iff.rfl

@[simp] theorem effWf_jump (s : State) (pc : PC) : EffWf (.jump s pc) ↔ Memory.wf s.mem = true := Iff.rfl

@[simp] theorem effWf_ended (s : State) : EffWf (.ended s) ↔ Memory.wf s.mem = true := Iff.rfl

@[simp] theorem effWf_stall (r : Stall) (s : State) : EffWf (.stall r s) ↔ Memory.wf s.mem = true := Iff.rfl

@[simp] theorem effWf_trap (c : Nat) (i : Word) (s : State) : EffWf (.trap c i s) ↔ Memory.wf s.mem = true := Iff.rfl

@[simp] theorem effWf_after (c : Nat) (i : Word) (s : State) : EffWf (.after c i s) ↔ Memory.wf s.mem = true := Iff.rfl

@[simp] theorem effWf_double (c : Nat) : EffWf (.double c) := trivial

/-- The same of an attempt that there may be. -/
def SomeEffWf (o : Option Eff) : Prop := ∀ e, o = some e → EffWf e

/-- What the fetch of a slot leaves in place of a word has memory in its canonical form. -/
@[simp] def FetchedWf : Fetched → Prop
  | .word _ => True
  | .instead s => Memory.wf s.mem = true

/-- The state that the placement of blocks leaves has memory in its canonical form. -/
@[simp] def PlacedWf : Placed → Prop
  | .done s | .lost s => Memory.wf s.mem = true
  | .noRoom => True

/-- The state that a command leaves with its status and result has memory in its canonical form. -/
def ReplyWf (r : Nat × List Byte × State) : Prop := Memory.wf r.2.2.mem = true

@[simp] theorem replyWf_mk (n : Nat) (bs : List Byte) (s : State) : ReplyWf (n, bs, s) ↔ Memory.wf s.mem = true := Iff.rfl

@[simp] theorem replyWf_ite (c : Prop) [Decidable c] (o p : Nat × List Byte × State) :
    ReplyWf (if c then o else p) ↔ (c → ReplyWf o) ∧ (¬ c → ReplyWf p) := by
  split <;> simp_all

@[simp] theorem someEffWf_none : SomeEffWf none := by simp [SomeEffWf]

@[simp] theorem someEffWf_some (t : Eff) : SomeEffWf (some t) ↔ EffWf t := by simp [SomeEffWf]

theorem effWf_getD {o : Option Eff} {e : Eff} (h : SomeEffWf o) (he : EffWf e) : EffWf (o.getD e) := by
  cases o with
  | none => exact he
  | some x => exact h x rfl

@[simp] theorem someEffWf_map {α : Type} (o : Option α) (f : α → Eff) :
    SomeEffWf (o.map f) ↔ ∀ x, o = some x → EffWf (f x) := by
  cases o <;> simp

@[simp] theorem someWf_none : SomeWf none := by simp [SomeWf]

@[simp] theorem someWf_some (t : State) : SomeWf (some t) ↔ Memory.wf t.mem = true := by simp [SomeWf]

@[simp] theorem someWf_bind {α : Type} (o : Option α) (f : α → Option State) :
    SomeWf (o.bind f) ↔ ∀ x, o = some x → SomeWf (f x) := by
  cases o <;> simp

@[simp] theorem someWf_map {α : Type} (o : Option α) (f : α → State) :
    SomeWf (o.map f) ↔ ∀ x, o = some x → Memory.wf (f x).mem = true := by
  cases o <;> simp

theorem wf_getD {o : Option State} {s : State} (ho : SomeWf o) (h : Memory.wf s.mem = true) :
    Memory.wf (o.getD s).mem = true := by
  cases o with
  | none => exact h
  | some t => exact ho t rfl

theorem someWf_or {o p : Option State} (ho : SomeWf o) (hp : SomeWf p) : SomeWf (o.or p) := by
  cases o with
  | none => exact hp
  | some x => exact ho

@[simp] theorem someWf_ite (c : Prop) [Decidable c] (o p : Option State) :
    SomeWf (if c then o else p) ↔ (c → SomeWf o) ∧ (¬ c → SomeWf p) := by
  split <;> simp_all

@[simp] theorem effWf_ite (c : Prop) [Decidable c] (o p : Eff) :
    EffWf (if c then o else p) ↔ (c → EffWf o) ∧ (¬ c → EffWf p) := by
  split <;> simp_all

@[simp] theorem someEffWf_ite (c : Prop) [Decidable c] (o p : Option Eff) :
    SomeEffWf (if c then o else p) ↔ (c → SomeEffWf o) ∧ (¬ c → SomeEffWf p) := by
  split <;> simp_all

@[simp] theorem nextWf_ite (c : Prop) [Decidable c] (o p : Host.Outcome State Fault Refusal) :
    NextWf (if c then o else p) ↔ (c → NextWf o) ∧ (¬ c → NextWf p) := by
  split <;> simp_all

@[simp] theorem fetchedWf_ite (c : Prop) [Decidable c] (o p : Fetched) :
    FetchedWf (if c then o else p) ↔ (c → FetchedWf o) ∧ (¬ c → FetchedWf p) := by
  split <;> simp_all

@[simp] theorem wf_ite (c : Prop) [Decidable c] (o p : State) :
    Memory.wf (if c then o else p).mem = true ↔ (c → Memory.wf o.mem = true) ∧ (¬ c → Memory.wf p.mem = true) := by
  split <;> simp_all

@[simp] theorem nextWf_next (t : State) : NextWf (.next t) ↔ Memory.wf t.mem = true := by simp [NextWf]

@[simp] theorem nextWf_fault (t : Fault) : NextWf (.fault t) := by simp [NextWf]

@[simp] theorem nextWf_refused (t : Refusal) : NextWf (.refused t) := by simp [NextWf]

/-- A fold of updates that each keep memory in its form keeps it. -/
theorem wf_foldl_state {α : Type} {f : State → α → State} (hf : ∀ s x, Memory.wf s.mem = true → Memory.wf (f s x).mem = true)
    (l : List α) {s : State} (h : Memory.wf s.mem = true) : Memory.wf (l.foldl f s).mem = true := by
  induction l generalizing s with
  | nil => exact h
  | cons x l ih => exact ih (hf s x h)

/-- The same where a fold carries the state along with something else. -/
theorem wf_foldl_fst {α β : Type} {f : State × β → α → State × β}
    (hf : ∀ acc x, Memory.wf acc.1.mem = true → Memory.wf (f acc x).1.mem = true) (l : List α) {acc : State × β}
    (h : Memory.wf acc.1.mem = true) : Memory.wf (l.foldl f acc).1.mem = true := by
  induction l generalizing acc with
  | nil => exact h
  | cons x l ih => exact ih (hf acc x h)

/-- A fold of updates that leave memory alone leaves it alone. -/
@[simp] theorem foldl_mem {α : Type} {f : State → α → State} (hf : ∀ s x, (f s x).mem = s.mem) (l : List α) (s : State) :
    (l.foldl f s).mem = s.mem := foldl_keeps hf l s

/-- The state that an operation of the queue engine leaves has memory in its canonical form. -/
def QEffWf : QEff → Prop
  | .go s _ _ | .wait s => Memory.wf s.mem = true
  | _ => True

@[simp] theorem qEffWf_go (s : State) (p : Packet) (i : Nat) : QEffWf (.go s p i) ↔ Memory.wf s.mem = true := Iff.rfl

@[simp] theorem qEffWf_wait (s : State) : QEffWf (.wait s) ↔ Memory.wf s.mem = true := Iff.rfl

@[simp] theorem qEffWf_stop (n : Nat) : QEffWf (.stop n) := trivial

@[simp] theorem qEffWf_poison (n : Nat) : QEffWf (.poison n) := trivial

@[simp] theorem qEffWf_hold : QEffWf .hold := trivial

@[simp] theorem qEffWf_ite (c : Prop) [Decidable c] (o p : QEff) :
    QEffWf (if c then o else p) ↔ (c → QEffWf o) ∧ (¬ c → QEffWf p) := by
  split <;> simp_all

@[simp] theorem effWf_orFor {e : Eff} {holds : Bool} {r : Stall} (h : EffWf e) : EffWf (e.orFor holds r) := by
  unfold Eff.orFor
  split
  · split <;> exact h
  · exact h

theorem wf_logFold {mem : List Host.Cell} (base entries : Nat) (fields : List (Nat × Nat)) (h : Memory.wf mem = true) :
    Memory.wf (logFold mem base entries fields) = true := wf_writeNat _ _ _ (wf_writeNat _ _ _ h)

@[simp] theorem nextWf_settleCur {o : Host.Outcome State Fault Refusal} (h : NextWf o) : NextWf (settleCur o) := by
  cases o with
  | next t => simpa [settleCur] using h
  | fault _ | refused _ => exact h

end Sys2Proof.Machine
end

section
/-!
PROOFS. Updates that leave memory as it is: the block, strand and set state, the boxes on the way, the tiles and engines, the
records and the hub's own tables.
-/
namespace Sys2Proof.Machine

/-! ### Freezes, grids and kills (21 R285, 28 R359-R362) -/

@[simp] theorem startFreeze_mem {s : State} {unit cause : Nat} {ctx : Option Nat} {info : Word} {partOnly : Bool} :
    (startFreeze s unit cause ctx info partOnly).mem = s.mem := by
  unfold startFreeze
  dsimp only
  (repeat' split) <;> simp

@[simp] theorem tlbDrop_mem {s : State} {ctx lo size : Nat} : (tlbDrop s ctx lo size).mem = s.mem := by simp [tlbDrop]

@[simp] theorem healLines_mem {s : State} {pa n : Nat} : (healLines s pa n).mem = s.mem := by
  unfold healLines
  split <;> simp

@[simp] theorem shareRange_mem {s : State} {shared : Bool} {pa n : Nat} : (shareRange s shared pa n).mem = s.mem := by
  unfold shareRange
  split <;> simp

@[simp] theorem launchRecord_mem {s : State} {kind ctx va depth status : Nat} :
    (launchRecord s kind ctx va depth status).mem = s.mem := by
  simp [launchRecord]

@[simp] theorem bumpErr_mem {s : State} {hi lo : Nat} : (bumpErr s hi lo).mem = s.mem := by
  unfold bumpErr
  dsimp only
  split <;> simp

@[simp] theorem bumpKills_mem {s : State} : (bumpKills s).mem = s.mem := by simp [bumpKills]

@[simp] theorem bumpLost_mem {s : State} : (bumpLost s).mem = s.mem := by simp [bumpLost]

@[simp] theorem bumpUncor_mem {s : State} : (bumpUncor s).mem = s.mem := by simp [bumpUncor]

@[simp] theorem bumpCorr_mem {s : State} : (bumpCorr s).mem = s.mem := by simp [bumpCorr]

@[simp] theorem purgeRecords_mem {s : State} {ctx : Nat} : (purgeRecords s ctx).mem = s.mem := by
  refine foldl_mem (fun s p => ?_) _ _
  split
  · rfl
  · split <;> simp

@[simp] theorem passDebts_mem {s : State} {c k : Nat} : (passDebts s c k).mem = s.mem := by
  unfold passDebts
  split <;> simp

@[simp] theorem dropKilled_mem {s : State} {ctx : Nat} {left : List (Nat × Access)} : (dropKilled s ctx left).mem = s.mem := by
  unfold dropKilled
  split
  · rfl
  · exact foldl_mem (fun s c => by simp) _ _

@[simp] theorem dropReplies_mem {s : State} : (dropReplies s).mem = s.mem := by
  unfold dropReplies
  split <;> simp

@[simp] theorem jobsStop_mem {s : State} {ctx cause : Nat} : (jobsStop s ctx cause).mem = s.mem :=
  foldl_mem (fun s p => foldl_mem (fun s j => by simp) _ _) _ _

/-! ### Strands, their sets and their children (06, 07, 15) -/

@[simp] theorem dropTask_mem {m : Me} {s : State} : (m.dropTask s).mem = s.mem := by
  unfold Me.dropTask
  dsimp only
  split <;> simp

@[simp] theorem setRegs_mem {m : Me} {s : State} {f : Regs → Regs} : (m.setRegs s f).mem = s.mem := by simp [Me.setRegs]

@[simp] theorem count_mem {m : Me} {s : State} {o : QOps} {x : TSet} : (m.count s o x).mem = s.mem := by simp [Me.count]

@[simp] theorem clearBits_mem {s : State} {c block name : Nat} {words : List Nat} :
    (clearBits s c block name words).mem = s.mem := by
  unfold clearBits
  split <;> simp

@[simp] theorem setStack_mem {m : Me} {s : State} {k : Stack} : (m.setStack s k).mem = s.mem := by
  unfold Me.setStack
  (repeat' split) <;> simp

@[simp] theorem note_mem {m : Me} {s : State} {ty : Nat} {pay : Word} : (m.note s ty pay).mem = s.mem := by simp [Me.note]

@[simp] theorem returnFromHandler_mem {s : State} {m : Me} : (returnFromHandler s m).mem = s.mem := by
  unfold returnFromHandler
  dsimp only
  split <;> simp

@[simp] theorem noteSite_mem {s : State} {m : Me} {stop : Bool} : (noteSite s m stop).mem = s.mem := by
  unfold noteSite
  split <;> simp

@[simp] theorem retireAt_mem {s : State} {m : Me} {stop step : Bool}
    {next : PC} : (retireAt s m stop step next).mem = s.mem := by
  unfold retireAt
  split <;> simp

@[simp] theorem settleTurn_mem {m : Me} {bo : Bool} {e : Eff} {s : State} : (settleTurn m bo e s).mem = s.mem := by
  unfold settleTurn
  (repeat' split) <;> simp

@[simp] theorem lateKnown_mem {s : State} {c k : Nat} {n : SReg} {v : Word} : (lateKnown s c k n v).mem = s.mem := by
  simp [lateKnown]

@[simp] theorem releaseCurrent_mem {s : State} {c i : Nat} : (releaseCurrent s c i).mem = s.mem := by simp [releaseCurrent]

@[simp] theorem clearRegPoison_mem {s : State} {c block win name : Nat} {ts : List Nat} :
    (clearRegPoison s c block win name ts).mem = s.mem := by
  unfold clearRegPoison
  split <;> simp

@[simp] theorem putV_mem {m : Me} {s : State} {name : Nat} {vals : List (Nat × W32)} : (m.putV s name vals).mem = s.mem := by
  simp [Me.putV]

@[simp] theorem putKey_mem {m : Me} {s : State} {n : Nat} {who val : TSet} : (m.putKey s n who val).mem = s.mem := by
  simp [Me.putKey]

@[simp] theorem startChild_mem {s : State} {m : Me} {slot : Nat} {target : PC} : (startChild s m slot target).mem = s.mem := by
  simp [startChild]

@[simp] theorem startInline_mem {s : State} {m : Me} {stop : Bool} : (startInline s m stop).mem = s.mem := by
  simp [startInline]

@[simp] theorem joined_mem {s : State} {m : Me} : (joined s m).mem = s.mem := by simp [joined]

@[simp] theorem dropFault_mem {s : State} {m : Me} {f : JobFault} : (dropFault s m f).mem = s.mem := by simp [dropFault]

@[simp] theorem orphanFault_mem {s : State} {c block grid : Nat}
    {f : JobFault} : (orphanFault s c block grid f).mem = s.mem := by
  unfold orphanFault
  split <;> simp

@[simp] theorem endInline_mem {s : State} {m : Me} {f : Frame} {rest : List Frame} : (endInline s m f rest).mem = s.mem := by
  unfold endInline
  split <;> simp

@[simp] theorem settleGbar_mem {s : State} {g : Nat} : (settleGbar s g).mem = s.mem := by
  unfold settleGbar
  dsimp only
  (repeat' split) <;> simp

@[simp] theorem setEvent_mem {m : Me} {s : State} {op depth : Nat} {overflow : Bool} :
    (setEvent m s op depth overflow).mem = s.mem := by
  simp [setEvent]

@[simp] theorem restack_mem {m : Me} {s : State} {o : QOps} {k : Stack} : (m.restack s o k).mem = s.mem := by
  simp [Me.restack]

/-! ### Accesses, barrier words, tiles and factor tiles (09, 10) -/

@[simp] theorem spill_mem {s : State} {t : Token} : (spill s t).mem = s.mem := by simp [spill]

@[simp] theorem repliesCome_mem {s : State} {c slot : Nat} {d : Dest} : (repliesCome s c slot d).mem = s.mem := by
  unfold repliesCome
  split <;> simp

@[simp] theorem barTest_mem {s : State} {c block addr : Nat} : (barTest s c block addr).mem = s.mem := by
  unfold barTest
  dsimp only
  (repeat' split) <;> simp

@[simp] theorem barStep_mem {s : State} {c block addr arrive : Nat} {pend : Int} :
    (barStep s c block addr arrive pend).mem = s.mem := by
  unfold barStep
  split <;> simp

@[simp] theorem scratchRmw_mem {s : State} {c block : Nat} {op : AOp} {bytes pa : Nat} {read : Option Nat}
    {members : List (Nat × Nat × Nat)} :
    (scratchRmw s c block op bytes pa read members).1.mem = s.mem := by
  unfold scratchRmw
  split <;> simp

@[simp] theorem performScratch_mem {s : State} {c slot block : Nat} {a : Access} :
    (performScratch s c slot block a).mem = s.mem := by
  unfold performScratch
  split <;> simp

@[simp] theorem touchWord_mem {m : Me} {s : State} {a : Nat} : (m.touchWord s a).mem = s.mem := by simp [Me.touchWord]

@[simp] theorem takeLock_mem {s : State} {m : Me} {pa va : Nat} : (takeLock s m pa va).mem = s.mem := by simp [takeLock]

@[simp] theorem moveTilePoison_mem {s : State} {c block key : Nat} {dst : Option Nat} :
    (moveTilePoison s c block key dst).mem = s.mem := by
  unfold moveTilePoison
  split <;> simp

@[simp] theorem drainName_mem {s : State} {c block name : Nat} : (drainName s c block name).mem = s.mem := by
  simp [drainName]

@[simp] theorem bindWith_mem {s : State} {c block name : Nat} {a : AccName} : (bindWith s c block name a).mem = s.mem := by
  simp [bindWith]

@[simp] theorem bindTile_mem {s : State} {c block name : Nat} {a : AccName} : (bindTile s c block name a).mem = s.mem := by
  simp [bindTile]

@[simp] theorem putTile_mem {s : State} {c block name : Nat} {t : TileData} : (putTile s c block name t).mem = s.mem := by
  simp [putTile]

@[simp] theorem addTileOp_mem {s : State} {m : Me} {name : Nat} {regions : List Region} {reads writes : Bool} {current : Nat} :
    (addTileOp s m name regions reads writes current).mem = s.mem := by
  simp [addTileOp]

@[simp] theorem countCensus_mem {s : State} {c ctx : Nat} {sites : List (Nat × List Nat)} :
    (countCensus s c ctx sites).mem = s.mem := by
  simp [countCensus]

@[simp] theorem putProduct_mem {s : State} {m : Me} {o : TOps} {stop : Bool} {tile : TileData} {written : List Rounded} :
    (putProduct s m o stop tile written).mem = s.mem := by
  unfold putProduct
  (repeat' split) <;> simp

@[simp] theorem setLatch_mem {m : Me} {s : State} {o : TOps} {a : Latch} : (m.setLatch s o a).mem = s.mem := by
  simp [Me.setLatch]

@[simp] theorem applyMat_mem {s : State} {m : Me} {sat : Bool} {ty : MatTy} {o : TOps} {p q : Nat} {a : Latch} {current : Nat} :
    (applyMat s m sat ty o p q a current).mem = s.mem := by
  unfold applyMat
  (repeat' split) <;> simp

@[simp] theorem shareRows_mem {s : State} {l : List ((Nat × Nat) × Nat × Nat)} : (shareRows s l).mem = s.mem := by
  simp [shareRows]

@[simp] theorem renameOps_mem {s : State} {c block name dst : Nat} : (renameOps s c block name dst).mem = s.mem := by
  simp [renameOps]

@[simp] theorem commitShadow_mem {s : State} {m : Me} {name : Nat} {x : Shadow} : (commitShadow s m name x).mem = s.mem := by
  simp [commitShadow]

@[simp] theorem stopSolve_mem {s : State} {m : Me} {o : FOps} {k : Nat} : (stopSolve s m o k).mem = s.mem := by
  simp [stopSolve]

@[simp] theorem endSolve_mem {s : State} {m : Me} : (endSolve s m).mem = s.mem := by simp [endSolve]

@[simp] theorem setCounters_mem {m : Me} {s : State} {f : Counters → Counters} : (m.setCounters s f).mem = s.mem := by
  simp [Me.setCounters]

/-! ### Engines, events and records (11, 23, 24, 28) -/

@[simp] theorem untrack_mem {s : State} {c : Nat} {f : Tracked → Tracked} : (untrack s c f).mem = s.mem := by simp [untrack]

@[simp] theorem setJob_mem {s : State} {c : Nat} {j : Job} : (setJob s c j).mem = s.mem := by simp [setJob]

@[simp] theorem deliverFault_mem {s : State} {c : Nat} {b : Block} {j : Job} {f : Nat × Nat} :
    (deliverFault s c b j f).mem = s.mem := by
  unfold deliverFault
  split <;> simp

@[simp] theorem bankDo_mem {s : State} {c : Nat} {b : Block} {op : BankOp}
    {p : BankPart} : (bankDo s c b op p).mem = s.mem := by
  unfold bankDo
  (repeat' split) <;> simp

@[simp] theorem removeAccess_mem {s : State} {c slot id : Nat} {who : Sender} : (removeAccess s c slot id who).mem = s.mem := by
  unfold removeAccess
  split <;> simp

@[simp] theorem loseDelivery_mem {s : State} {c : Nat} {d : Delivery} : (loseDelivery s c d).mem = s.mem := by
  unfold loseDelivery
  split <;> simp

theorem giveUp_leaves_mem (s : State) (c slot : Nat) (a : Access) : (giveUp s c slot a).mem = s.mem := by
  unfold giveUp
  dsimp only
  split <;> simp

@[simp] theorem loseDest_mem {s : State} {c slot : Nat} {d : Dest} : (loseDest s c slot d).mem = s.mem := by
  unfold loseDest
  (repeat' split) <;> simp

@[simp] theorem stepCeiling_mem {draws : List Nat} {s : State} {r : Nat} : (stepCeiling draws s r).mem = s.mem := by
  unfold stepCeiling
  dsimp only
  split <;> simp

@[simp] theorem powerRecord_mem {s : State} {c kind : Nat} : (powerRecord s c kind).mem = s.mem := by simp [powerRecord]

@[simp] theorem stepInterval_mem {s : State} {c : Nat} : (stepInterval s c).mem = s.mem := by
  unfold stepInterval
  dsimp only
  (repeat' split) <;> simp

@[simp] theorem preemptRecords_mem {kind from' ctx : Nat} {s : State} {c : Nat} :
    (preemptRecords kind from' ctx s c).mem = s.mem := by
  simp [preemptRecords]

@[simp] theorem stopCluster_mem {ctx rows : Nat} {s : State} {c : Nat} : (stopCluster ctx rows s c).mem = s.mem := by
  simp [stopCluster]

@[simp] theorem captureCluster_mem {ctx : Nat} {s : State} {c : Nat} : (captureCluster ctx s c).mem = s.mem := by
  simp [captureCluster]

@[simp] theorem tokenReaches_mem {s : State} {unit : Nat} {x : FreezeStart} : (tokenReaches s unit x).mem = s.mem := by
  unfold tokenReaches
  split <;> simp

@[simp] theorem tokensForced_mem {s : State} : (tokensForced s).mem = s.mem := by
  unfold tokensForced
  split
  · rfl
  · split
    · rfl
    · refine foldl_mem (fun s u => ?_) _ _
      split
      · rfl
      · split <;> simp

@[simp] theorem thawVault_mem {capno : Nat} {s : State} {u : Nat} : (thawVault capno s u).mem = s.mem := by simp [thawVault]

@[simp] theorem norOpens_mem {s : State} : (norOpens s).mem = s.mem := by
  unfold norOpens
  split <;> simp

@[simp] theorem strike_mem {s : State} {site : ErrSite} : (strike s site).mem = s.mem := by
  unfold strike
  (repeat' split) <;> simp

@[simp] theorem eccRecord_mem {s : State} {unit code : Nat} {uncorrectable : Bool} {at' : Nat} :
    (eccRecord s unit code uncorrectable at').mem = s.mem := by
  simp [eccRecord]

/-! ### Host writes, the hub and the arbiter (13, 21, 29, 15 R235) -/

@[simp] theorem modPage_mem {s : State} {page0 : Bool} {f : MboxPage → MboxPage} : (s.modPage page0 f).mem = s.mem := by
  unfold State.modPage
  split <;> simp

@[simp] theorem countDrop_mem {s : State} {page0 : Bool} : (countDrop s page0).mem = s.mem := by simp [countDrop]

@[simp] theorem goWrite_mem {s : State} {page0 : Bool} : (goWrite s page0).mem = s.mem := by
  unfold goWrite
  dsimp only
  (repeat' split) <;> simp

@[simp] theorem dropWrite_mem {s : State} {reg : Nat → Bool} {offset bytes : Nat} :
    (dropWrite s reg offset bytes).mem = s.mem := by
  unfold dropWrite
  split <;> simp

@[simp] theorem mailboxWrite_mem {s : State} {page0 : Bool} {at' : Nat} {data : List Byte} :
    (mailboxWrite s page0 at' data).mem = s.mem := by
  unfold mailboxWrite
  (repeat' split) <;> simp

@[simp] theorem systemWrite_mem {s : State} {at' : Nat} {value : Word} : (systemWrite s at' value).mem = s.mem := by
  unfold systemWrite
  dsimp only
  (repeat' split) <;> simp

@[simp] theorem packetRecord_mem {s : State} {r : Queue}
    {status index : Nat} : (packetRecord s r status index).mem = s.mem := by
  simp [packetRecord]

@[simp] theorem putPacket_mem {s : State} {q : Nat} {p : Packet} : (putPacket s q p).mem = s.mem := by simp [putPacket]

@[simp] theorem pollQueue_mem {s : State} {r : Queue} : (pollQueue s r).mem = s.mem := by
  unfold pollQueue
  (repeat' split) <;> simp

@[simp] theorem pollDims_mem {s : State} {l : Launch} : (pollDims s l).mem = s.mem := by
  unfold pollDims
  split <;> simp

@[simp] theorem argumentsRead_mem {s : State} {l : Launch} : (argumentsRead s l).mem = s.mem :=
  foldl_mem (fun s o => by simp) _ _

@[simp] theorem hubPolls_mem {s : State} : (hubPolls s).mem = s.mem := by
  unfold hubPolls
  refine (foldl_mem (fun s p => ?_) _ _).trans (foldl_mem (fun s p => ?_) _ _)
  · split <;> simp
  · simp

@[simp] theorem addMapping_mem {s : State} {leaf : Nat} : (addMapping s leaf).mem = s.mem := by simp [addMapping]

@[simp] theorem dropMapping_mem {s : State} {leaf : Nat} : (dropMapping s leaf).mem = s.mem := by simp [dropMapping]

@[simp] theorem finishUnmap_mem {s : State} : (finishUnmap s).mem = s.mem := by
  unfold finishUnmap
  split <;> simp

@[simp] theorem endCommand_mem {s : State} {h : CmdHdr} {status : Nat} {result : List Byte} :
    (endCommand s h status result).mem = s.mem := by
  simp [endCommand]

@[simp] theorem wakeAll_mem {s : State} : (wakeAll s).mem = s.mem := by simp [wakeAll]

@[simp] theorem passOver_mem {s s' : State} {c k : Nat} {ps : List Outlook} : (passOver s c k ps s').mem = s'.mem := rfl

end Sys2Proof.Machine
end

section
/-!
PROOFS. Attempts keep memory in its canonical form: what a fault, a trap and a retirement store, the gate in front of every
instruction, and the shared checks and attempts of the instructions.
-/
namespace Sys2Proof.Machine

section
variable {s : State} (h : Memory.wf s.mem = true)
include h

/-! ### Stores, grids, queues and kills -/

@[simp] theorem wf_storeBytes {pa : Nat} (bs : List (Option Byte)) : Memory.wf (storeBytes s pa bs).mem = true := by
  induction bs generalizing s pa with
  | nil => exact h
  | cons b bs ih =>
    refine ih ?_
    split
    · exact h
    · split
      · exact h
      · exact wf_writeByte _ _ h

@[simp] theorem wf_storeNat {pa n v : Nat} : Memory.wf (storeNat s pa n v).mem = true := by
  simp [storeNat, h]

@[simp] theorem wf_hubStore {ctx va n v : Nat} : Memory.wf (hubStore s ctx va n v).mem = true := by
  unfold hubStore
  refine wf_foldl_state (fun s i h => ?_) _ (by simpa using h)
  split <;> simp [h]

@[simp] theorem wf_signalGrid {ctx sigp status : Nat} : Memory.wf (signalGrid s ctx sigp status).1.mem = true := by
  unfold signalGrid
  (repeat' split) <;> simp [h]

@[simp] theorem wf_settleGrid {fuel : Nat} {g : Nat} : Memory.wf (settleGrid fuel s g).mem = true := by
  induction fuel generalizing s g with
  | zero => exact h
  | succ n ih =>
    unfold settleGrid
    split
    · exact h
    · split
      · exact h
      · dsimp only
        split
        · simp [wf_mergeCensus, h]
        · exact ih (by simp [wf_mergeCensus, h])

@[simp] theorem wf_settle {g : Nat} : Memory.wf (settle s g).mem = true := by
  simp [settle, h]

@[simp] theorem wf_refuseSubmission {ctx va parent sigp status : Nat} :
    Memory.wf (refuseSubmission s ctx va parent sigp status).mem = true := by
  simp [refuseSubmission, h]

@[simp] theorem wf_retireBlock {c b : Nat} : Memory.wf (retireBlock s c b).mem = true := by
  unfold retireBlock
  dsimp only
  split <;> simp [h]

@[simp] theorem wf_closeQueue {q : Nat} : Memory.wf (closeQueue s q).mem = true := by
  unfold closeQueue
  (repeat' split) <;> simp [h]

@[simp] theorem wf_endGrids {ctx status : Nat} : Memory.wf (endGrids s ctx status).mem = true :=
  wf_foldl_state (fun s p h => by simp [wf_mergeCensus, h]) _ h

@[simp] theorem wf_endContext {ctx cause : Nat} : Memory.wf (endContext s ctx cause).mem = true := by
  have hq : ∀ (l : List Nat) {s : State}, Memory.wf s.mem = true → Memory.wf (l.foldl closeQueue s).mem = true :=
    fun l _ h => wf_foldl_state (fun s q h => wf_closeQueue h) l h
  simp [endContext, hq, h]

@[simp] theorem wf_killContext {ctx cause : Nat} : Memory.wf (killContext s ctx cause).mem = true := by
  simp [killContext, h]

@[simp] theorem wf_fatal {unit cause ctx : Nat} {info : Word} : Memory.wf (fatal s unit cause ctx info).mem = true := by
  simp [fatal, h]

/-! ### Traps, retirement and the gate -/

@[simp] theorem wf_raiseDouble {m : Me} {cause op : Nat} : Memory.wf (raiseDouble s m cause op).mem = true := by
  simp [raiseDouble, h]

@[simp] theorem wf_enterHandler {c k : Nat} {t : Trap} : Memory.wf (enterHandler s c k t).mem = true := by
  unfold enterHandler
  split <;> simp [h]

@[simp] theorem wf_takeTrap {c k : Nat} {t : Trap} : Memory.wf (takeTrap s c k t).mem = true := by
  unfold takeTrap
  split <;> simp [h]

@[simp] theorem wf_raise {m : Me} {cause : Nat} {info : Word} {op : Nat} : Memory.wf (raise s m cause info op).mem = true := by
  simp [raise, h]

@[simp] theorem wf_retire {m : Me} {stop : Bool} {next : PC} : Memory.wf (retire s m stop next).mem = true := by
  simp [retire, h]

/-- The end of an attempt: it retires, jumps, waits or traps, and a trap is raised in the state that the attempt left. -/
@[simp] theorem wf_finish {m : Me} {op : Nat} {stop : Bool} {e : Eff} (he : EffWf e) :
    Memory.wf (finish m op stop s e).mem = true := by
  unfold finish
  split <;> simp_all

theorem someEffWf_gateScalars {r : Regs} (l : List (SReg × Bool)) : SomeEffWf (gateScalars s r l) := by
  induction l with
  | nil => simp [gateScalars]
  | cons x l ih =>
    simp only [gateScalars, someEffWf_ite, someEffWf_some, effWf_ite, effWf_trap, effWf_stall]
    exact ⟨fun _ => h, fun _ => ⟨fun _ => ⟨fun _ => h, fun _ => h⟩, fun _ => ih⟩⟩

theorem someEffWf_gateNames {m : Me} {x : TSet} (l : List NameUse) : SomeEffWf (gateNames s m x l) := by
  induction l with
  | nil => simp [gateNames]
  | cons u l ih =>
    unfold gateNames
    split
    · simp only [someEffWf_some, effWf_ite, effWf_trap, effWf_stall]
      exact ⟨fun _ => h, fun _ => h⟩
    · split
      · exact ih
      · split
        · simp [h]
        · split
          · simp [h]
          · exact ih

/-- The gate in front of an instruction only waits, or traps in the state that it was given. -/
theorem someEffWf_gate {m : Me} {u : Uses} : SomeEffWf (gate s m u) := by
  have hl := someEffWf_gateScalars (r := m.st.regs) h u.src
  unfold gate
  (repeat' split) <;> simp_all [someEffWf_gateNames]

@[simp] theorem wf_holdBack {m : Me} {op : Nat} {stop : Bool} {b : Stall} {e : Eff} (he : EffWf e) :
    Memory.wf (holdBack s m op stop b e).mem = true := by
  unfold holdBack
  dsimp only
  split
  · split
    · simpa using h
    · exact wf_finish h he
  · simpa using h

/-- An instruction keeps the form when its own attempt does: what the gate, the hold and the retirement add keeps it. -/
theorem nextWf_issueBy {op : Nat} {stop : Bool} {u : Me → Uses} {k : Me → Eff} (hk : ∀ m, EffWf (k m)) :
    NextWf (issueBy s op stop u k) := by
  intro t ht
  obtain ⟨m, e, -, rfl, ⟨-, rfl⟩ | ⟨b, -, -, rfl⟩⟩ := issueBy_next ht
  · have he := effWf_getD (someEffWf_gate (m := m) (u := u m) h) (hk m)
    simpa using wf_finish h he
  · exact wf_holdBack h (effWf_getD (someEffWf_gate h) (hk m))

@[simp] theorem nextWf_issue {op : Nat} {stop : Bool} {u : Uses} {k : Me → Eff} (hk : ∀ m, EffWf (k m)) :
    NextWf (issue s op stop u k) := nextWf_issueBy h hk

/-- An event either does not happen yet, or leaves the state that it names. -/
@[simp] theorem nextWf_happen {o : Option State} (ho : SomeWf o) : NextWf (happen s o) := by
  cases o with
  | none => simpa [happen] using h
  | some t => simpa [happen] using ho

@[simp] theorem wf_takeEntry {m : Me} {name count : Nat} {threads : List Nat} {data : Sys2Proof.SMap (List W32)} :
    Memory.wf (takeEntry s m name count threads data).1.mem = true := by
  simp [takeEntry, h]

/-! ### Control, sets and queues -/

/-- The admission of a task gives the continuation the state as it was or with the task noted. -/
@[simp] theorem effWf_admission {c task : Nat} {hd : Nat × Nat} {k : Nat → State → Eff}
    (hk : ∀ i t, Memory.wf t.mem = true → EffWf (k i t)) :
    EffWf (admission s c task hd k) := by
  unfold admission
  dsimp only
  split
  · exact hk _ _ h
  · split
    · exact hk _ _ h
    · split
      · exact hk _ _ h
      · exact h

theorem Me.effWf_admission {m : Me} {hd : Nat × Nat} {k : Nat → State → Eff}
    (hk : ∀ i t, Memory.wf t.mem = true → EffWf (k i t)) :
    EffWf (m.admission s hd k) := Machine.effWf_admission h hk

@[simp] theorem wf_unmapQueue {q : Nat} : Memory.wf (unmapQueue s q).mem = true := by
  unfold unmapQueue
  split <;> simp [h]

@[simp] theorem wf_mapQueue {q : Nat} : Memory.wf (mapQueue s q).mem = true := by
  unfold mapQueue
  (repeat' split) <;> simp [h]

@[simp] theorem wf_writeStat {q status index : Nat} : Memory.wf (writeStat s q status index).mem = true := by
  unfold writeStat
  split <;> simp [h]

@[simp] theorem wf_checkOverrun {q : Nat} : Memory.wf (checkOverrun s q).mem = true := by
  unfold checkOverrun
  split <;> simp [h]

@[simp] theorem wf_ringBell {pa value : Nat} : Memory.wf (ringBell s pa value).mem = true := by
  unfold ringBell
  dsimp only
  split <;> simp [h]

@[simp] theorem effWf_withFlags {m : Me} {fl : BitVec 5} {effect : State → State}
    (he : ∀ t, Memory.wf t.mem = true → Memory.wf (effect t).mem = true) :
    EffWf (withFlags m s fl effect) := by
  simp [withFlags, h, he]

@[simp] theorem nextWf_scalarOp {op : Nat} {o : SOps} {d a b c : Bool} {f : Word → Word → Word → Word} :
    NextWf (scalarOp s op o d a b c f) := by
  simp [scalarOp, h]

@[simp] theorem nextWf_scalarFloat {op : Nat} {o : SOps} {b c : Bool} {f : Word → Word → Word → Word × BitVec 5} :
    NextWf (scalarFloat s op o b c f) := by
  simp [scalarFloat, h]

@[simp] theorem effWf_scratchGate {m : Me} {a n : Nat} {reads : Bool} {k : Unit → Eff} (hk : ∀ u, EffWf (k u)) :
    EffWf (scratchGate s m a n reads k) := by
  unfold scratchGate
  (repeat' split) <;> simp [h, hk]

@[simp] theorem effWf_transfer {m : Me} {always : Bool} {target : PC} {effect : State → State}
    (he : ∀ t, Memory.wf t.mem = true → Memory.wf (effect t).mem = true) :
    EffWf (transfer s m always target effect) := by
  simp [transfer, h, he]

@[simp] theorem effWf_inlineEff {m : Me} {stop : Bool} {target : PC} : EffWf (inlineEff s m stop target) := by
  simp [inlineEff, h]

@[simp] theorem someEffWf_jobFault? {m : Me} : SomeEffWf (jobFault? s m) := by
  simp [jobFault?, h]

@[simp] theorem wf_breakArrivals {c : Nat} {hit : Arrival → Bool} {cause slot : Nat} :
    Memory.wf (breakArrivals s c hit cause slot).mem = true := by
  unfold breakArrivals
  refine wf_foldl_state (fun s x h => ?_) _ h
  split <;> simp [h]

@[simp] theorem wf_breakGangs {c k block : Nat} : Memory.wf (breakGangs s c k block).mem = true := by
  simp [breakGangs, h]

@[simp] theorem wf_doTail {m : Me} : Memory.wf (doTail s m).mem = true := by
  simp [doTail, h]

@[simp] theorem wf_endStrand {m : Me} : Memory.wf (endStrand s m).mem = true := by
  simp [endStrand, h]

@[simp] theorem effWf_haltEff {m : Me} {stop : Bool} : EffWf (haltEff s m stop) := by
  unfold haltEff
  split
  · rename_i he
    exact someEffWf_jobFault? h _ he
  · split
    · exact h
    · split <;> simp [h]

@[simp] theorem wf_submitLaunch {m : Me} {va : Nat} {bs : List Byte} : Memory.wf (submitLaunch s m va bs).1.mem = true := by
  unfold submitLaunch
  dsimp only
  (repeat' split) <;> simp [h]

@[simp] theorem effWf_waitEff {m : Me} {o : SOps} {ext : Bool} : EffWf (waitEff s m o ext) := by
  unfold waitEff
  (repeat' split) <;> simp [h]

@[simp] theorem effWf_setOverflow {m : Me} {op : Nat} : EffWf (setOverflow m s op) := by
  simp [setOverflow, h]

@[simp] theorem effWf_setUnderflow {op : Nat} : EffWf (setUnderflow s op) := by
  simp [setUnderflow, h]

@[simp] theorem effWf_push {m : Me} {o : QOps} {op : Nat} {x : TSet} : EffWf (m.push s o op x) := by
  simp [Me.push, h]

@[simp] theorem effWf_searchEff {m : Me} {o : QOps} {op : Nat} {p : Nat → Bool} : EffWf (searchEff m s o op p) := by
  unfold searchEff
  split <;> simp [h]

@[simp] theorem effWf_popEff {m : Me} {o : QOps} {op n : Nat} : EffWf (popEff m s o op n) := by
  simp [popEff, h]

@[simp] theorem effWf_mapGate {m : Me} {a n align : Nat} {reads : Bool} {k : Unit → Eff} (hk : ∀ u, EffWf (k u)) :
    EffWf (mapGate m s a n align reads k) := by
  simp [mapGate, h, hk]

/-! ### Accesses, barriers, locks and tiles -/

@[simp] theorem effWf_waitWalk {m : Me} {long : Bool} {thread page : Nat} : EffWf (waitWalk s m long thread page) := by
  simp [waitWalk, h]

@[simp] theorem effWf_addrTrap {m : Me} {long : Bool} {t va cause : Nat} : EffWf (addrTrap s m long t va cause) := by
  simp [addrTrap, h]

@[simp] theorem effWf_withTrans {m : Me} {need : Need} {bytes : Nat} {long : Bool} {addrs : List (Nat × Nat)}
    {also : Nat → Option Nat} {k : List (Nat × Nat × Nat) → Eff} (hk : ∀ l, EffWf (k l)) :
    EffWf (withTrans s m need bytes long addrs also k) := by
  unfold withTrans
  split
  · simp [h]
  · simp [h]
  · rw [effWf_ite, effWf_ite]
    refine ⟨fun _ => h, fun _ => ⟨fun _ => h, fun _ => ?_⟩⟩
    split
    · exact h
    · exact hk _

@[simp] theorem wf_performGlobal {c slot : Nat} {a : Access} : Memory.wf (performGlobal s c slot a).mem = true := by
  unfold performGlobal
  (repeat' split) <;> simp [h]

@[simp] theorem wf_performAct {c slot : Nat} {a : Access} : Memory.wf (performAct s c slot a).mem = true := by
  unfold performAct
  split <;> simp [h]

@[simp] theorem effWf_withScratch {m : Me} {bytes : Nat} {reads : Bool} {addrs : List (Nat × Nat)} {k : Unit → Eff}
    (hk : ∀ u, EffWf (k u)) :
    EffWf (withScratch s m bytes reads addrs k) := by
  unfold withScratch
  (repeat' split) <;> simp [h, hk]

@[simp] theorem someWf_aheadOf {m : Me} {set : Nat} {scope : Scope} {mark : Option Span} :
    SomeWf (aheadOf s m set scope mark) := by
  simp [aheadOf, h]

@[simp] theorem effWf_fenceEff {m : Me} {pred succ : Nat} {scope : Scope} : EffWf (fenceEff s m pred succ scope) := by
  simp only [fenceEff, effWf_ite, effWf_done, effWf_stall]
  refine ⟨fun _ => h, fun _ => ⟨fun _ => h, fun _ => ⟨fun _ => by simpa using h, fun _ => ⟨fun _ => h, fun _ => ?_⟩⟩⟩⟩
  split
  · rename_i ht
    exact someWf_aheadOf h _ ht
  · exact h

@[simp] theorem effWf_withBarrier {m : Me} {o : MOps} {k : Nat → Nat → Eff} (hk : ∀ a w, EffWf (k a w)) :
    EffWf (withBarrier s m o k) := by
  unfold withBarrier
  dsimp only
  (repeat' split) <;> simp [h, hk]

@[simp] theorem effWf_arrive {m : Me} {a w op : Nat} {k : State → Eff} (hk : ∀ t, Memory.wf t.mem = true → EffWf (k t)) :
    EffWf (arrive s m a w op k) := by
  have ho := someWf_ite (m.delivered s = true) (aheadOf s m 3 .block (some (m.word a))) none
  unfold arrive
  dsimp only
  split
  · simpa using h
  · split
    · exact hk _ (by simpa using h)
    · split
      · rename_i t ht
        exact hk _ (by simpa using ho.mpr ⟨fun _ => someWf_aheadOf h, fun _ => someWf_none⟩ t ht)
      · simpa using h

@[simp] theorem effWf_awaitPhase {m : Me} {a : Nat} {phase : Bool} : EffWf (awaitPhase s m a phase) := by
  unfold awaitPhase
  split <;> simp [h]

@[simp] theorem effWf_gbarEff {m : Me} : EffWf (gbarEff s m) := by
  unfold gbarEff
  split <;> simp [h]

@[simp] theorem effWf_withLock {m : Me} {o : MOps} {k : Nat → Nat → Lock → Eff} (hk : ∀ a v l, EffWf (k a v l)) :
    EffWf (withLock s m o k) := by
  simp [withLock, h, hk]

@[simp] theorem wf_passLock {m : Me} {pa va : Nat} {l : Lock} : Memory.wf (passLock s m pa va l).mem = true := by
  unfold passLock
  split <;> simp [wf_writeNat, h]

@[simp] theorem effWf_armWatch {m : Me} {w : Watch} : EffWf (armWatch s m w) := by
  simp [armWatch, h]

@[simp] theorem effWf_tileTrap {at5 : BitVec 5} {reason : Nat} : EffWf (tileTrap s at5 reason) := by
  simp [tileTrap, h]

@[simp] theorem effWf_withFresh {m : Me} {at5 : BitVec 5} {n : Nat} {k : Unit → Eff} (hk : ∀ u, EffWf (k u)) :
    EffWf (withFresh s m at5 n k) := by
  simp [withFresh, h, hk]

@[simp] theorem effWf_withReasons {m : Me} {at5 : BitVec 5} {reason : Option Nat} {k : Unit → Eff} (hk : ∀ u, EffWf (k u)) :
    EffWf (withReasons s m at5 reason k) := by
  unfold withReasons
  (repeat' split) <;> simp [h, hk]

@[simp] theorem effWf_withTile {m : Me} {key : Option Nat} {k : Unit → Eff} (hk : ∀ u, EffWf (k u)) :
    EffWf (withTile s m key k) := by
  unfold withTile
  split <;> simp [h, hk]

@[simp] theorem effWf_withArrays {m : Me} {reads : Bool} {arrs : List MemArray} {k : Unit → Eff} (hk : ∀ u, EffWf (k u)) :
    EffWf (withArrays s m reads arrs k) := by
  unfold withArrays
  dsimp only
  (repeat' split) <;> simp [h, hk]

@[simp] theorem effWf_withMmaTile {m : Me} {o : TOps} {k : Unit → Eff} (hk : ∀ u, EffWf (k u)) :
    EffWf (withMmaTile s m o k) := by
  simp [withMmaTile, h, hk]

@[simp] theorem wf_gangMember {c number current : Nat} {a : Arrival} :
    Memory.wf (gangMember s c number current a).mem = true := by
  unfold gangMember
  split <;> simp [h]

@[simp] theorem wf_gangTrap {c : Nat} {a : Arrival} : Memory.wf (gangTrap s c a).mem = true := by
  unfold gangTrap
  split <;> simp [h]

@[simp] theorem wf_completeGang {c g : Nat} {as' : List Arrival} {current : Nat} :
    Memory.wf (completeGang s c g as' current).mem = true := by
  unfold completeGang
  refine wf_foldl_state (fun s x h => ?_) _ h
  simp [h]

@[simp] theorem effWf_awaitGang {m : Me} {g : Nat} : EffWf (awaitGang s m g) := by
  unfold awaitGang
  split
  · exact h
  · refine effWf_orFor ?_
    split
    · exact h
    · dsimp only
      split
      · split
        · exact h
        · exact wf_gangTrap h
      · exact effWf_withArrays h fun _ => effWf_admission h fun _ _ h => wf_completeGang h

@[simp] theorem effWf_arriveGang {m : Me} {a : Arrival} : EffWf (arriveGang s m a) := by
  unfold arriveGang
  dsimp only
  (repeat' split) <;> simp [h]

/-- The rows of a tile in memory: the accesses are sent from the state in which their pages were looked up. -/
@[simp] theorem effWf_withRows {m : Me} {o : TOps} {need : Need} {k : State → List (Nat × Nat × Nat) → Eff}
    (hk : ∀ t l, Memory.wf t.mem = true → EffWf (k t l)) :
    EffWf (withRows s m o need k) := by
  unfold withRows
  extract_lets r n pieces
  split
  · exact effWf_withArrays h fun _ => hk _ _ h
  · split
    · exact h
    · exact effWf_waitWalk h
    · extract_lets at' phys
      clear_value at' phys
      split
      · exact h
      · split
        · exact h
        · exact hk _ _ (by simpa using h)

/-- A row of a tile is stored to the scratchpad or byte by byte to the physical pieces of its address. -/
@[simp] theorem wf_storeRow {m : Me} {o : TOps} {phys : List (Nat × Nat × Nat)} {i : Nat} {bs : List Byte} :
    Memory.wf (storeRow s m o phys i bs).mem = true := by
  unfold storeRow
  dsimp only
  split
  · simpa using h
  · refine wf_foldl_fst (fun acc p h => ?_) _ h
    dsimp only
    split <;> simp [h]

@[simp] theorem effWf_deliverRows {m : Me} {o : TOps} {count : Nat}
    {f : Nat → List W32} : EffWf (deliverRows s m o count f) := by
  simp [deliverRows, h]

@[simp] theorem effWf_sweepEff {down : Bool} {m : Me} {o : FOps} : EffWf (sweepEff down s m o) := by
  refine effWf_withReasons h fun _ => effWf_withTile h fun _ => effWf_withFresh h fun _ => ?_
  refine Me.effWf_admission (by simpa using h) fun i t ht => ?_
  rw [effWf_ite]
  exact ⟨fun _ => by simpa using ht, fun _ => by simpa using ht⟩

@[simp] theorem nextWf_sweepIssue {down : Bool} {op : Nat} {o : FOps} : NextWf (sweepIssue down op o s) := by
  unfold sweepIssue
  split
  · simp
  · split
    · simp [h]
    · simp [h]
    · simp [h]
    · exact nextWf_issueBy h fun m => effWf_sweepEff h

@[simp] theorem someWf_sweepRetires {c slot : Nat} : SomeWf (sweepRetires c slot s) := by
  simp only [sweepRetires, someWf_ite, someWf_none]
  refine ⟨fun _ => trivial, fun _ => ?_⟩
  split
  · simp
  · simp only [someWf_map, State.modStrand_mem]
    intro b _
    split <;> simp [h]

@[simp] theorem effWf_admitOnce {m : Me} {o : FOps} {k : State → Eff} (hk : ∀ t, Memory.wf t.mem = true → EffWf (k t)) :
    EffWf (admitOnce s m o k) := by
  unfold admitOnce
  split
  · exact hk _ h
  · exact Me.effWf_admission (by simpa using h) fun i t ht => hk _ (by simpa using ht)

@[simp] theorem effWf_fsolvEff {m : Me} {o : FOps} : EffWf (fsolvEff s m o) := by
  refine effWf_withReasons h fun _ => effWf_withTile h fun _ => effWf_admitOnce h fun t ht => ?_
  rw [effWf_ite]
  refine ⟨fun _ => by simpa using ht, fun _ => ?_⟩
  dsimp only
  split <;> simpa using ht

/-! ### Jobs and banks -/

@[simp] theorem effWf_withReads {m : Me} {rs : List (Nat × Nat)} {k : Unit → Eff} (hk : ∀ u, EffWf (k u)) :
    EffWf (withReads s m rs k) := by
  unfold withReads
  (repeat' split) <;> simp [h, hk]

@[simp] theorem effWf_issueJob {m : Me} {o : EOps} {card : Nat} {bs : List Byte} {r w : List Region} :
    EffWf (issueJob s m o card bs r w) := by
  unfold issueJob
  dsimp only
  split
  · exact h
  · split
    · exact h
    · refine Me.effWf_admission ?_ fun i t ht => by simpa [addJob_mem] using ht
      split <;> simpa using h

@[simp] theorem effWf_jobEff {m : Me} {o : EOps} : EffWf (jobEff s m o) := by
  unfold jobEff
  split
  · rename_i he
    exact someEffWf_jobFault? h _ he
  · simp only [effWf_ite, effWf_trap]
    refine ⟨fun _ => h, fun _ => ⟨fun _ => h, fun _ => effWf_withReads h fun _ => ?_⟩⟩
    rw [effWf_ite]
    refine ⟨fun _ => h, fun _ => effWf_withReads h fun _ => ?_⟩
    split
    · exact h
    · exact effWf_issueJob h

@[simp] theorem effWf_withTicket {m : Me} {o : EOps} {op : Nat} {k : Nat → Eff} (hk : ∀ t, EffWf (k t)) :
    EffWf (withTicket s m o op k) := by
  unfold withTicket
  split
  · rename_i he
    exact someEffWf_jobFault? h _ he
  · simp [h, hk]

@[simp] theorem someWf_jobStarts {c b ticket : Nat} : SomeWf (jobStarts c b ticket s) := by
  unfold jobStarts
  split
  · rw [someWf_ite]
    refine ⟨fun _ => someWf_none, fun _ => ?_⟩
    split <;> simp [jobTouch_mem, h]
  · simp

@[simp] theorem wf_stopJob {c : Nat} {j : Job} {f : Nat × Nat} : Memory.wf (stopJob s c j f).mem = true := by
  simp [stopJob, h]

@[simp] theorem wf_jobAccessDone {c : Nat} {b : Block} {j : Job} {p : JobPart} {a : JobAccess} {pa : Nat} {shared : Bool} :
    Memory.wf (jobAccessDone s c b j p a pa shared).mem = true := by
  unfold jobAccessDone
  cases a.scratch <;> cases a.write <;> simp [jobTouch_mem, h]

@[simp] theorem someWf_jobPart {c b ticket : Nat} {p : JobPart} : SomeWf (jobPart c b ticket p s) := by
  unfold jobPart
  split
  · simp only [someWf_ite, someWf_none, someWf_bind]
    refine ⟨fun _ => trivial, fun _ a _ => ?_⟩
    split
    · simp [h]
    · simp [h]
  · simp

@[simp] theorem someWf_jobFaults {c b ticket : Nat} : SomeWf (jobFaults c b ticket s) := by
  unfold jobFaults
  split
  · simp only [someWf_ite, someWf_none, someWf_some, someWf_bind]
    refine ⟨fun _ => trivial, fun _ => ⟨fun _ => by simp [h], fun _ p _ a _ => ?_⟩⟩
    split <;> simp [h]
  · simp

@[simp] theorem wf_jobComplete {c : Nat} {b : Block} {j : Job} : Memory.wf (jobComplete s c b j).1.mem = true := by
  unfold jobComplete
  split
  · dsimp only
    split <;> simp [jobTouch_mem, h]
  · split <;> simp [jobTouch_mem, h]
  · exact h

@[simp] theorem someWf_jobRetires {c b ticket : Nat} : SomeWf (jobRetires c b ticket s) := by
  unfold jobRetires
  dsimp only
  (repeat' split) <;> simp [releaseJob_mem, h]

@[simp] theorem someWf_tileEngineDone {c id : Nat} : SomeWf (tileEngineDone c id s) := by
  simp [tileEngineDone, h]

@[simp] theorem effWf_bankTrap {r : Nat} : EffWf (bankTrap s r) := by
  simp [bankTrap, h]

@[simp] theorem effWf_withRanges {m : Me} {arrs : List MemArray} {k : Unit → Eff} (hk : ∀ u, EffWf (k u)) :
    EffWf (withRanges s m arrs k) := by
  unfold withRanges
  dsimp only
  split <;> simp [h, hk]

@[simp] theorem effWf_withBank {m : Me} {ty : MatTy} {o : TOps} {k : BankDesc → List Nat → Eff} (hk : ∀ d l, EffWf (k d l)) :
    EffWf (withBank s m ty o k) := by
  simp only [withBank, effWf_ite, effWf_trap]
  refine ⟨fun _ => h, fun _ => ⟨fun _ => h, fun _ => effWf_withReads h fun _ => ?_⟩⟩
  simp only [effWf_ite, effWf_trap]
  refine ⟨fun _ => h, fun _ => ⟨fun _ => h, fun _ => ?_⟩⟩
  split
  · exact h
  · split
    · exact hk _ _
    · refine effWf_withRanges h fun _ => ?_
      split
      · exact h
      · exact effWf_waitWalk h
      · split
        · exact h
        · exact hk _ _

@[simp] theorem someWf_bankPart {c id : Nat} {p : BankPart} : SomeWf (bankPart c id p s) := by
  simp only [bankPart, someWf_bind, someWf_ite, someWf_none]
  intros
  (repeat' split) <;> simp [h]

@[simp] theorem someWf_bankComputeDone {c id : Nat} : SomeWf (bankComputeDone c id s) := by
  have hp : ∀ (l : List BankPart) {s : State}, Memory.wf s.mem = true →
      Memory.wf (l.foldl (fun s p => (bankPart c id p s).getD s) s).mem = true :=
    fun l _ h => wf_foldl_state (fun s p h => wf_getD (someWf_bankPart h) h) l h
  simp only [bankComputeDone, someWf_bind, someWf_ite, someWf_none]
  refine fun op _ b _ => ⟨fun _ => trivial, fun _ => ?_⟩
  split
  · simp [hp, h]
  · split <;> simp [bankFinish_mem, hp, h]

end

end Sys2Proof.Machine
end

section
/-!
PROOFS. The events keep memory in its canonical form: deliveries, accesses, walks, the control interval, pre-emption, freezes,
errors, the links and the host's writes.
-/
namespace Sys2Proof.Machine

section
variable {s : State} (h : Memory.wf s.mem = true)
include h

@[simp] theorem wf_landedBytes {c : Nat} {l : Landing} {bytes : Nat} : Memory.wf (landedBytes s c l bytes).mem = true := by
  unfold landedBytes
  split <;> simp [h]

@[simp] theorem wf_landDelivery {c : Nat} {d : Delivery} : Memory.wf (landDelivery s c d).mem = true := by
  unfold landDelivery
  split <;> simp [h]

@[simp] theorem someWf_deliveryArrives {c id : Nat} : SomeWf (deliveryArrives c id s) := by
  simp [writeDelivery_mem, deliveryArrives, h]

@[simp] theorem someWf_scalarArrives {c slot : Nat} {reg : SReg} : SomeWf (scalarArrives c slot reg s) := by
  simp only [scalarArrives, someWf_bind]
  intros
  (repeat' split) <;> simp [h]

@[simp] theorem wf_landOn {c : Nat} {l : Landing} {t : Nat} : Memory.wf (landOn s c l t).mem = true := by
  simp [landOn, h]

@[simp] theorem someWf_landWith {c id : Nat} {pick : Landing → Option Nat} : SomeWf (landWith c id pick s) := by
  simp [landWith, h]

@[simp] theorem someWf_bytesLand {c id : Nat} : SomeWf (bytesLand c id s) := by
  simp [bytesLand, h]

@[simp] theorem someWf_landThread {c id thread : Nat} : SomeWf (landThread c id thread s) := by
  simp [landThread, h]

@[simp] theorem wf_performKilled {c : Nat} {a : Access} : Memory.wf (performKilled s c a).mem = true := by
  unfold performKilled
  split <;> simp [h]

@[simp] theorem wf_performFrom {c slot : Nat} {who : Sender} {a : Access} :
    Memory.wf (performFrom s c slot who a).mem = true := by
  unfold performFrom
  split <;> simp [h]

@[simp] theorem someWf_accessPerforms {c slot id : Nat} : SomeWf (accessPerforms c slot id s) := by
  simp [accessPerforms, h]

@[simp] theorem someWf_accessEarly {c slot id : Nat} : SomeWf (accessEarly c slot id s) := by
  simp [accessEarly, h]

@[simp] theorem someWf_accessSplits {c slot id : Nat} : SomeWf (accessSplits c slot id s) := by
  simp [accessSplits, h]

@[simp] theorem someWf_tokenArrives {sender receiver : Nat} {reply : Bool} : SomeWf (tokenArrives sender receiver reply s) := by
  simp [tokenArrives, h]

@[simp] theorem wf_walkEnds {m : Me} {page : Nat} {found absent : Strand → Strand} :
    Memory.wf (walkEnds s m page found absent).mem = true := by
  unfold walkEnds
  dsimp only
  (repeat' split) <;> simp [h]

@[simp] theorem someWf_walkDone {c slot : Nat} : SomeWf (walkDone c slot s) := by
  simp only [walkDone, someWf_bind]
  intros
  (repeat' split) <;> simp [h]

@[simp] theorem someWf_watchFires {c slot : Nat} : SomeWf (watchFires c slot s) := by
  simp [watchFires, h]

@[simp] theorem someWf_waitTimesOut {c slot : Nat} : SomeWf (waitTimesOut c slot s) := by
  simp only [waitTimesOut, someWf_bind]
  intros
  (repeat' split) <;> simp [h]

@[simp] theorem someWf_searchEnds {c slot : Nat} : SomeWf (searchEnds c slot s) := by
  simp only [searchEnds, someWf_bind]
  intros
  (repeat' split) <;> simp [h]

@[simp] theorem someWf_timerFires {c slot : Nat} : SomeWf (timerFires c slot s) := by
  simp [timerFires, h]

@[simp] theorem wf_throttleTrap {m : Me} {t : Throttle} : Memory.wf (throttleTrap s m t).mem = true := by
  simp [throttleTrap, h]

@[simp] theorem someWf_trapEnters {c slot : Nat} : SomeWf (trapEnters c slot s) := by
  simp [trapEnters, h]

@[simp] theorem someWf_trackerFrees {c id : Nat} : SomeWf (trackerFrees c id s) := by
  simp [trackerFrees, h]

@[simp] theorem someWf_replyTimesOut {c slot id : Nat} : SomeWf (replyTimesOut c slot id s) := by
  simp only [replyTimesOut, someWf_ite, someWf_none]
  refine ⟨fun _ => trivial, fun _ => ?_⟩
  split <;> simp [giveUp_leaves_mem, h]

@[simp] theorem someWf_intervalEnds {draws : List Nat} : SomeWf (intervalEnds draws s) := by
  simp [intervalEnds, h]

@[simp] theorem someWf_taskAdmits {c slot : Nat} : SomeWf (taskAdmits c slot s) := by
  unfold taskAdmits
  dsimp only
  split <;> simp [h]

@[simp] theorem someWf_droopTrips {c : Nat} : SomeWf (droopTrips c s) := by
  simp [droopTrips, h]

@[simp] theorem someWf_stretchEnds {c : Nat} : SomeWf (stretchEnds c s) := by
  simp [stretchEnds, h]

@[simp] theorem someWf_halvingEnds {c : Nat} : SomeWf (halvingEnds c s) := by
  simp [halvingEnds, h]

@[simp] theorem wf_foldBlock {c b : Nat} {blk : Block} {slot : Nat} {phase : Bool} {rest : List (Nat × Bool)} :
    Memory.wf (foldBlock s c b blk slot phase rest).mem = true := by
  unfold foldBlock
  dsimp only
  split
  · simpa using h
  · exact wf_logFold _ _ _ (by simpa using h)

@[simp] theorem someWf_barrierFolds {c b : Nat} : SomeWf (barrierFolds c b s) := by
  simp only [barrierFolds, someWf_bind]
  intros
  (repeat' split) <;> simp [h]

@[simp] theorem someWf_censusMerges {ctx : Nat} : SomeWf (censusMerges ctx s) := by
  simp [wf_mergeCensus, censusMerges, h]

@[simp] theorem someWf_preemptStops {ctx rows : Nat} : SomeWf (preemptStops ctx rows s) := by
  simp [preemptStops, h]

/-- The images of a context go to its save area in physical memory, one cell after another. -/
@[simp] theorem someWf_imagesComplete {ctx : Nat} : SomeWf (imagesComplete ctx s) := by
  have hc : ∀ l : List Nat, Memory.wf (l.foldl (captureCluster ctx) (mergeCensus s ctx)).mem = true := fun l => by
    simpa using wf_mergeCensus ctx h
  simp only [imagesComplete, someWf_ite, someWf_none, someWf_some]
  refine ⟨fun _ => trivial, fun _ => ?_⟩
  split
  · exact hc _
  · rw [writeSaveArea_eq]
    exact wf_foldl (fun m p h => wf_writeImage p h) _ (wf_writeNat _ _ _ (hc _))

@[simp] theorem someWf_contextRestores {ctx : Nat} : SomeWf (contextRestores ctx s) := by
  simp only [contextRestores, someWf_bind]
  intro x _
  split <;> simp [restoreImage_mem, h]

@[simp] theorem someWf_tokenComes {unit k : Nat} : SomeWf (tokenComes unit k s) := by
  simp [tokenComes, h]

@[simp] theorem someWf_freezeTokenComes {unit : Nat} : SomeWf (freezeTokenComes unit s) := by
  simp [freezeTokenComes, h]

@[simp] theorem someWf_gapRecorded {unit : Nat} : SomeWf (gapRecorded unit s) := by
  unfold gapRecorded
  dsimp only
  split <;> simp [h]

@[simp] theorem someWf_epochRecorded : SomeWf (epochRecorded s) := by
  simp [epochRecorded, h]

@[simp] theorem wf_takeIndex : Memory.wf (takeIndex s).1.mem = true := by
  unfold takeIndex
  (repeat' split) <;> simp [h]

@[simp] theorem wf_makeCapsule {f : FreezeState} : Memory.wf (makeCapsule s f).1.mem = true := by
  simp [makeCapsule, h]

@[simp] theorem someWf_capsuleAssembles : SomeWf (capsuleAssembles s) := by
  unfold capsuleAssembles
  split <;> simp [h]

@[simp] theorem someWf_norBegins : SomeWf (norBegins s) := by simp [norBegins, h]

@[simp] theorem someWf_norSummaryWrites : SomeWf (norSummaryWrites s) := by
  unfold norSummaryWrites
  split <;> simp [h]

@[simp] theorem someWf_contextEnds {ctx : Nat} : SomeWf (contextEnds ctx s) := by
  simp [contextEnds, h]

@[simp] theorem someWf_horizonPasses {ctx : Nat} : SomeWf (horizonPasses ctx s) := by
  unfold horizonPasses
  split <;> simp [h]

@[simp] theorem someWf_noticeWrites : SomeWf (noticeWrites s) := by
  unfold noticeWrites
  split <;> simp [wf_writeBytes, wf_writeNat, h]

@[simp] theorem someWf_hardwareFails {unit : Nat} : SomeWf (hardwareFails unit s) := by
  simp [hardwareFails, h]

@[simp] theorem someWf_vaultsFreeze {unit cause : Nat} {info : Word} : SomeWf (vaultsFreeze unit cause info s) := by
  simp [vaultsFreeze, h]

@[simp] theorem someWf_watchdogFires {c slot : Nat} : SomeWf (watchdogFires c slot s) := by
  unfold watchdogFires
  split <;> simp [h]

@[simp] theorem someWf_retentionEnters {c : Nat} : SomeWf (retentionEnters c s) := by
  simp [retentionEnters, h]

@[simp] theorem wf_loseCluster {c : Nat} : Memory.wf (loseCluster s c).mem = true :=
  wf_foldl_state (fun s ctx h => wf_killContext h) _ (by simpa using h)

@[simp] theorem someWf_retentionEnds {c : Nat} {parityOk : Bool} : SomeWf (retentionEnds c parityOk s) := by
  simp [retentionEnds, h]

@[simp] theorem someWf_errorStrikes {site : ErrSite} {correctable : Bool} : SomeWf (errorStrikes site correctable s) := by
  simp [errorStrikes, h]

@[simp] theorem someWf_windowOpens {die group : Nat} : SomeWf (windowOpens die group s) := by
  simp [windowOpens, h]

@[simp] theorem someWf_tokenSpills {sender receiver : Nat} {reply : Bool} : SomeWf (tokenSpills sender receiver reply s) := by
  simp [tokenSpills, h]

@[simp] theorem someWf_tokenPulls {sender receiver : Nat} {reply : Bool} : SomeWf (tokenPulls sender receiver reply s) := by
  simp [tokenPulls, h]

@[simp] theorem someWf_lineInvalidates {line : Nat} {bytes : List Byte} : SomeWf (lineInvalidates line bytes s) := by
  simp [wf_writeBytes, lineInvalidates, h]

@[simp] theorem someWf_hostRings {word : Nat} {value : Word} : SomeWf (hostRings word value s) := by
  simp [hostRings, h]

@[simp] theorem nextWf_execPartitionCommit {value : Word} : NextWf (execPartitionCommit value s) := by
  unfold execPartitionCommit
  split
  · simpa using h
  · split <;> simpa using h

@[simp] theorem nextWf_partitionWrite {at' : Nat} {data : List Byte} : NextWf (partitionWrite s at' data) := by
  simp [partitionWrite, nextWf_execPartitionCommit h, h]

end

end Sys2Proof.Machine
end

section
/-!
PROOFS. The hub keeps memory in its canonical form: the queue engine, the dispatcher, the page tables that it writes and the
frame of the mailbox commands.
-/
namespace Sys2Proof.Machine

section
variable {s : State} (h : Memory.wf s.mem = true)
include h

@[simp] theorem wf_refuseLaunch {ctx va : Nat} {l : Launch} {status : Nat} {parent : Option Nat} :
    Memory.wf (refuseLaunch s ctx va l status parent).mem = true := by
  unfold refuseLaunch
  split <;> simp [h]

@[simp] theorem wf_acceptLaunch {ctx va : Nat} {l : Launch} {dims : Option (Nat × Nat × Nat)} {parent : Option Nat} :
    Memory.wf (acceptLaunch s ctx va l dims parent).mem = true := by
  simp [acceptLaunch, h]

@[simp] theorem wf_launchFrom {ctx va : Nat} {parent : Option Nat} : Memory.wf (launchFrom s ctx va parent).1.mem = true := by
  have hr : ∀ l : Launch, Memory.wf (if l.ind then hubHolds (hubHolds s ctx va 256) ctx l.grid.toNat 24
      else hubHolds s ctx va 256).mem = true := fun l => by split <;> simpa using h
  unfold launchFrom
  split
  · simp only [wf_refuseLaunch, h]
  · extract_lets bs l t u dims status
    have hu : Memory.wf u.mem = true := hr l
    clear_value u dims status
    split
    · exact wf_acceptLaunch hu
    · exact wf_refuseLaunch hu

@[simp] theorem wf_resolveSubmission {r : Queue} {p : Packet} : Memory.wf (resolveSubmission s r p).mem = true := by
  unfold resolveSubmission
  split <;> simp [h]

@[simp] theorem wf_endPacket {q status index : Nat} : Memory.wf (endPacket s q status index).mem = true := by
  unfold endPacket
  split
  · exact h
  · dsimp only
    have hr : ∀ (t : State) (r : Queue) (o : Option Packet), Memory.wf t.mem = true →
        Memory.wf (match o with | some p => resolveSubmission t r p | none => t).mem = true := fun t r o ht => by
      cases o <;> simp [ht]
    split
    · exact wf_writeStat (hr _ _ _ (wf_hubStore (by simp [h])))
    · exact hr _ _ _ (wf_hubStore (by simp [h]))

@[simp] theorem wf_abandonPacket {q : Nat} : Memory.wf (abandonPacket s q).mem = true := by
  unfold abandonPacket
  split
  · exact h
  · split
    · exact h
    · have hr : ∀ (r : Queue) (p : Packet),
          Memory.wf (resolveSubmission ((writeStat (packetRecord s r 0x06 p.index) q 0x06 p.index).modQueue q
            fun r => { r with packet := none }) r p).mem = true := fun r p => by simp [h]
      dsimp only
      split
      · exact wf_writeStat (hr _ _)
      · exact hr _ _

@[simp] theorem wf_enginePoison {ctx pa : Nat} : Memory.wf (enginePoison s ctx pa).mem = true := by
  simp [enginePoison, h]

@[simp] theorem someWf_slotMaps {q : Nat} : SomeWf (slotMaps q s) := by
  simp [slotMaps, h]

/-- An operation of the queue engine keeps the form when its own effect on the packet does. -/
@[simp] theorem nextWf_qeRun {k : Nat → Queue → Packet → QEff} (hk : ∀ q r p, QEffWf (k q r p)) : NextWf (qeRun s k) := by
  unfold qeRun
  split
  · simp
  · rename_i q r p _
    split
    · simp [h]
    · dsimp only
      have hq := hk q r (if p.counted then p else { p with steps := p.steps + 1 })
      split
      · rename_i he
        rw [he] at hq
        exact (nextWf_next _).mpr hq
      · rename_i he
        rw [he] at hq
        exact (nextWf_next _).mpr hq
      · exact (nextWf_next _).mpr (wf_endPacket h)
      · exact (nextWf_next _).mpr (wf_enginePoison h)
      · exact (nextWf_next _).mpr h

@[simp] theorem nextWf_qeSet {d : BitVec 3} {f : Packet → Word} : NextWf (qeSet s d f) := by
  simp [qeSet, h]

@[simp] theorem nextWf_qeJump {o : QeOps} {taken : Packet → Bool} : NextWf (qeJump s o taken) := by
  simp [qeJump, h]

@[simp] theorem nextWf_qeWindow {o : QeOps} {read write : Bool} {need : Need} {k : State → Packet → Nat → QEff}
    (hk : ∀ t p pa, Memory.wf t.mem = true → QEffWf (k t p pa)) :
    NextWf (qeWindow s o read write need k) := by
  refine nextWf_qeRun h fun _ r p => ?_
  split
  · trivial
  · rw [qEffWf_ite, qEffWf_ite]
    exact ⟨fun _ => trivial, fun _ => ⟨fun _ => trivial, fun _ => hk _ _ _ (by simpa using h)⟩⟩

@[simp] theorem someWf_packetStarts {q : Nat} : SomeWf (packetStarts q s) := by
  simp only [packetStarts, someWf_map, wf_ite]
  intros
  (repeat' split) <;> simp [h]

@[simp] theorem someWf_waitResumes {q : Nat} : SomeWf (waitResumes q s) := by
  simp [waitResumes, h]

@[simp] theorem wf_closeGrid {g status : Nat} : Memory.wf (closeGrid s g status).mem = true := by
  simp [closeGrid, h]

@[simp] theorem someWf_dimsRead {grid : Nat} : SomeWf (dimsRead grid s) := by
  unfold dimsRead
  (repeat' split) <;> simp [h]

@[simp] theorem someWf_startBlock {g : Nat} {gr : Grid} {index c : Nat} : SomeWf (startBlock s g gr index c) := by
  simp [startBlock, h]

theorem placedWf_placeNext {g : Nat} : PlacedWf (placeNext s g) := by
  unfold placeNext
  split
  · trivial
  · split
    · trivial
    · split
      · rename_i hb
        exact someWf_startBlock h _ hb
      · exact wf_closeGrid h

theorem placedWf_placeAll {g n : Nat} : PlacedWf (placeAll s g n) := by
  induction n generalizing s with
  | zero => exact h
  | succ n ih =>
    have hp := placedWf_placeNext (g := g) h
    unfold placeAll
    split
    · rename_i ht
      rw [ht] at hp
      exact ih hp
    · exact hp

theorem placedWf_placeGrid {g : Nat} : PlacedWf (placeGrid s g) := by
  unfold placeGrid
  split
  · trivial
  · split
    · trivial
    · exact placedWf_placeAll h

@[simp] theorem someWf_blockPlaces {grid : Nat} : SomeWf (blockPlaces grid s) := by
  have hp := placedWf_placeGrid (g := grid) h
  unfold blockPlaces
  split
  · simp
  · split
    · simp
    · split <;> simp_all

@[simp] theorem someWf_fillEnds {id : Nat} : SomeWf (fillEnds id s) := by
  have hc : ∀ a b n c d : Nat, Memory.wf (writeNat (copyBytes s.mem a b n) c 8 d) = true :=
    fun _ _ _ _ _ => wf_writeNat _ _ _ (wf_writeBytes _ _ h)
  unfold fillEnds
  split
  · exact someWf_none
  · simp only [someWf_ite, someWf_none, someWf_some, hc, implies_true, and_self]

theorem wf_setCtx_writeBytes {ctx a : Nat} {x : Context} {bs : List Byte} :
    Memory.wf ({ s with mem := writeBytes s.mem a bs }.setCtx ctx x).mem = true := wf_writeBytes a bs h

theorem wf_takeTable {t : State} {ctx n : Nat} (ht : takeTable s ctx = some (t, n)) : Memory.wf t.mem = true := by
  obtain ⟨x, -, hx⟩ := Option.bind_eq_some_iff.mp ht
  dsimp only [-List.reduceReplicate] at hx
  split at hx
  · obtain ⟨rfl, -⟩ := Prod.mk.inj (Option.some.inj hx)
    exact wf_setCtx_writeBytes h
  · split at hx
    · obtain ⟨rfl, -⟩ := Prod.mk.inj (Option.some.inj hx)
      exact wf_setCtx_writeBytes h
    · cases hx

/-- The page tables made for a leaf: each level is a fresh table with one entry written to its parent. -/
theorem wf_makeTables {va n ctx : Nat} {ls : List (Nat × Nat × Option Nat)} {t : State} {table lo k : Nat}
    {r : Nat × Nat × Nat} (ht : makeTables va n ctx ls s table lo k = some (t, r)) :
    Memory.wf t.mem = true := by
  induction ls generalizing s table lo k with
  | nil => cases ht
  | cons l ls ih =>
    obtain ⟨⟨s', t'⟩, hs, ht⟩ := Option.bind_eq_some_iff.mp ht
    have hw := wf_writeNat (entryAddress table va lo k) 8 (t' + 1) (wf_takeTable h hs)
    dsimp only at ht
    split at ht
    · obtain ⟨rfl, -⟩ := Prod.mk.inj (Option.some.inj ht)
      exact hw
    · exact ih hw ht

/-- A leaf is written to a table that is there or to the last of the tables made for it. -/
theorem wf_writeLeaf {t : State} {ctx : Nat} {x : Context} {va leaf : Nat} (ht : writeLeaf s ctx x va leaf = .ok t) :
    Memory.wf t.mem = true := by
  have hput : ∀ (l : List (Nat × Nat)) {m : List Host.Cell}, Memory.wf m = true →
      Memory.wf (l.foldl (fun m p => writeNat m p.1 8 p.2) m) = true :=
    fun l _ h => wf_foldl (fun m p h => wf_writeNat _ _ _ h) l h
  unfold writeLeaf at ht
  dsimp only at ht
  split at ht
  · cases ht
  · split at ht
    · cases ht
    · split at ht
      · cases ht
      · split at ht
        · cases ht
        · rename_i hm
          cases ht
          exact hput _ (wf_makeTables h hm)
    · split at ht
      · cases ht
      · cases ht
        refine hput _ ?_
        split <;> simpa using h

@[simp] theorem replyWf_mapLeaf {ctx : Nat} {x : Context} {va leaf : Nat} : ReplyWf (mapLeaf s ctx x va leaf) := by
  simp only [mapLeaf, replyWf_ite, replyWf_mk]
  refine ⟨fun _ => h, fun _ => ⟨fun _ => h, fun _ => ⟨fun _ => h, fun _ => ⟨fun _ => h, fun _ => ?_⟩⟩⟩⟩
  split
  · exact h
  · split
    · exact h
    · rename_i hw
      exact wf_writeLeaf h hw

@[simp] theorem wf_clearLeaf {root base leaf : Nat} : Memory.wf (clearLeaf s root base leaf).mem = true := by
  unfold clearLeaf
  dsimp only
  split
  · exact wf_foldl (fun m p h => wf_writeNat _ _ _ h) _ h
  · exact h

@[simp] theorem wf_startUnmap {ctx root : Nat} {va : Option Nat} {leaves : List (Nat × Nat)} :
    Memory.wf (startUnmap s ctx root va leaves).mem = true :=
  wf_foldl_state (fun s p h => by simp [h]) leaves h

@[simp] theorem wf_unmapPage {ctx va base leaf : Nat} : Memory.wf (unmapPage s ctx va base leaf).mem = true := by
  simp [unmapPage, h]

@[simp] theorem wf_unmapAll {ctx : Nat} : Memory.wf (unmapAll s ctx).mem = true := by
  unfold unmapAll
  (repeat' split) <;> simp [wf_writeBytes, h]

/-- A command of the mailbox keeps the form when its reply does. -/
@[simp] theorem nextWf_command {hd : CmdHdr} {operator always : Bool} {k : State → Nat × List Byte × State}
    (hk : ∀ t, Memory.wf t.mem = true → ReplyWf (k t)) :
    NextWf (command s hd operator always k) := by
  have hr : Memory.wf (k (wakeAll s)).2.2.mem = true := hk _ (by simpa using h)
  simp [command, h, hr]

@[simp] theorem nextWf_operatorCommand {hd : CmdHdr} {k : State → Nat × List Byte × State}
    (hk : ∀ t, Memory.wf t.mem = true → ReplyWf (k t)) :
    NextWf (operatorCommand s hd k) := nextWf_command h hk

@[simp] theorem nextWf_contextCommand {hd : CmdHdr} {ctx : Nat} {k : State → Context → Nat × List Byte × State}
    (hk : ∀ t x, Memory.wf t.mem = true → ReplyWf (k t x)) :
    NextWf (contextCommand s hd ctx k) := by
  refine nextWf_operatorCommand h fun t ht => ?_
  split
  · exact ht
  · split
    · exact ht
    · exact hk _ _ ht

@[simp] theorem wf_takeIdIndex : Memory.wf (takeIdIndex s).1.mem = true := by
  unfold takeIdIndex
  (repeat' split) <;> simp [h]

@[simp] theorem wf_registerQueue {ctx va door : Nat} {bs : List Byte} {ops : List Nat} :
    Memory.wf (registerQueue s ctx va door bs ops).mem = true := by
  simp [registerQueue, h]

@[simp] theorem someWf_functionReadies {bit : Nat} : SomeWf (functionReadies bit s) := by
  simp [functionReadies, h]

@[simp] theorem someWf_firmwareBoots : SomeWf (firmwareBoots s) := by
  simp [firmwareBoots, h]

@[simp] theorem wf_afterReset : Memory.wf (afterReset s).mem = true := by
  simp [afterReset, h]

end

end Sys2Proof.Machine
end

section
/-!
PROOFS. Every instruction, event and command keeps memory in its canonical form.
-/
namespace Sys2Proof.Machine

/-- Leaving out cells keeps the addresses rising and lists no byte that reads as an unlisted one. -/
theorem cellsFrom_pooledCells {lo : Option Nat} {m : List Host.Cell} (h : cellsFrom lo m = true) :
    cellsFrom lo (pooledCells m) = true := by
  induction m generalizing lo with
  | nil => rfl
  | cons p m ih =>
    obtain ⟨k, v⟩ := p
    obtain ⟨hk, hv, hm⟩ := cellsFrom_cons.mp h
    by_cases hp : isPooled k
    · rw [pooledCells, List.filter_cons_of_pos (by simpa using hp), cellsFrom_cons]
      exact ⟨hk, hv, ih hm⟩
    · rw [pooledCells, List.filter_cons_of_neg (by simpa using hp)]
      exact ih (cellsFrom_weaken (fun j hj b hb => Nat.lt_trans (hk b hb) (hj k rfl)) hm)

theorem wf_pooledCells {m : List Host.Cell} (h : Memory.wf m = true) : Memory.wf (pooledCells m) = true :=
  cellsFrom_pooledCells h

section
variable {s : State} (h : Memory.wf s.mem = true)
include h

/-! ### Instructions -/

@[simp] theorem nextWf_laneOp {op : Nat} {o : VOps} {a b c : Bool} {f : W32 → W32 → W32 → W32} :
    NextWf (laneOp s op o a b c f) := by
  simp [laneOp, h]

@[simp] theorem effWf_vrdOf {m : Me} {o : VOps} {i : Nat} : EffWf (vrdOf m s o i) := by
  simp [vrdOf, h]

@[simp] theorem nextWf_floatOp {op : Nat} {o : VOps} {a b c : Bool} {f : W32 → W32 → W32 → VRes} :
    NextWf (floatOp s op o a b c f) := by
  simp [floatOp, h]

@[simp] theorem nextWf_slotOp {o : VOps} {f : W32 → W32 → W32 → W32 → VRes} : NextWf (slotOp s o f) :=
  nextWf_issueBy h fun m => effWf_withFlags h fun t ht => by simpa using ht

theorem nextWf_execSysr {o : SOps} : NextWf (execSysr o s) := by
  refine nextWf_issue h fun m => ?_
  split <;> simp [h]

theorem nextWf_execSysw {o : SOps} : NextWf (execSysw o s) := by
  refine nextWf_issue h fun m => ?_
  dsimp only
  (repeat' split) <;> simp [h]

theorem nextWf_execQuota {o : SOps} : NextWf (execQuota o s) := by
  refine nextWf_issue h fun m => ?_
  dsimp only
  split <;> simp [quotaHeals_mem, h]

theorem nextWf_execRet {o : SOps} : NextWf (execRet o s) := by
  unfold execRet
  split <;> simp [h]

theorem nextWf_execLaunchI {o : SOps} : NextWf (execLaunchI o s) := by
  refine nextWf_issue h fun m => ?_
  dsimp only
  (repeat' split) <;> simp [h]

theorem nextWf_execTret {o : SOps} : NextWf (execTret o s) := by
  refine nextWf_issue h fun m => ?_
  dsimp only
  (repeat' split) <;> simp [h]

theorem nextWf_execVlut {o : VOps} : NextWf (execVlut o s) := by
  refine nextWf_issue h fun m => ?_
  dsimp only
  (repeat' split) <;> simp [h]

theorem nextWf_execLdsc {o : MOps} : NextWf (execLdsc o s) := by
  refine nextWf_issue h fun m => ?_
  split <;> simp [h]

theorem nextWf_execPref {o : MOps} : NextWf (execPref o s) := by
  refine nextWf_issue h fun m => ?_
  dsimp only
  split <;> simp [h]

theorem nextWf_execLockW {o : MOps} : NextWf (execLockW o s) := by
  refine nextWf_issue h fun m => ?_
  split <;> simp [h]

theorem nextWf_execTcommit {o : TOps} : NextWf (execTcommit o s) := by
  refine nextWf_issue h fun m => ?_
  split <;> simp [h]

theorem nextWf_execSpawn {o : BOps} : NextWf (execSpawn o s) := by
  refine nextWf_issue h fun m => ?_
  simp only [effWf_ite, effWf_stall, effWf_trap]
  refine ⟨fun _ => h, fun _ => ⟨fun _ => h, fun _ => ⟨fun _ => effWf_inlineEff h, fun _ => ?_⟩⟩⟩
  split <;> simp [h]

theorem nextWf_execTail {o : SOps} : NextWf (execTail o s) := by
  refine nextWf_issue h fun m => ?_
  simp only [effWf_ite, effWf_double]
  refine ⟨fun _ => trivial, fun _ => ?_⟩
  split
  · rename_i he
    exact someEffWf_jobFault? h _ he
  · simp [h]

theorem nextWf_execBaraw {o : MOps} : NextWf (execBaraw o s) := by
  refine nextWf_issue h fun m => ?_
  split
  · exact effWf_awaitPhase h
  · exact effWf_withBarrier h fun a w => effWf_arrive h fun t ht => effWf_awaitPhase ht

theorem nextWf_execMma {sat : Bool} {ty : MatTy} {o : TOps} : NextWf (execMma sat ty o s) := by
  refine nextWf_issueBy h fun m => effWf_orFor (effWf_withReasons h fun _ => effWf_withTile h fun _ =>
    effWf_withMmaTile h fun _ => effWf_withArrays h fun _ => Me.effWf_admission (by simpa using h) fun i t ht => ?_)
  simpa using ht

theorem nextWf_execMmag {sat : Bool} {ty : MatTy} {o : TOps} : NextWf (execMmag sat ty o s) := by
  unfold execMmag
  split
  · exact nextWf_fault _
  · rw [nextWf_ite, nextWf_next]
    refine ⟨fun _ => wf_finish h (effWf_awaitGang h), fun _ => nextWf_issueBy h fun m => ?_⟩
    rw [effWf_ite]
    exact ⟨fun _ => trivial, fun _ => effWf_orFor (effWf_withReasons h fun _ => effWf_withTile h fun _ =>
      effWf_withMmaTile h fun _ => effWf_withArrays h fun _ => effWf_arriveGang h)⟩

theorem nextWf_execTld {o : TOps} : NextWf (execTld o s) :=
  nextWf_issue h fun m => effWf_orFor (effWf_withReasons h fun _ => effWf_withFresh h fun _ =>
    effWf_withRows h fun t l ht => by simpa using ht)

theorem nextWf_execTst {o : TOps} : NextWf (execTst o s) := by
  refine nextWf_issue h fun m => effWf_orFor (effWf_withReasons h fun _ => effWf_withTile h fun _ =>
    effWf_withRows h fun t l ht => ?_)
  rw [effWf_done, addTileOp_mem]
  exact wf_foldl_state (fun s i h => wf_storeRow h) _ ht

theorem nextWf_execTmov {o : TOps} : NextWf (execTmov o s) :=
  nextWf_issueBy h fun _ => effWf_withReasons h fun _ => effWf_withTile h fun _ => effWf_deliverRows h

theorem nextWf_execTrow {sum : Bool} {o : TOps} : NextWf (execTrow sum o s) :=
  nextWf_issueBy h fun _ => effWf_withReasons h fun _ => effWf_withTile h fun _ => effWf_deliverRows h

theorem nextWf_execBmv {sat : Bool} {ty : MatTy} {o : TOps} : NextWf (execBmv sat ty o s) := by
  refine nextWf_issueBy h fun m => effWf_orFor (effWf_withBank h fun d pages => ?_)
  rw [effWf_ite]
  refine ⟨fun _ => h, fun _ => Me.effWf_admission (by simpa using h) fun i t ht => ?_⟩
  rw [effWf_ite]
  exact ⟨fun _ => by simpa [beginBank_mem] using ht, fun _ => by simpa [beginBank_mem] using ht⟩

theorem nextWf_execQeStw {o : QeOps} : NextWf (execQeStw o s) := nextWf_qeWindow h fun _ _ _ ht => wf_storeNat ht

theorem nextWf_execQeWaitsig {o : QeOps} : NextWf (execQeWaitsig o s) := nextWf_qeWindow h fun t p pa ht => by simp [ht]

theorem nextWf_execQeSignal {o : QeOps} : NextWf (execQeSignal o s) := nextWf_qeWindow h fun _ _ _ ht => wf_storeNat ht

theorem qEffWf_qeLaunchAt {d : BitVec 3} {r : Queue} {p : Packet} {va : Nat} : QEffWf (qeLaunchAt s d r p va) := by
  simp [qeLaunchAt, h]

theorem nextWf_execQeLaunch {o : QeOps} : NextWf (execQeLaunch o s) := by
  refine nextWf_qeRun h fun _ r p => ?_
  split
  · trivial
  · rw [qEffWf_ite]
    refine ⟨fun _ => trivial, fun _ => ?_⟩
    split
    · trivial
    · exact qEffWf_qeLaunchAt h

theorem nextWf_execQeLaunchp {o : QeOps} : NextWf (execQeLaunchp o s) := nextWf_qeRun h fun _ _ _ => qEffWf_qeLaunchAt h

/-! ### Host writes and mailbox commands (13 R208, 29 R372-R374) -/

theorem nextWf_execRegisterWrite {offset bytes value : Nat} : NextWf (execRegisterWrite offset bytes value s) := by
  unfold execRegisterWrite
  extract_lets data word
  simp [someWf_hostRings, execDoorbellHostWrite, h]

theorem nextWf_execColdPowerOn : NextWf (execColdPowerOn s) := by
  rw [execColdPowerOn, nextWf_next]
  exact wf_pooledCells h

variable {hd : CmdHdr}

theorem nextWf_execInfoCmd : NextWf (execInfoCmd hd s) := by
  simp [execInfoCmd, h]

theorem nextWf_execCaplist : NextWf (execCaplist hd s) := by
  simp [execCaplist, h]

theorem nextWf_execNorlist : NextWf (execNorlist hd s) := by
  simp [execNorlist, h]

theorem nextWf_execErrread : NextWf (execErrread hd s) := by
  simp [execErrread, h]

theorem nextWf_execCtxset {ctx : Nat} {d : CtxDesc} : NextWf (execCtxset hd ctx d s) := by
  unfold execCtxset
  split
  · exact nextWf_operatorCommand h fun t ht => ht
  · simp only [nextWf_ite, nextWf_next]
    refine ⟨fun _ => nextWf_operatorCommand h fun t ht => by simpa using ht, fun _ => ⟨fun _ => h, fun _ =>
      ⟨fun _ => wf_unmapAll h, fun _ => nextWf_operatorCommand h fun t ht => ?_⟩⟩⟩
    simp [ht]

theorem nextWf_execMapPage {va leaf : Word} {ctx : Nat} : NextWf (execMapPage hd va leaf ctx s) := by
  rw [execMapPage, nextWf_ite, nextWf_next]
  exact ⟨fun _ => h, fun _ => nextWf_contextCommand h fun t x ht => replyWf_mapLeaf ht⟩

theorem nextWf_execUnmapPage {va : Word} {ctx : Nat} : NextWf (execUnmapPage hd va ctx s) := by
  rw [execUnmapPage, nextWf_ite, nextWf_next]
  refine ⟨fun _ => h, fun _ => ?_⟩
  split
  · exact nextWf_operatorCommand h fun t ht => ht
  · rw [nextWf_ite, nextWf_next]
    exact ⟨fun _ => wf_unmapPage h, fun _ => nextWf_operatorCommand h fun t ht => by simp [ht]⟩

theorem nextWf_execQreg {va : Word} {ctx : Nat} : NextWf (execQreg hd va ctx s) := by
  rw [execQreg, nextWf_ite, nextWf_next]
  refine ⟨fun _ => h, fun _ => nextWf_contextCommand h fun t x ht => ?_⟩
  simp only [replyWf_ite, replyWf_mk]
  refine ⟨fun _ => ht, fun _ => ?_⟩
  split
  · exact ht
  · simp only [replyWf_ite, replyWf_mk]
    refine ⟨fun _ => ht, fun _ => ?_⟩
    split <;> simp [ht]

theorem nextWf_execQdereg {va : Word} {ctx : Nat} : NextWf (execQdereg hd va ctx s) := by
  rw [execQdereg, nextWf_ite, nextWf_next]
  refine ⟨fun _ => h, fun _ => nextWf_contextCommand h fun t x ht => ?_⟩
  split
  · exact ht
  · exact wf_closeQueue (wf_abandonPacket ht)

theorem nextWf_execWsfill {frame : Word} {count : Nat} {source signal : Word} :
    NextWf (execWsfill hd frame count source signal s) := nextWf_operatorCommand h fun t ht => by simp [ht]

theorem nextWf_execAttest {nonce : List Byte} : NextWf (execAttest hd nonce s) := nextWf_command h fun t ht => by simp [ht]

theorem nextWf_execFwstage {offset : Nat} : NextWf (execFwstage hd offset s) := nextWf_command h fun t ht => by simp [ht]

theorem nextWf_execFwcommit {raise : Bool} : NextWf (execFwcommit hd raise s) := nextWf_operatorCommand h fun t ht => by simp [ht]

theorem nextWf_execCapview {handle : Nat} {operator : Bool} {creds : List (Nat × List Byte)} :
    NextWf (execCapview hd handle operator creds s) := by
  refine nextWf_operatorCommand h fun t ht => ?_
  rw [replyWf_ite]
  refine ⟨fun _ => ht, fun _ => ?_⟩
  split <;> simp [ht]

theorem nextWf_execCapread {view offset : Nat} : NextWf (execCapread hd view offset s) := by
  refine nextWf_command h fun t ht => ?_
  split
  · exact ht
  · rw [replyWf_ite]
    exact ⟨fun _ => ht, fun _ => ht⟩

theorem nextWf_execCaprel {handle : Nat} : NextWf (execCaprel hd handle s) := nextWf_operatorCommand h fun t ht => by simp [ht]

theorem nextWf_execCapfreeze : NextWf (execCapfreeze hd s) := nextWf_operatorCommand h fun t ht => by simp [ht]

theorem nextWf_execFnote {addr : Word} : NextWf (execFnote hd addr s) := nextWf_operatorCommand h fun t ht => by simp [ht]

theorem nextWf_execCklog {ctx : Nat} {base : Word} {entries : Nat} : NextWf (execCklog hd ctx base entries s) := by
  rw [execCklog, nextWf_ite, nextWf_next]
  refine ⟨fun _ => h, fun _ => nextWf_contextCommand h fun t x ht => ?_⟩
  simp [wf_writeNat, ht]

theorem nextWf_execCensusCmd {ctx : Nat} {base : Word} {entries : Nat} : NextWf (execCensusCmd hd ctx base entries s) := by
  rw [execCensusCmd, nextWf_ite, nextWf_next]
  refine ⟨fun _ => h, fun _ => nextWf_contextCommand h fun t x ht => ?_⟩
  rw [replyWf_ite]
  exact ⟨fun _ => ht, fun _ => wf_writeNat _ _ _ (wf_writeNat _ _ _ (wf_writeBytes _ _ ht))⟩

end

/-- Every constructor of `Instr`, by the lemma of its kind or its own. -/
theorem nextWf_exec (i : Instr) {s : State} (h : Memory.wf s.mem = true) : NextWf (exec i s) := by
  cases i with rw [exec]
  | add _ | sub _ | mul _ | mulh _ | mulhu _ | div _ | divu _ | rem _ | remu _ | andI _ | orI _ | xorI _ | andn _
   | shl _ | shr _ | sra _ | rol _ | minI _ | maxI _ | minu _ | maxu _ | clz _ | ctz _ | popc _ | bfx _ | bfi _
   | sel _ | seqI _ | slt _ | sltu _ | liI _ | liHi _ | mov _ => exact nextWf_scalarOp h
  | fadd _ | fsub _ | fmul _ | ffma _ | fdiv _ | fsqrt _ | fmin _ | fmax _ | fcmp _ _ | fcvt _ _ =>
    exact nextWf_scalarFloat h
  | sysr _ => exact nextWf_execSysr h
  | sysw _ => exact nextWf_execSysw h
  | timeI _ | cyc _ | perf _ | thra _ | ermark _ | gang _ | cksum _ | nop _ | branch _ _ | bcnt _ _ | jmp _ | jmpr _
   | call _ | loopI _ | joinI _ | halt _ | trapI _ | bkpt _ | waitInt _ | waitExt _ | yield _ | srch _ | srchk _
   | srchv _ | pushAll _ | pop _ | popn _ | elseSet _ | fold _ | firstSet _ | nextSet _ | gcnt _ | rdset _ | wrset _
   | mark _ | vsel _ | vcmp _ _ | vred _ _ | vscan _ _ | vperm _ | vfcmp _ _ | vpack _ | vunpk _ | ld _ | st _ | lds _
   | sts _ | sld _ | sst _ | atom _ | atoms _ | satom _ | fence _ | barw _ | gbar _ | trylock _ | tdiscard _ | fstat _
   | job _ | jwait _ | jpoll _ | bara _ | unlockW _ | waitv _ | tzero _ | finit _ =>
    exact nextWf_issue h fun m => by simp [h]
  | vrd _ | vrdFirst _ | vwr _ | tscale _ | fsolv _ => exact nextWf_issueBy h fun m => by simp [h]
  | quota _ => exact nextWf_execQuota h
  | ret _ => exact nextWf_execRet h
  | spawn _ => exact nextWf_execSpawn h
  | tail _ => exact nextWf_execTail h
  | launchI _ => exact nextWf_execLaunchI h
  | tret _ => exact nextWf_execTret h
  | vadd _ | vsub _ | vmul _ | vmulh _ | vmad _ | vadds _ | vsubs _ | vand _ | vor _ | vxor _ | vnot _ | vshl _
   | vshr _ | vsra _ | vmin _ | vminu _ | vmax _ | vmaxu _ | vabs _ | vneg _ | vclz _ | vpopc _ | vbfx _ | vbfi _
   | vmov _ | vfabs _ | vfneg _ | vfclass _ => exact nextWf_laneOp h
  | vlut _ => exact nextWf_execVlut h
  | vfadd _ | vfsub _ | vfmul _ | vffma _ | vfmin _ | vfmax _ | vfdiv _ | vfsqrt _ | vfrcp _ | vfrsq _ | vfexp2 _
   | vflog2 _ | vhadd _ | vhmul _ | vhfma _ | vcvt _ _ | vcvti _ _ => exact nextWf_floatOp h
  | vcvtEnc _ | vcvtDec _ => exact nextWf_slotOp h
  | ldsc _ => exact nextWf_execLdsc h
  | pref _ => exact nextWf_execPref h
  | baraw _ => exact nextWf_execBaraw h
  | lockW _ => exact nextWf_execLockW h
  | mma _ _ _ => exact nextWf_execMma h
  | mmag _ _ _ => exact nextWf_execMmag h
  | tld _ => exact nextWf_execTld h
  | tst _ => exact nextWf_execTst h
  | tmov _ => exact nextWf_execTmov h
  | trow _ _ => exact nextWf_execTrow h
  | tcommit _ => exact nextWf_execTcommit h
  | bmv _ _ _ => exact nextWf_execBmv h
  | fupd _ | fdwn _ => exact nextWf_sweepIssue h
  | pendingDelivery _ _ | lateScalarResult _ _ _ | ldscByteLanding _ _ | jobStart _ _ _ | jobRetire _ _ _
   | jobFault _ _ _ | tileEngineDone _ _ | factorSweepRetire _ _ | watchFire _ _ | waitTimeout _ _
   | spawnSlotTimeout _ _ | timerFire _ _ | trapEntry _ _ | controlIntervalBoundary _ | taskAdmit _ _
   | droopStretchEnd _ | droopHalvingEnd _ | contextKill _ | killHorizon _ | watchdog _ _ | freezeVaults _ _ _
   | freezeToken _ | gapRecord _ | barrierFold _ _ | censusMerge _ | queueSlotMap _ | packetStart _
   | indirectDimRead _ | blockPlace _ | trackerEntryFree _ _ | wsfillDone _ | accessPerformed _ _ _ | pageWalkDone _ _
   | bankComputeDone _ _ | waitsigConditionHolds _ | droopTrip _ | preemptRequest _ _ | preemptImageCaptured _
   | atomicReplyTimeout _ _ _ | contextRestore _ | retentionEntry _ | retentionExit _ _ | softError _ _
   | refreshWindow _ _ | tokenPull _ _ _ | tokenSpill _ _ _ | backInvalidate _ _ | doorbellHostWrite _ _
   | functionReady _ | uncontainedHardwareError _ | faultNotice | capsuleAssembled | capsuleNorSummary | epochRecord
   | firmwareBoot => exact nextWf_happen h (by simp [h])
  | qeLdp _ | qeLdi _ | qeMov _ | qeAdd _ | qeAddi _ | qeSub _ | qeAnd _ | qeOr _ | qeShl _ | qeShr _ => exact nextWf_qeSet h
  | qeLdw _ => simp [execQeLdw, h]
  | qeStw _ => exact nextWf_execQeStw h
  | qeBeq _ | qeBne _ | qeBltu _ | qeBgeu _ | qeJmpf _ => exact nextWf_qeJump h
  | qeLoop _ => simp [execQeLoop, h]
  | qeAdvance _ => simp [execQeAdvance, h]
  | qeFence _ => simp [execQeFence, h]
  | qeWaitsig _ => exact nextWf_execQeWaitsig h
  | qeLaunch _ => exact nextWf_execQeLaunch h
  | qeLaunchp _ => exact nextWf_execQeLaunchp h
  | qeSignal _ => exact nextWf_execQeSignal h
  | partitionCommit _ => exact nextWf_execPartitionCommit h
  | registerWrite _ _ _ => exact nextWf_execRegisterWrite h
  | infoCmd _ => exact nextWf_execInfoCmd h
  | norlist _ => exact nextWf_execNorlist h
  | ctxset _ _ _ => exact nextWf_execCtxset h
  | mapPage _ _ _ _ => exact nextWf_execMapPage h
  | unmapPage _ _ _ => exact nextWf_execUnmapPage h
  | qreg _ _ _ => exact nextWf_execQreg h
  | qdereg _ _ _ => exact nextWf_execQdereg h
  | wsfill _ _ _ _ _ => exact nextWf_execWsfill h
  | attest _ _ => exact nextWf_execAttest h
  | fwstage _ _ => exact nextWf_execFwstage h
  | fwcommit _ _ => exact nextWf_execFwcommit h
  | caplist _ => exact nextWf_execCaplist h
  | errread _ => exact nextWf_execErrread h
  | capview _ _ _ _ => exact nextWf_execCapview h
  | capread _ _ _ => exact nextWf_execCapread h
  | caprel _ _ => exact nextWf_execCaprel h
  | capfreeze _ => exact nextWf_execCapfreeze h
  | cklog _ _ _ _ => exact nextWf_execCklog h
  | censusCmd _ _ _ _ => exact nextWf_execCensusCmd h
  | fnote _ _ => exact nextWf_execFnote h
  | deviceReset => simp [execDeviceReset, h]
  | coldPowerOn => exact nextWf_execColdPowerOn h

end Sys2Proof.Machine
end

section
/-!
PROOFS. Every step keeps memory in its canonical form (13 R203, log 2): the attempt of a strand, the queue engine's operation, the
mailbox server, what the agenda names, and the end of the cycle.
-/
namespace Sys2Proof.Machine

section
variable {s : State} (h : Memory.wf s.mem = true)
include h

@[simp] theorem wf_illegalState {ctx n : Nat} : Memory.wf (illegalState s ctx n).mem = true :=
  wf_foldl_state (fun s p h => wf_hubStore h) _ (by simpa using h)

@[simp] theorem wf_illegalWord {m : Me} {word : Nat} : Memory.wf (illegalWord s m word).mem = true := by
  unfold illegalWord
  dsimp only
  (repeat' split) <;> simp [h]

@[simp] theorem someWf_boundaryTrap {m : Me} : SomeWf (boundaryTrap s m) := by
  unfold boundaryTrap
  split
  · simp
  · split
    · simp [h]
    · split
      · simp
      · split
        · simp [h]
        · exact someWf_or (someWf_timerFires h) (by simp [h])

@[simp] theorem wf_fetchParity {m : Me} {pa : Nat} : Memory.wf (fetchParity s m pa).mem = true := by
  simp [fetchParity, h]

@[simp] theorem wf_hitComparator {m : Me} {i op : Nat} : Memory.wf (hitComparator s m i op).mem = true := by
  simp [hitComparator, h]

@[simp] theorem someWf_fetchWait {m : Me} : SomeWf (fetchWait s m) := by
  unfold fetchWait
  dsimp only
  (repeat' split) <;> simp [h]

@[simp] theorem fetchedWf_fetchSlot {m : Me} : FetchedWf (fetchSlot s m) := by
  unfold fetchSlot
  dsimp only
  split
  · rename_i hw
    exact someWf_fetchWait h _ hw
  · rw [fetchedWf_ite]
    refine ⟨fun _ => wf_raise h, fun _ => ?_⟩
    split
    · exact wf_raise (by simpa using h)
    · exact wf_fatal h
    · rw [fetchedWf_ite]
      refine ⟨fun _ => wf_fetchParity h, fun _ => ?_⟩
      split
      · exact wf_hitComparator h
      · trivial

@[simp] theorem someWf_illegalIssues {c k : Nat} : SomeWf (illegalIssues c k s) := by
  simp only [illegalIssues, someWf_bind, someWf_ite, someWf_none]
  intros
  (repeat' split) <;> simp [h]

@[simp] theorem someWf_runDue {d : Due} : SomeWf (runDue s d) := by
  unfold runDue
  split <;> simp [h]

@[simp] theorem someWf_tilePrereads {c k addr bytes : Nat} : SomeWf (tilePrereads c k addr bytes s) := by
  simp [tilePrereads, h]

end

@[simp] theorem nextWf_attemptSlot {s : State} {m : Me} (h : Memory.wf s.mem = true) : NextWf (attemptSlot s m) := by
  have hf := fetchedWf_fetchSlot (m := m) h
  unfold attemptSlot
  split
  · simp_all
  · split
    · simp [h]
    · exact nextWf_settleCur (nextWf_exec _ h)

/-- Where the second slot of a pair waits, what is left is the state before the pair or what that slot alone leaves of it. -/
@[simp] theorem wf_secondWaits {s : State} {m : Me} {r : Stall} (h : Memory.wf s.mem = true) :
    Memory.wf (secondWaits s m r).mem = true := by
  unfold secondWaits
  dsimp only
  split
  · simpa using h
  · split
    · rename_i ht
      have ht := nextWf_attemptSlot (by simpa using h) _ ht
      split
      · split <;> simp [h, ht]
      · split <;> simp [h, ht]
      · simpa using h
    · simpa using h

theorem pairSecond_mem {s s1 t : State} {m n : Me} (h : pairSecond s s1 m = some (t, n)) : t.mem = s1.mem := by
  unfold pairSecond at h
  split at h
  · cases h
  · obtain ⟨_, -, hn⟩ := Option.map_eq_some_iff.mp h
    obtain ⟨rfl, -⟩ := Prod.mk.inj hn
    simp

/-- A pair of slots: the second is attempted in the state that the first leaves. -/
@[simp] theorem nextWf_attemptPair {s : State} {m : Me} (h : Memory.wf s.mem = true) : NextWf (attemptPair s m) := by
  unfold attemptPair
  split
  · rename_i s1 h1
    have h1 := nextWf_attemptSlot h _ h1
    split
    · simpa using h1
    · rename_i s1' n hp
      have h1' : Memory.wf s1'.mem = true := by rw [pairSecond_mem hp]; exact h1
      have hs := nextWf_attemptSlot (m := n) h1'
      split
      · rename_i s2 h2
        have h2 := hs _ h2
        split <;> simp [h, h2]
      · exact hs
  · exact nextWf_attemptSlot h

@[simp] theorem nextWf_attempt {s : State} {c k : Nat} (h : Memory.wf s.mem = true) : NextWf (attempt s c k) := by
  unfold attempt
  split
  · exact (nextWf_next s).mpr h
  · split
    · simpa using h
    · split
      · rename_i ht
        simpa using someWf_boundaryTrap h _ ht
      · exact nextWf_attemptPair h

@[simp] theorem nextWf_issueStep {s : State} {c k : Nat} (h : Memory.wf s.mem = true) : NextWf (issueStep s c k) := by
  have ha := nextWf_attempt (c := c) (k := k) h
  unfold issueStep
  dsimp only
  split
  · simpa using h
  · split
    · split
      · simpa using h
      · split
        · rename_i ht
          simpa using ha _ ht
        · exact ha
    · exact ha

/-! ### The queue engine and the mailbox server -/

/-- What a command word names, where it names a command, keeps the form from the state `s`. -/
def CommandWf (s : State) (o : Option (State → Host.Outcome State Fault Refusal)) : Prop := ∀ k, o = some k → NextWf (k s)

section
variable {s : State}

@[simp] theorem commandWf_none : CommandWf s none := by simp [CommandWf]

@[simp] theorem commandWf_some (k : State → Host.Outcome State Fault Refusal) : CommandWf s (some k) ↔ NextWf (k s) := by
  simp [CommandWf]

@[simp] theorem commandWf_ite (c : Prop) [Decidable c] (o p : Option (State → Host.Outcome State Fault Refusal)) :
    CommandWf s (if c then o else p) ↔ (c → CommandWf s o) ∧ (¬ c → CommandWf s p) := by
  split <;> simp_all

@[simp] theorem commandWf_bind {α : Type} (o : Option α) (f : α → Option (State → Host.Outcome State Fault Refusal)) :
    CommandWf s (o.bind f) ↔ ∀ x, o = some x → CommandWf s (f x) := by
  cases o <;> simp

@[simp] theorem commandWf_map {α : Type} (o : Option α) (f : α → State → Host.Outcome State Fault Refusal) :
    CommandWf s (o.map f) ↔ ∀ x, o = some x → NextWf (f x s) := by
  cases o <;> simp

/-- Each command word, by the lemma of its command. -/
theorem commandWf_commandOf (h : Memory.wf s.mem = true) (hd : CmdHdr) (code : Nat) (bs : List Byte) :
    CommandWf s (commandOf hd code bs) := by
  unfold commandOf
  dsimp only
  split <;>
    simp only [commandWf_ite, commandWf_bind, commandWf_map, commandWf_some, commandWf_none, implies_true, and_true]
  · exact fun _ => nextWf_execInfoCmd h
  · exact fun _ c _ d _ => nextWf_execCtxset h
  · exact fun _ c _ => nextWf_execMapPage h
  · exact fun _ c _ => nextWf_execUnmapPage h
  · exact fun _ c _ => nextWf_execQreg h
  · exact fun _ c _ => nextWf_execQdereg h
  · exact fun _ => nextWf_execWsfill h
  · exact fun _ => nextWf_execAttest h
  · exact fun _ => nextWf_execFwstage h
  · exact fun _ => nextWf_execFwcommit h
  · exact fun _ => nextWf_execCaplist h
  · exact fun _ cs _ => nextWf_execCapview h
  · exact fun _ => nextWf_execCapread h
  · exact fun _ => nextWf_execCaprel h
  · exact fun _ => nextWf_execCapfreeze h
  · exact fun _ => nextWf_execNorlist h
  · exact fun _ c _ => nextWf_execCklog h
  · exact fun _ c _ => nextWf_execCensusCmd h
  · exact fun _ => nextWf_execErrread h
  · exact fun _ => nextWf_execFnote h
end

@[simp] theorem nextWf_engineStep {s : State} {q : Nat} (h : Memory.wf s.mem = true) : NextWf (engineStep s q) := by
  unfold engineStep
  split
  · simpa using h
  · split
    · simpa using h
    · split
      · simp [h]
      · split
        · simp [h]
        · exact nextWf_settleCur (nextWf_exec _ h)

@[simp] theorem nextWf_serverStep {s : State} (h : Memory.wf s.mem = true) : NextWf (serverStep s) := by
  unfold serverStep
  split
  · simpa using h
  · dsimp only
    split
    · simp [h]
    · split
      · simp [h]
      · split
        · simp [h]
        · rename_i hk
          split
          · rename_i ht
            simp [commandWf_commandOf h _ _ _ _ hk _ ht]
          · exact commandWf_commandOf h _ _ _ _ hk

/-! ### The step -/

@[simp] theorem nextWf_performUp {s : State} {n : NextUp} (h : Memory.wf s.mem = true) : NextWf (performUp s n) := by
  unfold performUp
  split <;> simp [h]

theorem nextWf_clearGiven {o : Host.Outcome State Fault Refusal} (h : NextWf o) : NextWf (clearGiven o) := by
  cases o with
  | next t => simpa [clearGiven] using h
  | fault _ | refused _ => exact h

theorem nextWf_perform {s : State} (x : Choice) (h : Memory.wf s.mem = true) : NextWf (perform s x) := by
  cases x with
  | issue c k => exact nextWf_issueStep h
  | engine q => exact nextWf_engineStep h
  | event i => exact nextWf_settleCur (nextWf_exec i h)
  | server => exact nextWf_serverStep h
  | jobPart c b t p => exact nextWf_happen h (someWf_jobPart h)
  | bankPart c id p => exact nextWf_happen h (someWf_bankPart h)
  | early c k id => exact nextWf_happen h (someWf_accessEarly h)
  | split c k id => exact nextWf_happen h (someWf_accessSplits h)
  | land c id t => exact nextWf_happen h (someWf_landThread h)
  | token u k => exact nextWf_happen h (someWf_tokenComes h)
  | norBegins => exact nextWf_happen h (someWf_norBegins h)
  | part c k n => exact nextWf_clearGiven (nextWf_issueStep h)
  | ahead c k => exact nextWf_clearGiven (nextWf_issueStep h)
  | preread c k a n => exact nextWf_happen h (someWf_tilePrereads h)
  | arrive x y reply => exact nextWf_happen h (someWf_tokenArrives h)
  | illegal c k => exact nextWf_happen h (someWf_illegalIssues h)

/-- What a step runs: the choice that the agenda names, or what comes next without one. -/
theorem nextWf_stepOf {s : State} (h : Memory.wf s.mem = true) : NextWf (stepOf s) := by
  unfold stepOf
  split
  · exact nextWf_perform _ h
  · exact nextWf_performUp h

@[simp] theorem endCycle_mem (s t : State) : (endCycle s t).mem = t.mem := by
  simp [endCycle]

theorem nextWf_afterStep (s : State) {o : Host.Outcome State Fault Refusal} (h : NextWf o) : NextWf (afterStep s o) := by
  cases o with
  | next t => simpa [afterStep] using h
  | fault _ | refused _ => exact h

theorem nextWf_step {s : State} (h : Memory.wf s.mem = true) : NextWf (step s) := nextWf_afterStep s (nextWf_stepOf h)

/-- Settles O58: every constructor of the instruction type and everything else that a step runs keeps the form. -/
theorem memoryFormKept : Obligations.MemoryFormKept := fun _ t h ht => nextWf_step h t ht

end Sys2Proof.Machine
end

section
/-!
PROOFS. The device and its host (25 R325-R330, 24 R311-R313, 26 R347, 29 R369-R372): refreshes, tokens and cellars, snoops, doorbell
words, the READY bits, the partition table, the resets and the choice of the firmware.
-/
namespace Sys2Proof.Machine

section
variable {s : State}

/-! ### Refreshes (13 R208) and tokens (25 R325) -/

theorem windowOpens_refreshing {die group : Nat} (hdie : die < 4) (hgroup : group < 64) (h : refreshing s die group = true) :
    windowOpens die group s = some s := by
  simp [windowOpens, hdie.not_ge, hgroup.not_ge, h]

/-- The newest token of a way is one of that way. -/
theorem newestToken_way {a b : Nat} {reply : Bool} {tok : Token} (h : newestToken s a b reply = some tok) :
    tok.sender = a ∧ tok.receiver = b ∧ tok.reply = reply := by
  simp only [newestToken] at h
  split at h
  · cases h
  · have hon := (List.mem_filter.mp (List.mem_of_getLast? h)).2
    simpa [and_assoc] using hon

/-- A notice that is posted stands for its way and counts at least the token posted. -/
theorem postNotice_posted (l : List Notice) (t : Token) : ∃ n ∈ postNotice l t, n.of t = true ∧ 1 ≤ n.count := by
  unfold postNotice
  split
  · rename_i h
    obtain ⟨n, hn, hof⟩ := List.any_eq_true.mp h
    exact ⟨{ n with count := n.count + 1 }, List.mem_map.mpr ⟨n, hn, by rw [if_pos hof]⟩, hof, Nat.le_add_left ..⟩
  · exact ⟨_, List.mem_append_right _ (List.mem_singleton_self _), by simp [Notice.of], Nat.le_refl _⟩

/-- A spill puts the token last in the cellar and posts its notice; beyond that it records. -/
theorem spill_eq (s : State) (t : Token) : spill s t =
    { s with cellar := s.cellar ++ [t], notices := postNotice s.notices t, vaults := (spill s t).vaults } :=
  record_eq ..

/-! ### Doorbell words (25 R328) -/

theorem bellAddress_word (word : Nat) : bellAddress word / 8 * 8 = bellAddress word := by
  unfold bellAddress
  omega

theorem hostRings_of_lt {word : Nat} (h : word < 2 ^ 20) (value : Word) :
    hostRings word value s = some (ringBell s (bellAddress word) value.toNat) :=
  if_neg h.not_ge

/-- The greater of two words. -/
theorem ofNat_max_toNat (a b : Word) : BitVec.ofNat 64 (max a.toNat b.toNat) = if a.ult b then b else a := by
  simp only [BitVec.ult, decide_eq_true_eq]
  split
  · rename_i h
    rw [Nat.max_eq_right h.le, BitVec.ofNat_toNat, BitVec.setWidth_eq]
  · rename_i h
    rw [Nat.max_eq_left (not_lt.mp h), BitVec.ofNat_toNat, BitVec.setWidth_eq]

/-- A ring of a word without a record is dropped. -/
theorem ringBell_unbound {word : Nat} (h : queueOfBell s (bellAddress word) = none) (value : Nat) :
    ringBell s (bellAddress word) value = s := by
  rw [ringBell_eq, bellAddress_word, h]

/-- A ring of a word with a record leaves there the greater of the tail and the value. -/
theorem ringBell_bound {word : Nat} {x : Nat × Queue} (h : queueOfBell s (bellAddress word) = some x) (value : Word) :
    (ringBell s (bellAddress word) value.toNat).bells.get? (bellAddress word) =
      some (if ((s.bells.get? (bellAddress word)).getD 0).ult value then value else (s.bells.get? (bellAddress word)).getD 0) := by
  rw [← bellAddress_word] at h
  rw [(ringBell_hubFrame h).bells, bellAddress_word, ← ofNat_max_toNat]
  exact SMap.get?_set_self ..

/-- A byte of the doorbell window is that byte of the word. -/
theorem barByte_bell {word i : Nat} (hword : word < 2 ^ 20) (hi : i < 8) : barByte s (0x800000 + 8 * word + i) =
    BitVec.ofNat 8 (((s.bells.get? (bellAddress word)).getD 0).toNat / 2 ^ (8 * i)) := by
  have haddr : 12 * 2 ^ 48 + (0x800000 + 8 * word + i - 0x800000) = bellAddress word + i := by
    unfold bellAddress
    omega
  have hbase : (bellAddress word + i) / 8 * 8 = bellAddress word := by
    unfold bellAddress
    omega
  have hplace : (bellAddress word + i) % 8 = i := by
    unfold bellAddress
    omega
  unfold barByte
  rw [if_neg (by omega), if_neg (by omega), if_neg (by simp; omega), if_neg (by simp; omega), if_neg (by simp; omega),
    if_neg (by simp; omega), if_pos (by simp; omega), haddr]
  simp [bellBytes, upto, hbase, hplace]

/-- A host read of a doorbell word finds its tail. -/
theorem barRead_bell {word : Nat} (h : word < 2 ^ 20) :
    leNat (barRead s (0x800000 + 8 * word) 8) = ((s.bells.get? (bellAddress word)).getD 0).toNat := by
  have hbytes : barRead s (0x800000 + 8 * word) 8 = leBytes 8 ((s.bells.get? (bellAddress word)).getD 0).toNat := by
    rw [leBytes_eq_map]
    exact List.map_congr_left fun i hi => barByte_bell h (List.mem_range.mp hi)
  rw [hbytes, leNat_leBytes, Nat.mod_eq_of_lt (BitVec.isLt _)]

/-! ### Partitions (24 R311-R313) -/

theorem find?_staged_none (h : ∀ c, c < 384 → stagedStatus s c = 0) :
    ((upto 384).find? fun c => stagedStatus s c != 0) = none :=
  List.find?_eq_none.mpr fun c hc => by simp [h c (List.mem_range.mp hc)]

/-- The first cluster that a commit refuses is the lowest with a status. -/
theorem find?_staged_some {c : Nat} (hc : c < 384) (h : stagedStatus s c ≠ 0) (hlow : ∀ d, d < c → stagedStatus s d = 0) :
    ((upto 384).find? fun c => stagedStatus s c != 0) = some c := by
  refine List.find?_range_eq_some.mpr ⟨by simpa using h, List.mem_range.mpr hc, fun d hd => by simp [hlow d hd]⟩

/-- The machine with one entry of the staged table written. -/
def State.stage (s : State) (c : Nat) (e : Word) : State := { s with staged := s.staged.setD (BitVec.ofNat 64 (c / 96)) c e }

theorem stage_stagedEntry_self (c : Nat) (e : Word) : (s.stage c e).stagedEntry c = e := by
  unfold State.stage State.stagedEntry SMap.setD
  split
  · rename_i h
    simp [h]
  · simp

theorem stage_stagedEntry_ne {c d : Nat} (h : d ≠ c) (e : Word) : (s.stage c e).stagedEntry d = s.stagedEntry d := by
  unfold State.stage State.stagedEntry SMap.setD
  split
  · simp [SMap.get?_del_ne _ h]
  · simp [SMap.get?_set_ne _ _ h]

/-- An aligned write of eight bytes is not malformed. -/
theorem badWrite_word {offset : Nat} (h : offset % 8 = 0) : badWrite offset 8 = false := by
  simp [badWrite, h]
  omega

theorem dataWord_leBytes (value : Nat) : dataWord (leBytes 8 value) = BitVec.ofNat 64 value := by
  rw [dataWord, leNat_leBytes]
  exact BitVec.eq_of_toNat_eq (by simp)

/-- A write of a word to the window of the staged table. -/
theorem execRegisterWrite_staged {c : Nat} (hc : c < 384) (value : Nat) :
    execRegisterWrite (0x51000 + 8 * c) 8 value s = .next (s.stage c (BitVec.ofNat 64 value &&& 0x303)) := by
  have hat : 0x51000 + 8 * c - 0x50000 = 0x1000 + 8 * c := by omega
  have hentry : (0x1000 + 8 * c - 0x1000) / 8 = c := by omega
  unfold execRegisterWrite
  dsimp only
  rw [if_neg (by omega), if_neg (by omega), if_neg (by simp; omega), if_pos (by simp; omega), hat]
  unfold partitionWrite
  rw [length_leBytes, if_neg (by simp [badWrite_word (show (0x1000 + 8 * c) % 8 = 0 by omega)]), if_neg (by simp),
    if_pos (by simp; omega), hentry, dataWord_leBytes]
  rfl

/-! ### READY, resets and the boot (26 R347, 29 R369-R372) -/

theorem functionReadies_of {bit : Nat} (hbit : bit < 540) (hready : s.ready.getLsbD bit = false) (hdead : s.dead = false)
    (hafter : readyAfter s bit = true) : functionReadies bit s = some { s with ready := s.ready ||| BitVec.twoPow 540 bit } := by
  simp [functionReadies, hbit.not_ge, hready, hdead, hafter]

/-- A byte of pooled memory outlasts the loss of everything that is not pooled. -/
theorem readByte_pooledCells (m : List Host.Cell) {a : Nat} (h : isPooled a = true) :
    readByte (pooledCells m) a = readByte m a := by
  induction m with
  | nil => rfl
  | cons p m ih =>
    obtain ⟨k, v⟩ := p
    by_cases hk : isPooled k = true
    · rw [pooledCells, List.filter_cons_of_pos (by simpa using hk), readByte, readByte]
      split
      · rfl
      · exact ih
    · have hne : k ≠ a := fun hka => hk (hka ▸ h)
      rw [pooledCells, List.filter_cons_of_neg (by simpa using hk), readByte, if_neg hne]
      exact ih

theorem firmwareBoots_of (h : s.booted = false) :
    firmwareBoots s = some { s with booted := true, running := bootSlot s, boot := (s.boot + 1) % 2 ^ 32 } := by
  simp [firmwareBoots, h]

theorem bootSlot_both (ha : imageValid s.minSvn s.fwA = true) (hb : imageValid s.minSvn s.fwB = true) :
    bootSlot s = some (decide (imageNat s.fwA 4 4 < imageNat s.fwB 4 4)) := by
  rw [bootSlot, ha, hb]

theorem bootSlot_first (ha : imageValid s.minSvn s.fwA = true) (hb : imageValid s.minSvn s.fwB = false) :
    bootSlot s = some false := by
  rw [bootSlot, ha, hb]

theorem bootSlot_second (ha : imageValid s.minSvn s.fwA = false) (hb : imageValid s.minSvn s.fwB = true) :
    bootSlot s = some true := by
  rw [bootSlot, ha, hb]

theorem bootSlot_neither (ha : imageValid s.minSvn s.fwA = false) (hb : imageValid s.minSvn s.fwB = false) :
    bootSlot s = none := by
  rw [bootSlot, ha, hb]

/-! ### The events -/

theorem exec_tokenSpill_newest {a b : Nat} {reply : Bool} {tok : Token} (hne : a ≠ b) (h : newestToken s a b reply = some tok) :
    ∃ t, exec (.tokenSpill a b reply) s = .next t ∧ t.cellar = s.cellar ++ [tok] ∧ t.clusters = s.clusters ∧
      t.links = s.links ∧ SameBytes s t ∧ ∃ n ∈ t.notices, n.sender = a ∧ n.receiver = b ∧ n.reply = reply ∧ 1 ≤ n.count := by
  obtain ⟨hsender, hreceiver, hreply⟩ := newestToken_way h
  obtain ⟨n, hn, hof, hcount⟩ := postNotice_posted s.notices tok
  have hway : n.sender = a ∧ n.receiver = b ∧ n.reply = reply := by
    simpa [Notice.of, hsender, hreceiver, hreply, and_assoc] using hof
  refine ⟨spill s tok, happen_some (by simp [tokenSpills, hne, h]), ?_⟩
  rw [spill_eq]
  exact ⟨rfl, rfl, rfl, fun _ => rfl, n, hn, hway.1, hway.2.1, hway.2.2, hcount⟩

theorem exec_tokenPull_oldest {a b : Nat} {reply : Bool} {tok : Token}
    (h : s.cellar.find? (fun x => x.sender == a && x.receiver == b && x.reply == reply) = some tok) :
    exec (.tokenPull a b reply) s = .next { s with cellar := s.cellar.erase tok, notices := takeNotice s.notices tok } :=
  happen_some (by rw [tokenPulls, h, Option.map_some])

theorem exec_backInvalidate_line {line : Nat} {bs : List Byte} (hline : 128 * line < s.poolsz) (hbs : bs.length ≤ 128)
    (hwf : Memory.wf s.mem = true) :
    ∃ t, exec (.backInvalidate line bs) s = .next t ∧ line ∉ t.sharedLines ∧
      (∀ i v, bs[i]? = some v → readByte t.mem (128 * line + i) = v) ∧
      ∀ x, x < 128 * line ∨ 128 * line + bs.length ≤ x → readByte t.mem x = readByte s.mem x :=
  ⟨_, happen_some (if_neg (by simp; omega)), by simp, fun _ _ hv => readByte_writeBytes _ _ hwf hv,
    fun _ hx => readByte_writeBytes_apart _ _ _ hx⟩

theorem exec_doorbellHostWrite_word {word : Nat} (h : word < 2 ^ 20) (value : Word) :
    exec (.doorbellHostWrite word value) s = .next (ringBell s (bellAddress word) value.toNat) :=
  happen_some (hostRings_of_lt h value)

theorem exec_partitionCommit_whole (hp : s.pstat.getLsbD 8 = true) (h : ∀ c, c < 384 → stagedStatus s c = 0) :
    exec (.partitionCommit 1) s = .next { s with active := s.staged, pstat := 0x100 } := by
  rw [exec_partitionCommit, execPartitionCommit, if_neg (by rw [hp]; decide), find?_staged_none h]
  rfl

theorem exec_partitionCommit_refused {c : Nat} (hp : s.pstat.getLsbD 8 = true) (hc : c < 384) (h : stagedStatus s c ≠ 0)
    (hlow : ∀ d, d < c → stagedStatus s d = 0) :
    exec (.partitionCommit 1) s = .next { s with pstat := payload [(8, stagedStatus s c), (1, 1), (9, c)] } := by
  rw [exec_partitionCommit, execPartitionCommit, if_neg (by rw [hp]; decide), find?_staged_some hc h hlow]
  rfl

end

/-- Settles O51: each event of the device by the state that it leaves. -/
theorem deviceEvents : Obligations.DeviceEvents := by
  intro s
  refine ⟨fun die group hdie hgroup h => happen_some (windowOpens_refreshing hdie hgroup h),
    fun a b reply tok => ⟨exec_tokenSpill_newest, exec_tokenPull_oldest⟩, fun line bs => exec_backInvalidate_line,
    fun word value hword => ⟨fun h => ?_, fun x h => ⟨_, exec_doorbellHostWrite_word hword value, ringBell_bound h value⟩,
      barRead_bell hword⟩,
    fun bit hbit hready hdead hafter => happen_some (functionReadies_of hbit hready hdead hafter),
    fun hp => ⟨exec_partitionCommit_whole hp, fun c hc => exec_partitionCommit_refused hp hc⟩,
    fun c value hc => ⟨_, execRegisterWrite_staged hc value, stage_stagedEntry_self .., fun d hd => stage_stagedEntry_ne hd _, rfl⟩,
    ⟨_, rfl, rfl, rfl, rfl, rfl, rfl, rfl, rfl, rfl, rfl, rfl, rfl⟩,
    ⟨_, rfl, rfl, rfl, rfl, rfl, rfl, rfl, rfl, fun a => readByte_pooledCells s.mem⟩,
    fun h => ⟨_, happen_some (firmwareBoots_of h), rfl, rfl, bootSlot_both, bootSlot_first, bootSlot_second, bootSlot_neither⟩⟩
  rw [exec_doorbellHostWrite_word hword, ringBell_unbound h]

end Sys2Proof.Machine
end

section
/-!
PROOFS. The entry of a handler for what an instruction raises: the trap record and the frame (15 R241-R243).
-/
namespace Sys2Proof.Machine

/-- The trap of a cause that the instruction at the strand's PC raises (15 R241, R242). -/
def Me.raised (m : Me) (s : State) (cause : Nat) (info : Word) : Trap :=
  { cause := cause, info := info, pc := m.st.pc, next := successor m.st.pc, skip := skipOf cause, async := false
    pair := m.paired s, bpinh := false }

/-- Below 0x40 and outside a handler a cause is a trap of the strand. -/
theorem raise_eq_takeTrap {s : State} {m : Me} {cause op : Nat} {info : Word} (hc : cause < 0x40) (hh : m.inH = false) :
    raise s m cause info op = takeTrap s m.c m.k (m.raised s cause info) := by
  unfold raise
  rw [if_neg (by omega), if_neg (by simp [hh])]
  rfl

/-- A trap writes none of the scalars. -/
@[simp] theorem Regs.trapped_get (r : Regs) (k : Nat) (hl0 : TSet) (tstate : Word) (t : Trap) (n : SReg) :
    (r.trapped k hl0 tstate t).get n = r.get n := rfl

/-- TSTATE of what an instruction raises: ASYNC and BPINH are 0 (15 R241). -/
theorem tstateOf_raised (st : Strand) (s : State) (m : Me) (cause : Nat) (info : Word) :
    tstateOf st (m.raised s cause info) = payload [(1, bit01 (skipOf cause)), (1, 0), (1, bit01 (m.paired s)), (1, 0), (4, 0),
      (4, st.stack.depth), (4, 0), (4, st.stack.limit)] := rfl

/-- Settles O13: the raised trap enters its handler at once, and each clause is read off the strand, the cluster and the memory of
the state in which the handler runs. -/
theorem trapEntry : Obligations.TrapEntry := by
  unfold Obligations.TrapEntry
  intro s m cause op info hm hh hc hfree hnone hv hx
  rw [raise_eq_takeTrap hc hh, takeTrap_eq _ (me?_meAt hm) hfree hnone hv hx]
  refine ⟨enteredStrand m (m.raised s cause info), enteredState_strand? .., rfl, rfl, rfl, rfl, rfl, rfl, rfl,
    tstateOf_raised .., Regs.trapped_get _ _ _ _ _, rfl, ?handler, ?stack, ?latch, fun a => ?bytes⟩
  case handler => rw [enteredState_cluster]
  case stack => rw [enteredState_cluster]
  case latch => rw [enteredState_cluster]
  case bytes => rw [enteredState_mem, note_mem]

end Sys2Proof.Machine
end

section
/-!
PROOFS. The state after reset (29 R369, R373, R377, 24 R313, R315).
-/
namespace Sys2Proof.Machine

/-- Settles O59: the fields are those that the reset state is written with, and an empty memory lists nothing. -/
theorem resetState : Obligations.ResetState := by
  unfold Obligations.ResetState
  exact ⟨rfl, rfl, rfl, rfl, rfl, by decide, fun _ => ⟨rfl, rfl⟩, fun _ => rfl, rfl, rfl, rfl, rfl, rfl, rfl⟩

end Sys2Proof.Machine
end

section
/-!
PROOFS. What the hub and the host alone hold (24 R313, R315, 26 R348, 29 R369-R373): no update of the strands, the engines or the
queues writes it.
-/
namespace Sys2Proof.Machine

/-- The state that is the hub's and the host's alone: the partition tables with their status, the ceilings, READY, the firmware
slots, the running slot, the security version and the count of boots, NOR, the device's number, the pool's size and the mailbox. -/
structure HubPart where
  active : SMap Word
  staged : SMap Word
  pstat : Word
  ceil : Vector Nat 4
  ready : BitVec 540
  fwA : SMap Byte
  fwB : SMap Byte
  running : Option Bool
  minSvn : Nat
  boot : Nat
  nor : List (Option (List Byte))
  serialNo : List Byte
  poolsz : Nat
  page0 : MboxPage
  page1 : MboxPage
  server : List Request

/-- The hub's part of the state. -/
def State.hub (s : State) : HubPart :=
  ⟨s.active, s.staged, s.pstat, s.ceil, s.ready, s.fwA, s.fwB, s.running, s.minSvn, s.boot, s.nor, s.serialNo, s.poolsz, s.page0,
    s.page1, s.server⟩

section
variable (s : State) (time : Word) (mem : List Host.Cell) (ports : List Nat) (clusters : SMap Cluster) (ctxs : SMap Context)
  (code : List CodeObject) (bells : SMap Word) (queues : SMap Queue) (grids : SMap Grid) (lastPlaced : Nat) (approved : List Nat)
  (mapCounts : SMap Nat) (dtlb : SMap (List TlbEntry)) (locks : SMap Lock) (sharedLines : List Nat) (fills : List Fill)
  (vaults : SMap Vault) (freeze : Option FreezeState) (capsule : Option Capsule) (summaries : List Capsule) (views : List View)
  (norOpen : Bool) (norDue : List Capsule) (capno nextIndex reserved idNext idReserved : Nat) (capWindow attWindow : List Byte)
  (fwWindow : SMap Byte) (booted : Bool) (errsum norErr : Word) (fnote : Nat) (kills : List Kill) (killDue : List Nat)
  (links cellar : List Token) (notices : List Notice) (debts : List Debt) (poison : List ErrSite) (phases : Vector Nat 4)
  (dead : Bool) (unmapping : Option Unmapping) (upAt : Word) (fresh freeCount intervals epochs : Nat) (agenda : List Choice)
  (cur : Option (Nat × Nat)) (curQ cap : Option Nat) (ahead : Bool)

/-- An update of the other fields, whichever they are, leaves the hub's part as it is. -/
@[simp] theorem State.hub_update : State.hub { s with
    time, mem, ports, clusters, ctxs, code, bells, queues, grids, lastPlaced, approved, mapCounts, dtlb, locks, sharedLines, fills,
    vaults, freeze, capsule, summaries, views, norOpen, norDue, capno, nextIndex, reserved, idNext, idReserved, capWindow, attWindow,
    fwWindow, booted, errsum, norErr, fnote, kills, killDue, links, cellar, notices, debts, poison, phases, dead, unmapping, upAt,
    fresh, freeCount, intervals, epochs, agenda, cur, curQ, cap, ahead } = s.hub := rfl

end

section
variable (s : State)

@[simp] theorem State.setCluster_hub (c : Nat) (cl : Cluster) : (s.setCluster c cl).hub = s.hub := rfl
@[simp] theorem State.modCluster_hub (c : Nat) (f : Cluster → Cluster) : (s.modCluster c f).hub = s.hub := rfl
@[simp] theorem State.setStrand_hub (c k : Nat) (st : Strand) : (s.setStrand c k st).hub = s.hub := rfl
@[simp] theorem State.modStrand_hub (c k : Nat) (f : Strand → Strand) : (s.modStrand c k f).hub = s.hub := by
  simp [State.hub]
@[simp] theorem State.setBlock_hub (c b : Nat) (bl : Block) : (s.setBlock c b bl).hub = s.hub := rfl
@[simp] theorem State.modBlock_hub (c b : Nat) (f : Block → Block) : (s.modBlock c b f).hub = s.hub := by
  simp [State.hub]
@[simp] theorem State.setCtx_hub (n : Nat) (x : Context) : (s.setCtx n x).hub = s.hub := rfl
@[simp] theorem State.modCtx_hub (n : Nat) (f : Context → Context) : (s.modCtx n f).hub = s.hub := rfl
@[simp] theorem State.modGrid_hub (g : Nat) (f : Grid → Grid) : (s.modGrid g f).hub = s.hub := rfl
@[simp] theorem State.modQueue_hub (q : Nat) (f : Queue → Queue) : (s.modQueue q f).hub = s.hub := rfl
@[simp] theorem State.setVault_hub (u : Nat) (v : Vault) : (s.setVault u v).hub = s.hub := rfl
end

@[simp] theorem record_hub (s : State) (u ty ctx slot ord : Nat) (pay : Word) : (record s u ty ctx slot ord pay).hub = s.hub := by
  unfold record
  split <;> simp

@[simp] theorem bumpErr_hub {s : State} {hi lo : Nat} : (bumpErr s hi lo).hub = s.hub := by
  unfold bumpErr
  dsimp only
  split <;> simp

/-- A fold of updates that leave the hub's part alone leaves it alone. -/
@[simp] theorem foldl_hub {α : Type} {f : State → α → State} (hf : ∀ s x, (f s x).hub = s.hub) (l : List α) (s : State) :
    (l.foldl f s).hub = s.hub := foldl_keeps hf l s

/-- The same where a fold carries the state along with something else. -/
theorem foldl_fst_hub {α β : Type} {f : State × β → α → State × β} (hf : ∀ acc x, (f acc x).1.hub = acc.1.hub) (l : List α)
    (acc : State × β) : (l.foldl f acc).1.hub = acc.1.hub := by
  induction l generalizing acc with
  | nil => rfl
  | cons x l ih => exact (ih _).trans (hf acc x)

@[simp] theorem tlbDrop_hub {s : State} {ctx lo size : Nat} : (tlbDrop s ctx lo size).hub = s.hub := by simp [tlbDrop]

@[simp] theorem healLines_hub {s : State} {pa n : Nat} : (healLines s pa n).hub = s.hub := by
  unfold healLines
  split <;> simp

@[simp] theorem shareLine_hub {s : State} {shared : Bool} {pa : Nat} : (shareLine s shared pa).hub = s.hub := by
  unfold shareLine
  split <;> simp

@[simp] theorem shareRange_hub {s : State} {shared : Bool} {pa n : Nat} : (shareRange s shared pa n).hub = s.hub := by
  unfold shareRange
  split <;> simp

@[simp] theorem hubHolds_hub {s : State} {ctx va n : Nat} : (hubHolds s ctx va n).hub = s.hub :=
  foldl_hub (fun s i => by dsimp only; split <;> simp) _ _

@[simp] theorem storeBytes_hub {s : State} {pa : Nat} {bs : List (Option Byte)} : (storeBytes s pa bs).hub = s.hub := by
  induction bs generalizing s pa with
  | nil => rfl
  | cons b bs ih =>
    refine ih.trans ?_
    (repeat' split) <;> simp

@[simp] theorem storeNat_hub {s : State} {pa n v : Nat} : (storeNat s pa n v).hub = s.hub := by simp [storeNat]

@[simp] theorem hubStore_hub {s : State} {ctx va n v : Nat} : (hubStore s ctx va n v).hub = s.hub := by
  refine (foldl_hub (fun s i => ?_) _ _).trans hubHolds_hub
  split <;> simp

@[simp] theorem mergeCensus_hub {s : State} {ctx : Nat} : (mergeCensus s ctx).hub = s.hub := by
  unfold mergeCensus
  dsimp only
  split <;> simp

@[simp] theorem signalGrid_hub {s : State} {ctx sigp status : Nat} : (signalGrid s ctx sigp status).1.hub = s.hub := by
  unfold signalGrid
  (repeat' split) <;> simp

@[simp] theorem launchRecord_hub {s : State} {kind ctx va depth status : Nat} :
    (launchRecord s kind ctx va depth status).hub = s.hub := by simp [launchRecord]

@[simp] theorem settleGrid_hub {fuel : Nat} {s : State} {g : Nat} : (settleGrid fuel s g).hub = s.hub := by
  induction fuel generalizing s g with
  | zero => rfl
  | succ n ih =>
    unfold settleGrid
    dsimp only
    (repeat' split) <;> simp [ih]

@[simp] theorem settle_hub {s : State} {g : Nat} : (settle s g).hub = s.hub := by simp [settle]

@[simp] theorem refuseSubmission_hub {s : State} {ctx va parent sigp status : Nat} :
    (refuseSubmission s ctx va parent sigp status).hub = s.hub := by simp [refuseSubmission]

@[simp] theorem retireBlock_hub {s : State} {c b : Nat} : (retireBlock s c b).hub = s.hub := by
  unfold retireBlock
  dsimp only
  (repeat' split) <;> simp

@[simp] theorem jobRecord_hub {s : State} {c kind cause : Nat} {j : Job} :
    (jobRecord s c kind cause j).hub = s.hub := by simp [jobRecord]

@[simp] theorem bumpKills_hub {s : State} : (bumpKills s).hub = s.hub := by simp [bumpKills]

@[simp] theorem closeQueue_hub {s : State} {q : Nat} : (closeQueue s q).hub = s.hub := by
  unfold closeQueue
  (repeat' split) <;> simp

@[simp] theorem lockRecord_hub {s : State} {kind : Nat} {h : Holder} {pa va : Nat} :
    (lockRecord s kind h pa va).hub = s.hub := by simp [lockRecord]

@[simp] theorem purgeRecords_hub {s : State} {ctx : Nat} : (purgeRecords s ctx).hub = s.hub := by
  refine foldl_hub (fun s p => ?_) _ _
  split
  · rfl
  · split <;> simp

@[simp] theorem endGrids_hub {s : State} {ctx status : Nat} : (endGrids s ctx status).hub = s.hub :=
  foldl_hub (fun s p => by simp) _ _

@[simp] theorem dropDebts_hub {s : State} {c : Nat} {gone : Nat → Bool} : (dropDebts s c gone).hub = s.hub := by
  unfold dropDebts
  split <;> simp

@[simp] theorem passDebts_hub {s : State} {c k : Nat} : (passDebts s c k).hub = s.hub := by
  unfold passDebts
  split <;> simp

@[simp] theorem dropKilled_hub {s : State} {ctx : Nat} {left : List (Nat × Access)} : (dropKilled s ctx left).hub = s.hub := by
  unfold dropKilled
  split <;> simp

@[simp] theorem dropReplies_hub {s : State} : (dropReplies s).hub = s.hub := by
  unfold dropReplies
  split <;> simp

@[simp] theorem jobsStop_hub {s : State} {ctx cause : Nat} : (jobsStop s ctx cause).hub = s.hub := by simp [jobsStop]

@[simp] theorem startFreeze_hub {s : State} {unit cause : Nat} {ctx : Option Nat} {info : Word} {partOnly : Bool} :
    (startFreeze s unit cause ctx info partOnly).hub = s.hub := by
  unfold startFreeze
  dsimp only
  (repeat' split) <;> simp

@[simp] theorem endContext_hub {s : State} {ctx cause : Nat} : (endContext s ctx cause).hub = s.hub := by simp [endContext]

@[simp] theorem killContext_hub {s : State} {ctx cause : Nat} : (killContext s ctx cause).hub = s.hub := by
  unfold killContext
  split <;> simp

@[simp] theorem fatal_hub {s : State} {unit cause ctx : Nat} {info : Word} :
    (fatal s unit cause ctx info).hub = s.hub := by simp [fatal]

@[simp] theorem dropTask_hub {m : Me} {s : State} : (m.dropTask s).hub = s.hub := by
  unfold Me.dropTask
  dsimp only
  split <;> simp

@[simp] theorem setRegs_hub {m : Me} {s : State} {f : Regs → Regs} : (m.setRegs s f).hub = s.hub := by simp [Me.setRegs]

@[simp] theorem clearBits_hub {s : State} {c block name : Nat} {words : List Nat} :
    (clearBits s c block name words).hub = s.hub := by
  unfold clearBits
  split <;> simp

@[simp] theorem setStack_hub {m : Me} {s : State} {k : Stack} : (m.setStack s k).hub = s.hub := by
  unfold Me.setStack
  (repeat' split) <;> simp

@[simp] theorem note_hub {m : Me} {s : State} {ty : Nat} {pay : Word} : (m.note s ty pay).hub = s.hub := by simp [Me.note]

@[simp] theorem raiseDouble_hub {s : State} {m : Me} {cause op : Nat} :
    (raiseDouble s m cause op).hub = s.hub := by simp [raiseDouble]

@[simp] theorem enterHandler_hub {s : State} {c k : Nat} {t : Trap} : (enterHandler s c k t).hub = s.hub := by
  unfold enterHandler
  dsimp only
  (repeat' split) <;> simp

@[simp] theorem takeTrap_hub {s : State} {c k : Nat} {t : Trap} : (takeTrap s c k t).hub = s.hub := by
  unfold takeTrap
  dsimp only
  (repeat' split) <;> simp

@[simp] theorem raise_hub {s : State} {m : Me} {cause : Nat} {info : Word} {op : Nat} :
    (raise s m cause info op).hub = s.hub := by
  unfold raise
  (repeat' split) <;> simp

@[simp] theorem returnFromHandler_hub {s : State} {m : Me} : (returnFromHandler s m).hub = s.hub := by
  unfold returnFromHandler
  dsimp only
  split <;> simp

@[simp] theorem noteSite_hub {s : State} {m : Me} {stop : Bool} : (noteSite s m stop).hub = s.hub := by
  unfold noteSite
  split <;> simp

@[simp] theorem retireAt_hub {s : State} {m : Me} {stop step : Bool} {next : PC} :
    (retireAt s m stop step next).hub = s.hub := by
  unfold retireAt
  split <;> simp

@[simp] theorem retire_hub {s : State} {m : Me} {stop : Bool} {next : PC} : (retire s m stop next).hub = s.hub := by
  unfold retire
  dsimp only
  (repeat' split) <;> simp

@[simp] theorem tookTurn_hub {s : State} {m : Me} : (tookTurn s m).hub = s.hub := by simp [tookTurn]

@[simp] theorem settleTurn_hub {m : Me} {bo : Bool} {e : Eff} {s : State} : (settleTurn m bo e s).hub = s.hub := by
  unfold settleTurn
  (repeat' split) <;> simp

@[simp] theorem lateScalar_hub {s : State} {m : Me} {n : SReg} {v : Option Word} : (lateScalar s m n v).hub = s.hub := by
  unfold lateScalar
  split <;> simp

@[simp] theorem lateKnown_hub {s : State} {c k : Nat} {n : SReg} {v : Word} :
    (lateKnown s c k n v).hub = s.hub := by simp [lateKnown]

@[simp] theorem takeEntry_hub {s : State} {m : Me} {name count : Nat} {threads : List Nat} {data : SMap (List W32)} :
    (takeEntry s m name count threads data).1.hub = s.hub := by simp [takeEntry]

@[simp] theorem headerRead_hub {s : State} {b : Block} {role th : Nat} : (headerRead s b role th).hub = s.hub := by
  unfold headerRead
  split <;> simp

@[simp] theorem releaseCurrent_hub {s : State} {c i : Nat} : (releaseCurrent s c i).hub = s.hub := by simp [releaseCurrent]

@[simp] theorem unmapQueue_hub {s : State} {q : Nat} : (unmapQueue s q).hub = s.hub := by
  unfold unmapQueue
  split <;> simp

@[simp] theorem mapQueue_hub {s : State} {q : Nat} : (mapQueue s q).hub = s.hub := by
  unfold mapQueue
  (repeat' split) <;> simp

@[simp] theorem writeStat_hub {s : State} {q status index : Nat} : (writeStat s q status index).hub = s.hub := by
  unfold writeStat
  split <;> simp

@[simp] theorem checkOverrun_hub {s : State} {q : Nat} : (checkOverrun s q).hub = s.hub := by
  unfold checkOverrun
  (repeat' split) <;> simp

@[simp] theorem ringBell_hub {s : State} {pa value : Nat} : (ringBell s pa value).hub = s.hub := by
  unfold ringBell
  dsimp only
  (repeat' split) <;> simp

@[simp] theorem clearRegPoison_hub {s : State} {c block win name : Nat} {ts : List Nat} :
    (clearRegPoison s c block win name ts).hub = s.hub := by
  unfold clearRegPoison
  split <;> simp

@[simp] theorem putV_hub {m : Me} {s : State} {name : Nat} {vals : List (Nat × W32)} :
    (m.putV s name vals).hub = s.hub := by simp [Me.putV]

@[simp] theorem putKey_hub {m : Me} {s : State} {n : Nat} {who val : TSet} :
    (m.putKey s n who val).hub = s.hub := by simp [Me.putKey]

@[simp] theorem touch_hub {s : State} {c k block : Nat} {space : Option Nat} {a n : Nat} :
    (touch s c k block space a n).hub = s.hub := by
  unfold touch
  split <;> simp

@[simp] theorem scratchWrite_hub {s : State} {c block a : Nat} {bs : List Byte} :
    (scratchWrite s c block a bs).hub = s.hub := by
  unfold scratchWrite
  dsimp only
  split <;> simp

@[simp] theorem startChild_hub {s : State} {m : Me} {slot : Nat} {target : PC} :
    (startChild s m slot target).hub = s.hub := by simp [startChild]

@[simp] theorem startInline_hub {s : State} {m : Me} {stop : Bool} : (startInline s m stop).hub = s.hub := by simp [startInline]

@[simp] theorem joined_hub {s : State} {m : Me} : (joined s m).hub = s.hub := by simp [joined]

@[simp] theorem dropFault_hub {s : State} {m : Me} {f : JobFault} : (dropFault s m f).hub = s.hub := by simp [dropFault]

@[simp] theorem breakArrivals_hub {s : State} {c : Nat} {hit : Arrival → Bool} {cause slot : Nat} :
    (breakArrivals s c hit cause slot).hub = s.hub := by
  refine (foldl_hub (fun s x => ?_) _ _).trans rfl
  (repeat' split) <;> simp

@[simp] theorem breakGangs_hub {s : State} {c k block : Nat} : (breakGangs s c k block).hub = s.hub := by simp [breakGangs]

@[simp] theorem doTail_hub {s : State} {m : Me} : (doTail s m).hub = s.hub := by
  unfold doTail
  dsimp only
  (repeat' split) <;> simp

@[simp] theorem orphanFault_hub {s : State} {c block grid : Nat} {f : JobFault} :
    (orphanFault s c block grid f).hub = s.hub := by
  unfold orphanFault
  split <;> simp

@[simp] theorem endInline_hub {s : State} {m : Me} {f : Frame} {rest : List Frame} : (endInline s m f rest).hub = s.hub := by
  unfold endInline
  split <;> simp

@[simp] theorem settleGbar_hub {s : State} {g : Nat} : (settleGbar s g).hub = s.hub := by
  unfold settleGbar
  dsimp only
  (repeat' split) <;> simp

@[simp] theorem endStrand_hub {s : State} {m : Me} : (endStrand s m).hub = s.hub := by simp [endStrand]

@[simp] theorem submitLaunch_hub {s : State} {m : Me} {va : Nat} {bs : List Byte} : (submitLaunch s m va bs).1.hub = s.hub := by
  unfold submitLaunch
  dsimp only
  (repeat' split) <;> simp

@[simp] theorem setEvent_hub {m : Me} {s : State} {op depth : Nat} {overflow : Bool} :
    (setEvent m s op depth overflow).hub = s.hub := by simp [setEvent]

@[simp] theorem count_hub {m : Me} {s : State} {o : QOps} {x : TSet} : (m.count s o x).hub = s.hub := by simp [Me.count]

@[simp] theorem restack_hub {m : Me} {s : State} {o : QOps} {k : Stack} : (m.restack s o k).hub = s.hub := by simp [Me.restack]

@[simp] theorem spill_hub {s : State} {t : Token} : (spill s t).hub = s.hub := by simp [spill]

@[simp] theorem sendToken_hub {s : State} {t : Token} : (sendToken s t).hub = s.hub := by
  unfold sendToken
  dsimp only
  split <;> simp

@[simp] theorem sendRequests_hub {s : State} {c slot : Nat} {l : List Access} :
    (sendRequests s c slot l).hub = s.hub := by simp [sendRequests]

@[simp] theorem sendReply_hub {s : State} {c slot : Nat} {a : Access} : (sendReply s c slot a).hub = s.hub := by
  unfold sendReply
  split <;> simp

@[simp] theorem repliesCome_hub {s : State} {c slot : Nat} {d : Dest} : (repliesCome s c slot d).hub = s.hub := by
  unfold repliesCome
  split <;> simp

@[simp] theorem clearPi_hub {m : Me} {s : State} : (m.clearPi s).hub = s.hub := by simp [Me.clearPi]

@[simp] theorem sendAll_hub {s : State} {m : Me} {l : List Access} : (sendAll s m l).hub = s.hub := by simp [sendAll]

@[simp] theorem bmemRecord_hub {s : State} {m : Me} {kind : Nat} {scope : Scope} {addrs : List (Nat × Nat)} :
    (bmemRecord s m kind scope addrs).hub = s.hub := by
  unfold bmemRecord
  split <;> simp

@[simp] theorem barTest_hub {s : State} {c block addr : Nat} : (barTest s c block addr).hub = s.hub := by
  unfold barTest
  dsimp only
  (repeat' split) <;> simp

@[simp] theorem barStep_hub {s : State} {c block addr arrive : Nat} {pend : Int} :
    (barStep s c block addr arrive pend).hub = s.hub := by
  unfold barStep
  split <;> simp

@[simp] theorem giveBack_hub {s : State} {c slot : Nat} {bytes : Nat} {dest : Dest} {vals : List (Nat × Nat)} :
    (giveBack s c slot bytes dest vals).hub = s.hub := by
  unfold giveBack
  split <;> simp

@[simp] theorem scratchRmw_hub {s : State} {c block : Nat} {op : AOp} {w a : Nat} {read : Option Nat}
    {members : List (Nat × Nat × Nat)} :
    (scratchRmw s c block op w a read members).1.hub = s.hub := by
  unfold scratchRmw
  split <;> simp

@[simp] theorem performScratch_hub {s : State} {c slot block : Nat} {a : Access} :
    (performScratch s c slot block a).hub = s.hub := by
  unfold performScratch
  split <;> simp

@[simp] theorem performGlobal_hub {s : State} {c slot : Nat} {a : Access} : (performGlobal s c slot a).hub = s.hub := by
  unfold performGlobal
  (repeat' split) <;> simp

@[simp] theorem performAct_hub {s : State} {c slot : Nat} {a : Access} : (performAct s c slot a).hub = s.hub := by
  unfold performAct
  split <;> simp

@[simp] theorem touchWord_hub {m : Me} {s : State} {a : Nat} : (m.touchWord s a).hub = s.hub := by simp [Me.touchWord]

@[simp] theorem takeLock_hub {s : State} {m : Me} {pa va : Nat} : (takeLock s m pa va).hub = s.hub := by simp [takeLock]

@[simp] theorem passLock_hub {s : State} {m : Me} {pa va : Nat} {l : Lock} : (passLock s m pa va l).hub = s.hub := by
  unfold passLock
  split <;> simp

@[simp] theorem moveTilePoison_hub {s : State} {c block key : Nat} {dst : Option Nat} :
    (moveTilePoison s c block key dst).hub = s.hub := by
  unfold moveTilePoison
  split <;> simp

@[simp] theorem drainName_hub {s : State} {c block name : Nat} : (drainName s c block name).hub = s.hub := by simp [drainName]

@[simp] theorem bindWith_hub {s : State} {c block name : Nat} {a : AccName} :
    (bindWith s c block name a).hub = s.hub := by simp [bindWith]

@[simp] theorem bindTile_hub {s : State} {c block name : Nat} {a : AccName} :
    (bindTile s c block name a).hub = s.hub := by simp [bindTile]

@[simp] theorem putTile_hub {s : State} {c block name : Nat} {t : TileData} :
    (putTile s c block name t).hub = s.hub := by simp [putTile]

@[simp] theorem addTileOp_hub {s : State} {m : Me} {name : Nat} {regions : List Region} {reads writes : Bool} {current : Nat} :
    (addTileOp s m name regions reads writes current).hub = s.hub := by simp [addTileOp]

@[simp] theorem countCensus_hub {s : State} {c ctx : Nat} {sites : List (Nat × List Nat)} :
    (countCensus s c ctx sites).hub = s.hub := by simp [countCensus]

@[simp] theorem putProduct_hub {s : State} {m : Me} {o : TOps} {stop : Bool} {tile : TileData} {written : List Rounded} :
    (putProduct s m o stop tile written).hub = s.hub := by
  unfold putProduct
  (repeat' split) <;> simp

@[simp] theorem setLatch_hub {m : Me} {s : State} {o : TOps} {a : Latch} :
    (m.setLatch s o a).hub = s.hub := by simp [Me.setLatch]

@[simp] theorem applyMat_hub {s : State} {m : Me} {sat : Bool} {ty : MatTy} {o : TOps} {p q : Nat} {a : Latch} {current : Nat} :
    (applyMat s m sat ty o p q a current).hub = s.hub := by
  unfold applyMat
  dsimp only
  split <;> simp

@[simp] theorem gangMember_hub {s : State} {c number current : Nat} {a : Arrival} :
    (gangMember s c number current a).hub = s.hub := by
  unfold gangMember
  split <;> simp

@[simp] theorem gangTrap_hub {s : State} {c : Nat} {a : Arrival} : (gangTrap s c a).hub = s.hub := by
  unfold gangTrap
  split <;> simp

@[simp] theorem completeGang_hub {s : State} {c g : Nat} {as' : List Arrival} {current : Nat} :
    (completeGang s c g as' current).hub = s.hub := by simp [completeGang]

@[simp] theorem shareRows_hub {s : State} {l : List ((Nat × Nat) × (Nat × Nat))} :
    (shareRows s l).hub = s.hub := by simp [shareRows]

@[simp] theorem storeRow_hub {s : State} {m : Me} {o : TOps} {phys : List (Nat × Nat × Nat)} {i : Nat} {bs : List Byte} :
    (storeRow s m o phys i bs).hub = s.hub := by
  unfold storeRow
  dsimp only
  split
  · simp
  · refine foldl_fst_hub (fun acc p => ?_) _ _
    dsimp only
    split <;> simp

@[simp] theorem renameOps_hub {s : State} {c block name dst : Nat} :
    (renameOps s c block name dst).hub = s.hub := by simp [renameOps]

@[simp] theorem commitShadow_hub {s : State} {m : Me} {name : Nat} {x : Shadow} :
    (commitShadow s m name x).hub = s.hub := by simp [commitShadow]

@[simp] theorem stopSolve_hub {s : State} {m : Me} {o : FOps} {k : Nat} : (stopSolve s m o k).hub = s.hub := by simp [stopSolve]

@[simp] theorem endSolve_hub {s : State} {m : Me} : (endSolve s m).hub = s.hub := by simp [endSolve]

@[simp] theorem setCounters_hub {m : Me} {s : State} {f : Counters → Counters} :
    (m.setCounters s f).hub = s.hub := by simp [Me.setCounters]

@[simp] theorem quotaHeals_hub {m : Me} {s : State} {dst n : Nat} : (m.quotaHeals s dst n).hub = s.hub := by
  unfold Me.quotaHeals
  (repeat' split) <;> simp

@[simp] theorem addJob_hub {s : State} {m : Me} {o : EOps} {card : Nat} {bs : List Byte} {r w : List Region} {current : Nat} :
    (addJob s m o card bs r w current).hub = s.hub := by simp [addJob]

@[simp] theorem beginBank_hub {s : State} {m : Me} {sat : Bool} {ty : MatTy} {o : TOps} {d : BankDesc} {pages : List Nat}
    {current : Nat} :
    (beginBank s m sat ty o d pages current).hub = s.hub := by
  unfold beginBank
  split <;> simp

@[simp] theorem refuseLaunch_hub {s : State} {ctx va : Nat} {l : Launch} {status : Nat} {parent : Option Nat} :
    (refuseLaunch s ctx va l status parent).hub = s.hub := by
  unfold refuseLaunch
  split <;> simp

@[simp] theorem acceptLaunch_hub {s : State} {ctx va : Nat} {l : Launch} {dims : Option (Nat × Nat × Nat)}
    {parent : Option Nat} :
    (acceptLaunch s ctx va l dims parent).hub = s.hub := by simp [acceptLaunch]

@[simp] theorem launchFrom_hub {s : State} {ctx va : Nat} {parent : Option Nat} :
    (launchFrom s ctx va parent).1.hub = s.hub := by
  unfold launchFrom
  split
  · exact refuseLaunch_hub
  · extract_lets bs l t u dims status
    have hu : u.hub = s.hub := by
      simp only [u]
      split <;> simp [t]
    clear_value u dims status
    split
    · exact acceptLaunch_hub.trans hu
    · exact refuseLaunch_hub.trans hu

@[simp] theorem resolveSubmission_hub {s : State} {r : Queue} {p : Packet} : (resolveSubmission s r p).hub = s.hub := by
  unfold resolveSubmission
  split <;> simp

@[simp] theorem packetRecord_hub {s : State} {r : Queue} {status index : Nat} :
    (packetRecord s r status index).hub = s.hub := by simp [packetRecord]

@[simp] theorem endPacket_hub {s : State} {q status index : Nat} : (endPacket s q status index).hub = s.hub := by
  unfold endPacket
  (repeat' split) <;> simp

@[simp] theorem enginePoison_hub {s : State} {ctx pa : Nat} : (enginePoison s ctx pa).hub = s.hub := by simp [enginePoison]

@[simp] theorem putPacket_hub {s : State} {q : Nat} {p : Packet} : (putPacket s q p).hub = s.hub := by simp [putPacket]

end Sys2Proof.Machine
end

section
/-!
PROOFS. No instruction of a strand and no operation of a queue writes the hub's part of the state.
-/
namespace Sys2Proof.Machine

/-- The hub's part of an optional state, where there is one, is `H`. -/
def SomeHub (H : HubPart) (o : Option State) : Prop := ∀ t, o = some t → t.hub = H

/-- The hub's part of the next state that a step answers is `H`. -/
def NextHub (H : HubPart) (o : Host.Outcome State Fault Refusal) : Prop := ∀ t, o = .next t → t.hub = H

/-- The hub's part of the state that an attempt leaves is `H`. -/
def EffHub (H : HubPart) : Eff → Prop
  | .done s | .jump s _ | .ended s | .stall _ s | .trap _ _ s | .after _ _ s => s.hub = H
  | .double _ => True

/-- The same of an attempt that there may be. -/
def SomeEffHub (H : HubPart) (o : Option Eff) : Prop := ∀ e, o = some e → EffHub H e

/-- The hub's part of the state that an operation of the queue engine leaves is `H`. -/
def QEffHub (H : HubPart) : QEff → Prop
  | .go s _ _ | .wait s => s.hub = H
  | _ => True

section
variable {H : HubPart}

@[simp] theorem effHub_done (s : State) : EffHub H (.done s) ↔ s.hub = H := Iff.rfl

@[simp] theorem effHub_jump (s : State) (pc : PC) : EffHub H (.jump s pc) ↔ s.hub = H := Iff.rfl

@[simp] theorem effHub_ended (s : State) : EffHub H (.ended s) ↔ s.hub = H := Iff.rfl

@[simp] theorem effHub_stall (r : Stall) (s : State) : EffHub H (.stall r s) ↔ s.hub = H := Iff.rfl

@[simp] theorem effHub_trap (c : Nat) (i : Word) (s : State) : EffHub H (.trap c i s) ↔ s.hub = H := Iff.rfl

@[simp] theorem effHub_after (c : Nat) (i : Word) (s : State) : EffHub H (.after c i s) ↔ s.hub = H := Iff.rfl

@[simp] theorem effHub_double (c : Nat) : EffHub H (.double c) := trivial

@[simp] theorem qEffHub_go (s : State) (p : Packet) (i : Nat) : QEffHub H (.go s p i) ↔ s.hub = H := Iff.rfl

@[simp] theorem qEffHub_wait (s : State) : QEffHub H (.wait s) ↔ s.hub = H := Iff.rfl

@[simp] theorem qEffHub_stop (n : Nat) : QEffHub H (.stop n) := trivial

@[simp] theorem qEffHub_poison (n : Nat) : QEffHub H (.poison n) := trivial

@[simp] theorem qEffHub_hold : QEffHub H .hold := trivial

@[simp] theorem nextHub_next (t : State) : NextHub H (.next t) ↔ t.hub = H := by simp [NextHub]

@[simp] theorem nextHub_fault (t : Fault) : NextHub H (.fault t) := by simp [NextHub]

@[simp] theorem someHub_none : SomeHub H none := by simp [SomeHub]

@[simp] theorem someHub_some (t : State) : SomeHub H (some t) ↔ t.hub = H := by simp [SomeHub]

@[simp] theorem someHub_bind {α : Type} (o : Option α) (f : α → Option State) :
    SomeHub H (o.bind f) ↔ ∀ x, o = some x → SomeHub H (f x) := by
  cases o <;> simp

@[simp] theorem someEffHub_none : SomeEffHub H none := by simp [SomeEffHub]

@[simp] theorem someEffHub_some (e : Eff) : SomeEffHub H (some e) ↔ EffHub H e := by simp [SomeEffHub]

@[simp] theorem someEffHub_map {α : Type} (o : Option α) (f : α → Eff) :
    SomeEffHub H (o.map f) ↔ ∀ x, o = some x → EffHub H (f x) := by
  cases o <;> simp

theorem effHub_getD {o : Option Eff} {e : Eff} (h : SomeEffHub H o) (he : EffHub H e) : EffHub H (o.getD e) := by
  cases o with
  | none => exact he
  | some x => exact h x rfl

@[simp] theorem hub_ite (c : Prop) [Decidable c] (s t : State) :
    (if c then s else t).hub = H ↔ (c → s.hub = H) ∧ (¬ c → t.hub = H) := by
  split <;> simp_all

@[simp] theorem someHub_ite (c : Prop) [Decidable c] (o p : Option State) :
    SomeHub H (if c then o else p) ↔ (c → SomeHub H o) ∧ (¬ c → SomeHub H p) := by
  split <;> simp_all

@[simp] theorem effHub_ite (c : Prop) [Decidable c] (o p : Eff) :
    EffHub H (if c then o else p) ↔ (c → EffHub H o) ∧ (¬ c → EffHub H p) := by
  split <;> simp_all

@[simp] theorem someEffHub_ite (c : Prop) [Decidable c] (o p : Option Eff) :
    SomeEffHub H (if c then o else p) ↔ (c → SomeEffHub H o) ∧ (¬ c → SomeEffHub H p) := by
  split <;> simp_all

@[simp] theorem qEffHub_ite (c : Prop) [Decidable c] (o p : QEff) :
    QEffHub H (if c then o else p) ↔ (c → QEffHub H o) ∧ (¬ c → QEffHub H p) := by
  split <;> simp_all

@[simp] theorem nextHub_ite (c : Prop) [Decidable c] (o p : Host.Outcome State Fault Refusal) :
    NextHub H (if c then o else p) ↔ (c → NextHub H o) ∧ (¬ c → NextHub H p) := by
  split <;> simp_all

@[simp] theorem effHub_orFor {e : Eff} {holds : Bool} {r : Stall} (h : EffHub H e) : EffHub H (e.orFor holds r) := by
  unfold Eff.orFor
  split
  · split <;> exact h
  · exact h

end

section
variable {H : HubPart} {s : State} (h : s.hub = H)
include h

/-! ### Traps, retirement and the gate -/

/-- The end of an attempt: it retires, jumps, waits or traps, and a trap is raised in the state that the attempt left. -/
@[simp] theorem finish_hub {m : Me} {op : Nat} {stop : Bool} {e : Eff} (he : EffHub H e) :
    (finish m op stop s e).hub = H := by
  unfold finish
  split <;> simp_all

theorem someEffHub_gateScalars {r : Regs} (l : List (SReg × Bool)) : SomeEffHub H (gateScalars s r l) := by
  induction l with
  | nil => simp [gateScalars]
  | cons x l ih =>
    simp only [gateScalars, someEffHub_ite, someEffHub_some, effHub_ite, effHub_trap, effHub_stall]
    exact ⟨fun _ => h, fun _ => ⟨fun _ => ⟨fun _ => h, fun _ => h⟩, fun _ => ih⟩⟩

theorem someEffHub_gateNames {m : Me} {x : TSet} (l : List NameUse) : SomeEffHub H (gateNames s m x l) := by
  induction l with
  | nil => simp [gateNames]
  | cons u l ih =>
    unfold gateNames
    split
    · simp only [someEffHub_some, effHub_ite, effHub_trap, effHub_stall]
      exact ⟨fun _ => h, fun _ => h⟩
    · split
      · exact ih
      · split
        · simp [h]
        · split
          · simp [h]
          · exact ih

/-- The gate in front of an instruction only waits, or traps in the state that it was given. -/
theorem someEffHub_gate {m : Me} {u : Uses} : SomeEffHub H (gate s m u) := by
  have hl := someEffHub_gateScalars (r := m.st.regs) h u.src
  unfold gate
  (repeat' split) <;> simp_all [someEffHub_gateNames]

@[simp] theorem holdBack_hub {m : Me} {op : Nat} {stop : Bool} {b : Stall} {e : Eff} (he : EffHub H e) :
    (holdBack s m op stop b e).hub = H := by
  unfold holdBack
  dsimp only
  split
  · split
    · simpa using h
    · exact finish_hub h he
  · simpa using h

/-- An instruction leaves the hub's part when its own attempt does: what the gate, the hold and the retirement add keeps it. -/
theorem nextHub_issueBy {op : Nat} {stop : Bool} {u : Me → Uses} {k : Me → Eff} (hk : ∀ m, EffHub H (k m)) :
    NextHub H (issueBy s op stop u k) := by
  intro t ht
  obtain ⟨m, e, -, rfl, ⟨-, rfl⟩ | ⟨b, -, -, rfl⟩⟩ := issueBy_next ht
  · have he := effHub_getD (someEffHub_gate (m := m) (u := u m) h) (hk m)
    simpa using finish_hub h he
  · exact holdBack_hub h (effHub_getD (someEffHub_gate h) (hk m))

@[simp] theorem nextHub_issue {op : Nat} {stop : Bool} {u : Uses} {k : Me → Eff} (hk : ∀ m, EffHub H (k m)) :
    NextHub H (issue s op stop u k) := nextHub_issueBy h hk

/-! ### Control, sets and queues -/

/-- The admission of a task gives the continuation the state as it was or with the task noted. -/
@[simp] theorem effHub_admission {c task : Nat} {hd : Nat × Nat} {k : Nat → State → Eff}
    (hk : ∀ i t, t.hub = H → EffHub H (k i t)) :
    EffHub H (admission s c task hd k) := by
  unfold admission
  dsimp only
  split
  · exact hk _ _ h
  · split
    · exact hk _ _ h
    · split
      · exact hk _ _ h
      · exact h

theorem Me.effHub_admission {m : Me} {hd : Nat × Nat} {k : Nat → State → Eff}
    (hk : ∀ i t, t.hub = H → EffHub H (k i t)) :
    EffHub H (m.admission s hd k) := Machine.effHub_admission h hk

@[simp] theorem effHub_withFlags {m : Me} {fl : BitVec 5} {effect : State → State}
    (he : ∀ t, t.hub = H → (effect t).hub = H) :
    EffHub H (withFlags m s fl effect) := by
  simp [withFlags, h, he]

@[simp] theorem nextHub_scalarOp {op : Nat} {o : SOps} {d a b c : Bool} {f : Word → Word → Word → Word} :
    NextHub H (scalarOp s op o d a b c f) := by
  simp [scalarOp, h]

@[simp] theorem nextHub_scalarFloat {op : Nat} {o : SOps} {b c : Bool} {f : Word → Word → Word → Word × BitVec 5} :
    NextHub H (scalarFloat s op o b c f) := by
  simp [scalarFloat, h]

@[simp] theorem effHub_scratchGate {m : Me} {a n : Nat} {reads : Bool} {k : Unit → Eff} (hk : ∀ u, EffHub H (k u)) :
    EffHub H (scratchGate s m a n reads k) := by
  unfold scratchGate
  (repeat' split) <;> simp [h, hk]

@[simp] theorem effHub_transfer {m : Me} {always : Bool} {target : PC} {effect : State → State}
    (he : ∀ t, t.hub = H → (effect t).hub = H) :
    EffHub H (transfer s m always target effect) := by
  simp [transfer, h, he]

@[simp] theorem effHub_inlineEff {m : Me} {stop : Bool} {target : PC} : EffHub H (inlineEff s m stop target) := by
  simp [inlineEff, h]

@[simp] theorem someEffHub_jobFault? {m : Me} : SomeEffHub H (jobFault? s m) := by
  simp [jobFault?, h]

@[simp] theorem effHub_haltEff {m : Me} {stop : Bool} : EffHub H (haltEff s m stop) := by
  unfold haltEff
  split
  · rename_i he
    exact someEffHub_jobFault? h _ he
  · split
    · exact h
    · split <;> simp [h]

@[simp] theorem effHub_waitEff {m : Me} {o : SOps} {ext : Bool} : EffHub H (waitEff s m o ext) := by
  unfold waitEff
  (repeat' split) <;> simp [h]

@[simp] theorem effHub_setOverflow {m : Me} {op : Nat} : EffHub H (setOverflow m s op) := by
  simp [setOverflow, h]

@[simp] theorem effHub_setUnderflow {op : Nat} : EffHub H (setUnderflow s op) := by
  simp [setUnderflow, h]

@[simp] theorem effHub_push {m : Me} {o : QOps} {op : Nat} {x : TSet} : EffHub H (m.push s o op x) := by
  simp [Me.push, h]

@[simp] theorem effHub_searchEff {m : Me} {o : QOps} {op : Nat} {p : Nat → Bool} : EffHub H (searchEff m s o op p) := by
  unfold searchEff
  split <;> simp [h]

@[simp] theorem effHub_popEff {m : Me} {o : QOps} {op n : Nat} : EffHub H (popEff m s o op n) := by
  simp [popEff, h]

@[simp] theorem effHub_mapGate {m : Me} {a n align : Nat} {reads : Bool} {k : Unit → Eff} (hk : ∀ u, EffHub H (k u)) :
    EffHub H (mapGate m s a n align reads k) := by
  simp [mapGate, h, hk]

/-! ### Accesses, barriers, locks and tiles -/

@[simp] theorem effHub_waitWalk {m : Me} {long : Bool} {thread page : Nat} : EffHub H (waitWalk s m long thread page) := by
  simp [waitWalk, h]

@[simp] theorem effHub_addrTrap {m : Me} {long : Bool} {t va cause : Nat} : EffHub H (addrTrap s m long t va cause) := by
  simp [addrTrap, h]

@[simp] theorem effHub_withTrans {m : Me} {need : Need} {bytes : Nat} {long : Bool} {addrs : List (Nat × Nat)}
    {also : Nat → Option Nat} {k : List (Nat × Nat × Nat) → Eff} (hk : ∀ l, EffHub H (k l)) :
    EffHub H (withTrans s m need bytes long addrs also k) := by
  unfold withTrans
  split
  · simp [h]
  · simp [h]
  · rw [effHub_ite, effHub_ite]
    refine ⟨fun _ => h, fun _ => ⟨fun _ => h, fun _ => ?_⟩⟩
    split
    · exact h
    · exact hk _

@[simp] theorem effHub_withScratch {m : Me} {bytes : Nat} {reads : Bool} {addrs : List (Nat × Nat)} {k : Unit → Eff}
    (hk : ∀ u, EffHub H (k u)) :
    EffHub H (withScratch s m bytes reads addrs k) := by
  unfold withScratch
  (repeat' split) <;> simp [h, hk]

@[simp] theorem someHub_aheadOf {m : Me} {set : Nat} {scope : Scope} {mark : Option Span} :
    SomeHub H (aheadOf s m set scope mark) := by
  simp [aheadOf, h]

@[simp] theorem effHub_fenceEff {m : Me} {pred succ : Nat} {scope : Scope} : EffHub H (fenceEff s m pred succ scope) := by
  simp only [fenceEff, effHub_ite, effHub_done, effHub_stall]
  refine ⟨fun _ => h, fun _ => ⟨fun _ => h, fun _ => ⟨fun _ => by simpa using h, fun _ => ⟨fun _ => h, fun _ => ?_⟩⟩⟩⟩
  split
  · rename_i ht
    exact someHub_aheadOf h _ ht
  · exact h

@[simp] theorem effHub_withBarrier {m : Me} {o : MOps} {k : Nat → Nat → Eff} (hk : ∀ a w, EffHub H (k a w)) :
    EffHub H (withBarrier s m o k) := by
  unfold withBarrier
  dsimp only
  (repeat' split) <;> simp [h, hk]

@[simp] theorem effHub_arrive {m : Me} {a w op : Nat} {k : State → Eff} (hk : ∀ t, t.hub = H → EffHub H (k t)) :
    EffHub H (arrive s m a w op k) := by
  have ho := someHub_ite (H := H) (m.delivered s = true) (aheadOf s m 3 .block (some (m.word a))) none
  unfold arrive
  dsimp only
  split
  · simpa using h
  · split
    · exact hk _ (by simpa using h)
    · split
      · rename_i t ht
        exact hk _ (by simpa using ho.mpr ⟨fun _ => someHub_aheadOf h, fun _ => someHub_none⟩ t ht)
      · simpa using h

@[simp] theorem effHub_awaitPhase {m : Me} {a : Nat} {phase : Bool} : EffHub H (awaitPhase s m a phase) := by
  unfold awaitPhase
  split <;> simp [h]

@[simp] theorem effHub_gbarEff {m : Me} : EffHub H (gbarEff s m) := by
  unfold gbarEff
  split <;> simp [h]

@[simp] theorem effHub_withLock {m : Me} {o : MOps} {k : Nat → Nat → Lock → Eff} (hk : ∀ a v l, EffHub H (k a v l)) :
    EffHub H (withLock s m o k) := by
  simp [withLock, h, hk]

@[simp] theorem effHub_armWatch {m : Me} {w : Watch} : EffHub H (armWatch s m w) := by
  simp [armWatch, h]

@[simp] theorem effHub_tileTrap {at5 : BitVec 5} {reason : Nat} : EffHub H (tileTrap s at5 reason) := by
  simp [tileTrap, h]

@[simp] theorem effHub_withFresh {m : Me} {at5 : BitVec 5} {n : Nat} {k : Unit → Eff} (hk : ∀ u, EffHub H (k u)) :
    EffHub H (withFresh s m at5 n k) := by
  simp [withFresh, h, hk]

@[simp] theorem effHub_withReasons {m : Me} {at5 : BitVec 5} {reason : Option Nat} {k : Unit → Eff} (hk : ∀ u, EffHub H (k u)) :
    EffHub H (withReasons s m at5 reason k) := by
  unfold withReasons
  (repeat' split) <;> simp [h, hk]

@[simp] theorem effHub_withTile {m : Me} {key : Option Nat} {k : Unit → Eff} (hk : ∀ u, EffHub H (k u)) :
    EffHub H (withTile s m key k) := by
  unfold withTile
  split <;> simp [h, hk]

@[simp] theorem effHub_withArrays {m : Me} {reads : Bool} {arrs : List MemArray} {k : Unit → Eff} (hk : ∀ u, EffHub H (k u)) :
    EffHub H (withArrays s m reads arrs k) := by
  unfold withArrays
  dsimp only
  (repeat' split) <;> simp [h, hk]

@[simp] theorem effHub_withMmaTile {m : Me} {o : TOps} {k : Unit → Eff} (hk : ∀ u, EffHub H (k u)) :
    EffHub H (withMmaTile s m o k) := by
  simp [withMmaTile, h, hk]

@[simp] theorem effHub_awaitGang {m : Me} {g : Nat} : EffHub H (awaitGang s m g) := by
  unfold awaitGang
  split
  · exact h
  · refine effHub_orFor ?_
    split
    · exact h
    · dsimp only
      split
      · split
        · exact h
        · exact gangTrap_hub.trans h
      · exact effHub_withArrays h fun _ => effHub_admission h fun _ _ h => completeGang_hub.trans h

@[simp] theorem effHub_arriveGang {m : Me} {a : Arrival} : EffHub H (arriveGang s m a) := by
  unfold arriveGang
  dsimp only
  (repeat' split) <;> simp [h]

/-- The rows of a tile in memory: the accesses are sent from the state in which their pages were looked up. -/
@[simp] theorem effHub_withRows {m : Me} {o : TOps} {need : Need} {k : State → List (Nat × Nat × Nat) → Eff}
    (hk : ∀ t l, t.hub = H → EffHub H (k t l)) :
    EffHub H (withRows s m o need k) := by
  unfold withRows
  extract_lets r n pieces
  split
  · exact effHub_withArrays h fun _ => hk _ _ h
  · split
    · exact h
    · exact effHub_waitWalk h
    · extract_lets at' phys
      clear_value at' phys
      split
      · exact h
      · split
        · exact h
        · exact hk _ _ (by simpa using h)

@[simp] theorem effHub_deliverRows {m : Me} {o : TOps} {count : Nat}
    {f : Nat → List W32} : EffHub H (deliverRows s m o count f) := by
  simp [deliverRows, h]

@[simp] theorem effHub_sweepEff {down : Bool} {m : Me} {o : FOps} : EffHub H (sweepEff down s m o) := by
  refine effHub_withReasons h fun _ => effHub_withTile h fun _ => effHub_withFresh h fun _ => ?_
  refine Me.effHub_admission (by simpa using h) fun i t ht => ?_
  rw [effHub_ite]
  exact ⟨fun _ => by simpa using ht, fun _ => by simpa using ht⟩

@[simp] theorem nextHub_sweepIssue {down : Bool} {op : Nat} {o : FOps} : NextHub H (sweepIssue down op o s) := by
  unfold sweepIssue
  split
  · simp
  · split
    · simp [h]
    · simp [h]
    · simp [h]
    · exact nextHub_issueBy h fun m => effHub_sweepEff h

@[simp] theorem effHub_admitOnce {m : Me} {o : FOps} {k : State → Eff} (hk : ∀ t, t.hub = H → EffHub H (k t)) :
    EffHub H (admitOnce s m o k) := by
  unfold admitOnce
  split
  · exact hk _ h
  · exact Me.effHub_admission (by simpa using h) fun i t ht => hk _ (by simpa using ht)

@[simp] theorem effHub_fsolvEff {m : Me} {o : FOps} : EffHub H (fsolvEff s m o) := by
  refine effHub_withReasons h fun _ => effHub_withTile h fun _ => effHub_admitOnce h fun t ht => ?_
  rw [effHub_ite]
  refine ⟨fun _ => by simpa using ht, fun _ => ?_⟩
  dsimp only
  split <;> simpa using ht

/-! ### Jobs and banks -/

@[simp] theorem effHub_withReads {m : Me} {rs : List (Nat × Nat)} {k : Unit → Eff} (hk : ∀ u, EffHub H (k u)) :
    EffHub H (withReads s m rs k) := by
  unfold withReads
  (repeat' split) <;> simp [h, hk]

@[simp] theorem effHub_issueJob {m : Me} {o : EOps} {card : Nat} {bs : List Byte} {r w : List Region} :
    EffHub H (issueJob s m o card bs r w) := by
  unfold issueJob
  dsimp only
  split
  · exact h
  · split
    · exact h
    · refine Me.effHub_admission ?_ fun i t ht => by simpa [addJob_hub] using ht
      split <;> simpa using h

@[simp] theorem effHub_jobEff {m : Me} {o : EOps} : EffHub H (jobEff s m o) := by
  unfold jobEff
  split
  · rename_i he
    exact someEffHub_jobFault? h _ he
  · simp only [effHub_ite, effHub_trap]
    refine ⟨fun _ => h, fun _ => ⟨fun _ => h, fun _ => effHub_withReads h fun _ => ?_⟩⟩
    rw [effHub_ite]
    refine ⟨fun _ => h, fun _ => effHub_withReads h fun _ => ?_⟩
    split
    · exact h
    · exact effHub_issueJob h

@[simp] theorem effHub_withTicket {m : Me} {o : EOps} {op : Nat} {k : Nat → Eff} (hk : ∀ t, EffHub H (k t)) :
    EffHub H (withTicket s m o op k) := by
  unfold withTicket
  split
  · rename_i he
    exact someEffHub_jobFault? h _ he
  · simp [h, hk]

@[simp] theorem effHub_bankTrap {r : Nat} : EffHub H (bankTrap s r) := by
  simp [bankTrap, h]

@[simp] theorem effHub_withRanges {m : Me} {arrs : List MemArray} {k : Unit → Eff} (hk : ∀ u, EffHub H (k u)) :
    EffHub H (withRanges s m arrs k) := by
  unfold withRanges
  dsimp only
  split <;> simp [h, hk]

@[simp] theorem effHub_withBank {m : Me} {ty : MatTy} {o : TOps} {k : BankDesc → List Nat → Eff}
    (hk : ∀ d l, EffHub H (k d l)) :
    EffHub H (withBank s m ty o k) := by
  simp only [withBank, effHub_ite, effHub_trap]
  refine ⟨fun _ => h, fun _ => ⟨fun _ => h, fun _ => effHub_withReads h fun _ => ?_⟩⟩
  simp only [effHub_ite, effHub_trap]
  refine ⟨fun _ => h, fun _ => ⟨fun _ => h, fun _ => ?_⟩⟩
  split
  · exact h
  · split
    · exact hk _ _
    · refine effHub_withRanges h fun _ => ?_
      split
      · exact h
      · exact effHub_waitWalk h
      · split
        · exact h
        · exact hk _ _

/-- An operation of the queue engine leaves the hub's part when its own effect on the packet does. -/
@[simp] theorem nextHub_qeRun {k : Nat → Queue → Packet → QEff} (hk : ∀ q r p, QEffHub H (k q r p)) :
    NextHub H (qeRun s k) := by
  unfold qeRun
  split
  · simp
  · rename_i q r p _
    split
    · simp [h]
    · dsimp only
      have hq := hk q r (if p.counted then p else { p with steps := p.steps + 1 })
      split
      · rename_i he
        rw [he] at hq
        exact (nextHub_next _).mpr hq
      · rename_i he
        rw [he] at hq
        exact (nextHub_next _).mpr hq
      · exact (nextHub_next _).mpr (endPacket_hub.trans h)
      · exact (nextHub_next _).mpr (enginePoison_hub.trans h)
      · exact (nextHub_next _).mpr h

@[simp] theorem nextHub_qeSet {d : BitVec 3} {f : Packet → Word} : NextHub H (qeSet s d f) := by
  simp [qeSet, h]

@[simp] theorem nextHub_qeJump {o : QeOps} {taken : Packet → Bool} : NextHub H (qeJump s o taken) := by
  simp [qeJump, h]

@[simp] theorem nextHub_qeWindow {o : QeOps} {read write : Bool} {need : Need} {k : State → Packet → Nat → QEff}
    (hk : ∀ t p pa, t.hub = H → QEffHub H (k t p pa)) :
    NextHub H (qeWindow s o read write need k) := by
  refine nextHub_qeRun h fun _ r p => ?_
  split
  · trivial
  · rw [qEffHub_ite, qEffHub_ite]
    exact ⟨fun _ => trivial, fun _ => ⟨fun _ => trivial, fun _ => hk _ _ _ (by simpa using h)⟩⟩

/-! ### Instructions -/

@[simp] theorem nextHub_laneOp {op : Nat} {o : VOps} {a b c : Bool} {f : W32 → W32 → W32 → W32} :
    NextHub H (laneOp s op o a b c f) := by
  simp [laneOp, h]

@[simp] theorem effHub_vrdOf {m : Me} {o : VOps} {i : Nat} : EffHub H (vrdOf m s o i) := by
  simp [vrdOf, h]

@[simp] theorem nextHub_floatOp {op : Nat} {o : VOps} {a b c : Bool} {f : W32 → W32 → W32 → VRes} :
    NextHub H (floatOp s op o a b c f) := by
  simp [floatOp, h]

@[simp] theorem nextHub_slotOp {o : VOps} {f : W32 → W32 → W32 → W32 → VRes} : NextHub H (slotOp s o f) :=
  nextHub_issueBy h fun m => effHub_withFlags h fun t ht => by simpa using ht

theorem nextHub_execSysr {o : SOps} : NextHub H (execSysr o s) := by
  refine nextHub_issue h fun m => ?_
  split <;> simp [h]

theorem nextHub_execSysw {o : SOps} : NextHub H (execSysw o s) := by
  refine nextHub_issue h fun m => ?_
  dsimp only
  (repeat' split) <;> simp [h]

theorem nextHub_execQuota {o : SOps} : NextHub H (execQuota o s) := by
  refine nextHub_issue h fun m => ?_
  dsimp only
  split <;> simp [quotaHeals_hub, h]

theorem nextHub_execRet {o : SOps} : NextHub H (execRet o s) := by
  unfold execRet
  split <;> simp [h]

theorem nextHub_execLaunchI {o : SOps} : NextHub H (execLaunchI o s) := by
  refine nextHub_issue h fun m => ?_
  dsimp only
  (repeat' split) <;> simp [h]

theorem nextHub_execTret {o : SOps} : NextHub H (execTret o s) := by
  refine nextHub_issue h fun m => ?_
  dsimp only
  (repeat' split) <;> simp [h]

theorem nextHub_execVlut {o : VOps} : NextHub H (execVlut o s) := by
  refine nextHub_issue h fun m => ?_
  dsimp only
  (repeat' split) <;> simp [h]

theorem nextHub_execLdsc {o : MOps} : NextHub H (execLdsc o s) := by
  refine nextHub_issue h fun m => ?_
  split <;> simp [h]

theorem nextHub_execPref {o : MOps} : NextHub H (execPref o s) := by
  refine nextHub_issue h fun m => ?_
  dsimp only
  split <;> simp [h]

theorem nextHub_execLockW {o : MOps} : NextHub H (execLockW o s) := by
  refine nextHub_issue h fun m => ?_
  split <;> simp [h]

theorem nextHub_execTcommit {o : TOps} : NextHub H (execTcommit o s) := by
  refine nextHub_issue h fun m => ?_
  split <;> simp [h]

theorem nextHub_execSpawn {o : BOps} : NextHub H (execSpawn o s) := by
  refine nextHub_issue h fun m => ?_
  simp only [effHub_ite, effHub_stall, effHub_trap]
  refine ⟨fun _ => h, fun _ => ⟨fun _ => h, fun _ => ⟨fun _ => effHub_inlineEff h, fun _ => ?_⟩⟩⟩
  split <;> simp [h]

theorem nextHub_execTail {o : SOps} : NextHub H (execTail o s) := by
  refine nextHub_issue h fun m => ?_
  simp only [effHub_ite, effHub_double]
  refine ⟨fun _ => trivial, fun _ => ?_⟩
  split
  · rename_i he
    exact someEffHub_jobFault? h _ he
  · simp [h]

theorem nextHub_execBaraw {o : MOps} : NextHub H (execBaraw o s) := by
  refine nextHub_issue h fun m => ?_
  split
  · exact effHub_awaitPhase h
  · exact effHub_withBarrier h fun a w => effHub_arrive h fun t ht => effHub_awaitPhase ht

theorem nextHub_execMma {sat : Bool} {ty : MatTy} {o : TOps} : NextHub H (execMma sat ty o s) := by
  refine nextHub_issueBy h fun m => effHub_orFor (effHub_withReasons h fun _ => effHub_withTile h fun _ =>
    effHub_withMmaTile h fun _ => effHub_withArrays h fun _ => Me.effHub_admission (by simpa using h) fun i t ht => ?_)
  simpa using ht

theorem nextHub_execMmag {sat : Bool} {ty : MatTy} {o : TOps} : NextHub H (execMmag sat ty o s) := by
  unfold execMmag
  split
  · exact nextHub_fault _
  · rw [nextHub_ite, nextHub_next]
    refine ⟨fun _ => finish_hub h (effHub_awaitGang h), fun _ => nextHub_issueBy h fun m => ?_⟩
    rw [effHub_ite]
    exact ⟨fun _ => trivial, fun _ => effHub_orFor (effHub_withReasons h fun _ => effHub_withTile h fun _ =>
      effHub_withMmaTile h fun _ => effHub_withArrays h fun _ => effHub_arriveGang h)⟩

theorem nextHub_execTld {o : TOps} : NextHub H (execTld o s) :=
  nextHub_issue h fun m => effHub_orFor (effHub_withReasons h fun _ => effHub_withFresh h fun _ =>
    effHub_withRows h fun t l ht => by simpa using ht)

theorem nextHub_execTst {o : TOps} : NextHub H (execTst o s) := by
  refine nextHub_issue h fun m => effHub_orFor (effHub_withReasons h fun _ => effHub_withTile h fun _ =>
    effHub_withRows h fun t l ht => ?_)
  rw [effHub_done, addTileOp_hub]
  exact (foldl_hub (fun s i => storeRow_hub) _ _).trans ht

theorem nextHub_execTmov {o : TOps} : NextHub H (execTmov o s) :=
  nextHub_issueBy h fun _ => effHub_withReasons h fun _ => effHub_withTile h fun _ => effHub_deliverRows h

theorem nextHub_execTrow {sum : Bool} {o : TOps} : NextHub H (execTrow sum o s) :=
  nextHub_issueBy h fun _ => effHub_withReasons h fun _ => effHub_withTile h fun _ => effHub_deliverRows h

theorem nextHub_execBmv {sat : Bool} {ty : MatTy} {o : TOps} : NextHub H (execBmv sat ty o s) := by
  refine nextHub_issueBy h fun m => effHub_orFor (effHub_withBank h fun d pages => ?_)
  rw [effHub_ite]
  refine ⟨fun _ => h, fun _ => Me.effHub_admission (by simpa using h) fun i t ht => ?_⟩
  rw [effHub_ite]
  exact ⟨fun _ => by simpa [beginBank_hub] using ht, fun _ => by simpa [beginBank_hub] using ht⟩

theorem nextHub_execQeStw {o : QeOps} : NextHub H (execQeStw o s) := nextHub_qeWindow h fun _ _ _ ht => storeNat_hub.trans ht

theorem nextHub_execQeWaitsig {o : QeOps} : NextHub H (execQeWaitsig o s) := nextHub_qeWindow h fun t p pa ht => by simp [ht]

theorem nextHub_execQeSignal {o : QeOps} : NextHub H (execQeSignal o s) :=
  nextHub_qeWindow h fun _ _ _ ht => storeNat_hub.trans ht

theorem qEffHub_qeLaunchAt {d : BitVec 3} {r : Queue} {p : Packet} {va : Nat} : QEffHub H (qeLaunchAt s d r p va) := by
  simp [qeLaunchAt, h]

theorem nextHub_execQeLaunch {o : QeOps} : NextHub H (execQeLaunch o s) := by
  refine nextHub_qeRun h fun _ r p => ?_
  split
  · trivial
  · rw [qEffHub_ite]
    refine ⟨fun _ => trivial, fun _ => ?_⟩
    split
    · trivial
    · exact qEffHub_qeLaunchAt h

theorem nextHub_execQeLaunchp {o : QeOps} : NextHub H (execQeLaunchp o s) := nextHub_qeRun h fun _ _ _ => qEffHub_qeLaunchAt h
end

/-- Every instruction that a slot or a program of a queue can hold, by the lemma of its kind or its own. -/
theorem nextHub_exec {H : HubPart} {i : Instr} (hi : encodeWord i ≠ none ∨ encodeOp i ≠ none) {s : State} (h : s.hub = H) :
    NextHub H (exec i s) := by
  cases i with
  | add _ | sub _ | mul _ | mulh _ | mulhu _ | div _ | divu _ | rem _ | remu _ | andI _ | orI _ | xorI _ | andn _
   | shl _ | shr _ | sra _ | rol _ | minI _ | maxI _ | minu _ | maxu _ | clz _ | ctz _ | popc _ | bfx _ | bfi _
   | sel _ | seqI _ | slt _ | sltu _ | liI _ | liHi _ | mov _ => rw [exec]; exact nextHub_scalarOp h
  | fadd _ | fsub _ | fmul _ | ffma _ | fdiv _ | fsqrt _ | fmin _ | fmax _ | fcmp _ _ | fcvt _ _ =>
    rw [exec]
    exact nextHub_scalarFloat h
  | sysr _ => rw [exec]; exact nextHub_execSysr h
  | sysw _ => rw [exec]; exact nextHub_execSysw h
  | timeI _ | cyc _ | perf _ | thra _ | ermark _ | gang _ | cksum _ | nop _ | branch _ _ | bcnt _ _ | jmp _ | jmpr _
   | call _ | loopI _ | joinI _ | halt _ | trapI _ | bkpt _ | waitInt _ | waitExt _ | yield _ | srch _ | srchk _
   | srchv _ | pushAll _ | pop _ | popn _ | elseSet _ | fold _ | firstSet _ | nextSet _ | gcnt _ | rdset _ | wrset _
   | mark _ | vsel _ | vcmp _ _ | vred _ _ | vscan _ _ | vperm _ | vfcmp _ _ | vpack _ | vunpk _ | ld _ | st _ | lds _
   | sts _ | sld _ | sst _ | atom _ | atoms _ | satom _ | fence _ | barw _ | gbar _ | trylock _ | tdiscard _ | fstat _
   | job _ | jwait _ | jpoll _ | bara _ | unlockW _ | waitv _ | tzero _ | finit _ =>
    rw [exec]
    exact nextHub_issue h fun m => by simp [h]
  | vrd _ | vrdFirst _ | vwr _ | tscale _ | fsolv _ => rw [exec]; exact nextHub_issueBy h fun m => by simp [h]
  | quota _ => rw [exec]; exact nextHub_execQuota h
  | ret _ => rw [exec]; exact nextHub_execRet h
  | spawn _ => rw [exec]; exact nextHub_execSpawn h
  | tail _ => rw [exec]; exact nextHub_execTail h
  | launchI _ => rw [exec]; exact nextHub_execLaunchI h
  | tret _ => rw [exec]; exact nextHub_execTret h
  | vadd _ | vsub _ | vmul _ | vmulh _ | vmad _ | vadds _ | vsubs _ | vand _ | vor _ | vxor _ | vnot _ | vshl _
   | vshr _ | vsra _ | vmin _ | vminu _ | vmax _ | vmaxu _ | vabs _ | vneg _ | vclz _ | vpopc _ | vbfx _ | vbfi _
   | vmov _ | vfabs _ | vfneg _ | vfclass _ => rw [exec]; exact nextHub_laneOp h
  | vlut _ => rw [exec]; exact nextHub_execVlut h
  | vfadd _ | vfsub _ | vfmul _ | vffma _ | vfmin _ | vfmax _ | vfdiv _ | vfsqrt _ | vfrcp _ | vfrsq _ | vfexp2 _
   | vflog2 _ | vhadd _ | vhmul _ | vhfma _ | vcvt _ _ | vcvti _ _ => rw [exec]; exact nextHub_floatOp h
  | vcvtEnc _ | vcvtDec _ => rw [exec]; exact nextHub_slotOp h
  | ldsc _ => rw [exec]; exact nextHub_execLdsc h
  | pref _ => rw [exec]; exact nextHub_execPref h
  | baraw _ => rw [exec]; exact nextHub_execBaraw h
  | lockW _ => rw [exec]; exact nextHub_execLockW h
  | mma _ _ _ => rw [exec]; exact nextHub_execMma h
  | mmag _ _ _ => rw [exec]; exact nextHub_execMmag h
  | tld _ => rw [exec]; exact nextHub_execTld h
  | tst _ => rw [exec]; exact nextHub_execTst h
  | tmov _ => rw [exec]; exact nextHub_execTmov h
  | trow _ _ => rw [exec]; exact nextHub_execTrow h
  | tcommit _ => rw [exec]; exact nextHub_execTcommit h
  | bmv _ _ _ => rw [exec]; exact nextHub_execBmv h
  | fupd _ | fdwn _ => rw [exec]; exact nextHub_sweepIssue h
  | qeLdp _ | qeLdi _ | qeMov _ | qeAdd _ | qeAddi _ | qeSub _ | qeAnd _ | qeOr _ | qeShl _ | qeShr _ =>
    rw [exec]
    exact nextHub_qeSet h
  | qeLdw _ => rw [exec]; simp [execQeLdw, h]
  | qeStw _ => rw [exec]; exact nextHub_execQeStw h
  | qeBeq _ | qeBne _ | qeBltu _ | qeBgeu _ | qeJmpf _ => rw [exec]; exact nextHub_qeJump h
  | qeLoop _ => rw [exec]; simp [execQeLoop, h]
  | qeAdvance _ => rw [exec]; simp [execQeAdvance, h]
  | qeFence _ => rw [exec]; simp [execQeFence, h]
  | qeWaitsig _ => rw [exec]; exact nextHub_execQeWaitsig h
  | qeLaunch _ => rw [exec]; exact nextHub_execQeLaunch h
  | qeLaunchp _ => rw [exec]; exact nextHub_execQeLaunchp h
  | qeSignal _ => rw [exec]; exact nextHub_execQeSignal h
  | pendingDelivery _ _ | lateScalarResult _ _ _ | ldscByteLanding _ _ | jobStart _ _ _ | jobRetire _ _ _
   | jobFault _ _ _ | tileEngineDone _ _ | factorSweepRetire _ _ | watchFire _ _ | waitTimeout _ _
   | spawnSlotTimeout _ _ | timerFire _ _ | trapEntry _ _ | controlIntervalBoundary _ | taskAdmit _ _
   | droopStretchEnd _ | droopHalvingEnd _ | contextKill _ | killHorizon _ | watchdog _ _ | freezeVaults _ _ _
   | freezeToken _ | gapRecord _ | barrierFold _ _ | censusMerge _ | queueSlotMap _ | packetStart _
   | indirectDimRead _ | blockPlace _ | trackerEntryFree _ _ | wsfillDone _ | accessPerformed _ _ _ | pageWalkDone _ _
   | bankComputeDone _ _ | waitsigConditionHolds _ | droopTrip _ | preemptRequest _ _ | preemptImageCaptured _
   | atomicReplyTimeout _ _ _ | contextRestore _ | retentionEntry _ | retentionExit _ _ | softError _ _
   | refreshWindow _ _ | tokenPull _ _ _ | tokenSpill _ _ _ | backInvalidate _ _ | doorbellHostWrite _ _
   | functionReady _ | uncontainedHardwareError _ | faultNotice | capsuleAssembled | capsuleNorSummary | epochRecord
   | firmwareBoot
   | partitionCommit _ | registerWrite _ _ _ | infoCmd _ | norlist _ | ctxset _ _ _ | mapPage _ _ _ _ | unmapPage _ _ _
    | qreg _ _ _ | qdereg _ _ _ | wsfill _ _ _ _ _ | attest _ _ | fwstage _ _ | fwcommit _ _ | caplist _ | errread _
    | capview _ _ _ _ | capread _ _ _ | caprel _ _ | capfreeze _ | cklog _ _ _ _ | censusCmd _ _ _ _ | fnote _ _
    | deviceReset | coldPowerOn =>
    exact (hi.elim (fun hw => hw rfl) fun hw => hw rfl).elim

/-- Settles O60: the sixteen fields are one part of the state, and every instruction that a slot or a program of a queue can
hold leaves it as it was (`nextHub_exec`). -/
theorem hubStateKept : Obligations.HubStateKept := by
  intro s t i hi ht
  have hub : t.hub = s.hub := nextHub_exec hi rfl t ht
  simpa only [State.hub, HubPart.mk.injEq] using hub

end Sys2Proof.Machine
end

section
/-!
PROOFS. The operations of the queue bytecode (21 R278, R280, R281).
-/
namespace Sys2Proof.Machine

/-- The packet once the step of its operation is counted (R280). -/
def Packet.stepped (p : Packet) : Packet := if p.counted then p else { p with steps := p.steps + 1 }

@[simp] theorem Packet.stepped_index (p : Packet) : p.stepped.index = p.index := by
  unfold stepped; split <;> rfl

@[simp] theorem Packet.stepped_bytes (p : Packet) : p.stepped.bytes = p.bytes := by
  unfold stepped; split <;> rfl

@[simp] theorem Packet.stepped_sub (p : Packet) : p.stepped.sub = p.sub := by
  unfold stepped; split <;> rfl

@[simp] theorem Packet.stepped_get (p : Packet) (n : BitVec 3) : p.stepped.get n = p.get n := by
  unfold stepped; split <;> rfl

@[simp] theorem windowPa_stepped (s : State) (r : Queue) (p : Packet) (o : QeOps) (align n : Nat) (read write : Bool)
    (need : Need) : windowPa s r p.stepped o align n read write need = windowPa s r p o align n read write need := by
  simp only [windowPa, Packet.stepped_get]

/-- Only which lines the hub holds changes, so a word reads as before. -/
@[simp] theorem seenNat_hubHolds (s : State) (ctx va n a w : Nat) : seenNat (hubHolds s ctx va n) a w = seenNat s a w :=
  foldl_keeps (g := (seenNat · a w)) (fun s i => by dsimp only; split <;> simp [seenNat_shareLine]) _ _

/-- What the effect of an operation makes of queue `q` and its packet. -/
def QEff.outcome (s : State) (q : Nat) (r : Queue) (p : Packet) : QEff → Host.Outcome State Fault Refusal
  | .go s' p' next => .next (putPacket s' q (({ p' with counted := false, parked := false } : Packet).follow next))
  | .wait s' => .next (putPacket s' q { p with counted := true, parked := true })
  | .stop status => .next (endPacket s q status (if status == 0 then 0 else p.index))
  | .poison pa => .next (enginePoison s r.ctx pa)
  | .hold => .next s

section
variable {s : State} {q : Nat} {r : Queue} {p : Packet} (hq : s.curQ = some q) (hr : s.queues.get? q = some r)
  (hp : r.packet = some p)
include hq hr hp

/-- The 257th step ends the packet with status 1 (R280). -/
theorem qeRun_overSteps (hc : p.counted = false) (hs : 256 ≤ p.steps) (k : Nat → Queue → Packet → QEff) :
    qeRun s k = .next (endPacket s q 1 p.index) := by
  simp [qeRun, hq, hr, hp, hc, hs]

/-- Before that the operation has its effect on the packet whose step is counted. -/
theorem qeRun_eq (hs : p.counted = true ∨ p.steps < 256) (k : Nat → Queue → Packet → QEff) :
    qeRun s k = (k q r p.stepped).outcome s q r p.stepped := by
  have hn : (!p.counted && decide (256 ≤ p.steps)) = false := by
    rcases hs with hs | hs <;> simp [hs]
  simp only [qeRun, hq, hr, hp, hn, Option.bind_some, Option.map_some, Bool.false_eq_true, if_false]
  rfl

theorem qeSet_eq (hs : p.counted = true ∨ p.steps < 256) (d : BitVec 3) (f : Packet → Word) :
    qeSet s d f = (QEff.go s (p.stepped.put d (f p.stepped)) (p.index + 1)).outcome s q r p.stepped := by
  rw [qeSet, qeRun_eq hq hr hp hs, Packet.stepped_index]

theorem qeJump_eq (hs : p.counted = true ∨ p.steps < 256) (o : QeOps) (taken : Packet → Bool) :
    qeJump s o taken = (QEff.go s p.stepped (if taken p.stepped then p.index + o.imm.toNat else p.index + 1)).outcome s q r
      p.stepped := by
  rw [qeJump, qeRun_eq hq hr hp hs, Packet.stepped_index]

/-- An operand outside its window ends the packet with WINDOW (R278). -/
theorem qeWindow_outside (hs : p.counted = true ∨ p.steps < 256) {o : QeOps} {read write : Bool} {need : Need}
    (hw : windowPa s r p o 8 8 read write need = none) (k : State → Packet → Nat → QEff) :
    qeWindow s o read write need k = .next (endPacket s q 2 p.index) := by
  rw [qeWindow, qeRun_eq hq hr hp hs, windowPa_stepped, hw, ← Packet.stepped_index]
  rfl

/-- An operation whose word is inside its window, at a ready port and not poisoned where it is read. -/
theorem qeWindow_inside (hs : p.counted = true ∨ p.steps < 256) {o : QeOps} {read write : Bool} {need : Need} {va pa : Nat}
    (hw : windowPa s r p o 8 8 read write need = some (va, pa)) (hport : portReady s pa = true)
    (hpoison : (read && poisonedAt s pa) = false) (k : State → Packet → Nat → QEff) :
    qeWindow s o read write need k = (k (hubHolds s r.ctx va 8) p.stepped pa).outcome s q r p.stepped := by
  rw [qeWindow, qeRun_eq hq hr hp hs, windowPa_stepped, hw]
  simp [hport, hpoison]

/-- `launch` with its record inside the window, at a ready port and without poison: a launch from there. -/
theorem execQeLaunch_inside (hs : p.counted = true ∨ p.steps < 256) {o : QeOps} {va pa : Nat}
    (hw : windowPa s r p o 256 256 true false .load = some (va, pa)) (hport : portReady s pa = true)
    (hpoison : poisonedIn s pa 256 = none) :
    execQeLaunch o s = (qeLaunchAt s o.d r p.stepped va).outcome s q r p.stepped := by
  rw [execQeLaunch, qeRun_eq hq hr hp hs, windowPa_stepped, hw]
  simp [hport, hpoison]

theorem execQeLaunch_outside (hs : p.counted = true ∨ p.steps < 256) {o : QeOps}
    (hw : windowPa s r p o 256 256 true false .load = none) : execQeLaunch o s = .next (endPacket s q 2 p.index) := by
  rw [execQeLaunch, qeRun_eq hq hr hp hs, windowPa_stepped, hw, ← Packet.stepped_index]
  rfl

theorem execQeLaunchp_eq (hs : p.counted = true ∨ p.steps < 256) (o : QeOps) :
    execQeLaunchp o s = (qeLaunchAt s o.d r p.stepped r.entry).outcome s q r p.stepped :=
  qeRun_eq hq hr hp hs _

end

/-- A launch waits while the dispatcher holds 256 grids (R281). -/
theorem qeLaunchAt_full {s : State} (h : 256 ≤ awaiting s) (d : BitVec 3) (r : Queue) (p : Packet) (va : Nat) :
    qeLaunchAt s d r p va = .wait s := if_pos h

/-- A launch with room, whose bytes can be read: it is accepted or refused, and resolves the packet's submission. -/
theorem qeLaunchAt_ready {s : State} {r : Queue} {va : Nat} (h : awaiting s < 256) (hv : launchReady s r.ctx va = true)
    (d : BitVec 3) (p : Packet) :
    qeLaunchAt s d r p va = .go (launchFrom s r.ctx va (p.sub.map Prod.fst)).1
      { p.put d (BitVec.ofNat 64 (launchFrom s r.ctx va (p.sub.map Prod.fst)).2) with sub := none } (p.index + 1) := by
  rw [qeLaunchAt, if_neg (by omega), hv]
  rfl

/-- Every operation of the bytecode runs through `qeRun`, so the 257th step ends each alike. -/
theorem exec_overSteps {s : State} {q : Nat} {r : Queue} {p : Packet} (hq : s.curQ = some q)
    (hr : s.queues.get? q = some r) (hp : r.packet = some p) (hc : p.counted = false) (hs : 256 ≤ p.steps) (o : QeOps) :
    ∀ x ∈ [Instr.qeLdp o, .qeLdw o, .qeStw o, .qeLdi o, .qeMov o, .qeAdd o, .qeAddi o, .qeSub o, .qeAnd o, .qeOr o, .qeShl o,
      .qeShr o, .qeBeq o, .qeBne o, .qeBltu o, .qeBgeu o, .qeJmpf o, .qeLoop o, .qeWaitsig o, .qeLaunch o, .qeLaunchp o,
      .qeSignal o, .qeAdvance o, .qeFence o], exec x s = .next (endPacket s q 1 p.index) := by
  simp only [List.forall_mem_cons, List.not_mem_nil, false_imp_iff, implies_true, exec_qeLdp, exec_qeLdw, exec_qeStw,
    exec_qeLdi, exec_qeMov, exec_qeAdd, exec_qeAddi, exec_qeSub, exec_qeAnd, exec_qeOr, exec_qeShl, exec_qeShr, exec_qeBeq,
    exec_qeBne, exec_qeBltu, exec_qeBgeu, exec_qeJmpf, exec_qeLoop, exec_qeWaitsig, exec_qeLaunch, exec_qeLaunchp,
    exec_qeSignal, exec_qeAdvance, exec_qeFence, execQeLdp, execQeLdw, execQeStw, execQeLdi, execQeMov, execQeAdd, execQeAddi,
    execQeSub, execQeAnd, execQeOr, execQeShl, execQeShr, execQeBeq, execQeBne, execQeBltu, execQeBgeu, execQeJmpf, execQeLoop,
    execQeWaitsig, execQeLaunch, execQeLaunchp, execQeSignal, execQeAdvance, execQeFence, qeSet, qeJump, qeWindow,
    qeRun_overSteps hq hr hp hc hs, and_self]

section
variable {s : State} {q : Nat} {r : Queue} {p : Packet} (hq : s.curQ = some q) (hr : s.queues.get? q = some r)
  (hp : r.packet = some p) (hs : p.counted = true ∨ p.steps < 256)
include hq hr hp hs

/-- Each register operation writes its destination and goes on. -/
theorem exec_register (o : QeOps) :
    ∀ x ∈ [(Instr.qeLdp o, BitVec.ofNat 64 (fieldAt p.bytes o.imm.toNat 8)), (.qeLdi o, qeImm o), (.qeMov o, p.get o.a),
      (.qeAdd o, p.get o.a + p.get o.b), (.qeAddi o, p.get o.a + qeImm o), (.qeSub o, p.get o.a - p.get o.b),
      (.qeAnd o, p.get o.a &&& p.get o.b), (.qeOr o, p.get o.a ||| p.get o.b), (.qeShl o, p.get o.a <<< (o.imm.toNat % 64)),
      (.qeShr o, p.get o.a >>> (o.imm.toNat % 64))],
    exec x.1 s = (QEff.go s (p.stepped.put o.d x.2) (p.index + 1)).outcome s q r p.stepped := by
  simp only [List.forall_mem_cons, List.not_mem_nil, false_imp_iff, implies_true, exec_qeLdp, exec_qeLdi, exec_qeMov,
    exec_qeAdd, exec_qeAddi, exec_qeSub, exec_qeAnd, exec_qeOr, exec_qeShl, exec_qeShr, execQeLdp, execQeLdi, execQeMov, execQeAdd,
    execQeAddi, execQeSub, execQeAnd, execQeOr, execQeShl, execQeShr, qeSet_eq hq hr hp hs, Packet.stepped_get,
    Packet.stepped_bytes, and_self]

/-- Each transfer goes to its index plus IMM where its relation holds. -/
theorem exec_transfer (o : QeOps) :
    ∀ x ∈ [(Instr.qeBeq o, decide (p.get o.a = p.get o.b)), (.qeBne o, decide (p.get o.a ≠ p.get o.b)),
      (.qeBltu o, (p.get o.a).ult (p.get o.b)), (.qeBgeu o, (p.get o.b).ule (p.get o.a)), (.qeJmpf o, true)],
    exec x.1 s = (QEff.go s p.stepped (if x.2 then p.index + o.imm.toNat else p.index + 1)).outcome s q r p.stepped := by
  simp only [List.forall_mem_cons, List.not_mem_nil, false_imp_iff, implies_true, and_true, exec_qeBeq, exec_qeBne, exec_qeBltu,
    exec_qeBgeu, exec_qeJmpf, execQeBeq, execQeBne, execQeBltu, execQeBgeu, execQeJmpf, qeJump_eq hq hr hp hs,
    Packet.stepped_get]
  simp

end

/-- Settles O49, through what `qeRun` makes of the effect of each operation. -/
theorem queueOperations : Obligations.QueueOperations := by
  intro s q r p o hq hr hp p' go waits hs i a b imm all
  refine ⟨fun hc hs => exec_overSteps hq hr hp hc hs o, fun hs => ⟨exec_register hq hr hp hs o, exec_transfer hq hr hp hs o,
    ?_, ?_, ?_, ?_, ?_, ?_, ?_, ?_, ?_, ?_, ?_, ?_⟩⟩
  · rw [exec_qeLoop, execQeLoop, qeRun_eq hq hr hp hs, Packet.stepped_index]
    rfl
  · rw [exec_qeFence, execQeFence, qeRun_eq hq hr hp hs, Packet.stepped_index]
    rfl
  · rw [exec_qeAdvance, execQeAdvance, qeRun_eq hq hr hp hs]
    rfl
  · intro va pa hw hport hpoison
    have inside := qeWindow_inside hq hr hp hs hw hport (by simpa using hpoison)
    rw [exec_qeLdw, exec_qeWaitsig, execQeLdw, execQeWaitsig, inside, inside]
    simp only [seenNat_hubHolds, Packet.stepped_index, Packet.stepped_get]
    exact ⟨rfl, by split <;> rfl⟩
  · intro va pa hw hport
    rw [exec_qeStw, execQeStw, qeWindow_inside hq hr hp hs hw hport rfl, Packet.stepped_index, Packet.stepped_get]
    rfl
  · intro va pa hw hport hpoison
    rw [exec_qeSignal, execQeSignal, qeWindow_inside hq hr hp hs hw hport (by simpa using hpoison), seenNat_hubHolds,
      Packet.stepped_index, Packet.stepped_get]
    rfl
  · intro hw
    rw [exec_qeLdw, exec_qeWaitsig]
    exact ⟨qeWindow_outside hq hr hp hs hw _, qeWindow_outside hq hr hp hs hw _⟩
  · exact fun hw => (exec_qeStw ..).trans (qeWindow_outside hq hr hp hs hw _)
  · exact fun hw => (exec_qeSignal ..).trans (qeWindow_outside hq hr hp hs hw _)
  · exact fun hw => execQeLaunch_outside hq hr hp hs hw
  · refine fun hfull => ⟨?_, fun va pa hw hport hpoison => ?_⟩
    · rw [exec_qeLaunchp, execQeLaunchp_eq hq hr hp hs, qeLaunchAt_full hfull]
      rfl
    · rw [exec_qeLaunch, execQeLaunch_inside hq hr hp hs hw hport hpoison, qeLaunchAt_full hfull]
      rfl
  · refine fun hroom => ⟨fun hready => ?_, fun va pa hw hport hpoison hready => ?_⟩
    · rw [exec_qeLaunchp, execQeLaunchp_eq hq hr hp hs, qeLaunchAt_ready (va := r.entry) hroom hready, Packet.stepped_sub,
        Packet.stepped_index]
      rfl
    · rw [exec_qeLaunch, execQeLaunch_inside hq hr hp hs hw hport hpoison, qeLaunchAt_ready hroom hready,
        Packet.stepped_sub, Packet.stepped_index]
      rfl

end Sys2Proof.Machine
end

section
/-!
PROOFS. What the end of a context takes away, and that it leaves the other contexts as they were (28 R360-R362).
-/
namespace Sys2Proof.Machine

/-! ### States with fewer blocks, queues and grids -/

/-- No context has come to life or ended, and no block of a context, no queue and no grid is new; what kills are due and the
freeze are as they were. -/
structure Fewer (s t : State) : Prop where
  live : ∀ x, t.ctxLive x = s.ctxLive x
  blocks : ∀ x, (∀ p ∈ s.clusters, p.2.blocksOf x = []) → ∀ p ∈ t.clusters, p.2.blocksOf x = []
  queues : ∀ p ∈ t.queues, p ∈ s.queues
  grids : ∀ p ∈ t.grids, p ∈ s.grids
  due : t.killDue = s.killDue
  freeze : t.freeze = s.freeze

section
variable {s t u : State}

theorem ctxLive_of_ctxs (h : t.ctxs = s.ctxs) (x : Nat) : t.ctxLive x = s.ctxLive x := by
  simp only [State.ctxLive, State.ctx?, h]

theorem ctxLive_modCtx {f : Context → Context} (hf : ∀ x, (f x).killed = x.killed) (n x : Nat) :
    (s.modCtx n f).ctxLive x = s.ctxLive x := by
  unfold State.ctxLive State.ctx?
  rw [State.modCtx_ctxs, SMap.get?_modify]
  by_cases hx : x = n
  · rw [if_pos hx, hx]
    cases SMap.get? s.ctxs n <;> simp [hf]
  · rw [if_neg hx]

theorem ctxLive_modCtx_ne {n x : Nat} (f : Context → Context) (h : x ≠ n) : (s.modCtx n f).ctxLive x = s.ctxLive x := by
  simp only [State.ctxLive, State.ctx?, State.modCtx_ctxs, SMap.get?_modify, if_neg h]

theorem Fewer.of_eq (hx : t.ctxs = s.ctxs) (hc : t.clusters = s.clusters) (hq : t.queues = s.queues)
    (hg : t.grids = s.grids) (hd : t.killDue = s.killDue) (hf : t.freeze = s.freeze) : Fewer s t :=
  ⟨ctxLive_of_ctxs hx, fun _ h => by rwa [hc], fun p => by rw [hq]; exact id, fun p => by rw [hg]; exact id, hd, hf⟩

theorem Fewer.refl (s : State) : Fewer s s := .of_eq rfl rfl rfl rfl rfl rfl

theorem Fewer.trans (h : Fewer s t) (h' : Fewer t u) : Fewer s u :=
  ⟨fun x => (h'.live x).trans (h.live x), fun x hx => h'.blocks x (h.blocks x hx), fun p hp => h.queues p (h'.queues p hp),
    fun p hp => h.grids p (h'.grids p hp), h'.due.trans h.due, h'.freeze.trans h.freeze⟩

theorem Fewer.foldl {α : Type} {f : State → α → State} (hf : ∀ s x, Fewer s (f s x)) (l : List α) (s : State) :
    Fewer s (l.foldl f s) := by
  induction l generalizing s with
  | nil => exact .refl s
  | cons x l ih => exact (hf s x).trans (ih _)

theorem StoreFrame.fewer (h : StoreFrame s t) : Fewer s t :=
  .of_eq (by rw [h.rest]) (by rw [h.rest]) h.queues h.grids (by rw [h.rest])
  (by rw [h.rest])

theorem fewer_record (s : State) (u ty ctx slot ord : Nat) (pay : Word) : Fewer s (record s u ty ctx slot ord pay) := by
  rw [record_eq]
  exact .of_eq rfl rfl rfl rfl rfl rfl

/-- What is written to the clusters alone, where each keeps its blocks. -/
theorem fewer_mapClusters (s : State) {f : Nat → Cluster → Cluster} (hf : ∀ c cl, (f c cl).blocks = cl.blocks) :
    Fewer s { s with clusters := s.clusters.map fun p => (p.1, f p.1 p.2) } := by
  refine ⟨fun _ => rfl, fun x h p hp => ?_, fun _ => id, fun _ => id, rfl, rfl⟩
  obtain ⟨q, hq, rfl⟩ := List.mem_map.mp hp
  simpa only [Cluster.blocksOf, hf] using h q hq

theorem mem_del_iff {α : Type} {m : SMap α} {k : Nat} {p : Nat × α} : p ∈ m.del k ↔ p ∈ m ∧ p.1 ≠ k := by
  induction m with
  | nil => simp [SMap.del]
  | cons q m ih =>
    obtain ⟨k', v⟩ := q
    rw [SMap.del]
    split
    · rename_i h
      rw [ih, List.mem_cons]
      constructor
      · exact fun ⟨hp, hk⟩ => ⟨.inr hp, hk⟩
      · rintro ⟨rfl | hp, hk⟩
        · exact absurd h hk
        · exact ⟨hp, hk⟩
    · rename_i h
      rw [List.mem_cons, ih, List.mem_cons]
      constructor
      · rintro (rfl | ⟨hp, hk⟩)
        · exact ⟨.inl rfl, h⟩
        · exact ⟨.inr hp, hk⟩
      · rintro ⟨rfl | hp, hk⟩
        · exact .inl rfl
        · exact .inr ⟨hp, hk⟩

theorem del_of_get?_none {α : Type} {m : SMap α} {k : Nat} (h : m.get? k = none) : m.del k = m := by
  induction m with
  | nil => rfl
  | cons q m ih =>
    obtain ⟨k', v⟩ := q
    have hk : ¬ k' = k := fun e => by simp [SMap.get?, e] at h
    rw [SMap.get?, if_neg hk] at h
    rw [SMap.del, if_neg hk, ih h]

/-! ### The parts of the end of a context -/

theorem storeNat_frame (s : State) (pa n v : Nat) : StoreFrame s (storeNat s pa n v) := storeBytes_frame ..

theorem signalGrid_frame (s : State) (ctx sigp status : Nat) : StoreFrame s (signalGrid s ctx sigp status).1 := by
  unfold signalGrid
  split
  · exact .refl s
  split
  · exact .refl s
  split
  · exact .refl s
  · dsimp only
    exact (hubHolds_frame ..).trans (storeNat_frame ..)

theorem fewer_mergeCensus (s : State) (ctx : Nat) : Fewer s (mergeCensus s ctx) := by
  have hclusters := fewer_mapClusters s (f := fun _ cl => { cl with census := cl.census.filter fun e => e.ctx != ctx })
    fun _ _ => rfl
  unfold mergeCensus
  dsimp only
  split
  · exact hclusters
  · exact ⟨hclusters.live, hclusters.blocks, hclusters.queues, hclusters.grids, rfl, rfl⟩

theorem fewer_jobsStop (s : State) (ctx cause : Nat) : Fewer s (jobsStop s ctx cause) :=
  .foldl (fun s _ => .foldl (fun _ _ => fewer_record ..) _ s) _ s

theorem fewer_purgeRecords (s : State) (ctx : Nat) : Fewer s (purgeRecords s ctx) := by
  refine .foldl (fun s p => ?_) _ s
  split
  · exact .refl s
  · split <;> exact fewer_record ..

/-- The parent and the signal of a packet that a queue leaves stay in its context. -/
def keepSub (s : State) (r : Queue) : State :=
  match r.packet.bind Packet.sub with
  | some sub => s.modCtx r.ctx fun x => { x with subs := x.subs.set r.head.toNat sub }
  | none => s

theorem keepSub_queues (s : State) (r : Queue) : (keepSub s r).queues = s.queues := by
  unfold keepSub
  split <;> rfl

theorem fewer_keepSub (s : State) (r : Queue) : Fewer s (keepSub s r) := by
  unfold keepSub
  split
  · exact ⟨fun _ => ctxLive_modCtx (f := fun x => { x with subs := x.subs.set _ _ }) (fun _ => rfl) .., fun _ => id,
      fun _ => id,
      fun _ => id, rfl, rfl⟩
  · exact .refl s

/-- HEAD and tail of a queue that closes stand in memory. -/
def storeEnds (s : State) (r : Queue) (tail : Word) : State :=
  hubStore (hubStore s r.ctx (r.va + 16) 8 r.head.toNat) r.ctx (r.va + 24) 8 tail.toNat

theorem storeEnds_frame (s : State) (r : Queue) (tail : Word) : StoreFrame s (storeEnds s r tail) :=
  (hubStore_frame ..).trans (hubStore_frame ..)

/-- The record of a queue and its tail are gone. -/
def unlisted (s : State) (q : Nat) (r : Queue) : State := { s with queues := s.queues.del q, bells := s.bells.del r.door }

theorem fewer_unlisted (s : State) (q : Nat) (r : Queue) : Fewer s (unlisted s q r) :=
  ⟨fun _ => rfl, fun _ => id, fun _ hp => (mem_del_iff.mp hp).1, fun _ => id, rfl, rfl⟩

theorem closeQueue_some {q : Nat} {r : Queue} (h : s.queues.get? q = some r) :
    closeQueue s q = keepSub (unlisted (storeEnds s r ((s.bells.get? r.door).getD 0)) q r) r := by
  rw [closeQueue, h]
  rfl

theorem closeQueue_none {q : Nat} (h : s.queues.get? q = none) : closeQueue s q = s := by
  rw [closeQueue, h]

theorem closeQueue_queues (s : State) (q : Nat) : (closeQueue s q).queues = s.queues.del q := by
  cases h : s.queues.get? q with
  | none => rw [closeQueue_none h, del_of_get?_none h]
  | some r => rw [closeQueue_some h, keepSub_queues, unlisted, (storeEnds_frame ..).queues]

theorem fewer_closeQueue (s : State) (q : Nat) : Fewer s (closeQueue s q) := by
  cases h : s.queues.get? q with
  | none =>
    rw [closeQueue_none h]
    exact .refl s
  | some r =>
    rw [closeQueue_some h]
    exact ((storeEnds_frame ..).fewer.trans (fewer_unlisted ..)).trans (fewer_keepSub ..)

/-- Of the queues that close none is left. -/
theorem mem_foldl_closeQueue {l : List Nat} {p : Nat × Queue} (hp : p ∈ (l.foldl closeQueue s).queues) :
    p ∈ s.queues ∧ p.1 ∉ l := by
  induction l generalizing s with
  | nil => exact ⟨hp, by simp⟩
  | cons q l ih =>
    obtain ⟨hmem, hl⟩ := ih hp
    rw [closeQueue_queues, mem_del_iff] at hmem
    exact ⟨hmem.1, by simp [hmem.2, hl]⟩

/-- A grid ends with its status, its signal and its record (21 R285). -/
def endGrid (ctx status : Nat) (s : State) (p : Nat × Grid) : State :=
  let m := mergeCensus s ctx
  let x := signalGrid m ctx p.2.rec'.sigp status
  let t := launchRecord x.1 2 ctx p.2.va p.2.rec'.depth (if x.2 then status else 0x23)
  { t with grids := t.grids.del p.1 }

theorem endGrids_eq (s : State) (ctx status : Nat) : endGrids s ctx status =
    ((s.grids.filter fun p => p.2.rec'.ctx == ctx).reverse).foldl (endGrid ctx status) s := rfl

theorem endGrid_grids (ctx status : Nat) (s : State) (p : Nat × Grid) : (endGrid ctx status s p).grids = s.grids.del p.1 := by
  have h : (mergeCensus s ctx).grids = s.grids := by
    unfold mergeCensus
    dsimp only
    split <;> rfl
  unfold endGrid launchRecord
  dsimp only
  rw [record_eq, (signalGrid_frame ..).grids, h]

theorem fewer_endGrid (ctx status : Nat) (s : State) (p : Nat × Grid) : Fewer s (endGrid ctx status s p) := by
  have h := ((fewer_mergeCensus s ctx).trans (signalGrid_frame _ ctx p.2.rec'.sigp status).fewer).trans
    (fewer_record _ hubUnit 0x0A ctx 0 0 (payload [(49, p.2.va / 256), (1, 0),
      (8, if (signalGrid (mergeCensus s ctx) ctx p.2.rec'.sigp status).2 then status else 0x23), (4, p.2.rec'.depth), (2, 2)]))
  exact ⟨h.live, h.blocks, h.queues, fun q hq => h.grids q (mem_del_iff.mp hq).1, h.due, h.freeze⟩

theorem mem_foldl_endGrid {ctx status : Nat} {l : List (Nat × Grid)} {p : Nat × Grid}
    (hp : p ∈ (l.foldl (endGrid ctx status) s).grids) : p ∈ s.grids ∧ p ∉ l := by
  induction l generalizing s with
  | nil => exact ⟨hp, by simp⟩
  | cons g l ih =>
    obtain ⟨hmem, hl⟩ := ih hp
    rw [endGrid_grids, mem_del_iff] at hmem
    exact ⟨hmem.1, List.not_mem_cons_of_ne_of_not_mem (fun h => hmem.2 (congrArg Prod.fst h)) hl⟩

/-- No grid of the context is left. -/
theorem ctx_of_mem_endGrids {ctx status : Nat} {p : Nat × Grid} (hp : p ∈ (endGrids s ctx status).grids) :
    p ∈ s.grids ∧ p.2.rec'.ctx ≠ ctx := by
  rw [endGrids_eq] at hp
  obtain ⟨hmem, hl⟩ := mem_foldl_endGrid hp
  exact ⟨hmem, fun hctx => hl (by simp [hmem, hctx])⟩

theorem fewer_endGrids (s : State) (ctx status : Nat) : Fewer s (endGrids s ctx status) := .foldl (fewer_endGrid ctx status) _ s

theorem fewer_tlbDrop (s : State) (ctx lo size : Nat) : Fewer s (tlbDrop s ctx lo size) := by
  have h := fewer_mapClusters s (f := fun _ cl => { cl with utlb := cl.utlb.filter fun e =>
    !(e.ctx == ctx && overlaps e.base (pageBytes (pteSz e.leaf)) lo size) }) fun _ _ => rfl
  exact ⟨h.live, h.blocks, h.queues, h.grids, h.due, h.freeze⟩

theorem fewer_dropReplies (s : State) : Fewer s (dropReplies s) := by
  unfold dropReplies
  split
  · exact .refl s
  · exact .of_eq rfl rfl rfl rfl rfl rfl

theorem fewer_bumpErr (s : State) (hi lo : Nat) : Fewer s (bumpErr s hi lo) := by
  unfold bumpErr
  dsimp only
  split
  · exact .refl s
  · exact .of_eq rfl rfl rfl rfl rfl rfl

/-! ### The end of a context -/

/-- A context leaves every cluster. -/
def leaveClusters (s : State) (ctx : Nat) : State :=
  { s with clusters := s.clusters.map fun (p : Nat × Cluster) =>
      (p.1, { p.2.without ctx (p.2.blocksOf ctx) with
        orphans := p.2.orphans.filter fun o => o.ctx != ctx
        nextId := p.2.nextId + (jobStores s p.2 ctx).length }) }

theorem leaveClusters_noBlocks (s : State) (ctx : Nat) : ∀ p ∈ (leaveClusters s ctx).clusters, p.2.blocksOf ctx = [] := by
  intro p hp
  obtain ⟨q, -, rfl⟩ := List.mem_map.mp hp
  exact blocksOf_without q.2

/-- What leaves one context leaves no block of another. -/
theorem blocksOf_without_other (cl : Cluster) (ctx : Nat) {x : Nat} (h : cl.blocksOf x = []) :
    (cl.without ctx (cl.blocksOf ctx)).blocksOf x = [] := by
  unfold Cluster.blocksOf Cluster.without at *
  rw [List.map_eq_nil_iff, List.filter_eq_nil_iff] at *
  exact fun p hp => h p (List.mem_filter.mp hp).1

theorem fewer_leaveClusters (s : State) (ctx : Nat) : Fewer s (leaveClusters s ctx) := by
  refine ⟨fun _ => rfl, fun x h p hp => ?_, fun _ => id, fun _ => id, rfl, rfl⟩
  obtain ⟨q, hq, rfl⟩ := List.mem_map.mp hp
  exact blocksOf_without_other q.2 ctx (h q hq)

/-- The queues of a context close. -/
def closeQueues (s : State) (ctx : Nat) : State :=
  ((s.queues.filter fun (p : Nat × Queue) => p.2.ctx == ctx).map Prod.fst).foldl closeQueue s

theorem fewer_closeQueues (s : State) (ctx : Nat) : Fewer s (closeQueues s ctx) := .foldl fewer_closeQueue _ s

theorem closeQueues_noQueues {ctx : Nat} {p : Nat × Queue} (hp : p ∈ (closeQueues s ctx).queues) : p.2.ctx ≠ ctx := by
  obtain ⟨hmem, hl⟩ := mem_foldl_closeQueue hp
  exact fun hctx => hl (List.mem_map_of_mem (List.mem_filter.mpr ⟨hmem, by simp [hctx]⟩))

/-- The context's translations, its claims on locks, its life and the replies to it end. -/
def forgetContext (s : State) (ctx : Nat) : State :=
  let s : State := tlbDrop s ctx 0 (2 ^ 57)
  let s : State := { s with locks := s.locks.map fun (p : Nat × Lock) => (p.1, p.2.purge ctx) }
  let s : State := bumpKills (dropReplies (s.modCtx ctx fun x => { x with killed := true, images := [] }))
  { s with cur := match s.cur with
      | some (c, k) => if (s.strand? c k).isSome then s.cur else none
      | none => none }

/-- The same, but that the context `ctx` may have ended. -/
structure FewerBut (ctx : Nat) (s t : State) : Prop where
  live : ∀ x, x ≠ ctx → t.ctxLive x = s.ctxLive x
  blocks : ∀ x, (∀ p ∈ s.clusters, p.2.blocksOf x = []) → ∀ p ∈ t.clusters, p.2.blocksOf x = []
  queues : ∀ p ∈ t.queues, p ∈ s.queues
  grids : ∀ p ∈ t.grids, p ∈ s.grids
  due : t.killDue = s.killDue
  freeze : t.freeze = s.freeze

theorem Fewer.but (h : Fewer s t) (ctx : Nat) : FewerBut ctx s t :=
  ⟨fun x _ => h.live x, h.blocks, h.queues, h.grids, h.due, h.freeze⟩

theorem FewerBut.trans {ctx : Nat} (h : FewerBut ctx s t) (h' : FewerBut ctx t u) : FewerBut ctx s u :=
  ⟨fun x hx => (h'.live x hx).trans (h.live x hx), fun x hx => h'.blocks x (h.blocks x hx),
    fun p hp => h.queues p (h'.queues p hp), fun p hp => h.grids p (h'.grids p hp), h'.due.trans h.due,
    h'.freeze.trans h.freeze⟩

theorem fewerBut_forgetContext (s : State) (ctx : Nat) : FewerBut ctx s (forgetContext s ctx) := by
  have hlocks (s : State) : Fewer s { s with locks := s.locks.map fun (p : Nat × Lock) => (p.1, p.2.purge ctx) } :=
    .of_eq rfl rfl rfl rfl rfl rfl
  have hkilled (s : State) : FewerBut ctx s (s.modCtx ctx fun x => { x with killed := true, images := [] }) :=
    ⟨fun x hx => ctxLive_modCtx_ne _ hx, fun _ => id, fun _ => id, fun _ => id, rfl, rfl⟩
  have h := (((fewer_tlbDrop s ctx 0 (2 ^ 57)).trans (hlocks _)).but ctx).trans
    ((hkilled _).trans (((fewer_dropReplies _).trans (fewer_bumpErr _ 63 48)).but ctx))
  exact ⟨h.live, h.blocks, h.queues, h.grids, h.due, h.freeze⟩

/-- The end of a context in its order. -/
theorem endContext_eq (s : State) (ctx cause : Nat) : endContext s ctx cause = forgetContext (endGrids
    (closeQueues (leaveClusters (purgeRecords (jobsStop s ctx cause) ctx) ctx) ctx) ctx 0x21) ctx := rfl

theorem fewerBut_endContext (s : State) (ctx cause : Nat) : FewerBut ctx s (endContext s ctx cause) := by
  rw [endContext_eq]
  exact (((((fewer_jobsStop s ctx cause).trans (fewer_purgeRecords ..)).trans (fewer_leaveClusters ..)).trans
    (fewer_closeQueues ..)).trans (fewer_endGrids ..)).but ctx |>.trans (fewerBut_forgetContext ..)

/-- A context that ends has no block, no queue and no grid (28 R360). -/
theorem endContext_removes (s : State) (ctx cause : Nat) : (∀ p ∈ (endContext s ctx cause).clusters, p.2.blocksOf ctx = []) ∧
    (∀ p ∈ (endContext s ctx cause).queues, p.2.ctx ≠ ctx) ∧ ∀ p ∈ (endContext s ctx cause).grids, p.2.rec'.ctx ≠ ctx := by
  rw [endContext_eq]
  generalize purgeRecords (jobsStop s ctx cause) ctx = s
  have forget := fewerBut_forgetContext (endGrids (closeQueues (leaveClusters s ctx) ctx) ctx 0x21) ctx
  have grids := fewer_endGrids (closeQueues (leaveClusters s ctx) ctx) ctx 0x21
  refine ⟨forget.blocks ctx (grids.blocks ctx ((fewer_closeQueues ..).blocks ctx (leaveClusters_noBlocks s ctx))),
    fun p hp => closeQueues_noQueues (grids.queues p (forget.queues p hp)),
    fun p hp => (ctx_of_mem_endGrids (forget.grids p hp)).2⟩

theorem fewer_dropDebts (s : State) (c : Nat) (gone : Nat → Bool) : Fewer s (dropDebts s c gone) := by
  unfold dropDebts
  split
  · exact .refl s
  · exact .of_eq rfl rfl rfl rfl rfl rfl

theorem fewer_dropKilled (s : State) (ctx : Nat) (left : List (Nat × Access)) : Fewer s (dropKilled s ctx left) := by
  unfold dropKilled
  split
  · exact .refl s
  · exact .foldl (fun s c => fewer_dropDebts ..) _ s

/-- A kill brings no context to life (28 R361). -/
theorem ctxLive_killContext_of {x : Nat} (h : s.ctxLive x = false) (ctx cause : Nat) :
    (killContext s ctx cause).ctxLive x = false := by
  by_cases hx : x = ctx
  · rw [hx, ctxLive_killContext]
  · unfold killContext
    split
    · exact h
    · exact ((fewerBut_endContext ..).live x hx).trans (((fewer_dropKilled ..).live x).trans h)

/-- A kill leaves the freeze to the unit that raised it. -/
theorem killContext_freeze (s : State) (ctx cause : Nat) : (killContext s ctx cause).freeze = s.freeze := by
  unfold killContext
  split
  · rfl
  · exact (fewerBut_endContext ..).freeze.trans (fewer_dropKilled ..).freeze

/-- After the kills of a list none of its contexts is live. -/
theorem ctxLive_foldl_killContext {l : List Nat} {cause x : Nat} (h : x ∈ l ∨ s.ctxLive x = false) :
    (l.foldl (fun s ctx => killContext s ctx cause) s).ctxLive x = false := by
  induction l generalizing s with
  | nil => simpa using h
  | cons ctx l ih =>
    refine ih ?_
    rcases h with h | h
    · rcases List.mem_cons.mp h with rfl | h
      · exact .inr (ctxLive_killContext ..)
      · exact .inl h
    · exact .inr (ctxLive_killContext_of h ..)

end

end Sys2Proof.Machine
end

section
/-!
PROOFS. Control intervals and droop (24 R315-R322).
-/
namespace Sys2Proof.Machine

theorem sameBytes_of_mem {s t : State} (h : t.mem = s.mem) : SameBytes s t := fun a => by rw [h]

@[simp] theorem record_ceil (s : State) (u ty ctx slot ord : Nat) (pay : Word) :
    (record s u ty ctx slot ord pay).ceil = s.ceil := by rw [record_eq]

/-! ### The ceilings (R315) -/

/-- A step of one regulator's ceiling leaves those of the others. -/
theorem stepCeiling_ceil (draws : List Nat) (s : State) {r : Nat} (hr : r < 4) (j : Nat) :
    (stepCeiling draws s r).ceil.toList.getD j 7 =
      if j = r then nextCeiling (s.ceil.toList.getD r 7) draws[r]? else s.ceil.toList.getD j 7 := by
  unfold stepCeiling
  dsimp only
  split
  · rename_i h
    split
    · rename_i hj
      rw [hj, eq_of_beq h]
    · rfl
  · rw [record_ceil]
    by_cases hj : j = r
    · subst hj
      simp [List.getD_eq_getElem?_getD, Vector.toList_setIfInBounds, hr]
    · simp [List.getD_eq_getElem?_getD, Vector.toList_setIfInBounds, List.getElem?_set_ne, hj, Ne.symm hj]

theorem stepCeiling_clusters (draws : List Nat) (s : State) (r : Nat) : (stepCeiling draws s r).clusters = s.clusters := by
  unfold stepCeiling
  dsimp only
  split
  · rfl
  · rw [record_clusters]

/-- Each of the four ceilings takes one step. -/
theorem stepCeilings_ceil (draws : List Nat) (s : State) {r : Nat} (hr : r < 4) :
    ((upto 4).foldl (stepCeiling draws) s).ceil.toList.getD r 7 = nextCeiling (s.ceil.toList.getD r 7) draws[r]? := by
  have h4 : upto 4 = [0, 1, 2, 3] := rfl
  rw [h4]
  simp only [List.foldl_cons, List.foldl_nil, stepCeiling_ceil _ _ (show 0 < 4 by omega),
    stepCeiling_ceil _ _ (show 1 < 4 by omega), stepCeiling_ceil _ _ (show 2 < 4 by omega), stepCeiling_ceil _ _ (show 3 < 4 by omega)]
  obtain rfl | rfl | rfl | rfl : r = 0 ∨ r = 1 ∨ r = 2 ∨ r = 3 := by omega
  all_goals simp

/-! ### The levels of the clusters (R315, R317) -/

/-- What the levels of a boundary are computed from is as it was. -/
structure LevelFrame (s t : State) : Prop where
  mem : t.mem = s.mem
  time : t.time = s.time
  ctxs : t.ctxs = s.ctxs
  active : t.active = s.active
  blocks : ∀ c, (t.cluster c).blocks = (s.cluster c).blocks
  counters : ∀ c, (t.cluster c).counters = (s.cluster c).counters

section
variable {s t u : State}

theorem LevelFrame.refl (s : State) : LevelFrame s s := ⟨rfl, rfl, rfl, rfl, fun _ => rfl, fun _ => rfl⟩

theorem LevelFrame.trans (h : LevelFrame s t) (h' : LevelFrame t u) : LevelFrame s u :=
  ⟨h'.mem.trans h.mem, h'.time.trans h.time, h'.ctxs.trans h.ctxs, h'.active.trans h.active,
    fun c => (h'.blocks c).trans (h.blocks c), fun c => (h'.counters c).trans (h.counters c)⟩

theorem LevelFrame.foldl {α : Type} {f : State → α → State} (hf : ∀ s x, LevelFrame s (f s x)) (l : List α) (s : State) :
    LevelFrame s (l.foldl f s) := by
  induction l generalizing s with
  | nil => exact .refl s
  | cons x l ih => exact (hf s x).trans (ih _)

theorem LevelFrame.requestedLevel (h : LevelFrame s t) (c : Nat) : requestedLevel t c = requestedLevel s c := by
  have hreq : requestOf t c = requestOf s c := by
    funext x
    simp [requestOf, pcapOf, State.desc?, State.ctx?, State.counters, h.ctxs, h.counters]
  simp [Machine.requestedLevel, Cluster.residents, h.blocks, hreq]

theorem LevelFrame.clusterRail (h : LevelFrame s t) (c : Nat) : clusterRail t c = clusterRail s c := by
  simp [Machine.clusterRail, State.activeEntry, h.active]

theorem LevelFrame.record (h : LevelFrame s t) (u ty ctx slot ord : Nat) (pay : Word) :
    LevelFrame s (record t u ty ctx slot ord pay) := by
  refine h.trans ?_
  rw [record_eq]
  exact ⟨rfl, rfl, rfl, rfl, fun _ => rfl, fun _ => rfl⟩

theorem levelFrame_modCluster (s : State) (c : Nat) {f : Cluster → Cluster} (hb : ∀ cl, (f cl).blocks = cl.blocks)
    (hn : ∀ cl, (f cl).counters = cl.counters) : LevelFrame s (s.modCluster c f) := by
  refine ⟨rfl, rfl, rfl, rfl, fun d => ?_, fun d => ?_⟩ <;> by_cases hd : d = c
  · rw [hd, State.cluster_modCluster, hb]
  · rw [State.cluster_modCluster_ne _ _ hd]
  · rw [hd, State.cluster_modCluster, hn]
  · rw [State.cluster_modCluster_ne _ _ hd]

theorem levelFrame_stepCeiling (draws : List Nat) (s : State) (r : Nat) : LevelFrame s (stepCeiling draws s r) := by
  unfold stepCeiling
  dsimp only
  split
  · exact .refl s
  · have h : LevelFrame s { s with ceil := s.ceil.setIfInBounds r (nextCeiling (s.ceil.toList.getD r 7) draws[r]?) } :=
      ⟨rfl, rfl, rfl, rfl, fun _ => rfl, fun _ => rfl⟩
    exact h.record ..

end

/-- What a boundary in a cluster leaves: its power is `p`, and the other clusters and the ceilings are as they were. -/
structure BoundaryIn (c : Nat) (p : Power) (s t : State) : Prop where
  frame : LevelFrame s t
  ceil : t.ceil = s.ceil
  others : ∀ d, d ≠ c → t.cluster d = s.cluster d
  power : (t.cluster c).power = p

section
variable {s t u : State} {c : Nat} {p : Power}

theorem BoundaryIn.record (h : BoundaryIn c p s t) (d kind : Nat) : BoundaryIn c p s (powerRecord t d kind) :=
  ⟨h.frame.record .., (record_ceil ..).trans h.ceil, fun e he => (record_cluster ..).trans (h.others e he),
    (congrArg Cluster.power (record_cluster ..)).trans h.power⟩

theorem BoundaryIn.strands (h : BoundaryIn c p s t) (f : Cluster → SMap Strand) :
    BoundaryIn c p s (t.modCluster c fun cl => { cl with strands := f cl }) :=
  ⟨h.frame.trans (levelFrame_modCluster _ _ (fun _ => rfl) fun _ => rfl), h.ceil,
    fun d hd => by rw [State.cluster_modCluster_ne _ _ hd, h.others d hd], by rw [State.cluster_modCluster, h.power]⟩

theorem BoundaryIn.ite {b : Prop} [Decidable b] (ht : BoundaryIn c p s t) (hu : BoundaryIn c p s u) :
    BoundaryIn c p s (if b then t else u) := by
  split
  exacts [ht, hu]

/-- The level of a cluster after a boundary (R315). -/
def effAt (s : State) (c : Nat) : Nat := min (requestedLevel s c) (s.ceil.toList.getD (clusterRail s c) 7)

/-- The boundary in a cluster: its power takes REQ, EFF and USED; the rest is records and throttle traps of its strands. -/
theorem boundaryIn_stepInterval (s : State) (c : Nat) :
    BoundaryIn c ((s.cluster c).power.restart (requestedLevel s c) (effAt s c)) s (stepInterval s c) := by
  have start : BoundaryIn c ((s.cluster c).power.restart (requestedLevel s c) (effAt s c)) s
      (s.modCluster c fun cl => { cl with power := cl.power.restart (requestedLevel s c) (effAt s c) }) :=
    ⟨levelFrame_modCluster _ _ (fun _ => rfl) fun _ => rfl, rfl, fun d hd => State.cluster_modCluster_ne _ _ hd,
      by rw [State.cluster_modCluster]⟩
  unfold stepInterval
  exact .ite (.ite start (start.record ..)) (((BoundaryIn.ite start (start.record ..)).strands _).record ..)

end

/-- After the boundary in the clusters of a list, those of the list have their new levels, and one that it names once restarts
at its debt. -/
theorem foldl_stepInterval (l : List Nat) (s : State) :
    LevelFrame s (l.foldl stepInterval s) ∧ (l.foldl stepInterval s).ceil = s.ceil ∧
      (∀ c, c ∉ l → (l.foldl stepInterval s).cluster c = s.cluster c) ∧
      ∀ c, c ∈ l → ((l.foldl stepInterval s).cluster c).power.req = requestedLevel s c ∧
        ((l.foldl stepInterval s).cluster c).power.eff = effAt s c ∧
        (l.Nodup → ((l.foldl stepInterval s).cluster c).power.used = (s.cluster c).power.debt) := by
  induction l generalizing s with
  | nil => exact ⟨.refl s, rfl, fun _ _ => rfl, fun c hc => absurd hc (by simp)⟩
  | cons d l ih =>
    have step := boundaryIn_stepInterval s d
    obtain ⟨frame, ceil, outside, inside⟩ := ih (stepInterval s d)
    rw [List.foldl_cons]
    refine ⟨step.frame.trans frame, ceil.trans step.ceil, fun c hc => ?_, fun c hc => ?_⟩
    · rw [List.mem_cons, not_or] at hc
      rw [outside c hc.2, step.others c hc.1]
    · by_cases hl : c ∈ l
      · obtain ⟨req, eff, used⟩ := inside c hl
        refine ⟨req.trans (step.frame.requestedLevel c), eff.trans ?_, fun hn => ?_⟩
        · rw [effAt, effAt, step.frame.requestedLevel, step.frame.clusterRail, step.ceil]
        · rw [List.nodup_cons] at hn
          rw [used hn.2, step.others c fun h => hn.1 (h ▸ hl)]
      · obtain rfl : c = d := by simpa [hl] using hc
        rw [outside c hl, step.power]
        exact ⟨rfl, rfl, fun _ => rfl⟩

/-- The boundary of a control interval: the ceilings first, then the clusters. -/
theorem intervalEnds_of {s : State} (draws : List Nat) (h : s.intervals < s.time.toNat / 2400) : ∃ t,
    intervalEnds draws s = some t ∧ SameBytes s t ∧ t.intervals = s.time.toNat / 2400 ∧
      (∀ r, r < 4 → t.ceil.toList.getD r 7 = nextCeiling (s.ceil.toList.getD r 7) draws[r]?) ∧
      ∀ c, s.clusters.get? c ≠ none → (t.cluster c).power.req = requestedLevel s c ∧
        (t.cluster c).power.eff = min (requestedLevel s c) (t.ceil.toList.getD (clusterRail s c) 7) ∧
        ((s.clusters.map Prod.fst).Nodup → (t.cluster c).power.used = (s.cluster c).power.debt) := by
  have ceilings : LevelFrame s ((upto 4).foldl (stepCeiling draws) s) := .foldl (levelFrame_stepCeiling draws) _ s
  have hclusters : ((upto 4).foldl (stepCeiling draws) s).clusters = s.clusters :=
    foldl_keeps (g := State.clusters) (stepCeiling_clusters draws) _ _
  obtain ⟨frame, ceil, -, inside⟩ := foldl_stepInterval (s.clusters.map Prod.fst) ((upto 4).foldl (stepCeiling draws) s)
  refine ⟨{ (s.clusters.map Prod.fst).foldl stepInterval ((upto 4).foldl (stepCeiling draws) s) with
    intervals := s.time.toNat / 2400 }, ?_, sameBytes_of_mem (frame.mem.trans ceilings.mem), rfl, fun r hr => ?_,
    fun c hc => ?_⟩
  · rw [intervalEnds, intervalTicks, if_neg (by omega)]
    dsimp only
    rw [hclusters, (ceilings.trans frame).time]
  · exact (congrArg (fun v : Vector Nat 4 => v.toList.getD r 7) ceil).trans (stepCeilings_ceil draws s hr)
  · obtain ⟨cl, hcl⟩ := Option.ne_none_iff_exists'.mp hc
    obtain ⟨req, eff, used⟩ := inside c (List.mem_map_of_mem (SMap.mem_of_get? hcl))
    refine ⟨req.trans (ceilings.requestedLevel c), eff.trans ?_, fun hn => (used hn).trans ?_⟩
    · rw [effAt, ceilings.requestedLevel, ceilings.clusterRail, ← ceil]
    · rw [State.cluster, State.cluster, hclusters]

/-! ### Retention (28 R364, R365) -/

/-- A cluster whose state is lost holds nothing, is not ready, and its contexts are not live. -/
theorem loseCluster_lost (s : State) (c : Nat) : ((loseCluster s c).cluster c).strands = [] ∧
    ((loseCluster s c).cluster c).blocks = [] ∧ (loseCluster s c).ready.getLsbD c = false ∧
    ∀ x ∈ (s.cluster c).residents, (loseCluster s c).ctxLive x = false := by
  refine ⟨?_, ?_, ?_, fun x hx => ?_⟩
  · exact congrArg Cluster.strands (State.cluster_setCluster ..)
  · exact congrArg Cluster.blocks (State.cluster_setCluster ..)
  · simp only [loseCluster, BitVec.getLsbD_and, BitVec.getLsbD_not, BitVec.getLsbD_twoPow]
    by_cases hc : c < 540 <;> simp [hc]
  · exact ctxLive_foldl_killContext (s := bumpLost (startFreeze s c causeStateLost none (BitVec.ofNat 64 c) true))
      (cause := causeStateLost) (.inl hx)

section
variable {s : State} {c : Nat}

theorem taskAdmits_of {k e i : Nat} {rest : List (Nat × Nat × Nat)} (hw : (s.cluster c).power.waiting = (k, e, i) :: rest)
    (hstop : (s.cluster c).stopping = none) (hfits : (s.cluster c).power.fits e i = true) :
    taskAdmits c (taskSlot k) s = some (s.setCluster c { s.cluster c with
      power := { (s.cluster c).power.charge e i with
        waiting := rest, admitted := (s.cluster c).power.admitted ++ [(k, i)] } }) := by
  simp [taskAdmits, hw, hstop, hfits]

theorem droopTrips_of (hc : c < 384) (hen : (s.cluster c).power.en = true) (hedge : (s.cluster c).power.atEdge = true)
    (hret : (s.cluster c).retained = false) : ∃ t, droopTrips c s = some t ∧ SameBytes s t ∧ (t.cluster c).power =
      { (s.cluster c).power with cnt := ((s.cluster c).power.cnt + 1) % 2 ^ 17, edges := 13, halved := 0 } := by
  have hno : (decide (384 ≤ c) || !(s.cluster c).power.en || !(s.cluster c).power.atEdge ||
      (s.cluster c).retained) = false := by
    simp [hc, hen, hedge, hret]
  rw [droopTrips, hno]
  exact ⟨_, rfl, sameBytes_of_mem (record_mem ..), by rw [record_cluster, State.cluster_modCluster]⟩

theorem retentionEnters_of (hc : c < 384) (hret : (s.cluster c).retained = false) (hstop : (s.cluster c).stopping = none)
    (hquiet : (s.cluster c).quiet = true) (hidle : 38400 ≤ idleEdges s c) :
    retentionEnters c s = some (s.setCluster c { s.cluster c with retained := true, idle := 38400 }) := by
  have hedges : ¬ idleEdges s c < retentionEdges := by
    rw [retentionEdges]
    omega
  simp [retentionEnters, hc, hret, hstop, hquiet, hedges]
  rfl

theorem retentionEnds_of (hret : (s.cluster c).retained = true) (hwakes : clusterWakes s c (s.cluster c) = true)
    (parityOk : Bool) : retentionEnds c parityOk s =
      if parityOk then some (s.setCluster c { s.cluster c with retained := false, idle := 0 }) else some (loseCluster s c) := by
  simp [retentionEnds, hret, hwakes]

end

/-- Settles O45: the boundary by what each cluster's step leaves, the rest by the conditions of each event. -/
theorem powerEvents : Obligations.PowerEvents := by
  intro s c cl p with'
  refine ⟨fun draws h => ?_, fun k e i rest hw hstop hfits => happen_some (taskAdmits_of hw hstop hfits),
    fun hc hen hedge hret => ?_, fun hedges => happen_some ?_, fun hedges hhalved => happen_some ?_,
    fun hc hret hstop hquiet hidle => happen_some (retentionEnters_of hc hret hstop hquiet hidle),
    fun hret hwakes => ⟨happen_some (retentionEnds_of hret hwakes true), ?_⟩⟩
  · obtain ⟨t, ht, hbytes, hintervals, hceil, hlevels⟩ := intervalEnds_of draws h
    exact ⟨t, happen_some ht, hbytes, hintervals, hceil, hlevels c⟩
  · obtain ⟨t, ht, hbytes, hpower⟩ := droopTrips_of hc hen hedge hret
    exact ⟨t, happen_some ht, hbytes, hpower⟩
  · rw [stretchEnds, if_neg (by simpa using hedges)]
    rfl
  · have hno : ((s.cluster c).power.edges != 0 || (s.cluster c).power.halved != 1) = false := by simp [hedges, hhalved, p, cl]
    rw [halvingEnds, hno]
    rfl
  · exact ⟨_, happen_some (retentionEnds_of hret hwakes false), loseCluster_lost s c⟩

end Sys2Proof.Machine
end

section
/-!
PROOFS. Kills, horizons, the watchdog, storage errors, the uncontained error and the notice (28 R358-R367).
-/
namespace Sys2Proof.Machine

section
variable {s : State}

/-! ### Kills and horizons (R361, R362) -/

/-- The kill of a context is no longer due. -/
def undue (s : State) (ctx : Nat) : State := { s with killDue := s.killDue.filter fun x => x != ctx }

/-- What a context had sent joins the one kill of all. -/
def joinKill (s : State) (out : List (Nat × Access)) : State :=
  { s with kills := s.kills.map fun k => if k.ctx == 255 && !k.horizon then { k with out := k.out ++ out } else k }

theorem contextEnds_eq {ctx : Nat} (hdue : ctx ∈ s.killDue) : contextEnds ctx s =
    some (if s.ctxLive ctx then joinKill (endContext (undue s ctx) ctx 0x81) (outOfContext (undue s ctx) ctx)
      else undue s ctx) := by
  have hno : (!s.killDue.contains ctx) = false := by simpa using hdue
  have hends : contextEnds ctx s = if !s.ctxLive ctx then some (undue s ctx)
      else some (joinKill (endContext (undue s ctx) ctx 0x81) (outOfContext (undue s ctx) ctx)) := by
    rw [contextEnds, hno]
    rfl
  rw [hends]
  cases s.ctxLive ctx <;> rfl

theorem contextEnds_of {ctx : Nat} (hdue : ctx ∈ s.killDue) : ∃ t, contextEnds ctx s = some t ∧
    t.killDue = s.killDue.filter (fun x => x != ctx) ∧ t.ctxLive ctx = false ∧ (s.ctxLive ctx = true →
      (∀ p ∈ t.clusters, p.2.blocksOf ctx = []) ∧ (∀ p ∈ t.queues, p.2.ctx ≠ ctx) ∧ ∀ p ∈ t.grids, p.2.rec'.ctx ≠ ctx) := by
  refine ⟨_, contextEnds_eq hdue, ?_⟩
  cases hlive : s.ctxLive ctx with
  | false => exact ⟨rfl, hlive, by simp⟩
  | true =>
    exact ⟨(fewerBut_endContext (undue s ctx) ctx 0x81).due, ctxLive_endContext (undue s ctx) ctx 0x81,
      fun _ => endContext_removes (undue s ctx) ctx 0x81⟩

theorem horizonPasses_of {ctx : Nat} {k : Kill} (hk : s.kills.find? (fun k => k.ctx == ctx && !k.horizon) = some k)
    (hdue : ctx = 255 → s.killDue = []) : horizonPasses ctx s = some { s with
      kills := if s.fnote == 0 then s.kills.filter fun x => x != k
        else s.kills.map fun x => if x == k then { k with horizon := true, out := [] } else x } := by
  have hno : (ctx == 255 && !s.killDue.isEmpty) = false := by
    by_cases h : ctx = 255 <;> simp [h, hdue]
  simp only [horizonPasses, hk, hno]
  rfl

/-! ### Freezes -/

/-- A freeze begins in the recorder alone. -/
theorem startFreeze_eq (s : State) (unit cause : Nat) (ctx : Option Nat) (info : Word) (partOnly : Bool) :
    startFreeze s unit cause ctx info partOnly = { s with
      vaults := (startFreeze s unit cause ctx info partOnly).vaults
      freeze := (startFreeze s unit cause ctx info partOnly).freeze
      capno := (startFreeze s unit cause ctx info partOnly).capno } := by
  unfold startFreeze
  dsimp only
  split
  · rfl
  · (repeat' split) <;> rfl

/-- With the recorder ready a fault leaves a freeze in progress. -/
theorem startFreeze_freeze (unit cause : Nat) (ctx : Option Nat) (info : Word) (partOnly : Bool)
    (hready : s.ready.getLsbD 537 = true) : (startFreeze s unit cause ctx info partOnly).freeze ≠ none := by
  unfold startFreeze
  rw [hready]
  simp only [Bool.not_true, Bool.false_eq_true, if_false]
  split
  · simp
  · split <;> simp

/-! ### Storage errors (R358, R366) -/

theorem bumpCorr_errsum (s : State) : (bumpCorr s).errsum.toNat % 2 ^ 32 = (s.errsum.toNat + 1) % 2 ^ 32 ∧
    (bumpCorr s).errsum.toNat / 2 ^ 32 = s.errsum.toNat / 2 ^ 32 := by
  have hlt := s.errsum.isLt
  have h : (bumpCorr s).errsum.toNat = s.errsum.toNat / 2 ^ 32 * 2 ^ 32 + (s.errsum.toNat % 2 ^ 32 + 1) % 2 ^ 32 := by
    simp only [bumpCorr, BitVec.toNat_ofNat]
    exact Nat.mod_eq_of_lt (by omega)
  rw [h]
  omega

/-- A digest that fails to verify is another one. -/
theorem spoiled_ne (n : Nat) (d : BitVec 256) : spoiled n d ≠ d := by
  unfold spoiled
  split
  · intro h
    have := congrArg (fun x => x.getLsbD 0) h
    simp at this
  · rename_i h
    simpa using h

theorem eccRecord_eq (s : State) (unit code : Nat) (uncorrectable : Bool) (place : Nat) :
    eccRecord s unit code uncorrectable place = { s with vaults := (eccRecord s unit code uncorrectable place).vaults } :=
  record_eq ..

/-- The record of an error at a site. -/
def siteRecord (s : State) (site : ErrSite) (uncorrectable : Bool) : State :=
  eccRecord s (errorPlace site).1 (errorPlace site).2.1 uncorrectable (errorPlace site).2.2

theorem errorStrikes_eq {site : ErrSite} (hsite : errorSiteExists s site = true) (correctable : Bool) :
    errorStrikes site correctable s = some (if correctable then bumpCorr (siteRecord s site false)
      else strike (bumpUncor (siteRecord s site true)) site) := by
  rw [errorStrikes, hsite]
  cases correctable <;> rfl

theorem bumpErr_eq (s : State) (hi lo : Nat) : bumpErr s hi lo = { s with errsum := (bumpErr s hi lo).errsum } := by
  unfold bumpErr
  dsimp only
  split <;> rfl

/-- The count and the record of an uncorrectable error. -/
theorem uncorrectable_eq (s : State) (site : ErrSite) : bumpUncor (siteRecord s site true) = { s with
    vaults := (siteRecord s site true).vaults, errsum := (bumpUncor (siteRecord s site true)).errsum } := by
  rw [bumpUncor, bumpErr_eq, siteRecord, eccRecord_eq]

/-- The granule of a site outside the recorder is poisoned. -/
theorem strike_poison {site : ErrSite} (hv : ∀ u i, site ≠ .vault u i)
    (hd : ∀ h w, site ≠ .strongroom h w ∧ site ≠ .nor h w) (s : State) :
    strike s site = if s.poison.contains site then s else { s with poison := s.poison ++ [site] } := by
  cases site with
  | vault u i => exact absurd rfl (hv u i)
  | strongroom h w => exact absurd rfl (hd h w).1
  | nor h w => exact absurd rfl (hd h w).2
  | registers _ _ | tile _ _ _ | scratchpad _ _ _ | dieCache _ | weightStore _ => rfl

/-! ### The uncontained error (R360) -/

theorem readyKept_getLsbD (i : Nat) : readyKept.getLsbD i = (i == 537 || i == 538 || i == 539) := by
  have hmask : (2 ^ 537 + 2 ^ 538 + 2 ^ 539 : Nat) = (2 ^ 3 - 1) <<< 537 := by
    have h538 := Nat.pow_add 2 537 1
    have h539 := Nat.pow_add 2 537 2
    rw [Nat.shiftLeft_eq, h538, h539]
    generalize (2 : Nat) ^ 537 = x
    omega
  rw [readyKept, hmask, BitVec.getLsbD_ofNat, Nat.testBit_shiftLeft, Nat.testBit_two_pow_sub_one, Bool.eq_iff_iff]
  simp only [Bool.and_eq_true, Bool.or_eq_true, decide_eq_true_eq, beq_iff_eq, ge_iff_le]
  omega

theorem hardwareFails_of {unit : Nat} (h : unit < 389) : ∃ t, hardwareFails unit s = some t ∧ SameBytes s t ∧ t.dead = true ∧
    (∀ i, t.ready.getLsbD i = (s.ready.getLsbD i && (i == 537 || i == 538 || i == 539))) ∧
    t.killDue = (s.ctxs.filter fun p => !p.2.killed).map Prod.fst := by
  rw [hardwareFails, if_neg (by omega), startFreeze_eq]
  exact ⟨_, rfl, fun _ => rfl, rfl, fun i => by rw [BitVec.getLsbD_and, readyKept_getLsbD], rfl⟩

/-! ### Notices (R367) -/

theorem writeBytes_append (m : List Host.Cell) (a : Nat) (bs cs : List Byte) :
    writeBytes m a (bs ++ cs) = writeBytes (writeBytes m a bs) (a + bs.length) cs := by
  induction bs generalizing m a with
  | nil => rfl
  | cons b bs ih => simp [writeBytes, ih, Nat.add_assoc, Nat.add_comm 1]

/-- A number among bytes that are written reads back. -/
theorem readNat_writeBytes_field {m : List Host.Cell} (h : Memory.wf m = true) (a n v : Nat) (pre post : List Byte) :
    readNat (writeBytes m a (pre ++ leBytes n v ++ post)) (a + pre.length) n = v % 2 ^ (8 * n) := by
  rw [writeBytes_append, readNat_writeBytes_apart _ _ _ (.inl (by simp; omega)), writeBytes_append]
  exact readNat_writeNat _ n v (wf_writeBytes _ _ h)

/-- The fields of a notice before SEQ. -/
def noticeBytes (s : State) (k : Kill) : List Byte :=
  s.serialNo ++ leBytes 4 k.capno ++ leBytes 1 k.cause ++ leBytes 1 k.ctx ++ leBytes 2 0

theorem length_noticeBytes {k : Kill} (h : s.serialNo.length = 16) : (noticeBytes s k).length = 24 := by
  simp [noticeBytes, h]

/-- Memory with the fields of a notice, and with SEQ after them. -/
def noticeMem (s : State) (k : Kill) : List Host.Cell := writeBytes s.mem s.fnote (noticeBytes s k)

def noticed (s : State) (k : Kill) : List Host.Cell :=
  writeNat (noticeMem s k) (s.fnote + 24) 8 ((readNat (noticeMem s k) (s.fnote + 24) 8 + 1) % 2 ^ 64)

theorem noticeWrites_eq {k : Kill} (hk : s.kills.find? Kill.horizon = some k) (hf : s.fnote ≠ 0) :
    noticeWrites s = some { s with mem := noticed s k, kills := s.kills.filter fun x => x != k } := by
  have hno : (s.fnote == 0) = false := by simpa using hf
  simp only [noticeWrites, hk, hno]
  rfl

section
variable {k : Kill} (hs : s.serialNo.length = 16) (hwf : Memory.wf s.mem = true)
include hs

theorem readByte_noticed {a : Nat} (ha : a < s.fnote ∨ s.fnote + 32 ≤ a) : readByte (noticed s k) a = readByte s.mem a := by
  have hlen := length_noticeBytes (k := k) hs
  rw [noticed, writeNat, readByte_writeBytes_apart _ _ _ (by rw [length_leBytes]; omega), noticeMem,
    readByte_writeBytes_apart _ _ _ (by omega)]

include hwf

/-- A field between others of a notice. -/
theorem readNat_noticed_field (n v : Nat) (pre post : List Byte) (hbytes : noticeBytes s k = pre ++ leBytes n v ++ post) :
    readNat (noticed s k) (s.fnote + pre.length) n = v % 2 ^ (8 * n) := by
  have hlen := length_noticeBytes (k := k) hs
  rw [hbytes] at hlen
  simp only [List.length_append, length_leBytes] at hlen
  rw [noticed, writeNat, readNat_writeBytes_apart _ _ _ (.inl (by omega)), noticeMem, hbytes]
  exact readNat_writeBytes_field hwf _ n v pre post

theorem readNat_noticed_seq : readNat (noticed s k) (s.fnote + 24) 8 = (readNat s.mem (s.fnote + 24) 8 + 1) % 2 ^ 64 := by
  have hlen := length_noticeBytes (k := k) hs
  have hmem : Memory.wf (noticeMem s k) = true := wf_writeBytes _ _ hwf
  rw [noticed, readNat_writeNat _ _ _ hmem, noticeMem, readNat_writeBytes_apart _ _ _ (.inr (by omega))]
  exact Nat.mod_mod ..

/-- The fields of a notice read back. -/
theorem readNat_noticed : readNat (noticed s k) (s.fnote + 16) 4 = k.capno % 2 ^ 32 ∧
    readNat (noticed s k) (s.fnote + 20) 1 = k.cause % 256 ∧ readNat (noticed s k) (s.fnote + 21) 1 = k.ctx % 256 := by
  have capno := readNat_noticed_field (k := k) hs hwf 4 k.capno s.serialNo (leBytes 1 k.cause ++ leBytes 1 k.ctx ++ leBytes 2 0)
    (by simp [noticeBytes])
  have cause := readNat_noticed_field (k := k) hs hwf 1 k.cause (s.serialNo ++ leBytes 4 k.capno)
    (leBytes 1 k.ctx ++ leBytes 2 0) (by simp [noticeBytes])
  have ctx := readNat_noticed_field (k := k) hs hwf 1 k.ctx (s.serialNo ++ leBytes 4 k.capno ++ leBytes 1 k.cause)
    (leBytes 2 0) (by simp [noticeBytes])
  simp only [List.length_append, length_leBytes, hs] at capno cause ctx
  exact ⟨capno, cause, ctx⟩

end

end

/-- Settles O46, with one lemma for what each event leaves. -/
theorem containment : Obligations.Containment := by
  intro s
  refine ⟨fun ctx hdue => ?_, fun ctx k hk hdue => ?_, fun c k m hm hage => ?_, fun site hsite => ⟨?_, fun hv hd => ?_,
    fun h w x hs hx hh => ?_⟩, fun unit hunit => ?_, fun k hk hf hs hwf => ?_⟩
  · obtain ⟨t, ht, rest⟩ := contextEnds_of hdue
    exact ⟨t, happen_some ht, rest⟩
  · have h := happen_some (s := s) (horizonPasses_of hk hdue)
    refine ⟨fun hf => h.trans (by simp [hf]), fun hf => h.trans (by simp [hf])⟩
  · refine ⟨fatal s hubUnit causeWatchdog m.ctx 0, happen_some ?_, ctxLive_fatal .., fun hready => ⟨?_, ?_⟩⟩
    · simp [watchdogFires, hm, watchdogDue, hage]
    · rw [fatal, killContext_freeze]
      exact startFreeze_freeze _ _ _ _ _ hready
    · exact frozen_fatal _ _ hready (by decide)
  · obtain ⟨hlow, hhigh⟩ := bumpCorr_errsum (siteRecord s site false)
    refine ⟨_, happen_some (errorStrikes_eq hsite true), ?_⟩
    rw [siteRecord, eccRecord_eq] at *
    exact ⟨fun _ => rfl, rfl, hlow, hhigh⟩
  · refine ⟨_, happen_some (errorStrikes_eq hsite false), ?_⟩
    rw [uncorrectable_eq, if_neg Bool.false_ne_true, strike_poison hv hd]
    split
    · rename_i h
      exact ⟨fun _ => rfl, by simpa using h, rfl⟩
    · exact ⟨fun _ => rfl, by simp, rfl⟩
  · refine ⟨_, spoiled s.freeCount x.digest, happen_some (errorStrikes_eq hsite false), ?_⟩
    rw [uncorrectable_eq, if_neg Bool.false_ne_true, hs]
    refine ⟨fun _ => rfl, rfl, ?_, spoiled_ne _ _⟩
    simp [strike, hx, hh]
  · obtain ⟨t, ht, rest⟩ := hardwareFails_of hunit
    exact ⟨t, happen_some ht, rest⟩
  · obtain ⟨capno, cause, ctx⟩ := readNat_noticed (k := k) hs hwf
    exact ⟨_, happen_some (noticeWrites_eq hk hf), rfl, capno, cause, ctx, readNat_noticed_seq hs hwf,
      fun a ha => readByte_noticed hs ha⟩

end Sys2Proof.Machine
end

section
/-!
PROOFS. Freezes, tokens, GAP and EPOCH records, capsules, NOR summaries, folds and merges (26 R335-R356).
-/
namespace Sys2Proof.Machine

section
variable {s : State}

/-! ### Freezes and tokens (R340, R341, R350) -/

theorem Vault.stop_frozen (v : Vault) (size : Nat) (time : Word) (cause origin : Nat) :
    (v.stop size time cause origin).frozen = true := by
  unfold Vault.stop
  split
  · assumption
  · rfl

/-- Where nothing freezes, CAPFREEZE starts a freeze at the hub. -/
theorem capfreeze_starts (hready : s.ready.getLsbD 537 = true) (hf : s.freeze = none) :
    ((startFreeze s hubUnit 0x82 none 0 false).vault hubUnit).frozen = true ∧
      (startFreeze s hubUnit 0x82 none 0 false).capno = (s.capno + 1) % 2 ^ 32 := by
  have hvault : (startFreeze s hubUnit 0x82 none 0 false).vault hubUnit = (if (s.vault hubUnit).frozen then s
      else s.setVault hubUnit ((s.vault hubUnit).fault (vaultSize hubUnit) s.time 0x82 hubUnit (faultPay 0x82 none 0))).vault
        hubUnit := by
    unfold startFreeze
    rw [hready, hf]
    simp only [Bool.not_true, Bool.false_eq_true, if_false, Bool.or_false]
    rfl
  refine ⟨?_, ?_⟩
  · rw [hvault]
    split
    · assumption
    · rw [State.vault_setVault]
      rfl
  · unfold startFreeze
    rw [hready, hf]
    rfl

/-- During a freeze it adds a secondary fault and nothing else. -/
theorem capfreeze_adds (hready : s.ready.getLsbD 537 = true) {f : FreezeState} (hf : s.freeze = some f) :
    startFreeze s hubUnit 0x82 none 0 false = { s with
      freeze := some (f.second { cause := 0x82, unit := hubUnit, tlo := s.time.toNat % 2 ^ 32 }) } := by
  simp only [startFreeze, hready, hf]
  simp

theorem tokenReaches_vault (u w : Nat) (x : FreezeStart) : (tokenReaches s u x).vault w =
    (s.setVault u ((s.vault u).stop (vaultSize u) s.time x.cause x.unit)).vault w := by
  unfold tokenReaches
  dsimp only
  split <;> rfl

/-- The token of the first start comes to a vault that records. -/
theorem freezeTokenComes_of {u : Nat} {f : FreezeState} {x : FreezeStart} (hf : s.freeze = some f) (hu : u < 389)
    (hdone : vaultDone s f u = false) (hready : s.ready.getLsbD 537 = true) (hx : f.starts[0]? = some x) :
    freezeTokenComes u s = some (tokenReaches s u x) := by
  have hno : (decide (389 ≤ u) || vaultDone s f u || !s.ready.getLsbD 537) = false := by simp [hu, hdone, hready]
  rw [freezeTokenComes, tokenComes, hf, Option.bind_some, hno, hx]
  rfl

/-! ### GAP and EPOCH (R335, R337) -/

theorem gapRecorded_of {u ty n : Nat} (hdue : (s.vault u).gapDue = some (ty, n)) (hfrozen : (s.vault u).frozen = false)
    (hready : s.ready.getLsbD 537 = true) (hgap : (s.vault u).gap < s.time.toNat / 128) (hport : (s.vault u).port ≠ some s.time) :
    ∃ t, gapRecorded u s = some t ∧ (t.vault u).dropped.get? ty = none ∧
      (t.vault u).slots.get? (s.vault u).wptr = some ⟨s.time.toNat % 2 ^ 32, 0x3C, 0, 0, 0, payload [(32, n), (6, ty)]⟩ := by
  have hno : ((s.vault u).frozen || !s.ready.getLsbD 537 || (s.vault u).port == some s.time ||
      decide (s.time.toNat / gapTicks ≤ (s.vault u).gap)) = false := by
    simp [hfrozen, hready, hport, gapTicks, Nat.not_le.mpr hgap]
  simp only [gapRecorded, hdue, hno]
  exact ⟨_, rfl, by simp, by simp [Vault.put]⟩

section
variable {f : State → Nat → State} (hf : ∀ s u w, w ≠ u → (f s u).vault w = s.vault w)
include hf

theorem foldl_vault_of_notMem {l : List Nat} {u : Nat} (hu : u ∉ l) : (l.foldl f s).vault u = s.vault u := by
  induction l generalizing s with
  | nil => rfl
  | cons v l ih =>
    rw [List.mem_cons, not_or] at hu
    exact (ih hu.2).trans (hf s v u hu.1)

/-- Where each step of a pass over the vaults writes its own vault, a vault is what its step made of it. -/
theorem foldl_vault {l : List Nat} {u : Nat} (hu : u ∈ l) (hn : l.Nodup) :
    ∃ a : List Nat, u ∉ a ∧ (l.foldl f s).vault u = (f (a.foldl f s) u).vault u := by
  obtain ⟨a, b, rfl⟩ := List.append_of_mem hu
  rw [List.nodup_middle, List.nodup_cons, List.mem_append, not_or] at hn
  refine ⟨a, hn.1.1, ?_⟩
  rw [List.foldl_append, List.foldl_cons, foldl_vault_of_notMem hf hn.1.2]

end

theorem vaultUnits_nodup : vaultUnits.Nodup := List.nodup_range

theorem mem_vaultUnits {u : Nat} : u ∈ vaultUnits ↔ u < 389 := List.mem_range

/-- A record of an event is offered to the vault of its unit. -/
theorem record_vault (hready : s.ready.getLsbD 537 = true) (u ty ctx slot ord : Nat) (pay : Word) :
    (record s u ty ctx slot ord pay).vault u = (s.vault u).offer (vaultSize u) s.time
      { tlo := s.time.toNat % 2 ^ 32, type := ty, ctx := ctx, slot := slot, ord := ord, pay := pay } := by
  rw [record, if_pos hready, State.vault_setVault]

theorem record_vault_ne {u w : Nat} (h : w ≠ u) (ty ctx slot ord : Nat) (pay : Word) :
    (record s u ty ctx slot ord pay).vault w = s.vault w := by
  unfold record
  split
  · exact State.vault_setVault_ne _ _ h
  · rfl

/-- An EPOCH record takes the port of a vault that nothing waits for. -/
theorem offer_epoch {v : Vault} {r : Record} {time : Word} (hr : r.type = 0x38) (size : Nat) (hfrozen : v.frozen = false)
    (hqueue : v.queue = []) (hport : v.port ≠ some time) : (v.offer size time r).slots.get? v.wptr = some r := by
  have hclass : classA r.type = true := by rw [hr]; rfl
  simp [Vault.offer, hfrozen, hclass, hqueue, hport, Vault.put]

/-- The EPOCH record of one vault. -/
def epochRecord (hi : Nat) (s : State) (u : Nat) : State := record s u 0x38 0 0 0 (payload [(32, hi)])

/-- Each vault has the EPOCH record that its own unit offered. -/
theorem foldl_epochRecord_vault (hready : s.ready.getLsbD 537 = true) (hi : Nat) {u : Nat} (hu : u < 389) :
    (vaultUnits.foldl (epochRecord hi) s).vault u = (s.vault u).offer (vaultSize u) s.time
      ⟨s.time.toNat % 2 ^ 32, 0x38, 0, 0, 0, payload [(32, hi)]⟩ := by
  have hne : ∀ s u w, w ≠ u → (epochRecord hi s u).vault w = s.vault w := fun s u w hw => record_vault_ne hw ..
  obtain ⟨a, ha, hvault⟩ := foldl_vault (s := s) hne (mem_vaultUnits.mpr hu) vaultUnits_nodup
  have hready' : (a.foldl (epochRecord hi) s).ready = s.ready :=
    foldl_keeps (g := State.ready) (fun _ _ => by rw [epochRecord, record_eq]) _ _
  have htime : (a.foldl (epochRecord hi) s).time = s.time :=
    foldl_keeps (g := State.time) (fun _ _ => (record_kept ..).1) _ _
  rw [hvault, epochRecord, record_vault (by rw [hready', hready]), foldl_vault_of_notMem hne ha, htime]

theorem epochRecorded_of (h : s.epochs < s.time.toNat / 2 ^ 32) : ∃ t, epochRecorded s = some t ∧
    t.epochs = s.time.toNat / 2 ^ 32 ∧ ∀ u, u < 389 → s.ready.getLsbD 537 = true → (s.vault u).frozen = false →
      (s.vault u).queue = [] → (s.vault u).port ≠ some s.time → (t.vault u).slots.get? (s.vault u).wptr =
        some ⟨s.time.toNat % 2 ^ 32, 0x38, 0, 0, 0, payload [(32, s.time.toNat / 2 ^ 32)]⟩ := by
  refine ⟨vaultUnits.foldl (epochRecord (s.time.toNat / 2 ^ 32)) { s with epochs := s.time.toNat / 2 ^ 32 }, if_neg (by omega), ?_,
    fun u hu hready hfrozen hqueue hport => ?_⟩
  · exact foldl_keeps (g := State.epochs) (fun _ _ => by rw [epochRecord, record_eq]) _ _
  · have hvault := foldl_epochRecord_vault (s := { s with epochs := s.time.toNat / 2 ^ 32 }) hready (s.time.toNat / 2 ^ 32) hu
    rw [hvault]
    exact offer_epoch rfl _ hfrozen hqueue hport

/-! ### Capsules (R342, R343, R347) -/

theorem offer_frozen (v : Vault) (size : Nat) (time : Word) (r : Record) : (v.offer size time r).frozen = v.frozen := by
  unfold Vault.offer
  (repeat' split) <;> rfl

theorem thawVault_vault_ne (capno : Nat) (s : State) (u w : Nat) (h : w ≠ u) : (thawVault capno s u).vault w = s.vault w := by
  rw [thawVault, record_vault_ne h, State.vault_setVault_ne _ _ h]

theorem thawVault_frozen (capno : Nat) (s : State) (u : Nat) : ((thawVault capno s u).vault u).frozen = false := by
  unfold thawVault record
  split
  · rw [State.vault_setVault, offer_frozen, State.vault_setVault]
  · rw [State.vault_setVault]

/-- The thaw of the vaults writes vaults alone. -/
theorem foldl_thawVault_eq (capno : Nat) (l : List Nat) (s : State) :
    l.foldl (thawVault capno) s = { s with vaults := (l.foldl (thawVault capno) s).vaults } := by
  induction l generalizing s with
  | nil => rfl
  | cons u l ih =>
    rw [List.foldl_cons, ih, thawVault, record_eq]
    rfl

/-- The strongroom after a capsule of a freeze is made (R347). -/
def capsuleHeld (s : State) (f : FreezeState) : State :=
  let x := (makeCapsule s f).2
  let s := (makeCapsule s f).1
  { s with
    fresh := s.fresh + 1, freeze := none
    capsule := if x.summary then s.capsule else some x
    summaries := if x.summary then (s.summaries ++ [x]).drop (s.summaries.length + 1 - 64) else s.summaries
    norDue := s.norDue ++ [x] }

theorem capsuleAssembles_of {f : FreezeState} (hf : s.freeze = some f) (hsign : s.ready.getLsbD 538 = true)
    (hdone : ∀ u, u < 389 → vaultDone s f u = true) :
    capsuleAssembles s = some (vaultUnits.foldl (thawVault f.capno) (capsuleHeld s f)) := by
  have hall : vaultUnits.all (vaultDone s f) = true := List.all_eq_true.mpr fun u hu => hdone u (mem_vaultUnits.mp hu)
  simp only [capsuleAssembles, hf, hsign, hall]
  rfl

/-- The signer's index is all that a new capsule changes. -/
theorem makeCapsule_kept (s : State) (f : FreezeState) : (makeCapsule s f).1.capsule = s.capsule ∧
    (makeCapsule s f).1.summaries = s.summaries ∧ (makeCapsule s f).1.norDue = s.norDue := by
  unfold makeCapsule takeIndex
  dsimp only
  (repeat' split) <;> exact ⟨rfl, rfl, rfl⟩

theorem getLast?_drop_append {α : Type} (l : List α) (x : α) {n : Nat} (hn : n ≤ l.length) :
    ((l ++ [x]).drop n).getLast? = some x := by
  rw [List.drop_append_of_le_length hn, List.getLast?_append]
  rfl

theorem capsuleHeld_holds (s : State) (f : FreezeState) : (makeCapsule s f).2.fr = f ∧ (capsuleHeld s f).freeze = none ∧
    (capsuleHeld s f).norDue = s.norDue ++ [(makeCapsule s f).2] ∧
    (s.capsule = none → (capsuleHeld s f).capsule = some (makeCapsule s f).2 ∧ (makeCapsule s f).2.summary = false) ∧
    ∀ y, s.capsule = some y → (capsuleHeld s f).capsule = some y ∧ (makeCapsule s f).2.summary = true ∧
      (capsuleHeld s f).summaries.getLast? = some (makeCapsule s f).2 := by
  obtain ⟨hcapsule, hsummaries, hdue⟩ := makeCapsule_kept s f
  have hsummary : (makeCapsule s f).2.summary = s.capsule.isSome := rfl
  refine ⟨rfl, rfl, by rw [capsuleHeld, ← hdue], fun hnone => ?_, fun y hy => ?_⟩
  · rw [hnone] at hsummary
    simp [capsuleHeld, hsummary]
  · rw [hy] at hsummary
    simp only [capsuleHeld, hsummary, Option.isSome_some, if_true, hcapsule, hsummaries, hy, true_and]
    exact getLast?_drop_append _ _ (by omega)

/-! ### Summaries in NOR (R348) -/

theorem norOpens_kept (s : State) : (norOpens s).errsum = s.errsum ∧ (norOpens s).serialNo = s.serialNo := by
  unfold norOpens
  split <;> exact ⟨rfl, rfl⟩

/-- The slots of NOR after a summary is written. -/
theorem norSummaryWrites_nor {x : Capsule} {rest : List Capsule} (h : s.norDue = x :: rest) : ∃ t,
    norSummaryWrites s = some t ∧ t.norDue = rest ∧ t.norErr = s.errsum ∧
      t.nor = (norOpens s).nor.dropLast ++ [some (x.norBytes s.serialNo)] := by
  rw [norSummaryWrites, h]
  refine ⟨_, rfl, rfl, ?_, ?_⟩
  · exact (norOpens_kept s).1
  · rw [(norOpens_kept s).2]

/-- A slot that is taken drops the oldest of eight. -/
theorem norOpens_dropLast (h : s.norOpen = false) : (norOpens s).nor.dropLast = s.nor.drop (s.nor.length + 1 - 8) := by
  rw [norOpens, h, if_neg Bool.false_ne_true, List.drop_append_of_le_length (by omega), List.dropLast_concat]

theorem norOpens_length (h : s.nor.length ≤ 8) : (norOpens s).nor.length ≤ 8 := by
  unfold norOpens
  split
  · exact h
  · simp only [List.length_drop, List.length_append, List.length_singleton]
    omega

/-! ### Folds (R351-R354) -/

/-- A block that has a strand, a tracker entry or a fold to make does not retire. -/
theorem retireBlock_stays {c b : Nat} {blk : Block} (hblk : s.block? c b = some blk) (h : blk.foldDue ≠ [] ∨
    (∃ p ∈ (s.cluster c).strands, p.2.block = b) ∨ ∃ x ∈ (s.cluster c).tracker, x.block = b) : retireBlock s c b = s := by
  have hstay : ((s.cluster c).strands.any (fun p => p.2.block == b) || (s.cluster c).tracker.any (fun t => t.block == b) ||
      !blk.foldDue.isEmpty) = true := by
    simp only [Bool.or_eq_true, List.any_eq_true, beq_iff_eq, Bool.not_eq_true', List.isEmpty_eq_false_iff]
    rcases h with h | h | h
    exacts [.inr h, .inl (.inl h), .inl (.inr h)]
  have hget : SMap.get? (s.cluster c).blocks b = some blk := hblk
  simp only [retireBlock, hget, hstay, if_true]

/-- The fields of a log entry (R354). -/
def foldEntry (s : State) (blk : Block) (slot : Nat) (phase : Bool) : List (Nat × Nat) :=
  [(64, s.time.toNat), (64, (crc64 (foldBytes blk)).toNat),
    (32, match s.grids.get? blk.grid with | some g => g.gseq | none => 0), (32, blk.index), (16, slot), (8, bit01 phase),
    (8, blk.ctx), (32, blk.folds)]

/-- A fold writes the block, the log where there is one, and a record. -/
theorem foldBlock_eq (s : State) (c b : Nat) (blk : Block) (slot : Nat) (phase : Bool) (rest : List (Nat × Bool)) :
    foldBlock s c b blk slot phase rest = { s.setBlock c b { blk with foldDue := rest, folds := blk.folds + 1 } with
      mem := match (s.ctx? blk.ctx).bind Context.log with
        | none => s.mem
        | some (base, n) => logFold s.mem base n (foldEntry s blk slot phase)
      vaults := (foldBlock s c b blk slot phase rest).vaults } := by
  unfold foldBlock
  dsimp only
  rw [record_eq]
  have hctx : ∀ v, State.ctx? { s.setBlock c b { blk with foldDue := rest, folds := blk.folds + 1 } with vaults := v } blk.ctx =
    s.ctx? blk.ctx := fun _ => rfl
  rw [hctx]
  cases hlog : (s.ctx? blk.ctx).bind Context.log <;> rfl

theorem foldBlock_block? (s : State) (c b : Nat) (blk : Block) (slot : Nat) (phase : Bool) (rest : List (Nat × Bool)) :
    (foldBlock s c b blk slot phase rest).block? c b = some { blk with foldDue := rest, folds := blk.folds + 1 } := by
  rw [foldBlock_eq]
  exact State.block?_setBlock s c b _

theorem foldBlock_strands (s : State) (c b : Nat) (blk : Block) (slot : Nat) (phase : Bool) (rest : List (Nat × Bool)) :
    ((foldBlock s c b blk slot phase rest).cluster c).strands = (s.cluster c).strands ∧
      ((foldBlock s c b blk slot phase rest).cluster c).tracker = (s.cluster c).tracker := by
  have hcluster : (foldBlock s c b blk slot phase rest).cluster c =
      (s.setBlock c b { blk with foldDue := rest, folds := blk.folds + 1 }).cluster c := by
    rw [foldBlock_eq]
    rfl
  rw [hcluster, State.cluster_setBlock]
  exact ⟨rfl, rfl⟩

theorem barrierFolds_of {c b slot : Nat} {blk : Block} {phase : Bool} {rest : List (Nat × Bool)} (hblk : s.block? c b = some blk)
    (hdue : blk.foldDue = (slot, phase) :: rest) (hdel : ∀ d ∈ (s.cluster c).deliveries, d.block ≠ b ∨ d.discard = true)
    (hstop : (s.cluster c).stopping = none) (hpoison : blockPoison s c b blk = none) :
    barrierFolds c b s = some (retireBlock (foldBlock s c b blk slot phase rest) c b) := by
  have hready : (s.cluster c).foldReady b = true := by
    rw [Cluster.foldReady, Bool.not_eq_true', List.any_eq_false]
    intro d hd
    rcases hdel d hd with h | h <;> simp [h]
  simp [barrierFolds, hblk, hdue, hready, hstop, hpoison]

/-- The bytes of a number in two parts. -/
theorem leBytes_add (a b v : Nat) : leBytes (a + b) v = leBytes a v ++ leBytes b (v / 2 ^ (8 * a)) := by
  induction a generalizing v with
  | zero => simp [leBytes]
  | succ a ih =>
    have hpow : 256 * 2 ^ (8 * a) = 2 ^ (8 * (a + 1)) := by
      rw [Nat.mul_add, Nat.pow_add, Nat.mul_comm]
    rw [show a + 1 + b = (a + b) + 1 by omega, leBytes, leBytes, ih, Nat.div_div_eq_div_mul, hpow]
    rfl

/-- A log entry counts, and its CRC stands at its place (R354). -/
theorem logFold_reads {mem : List Host.Cell} (hwf : Memory.wf mem = true) (base n v w : Nat) (more : List (Nat × Nat)) :
    readNat (logFold mem base n ((64, v) :: (64, w) :: more)) base 8 = (readNat mem base 8 + 1) % 2 ^ 64 ∧
      readNat (logFold mem base n ((64, v) :: (64, w) :: more)) (base + 64 + 32 * (readNat mem base 8 % n) + 8) 8 =
        w % 2 ^ 64 := by
  unfold logFold
  dsimp only
  refine ⟨?_, ?_⟩
  · rw [readNat_writeNat _ _ _ (wf_writeNat _ _ _ hwf)]
    exact Nat.mod_mod ..
  · rw [writeNat, readNat_writeBytes_apart _ _ _ (.inr (by rw [length_leBytes]; omega)), writeNat,
      show (32 : Nat) = 8 + (8 + 16) from rfl, leBytes_add, leBytes_add, ← List.append_assoc]
    have hfield := readNat_writeBytes_field hwf (base + 64 + (8 + (8 + 16)) * (readNat mem base 8 % n)) 8
      (joinFields ((64, v) :: (64, w) :: more) / 2 ^ (8 * 8)) (leBytes 8 (joinFields ((64, v) :: (64, w) :: more)))
      (leBytes 16 (joinFields ((64, v) :: (64, w) :: more) / 2 ^ (8 * 8) / 2 ^ (8 * 8)))
    rw [length_leBytes] at hfield
    refine hfield.trans ?_
    simp only [joinFields]
    omega

/-! ### Merges (R356) -/

theorem censusMerges_of {ctx : Nat} {x : Context} (hx : s.ctx? ctx = some x) (hm : x.merges < s.time.toNat / 2400000) :
    censusMerges ctx s = some ((mergeCensus s ctx).modCtx ctx fun x => { x with merges := s.time.toNat / 2400000 }) := by
  rw [censusMerges, hx, Option.bind_some, if_neg (by rw [mergeTicks]; omega)]
  rfl

/-- No entry of the context is left. -/
theorem mergeCensus_empties (s : State) (ctx : Nat) : ∀ p ∈ (mergeCensus s ctx).clusters, ∀ e ∈ p.2.census, e.ctx ≠ ctx := by
  have hclusters : (mergeCensus s ctx).clusters = s.clusters.map fun p =>
      (p.1, { p.2 with census := p.2.census.filter fun e => e.ctx != ctx }) := by
    unfold mergeCensus
    dsimp only
    split <;> rfl
  rw [hclusters]
  intro p hp e he
  obtain ⟨q, -, rfl⟩ := List.mem_map.mp hp
  simpa using (List.mem_filter.mp he).2

end

/-- Settles O47, with one lemma for what each event leaves. -/
theorem recorderEvents : Obligations.RecorderEvents := by
  intro s
  refine ⟨fun hready => ⟨fun hf => ?_, fun f hf => ?_⟩, fun u f hf hu hdone hready hstarts => ?_,
    fun u ty n hdue hfrozen hready hgap hport => ?_, fun h => ?_, fun f hf hsign hdone => ?_, fun x rest hx => ?_,
    fun c b blk slot ph rest hblk hdue hdel hstop hpoison => ?_, fun ctx x hx hm => ?_⟩
  · obtain ⟨hfrozen, hcapno⟩ := capfreeze_starts hready hf
    refine ⟨_, happen_some rfl, sameBytes_of_mem startFreeze_mem, hfrozen, startFreeze_freeze _ _ _ _ _ hready, ?_, ?_, hcapno⟩
    · rw [startFreeze_eq]
    · rw [startFreeze_eq]
  · exact happen_some (congrArg some (capfreeze_adds hready hf))
  · obtain ⟨x, xs, hx⟩ := List.exists_cons_of_ne_nil hstarts
    refine ⟨_, happen_some (freezeTokenComes_of hf hu hdone hready (by rw [hx]; rfl)), sameBytes_of_mem tokenReaches_mem, ?_,
      fun w hw => ?_⟩
    · rw [tokenReaches_vault, State.vault_setVault, Vault.stop_frozen]
    · rw [tokenReaches_vault, State.vault_setVault_ne _ _ hw]
  · obtain ⟨t, ht, rest⟩ := gapRecorded_of hdue hfrozen hready hgap hport
    exact ⟨t, happen_some ht, rest⟩
  · obtain ⟨t, ht, rest⟩ := epochRecorded_of h
    exact ⟨t, happen_some ht, rest⟩
  · obtain ⟨hfr, hfreeze, hnor, hnone, hsome⟩ := capsuleHeld_holds s f
    refine ⟨_, (makeCapsule s f).2, happen_some (capsuleAssembles_of hf hsign hdone), ?_, fun u hu => ?_, hfr, ?_⟩
    · rw [foldl_thawVault_eq]
      exact hfreeze
    · obtain ⟨a, -, hvault⟩ := foldl_vault (s := capsuleHeld s f) (thawVault_vault_ne f.capno) (mem_vaultUnits.mpr hu)
        vaultUnits_nodup
      rw [hvault, thawVault_frozen]
    · rw [foldl_thawVault_eq]
      exact ⟨hnor, hnone, hsome⟩
  · obtain ⟨t, ht, hdue, herr, hslots⟩ := norSummaryWrites_nor hx
    refine ⟨t, happen_some ht, hdue, herr, ?_, fun hlen => ?_, fun hopen => ?_⟩
    · rw [hslots, List.getLast?_concat]
    · have := norOpens_length hlen
      rw [hslots, List.length_append, List.length_dropLast, List.length_singleton]
      omega
    · rw [hslots, List.dropLast_concat, norOpens_dropLast hopen]
  · intro stays
    have hfolded := foldBlock_block? s c b blk slot ph rest
    obtain ⟨hstrands, htracker⟩ := foldBlock_strands s c b blk slot ph rest
    have hstays : stays → retireBlock (foldBlock s c b blk slot ph rest) c b = foldBlock s c b blk slot ph rest := fun h =>
      retireBlock_stays hfolded (by rw [hstrands, htracker]; exact h)
    refine ⟨_, happen_some (barrierFolds_of hblk hdue hdel hstop hpoison), fun h => ?_, fun h => ?_, fun h hlog => ?_,
      fun base n h hlog hwf => ?_⟩
    · rw [hstays h, hfolded]
    · obtain ⟨hrest, hnone⟩ := not_or.mp h
      obtain ⟨hnostrand, hnoentry⟩ := not_or.mp hnone
      refine retireBlock_gone (fun p hp hb => hnostrand ⟨p, hstrands ▸ hp, hb⟩)
        (fun x hx hb => hnoentry ⟨x, htracker ▸ hx, hb⟩) fun bl hbl => ?_
      rw [hfolded] at hbl
      exact Option.some.inj hbl ▸ not_not.mp hrest
    · rw [hstays h, foldBlock_eq, hlog]
      exact fun _ => rfl
    · have hmem : (foldBlock s c b blk slot ph rest).mem = logFold s.mem base n (foldEntry s blk slot ph) := by
        rw [foldBlock_eq, hlog]
      have hcrc : (crc64 (foldBytes blk)).toNat % 2 ^ 64 = (crc64 (foldBytes blk)).toNat := Nat.mod_eq_of_lt (crc64 _).isLt
      obtain ⟨hcount, hentry⟩ := logFold_reads hwf base n s.time.toNat (crc64 (foldBytes blk)).toNat _
      rw [hstays h, hmem]
      exact ⟨hcount, hentry.trans hcrc⟩
  · refine ⟨_, happen_some (censusMerges_of hx hm), ctx?_modCtx _ ?_, mergeCensus_empties s ctx⟩
    rw [State.ctx?, mergeCensus_ctxs]
    exact hx

end Sys2Proof.Machine
end

section
/-!
PROOFS. Queues and their slots, packets that start or resume, indirect dimensions, placements and fills (21 R276-R291).
-/
namespace Sys2Proof.Machine

section
variable {s : State}

/-! ### Slots (R276) -/

theorem get?_modQueue_self {q : Nat} {r : Queue} (h : s.queues.get? q = some r) (f : Queue → Queue) :
    (s.modQueue q f).queues.get? q = some (f r) := by
  rw [State.modQueue_queues, SMap.get?_modify, if_pos rfl, h]
  rfl

theorem get?_modQueue_ne {q v : Nat} (h : v ≠ q) (f : Queue → Queue) :
    (s.modQueue q f).queues.get? v = s.queues.get? v := by
  rw [State.modQueue_queues, SMap.get?_modify, if_neg h]

theorem slotMaps_of {q : Nat} (hq : nextUnmapped s = some q) (hroom : freeSlot s ≠ none ∨ idleVictim s ≠ none) :
    slotMaps q s = some (mapQueue s q) := by
  have hno : (nextUnmapped s != some q || ((freeSlot s).isNone && (idleVictim s).isNone)) = false := by
    rw [hq, bne_self_eq_false, Bool.false_or, Bool.and_eq_false_iff, Option.isNone_eq_false_iff, Option.isNone_eq_false_iff]
    exact hroom.imp Option.isSome_iff_ne_none.mpr Option.isSome_iff_ne_none.mpr
  rw [slotMaps, hno]
  rfl

/-- A record takes the free slot. -/
theorem mapQueue_free {q i : Nat} {r : Queue} (hr : s.queues.get? q = some r) (hi : freeSlot s = some i) :
    (mapQueue s q).queues.get? q = some { r with slot := some i, used := s.fresh } ∧ (mapQueue s q).mem = s.mem := by
  rw [mapQueue, hi]
  exact ⟨get?_modQueue_self hr _, rfl⟩

/-- A record that is unmapped has no slot, and the others keep theirs. -/
theorem unmapQueue_slots (s : State) (v : Nat) : ((unmapQueue s v).queues.get? v).bind Queue.slot = none ∧
    ∀ q, q ≠ v → (unmapQueue s v).queues.get? q = s.queues.get? q := by
  unfold unmapQueue
  split
  · rename_i h
    exact ⟨by rw [h]; rfl, fun _ _ => rfl⟩
  · rename_i r h
    dsimp only
    generalize ht : hubStore (hubStore s r.ctx (r.va + 16) 8 r.head.toNat) r.ctx (r.va + 24) 8 _ = t
    have hqueues : t.queues = s.queues := ht ▸ ((hubStore_frame ..).trans (hubStore_frame ..)).queues
    refine ⟨?_, fun q hq => ?_⟩
    · rw [get?_modQueue_self (by rw [hqueues]; exact h)]
      rfl
    · rw [get?_modQueue_ne hq, hqueues]

/-- With no slot free a record takes that of the idle record used least recently. -/
theorem mapQueue_victim {q v : Nat} {r x : Queue} (hfree : freeSlot s = none) (hvictim : idleVictim s = some (v, r))
    (hne : q ≠ v) (hx : s.queues.get? q = some x) : ∃ y, (mapQueue s q).queues.get? q = some y ∧ y.slot = r.slot ∧
      ((mapQueue s q).queues.get? v).bind Queue.slot = none := by
  obtain ⟨hgone, hkept⟩ := unmapQueue_slots s v
  rw [mapQueue, hfree, hvictim]
  refine ⟨_, get?_modQueue_self ((hkept q hne).trans hx) _, rfl, ?_⟩
  exact (congrArg (Option.bind · Queue.slot) (get?_modQueue_ne (Ne.symm hne) _)).trans hgone

/-! ### Packets (R278, R280) -/

/-- The hub reads the same in two states. -/
structure SameReads (s t : State) : Prop where
  pa : ∀ ctx need va, hubPa t ctx need va = hubPa s ctx need va
  seen : ∀ pa n, seenBytes t pa n = seenBytes s pa n
  poison : t.poison = s.poison

theorem SameReads.rangeOk {t : State} (h : SameReads s t) (ctx : Nat) (need : Need) (va n : Nat) :
    rangeOk t ctx need va n = rangeOk s ctx need va n := by
  simp only [Machine.rangeOk, h.pa]

theorem SameReads.rangePoison {t : State} (h : SameReads s t) (ctx va n : Nat) : rangePoison t ctx va n = rangePoison s ctx va n := by
  have hpoisoned : poisonedAt t = poisonedAt s := by
    funext pa
    rw [poisonedAt, poisonedAt, h.poison]
  simp only [Machine.rangePoison, hpoisoned, h.pa, h.poison]

theorem SameReads.hubBytes {t : State} (h : SameReads s t) (ctx va n : Nat) : hubBytes t ctx va n = hubBytes s ctx va n := by
  simp only [Machine.hubBytes, h.pa, h.seen]

/-- The submission that a packet of a device launch queue carries is taken from its context. -/
def subTaken (s : State) (r : Queue) : State :=
  if r.dev then s.modCtx r.ctx fun x => { x with subs := x.subs.del r.head.toNat } else s

/-- The packet at HEAD has started, and its bytes are yet to be read. -/
def packetBegun (s : State) (q : Nat) (r : Queue) : State :=
  { (subTaken s r).modQueue q (fun x => { x with packet := some (newPacket s r), used := (subTaken s r).fresh }) with
    fresh := (subTaken s r).fresh + 1 }

theorem sameReads_packetBegun (q : Nat) (r : Queue) : SameReads s (packetBegun s q r) := by
  have hdescs : DescsOf (s.ctxs.modify r.ctx fun x => { x with subs := x.subs.del r.head.toNat }) s := by
    intro n
    rw [SMap.get?_modify]
    split
    · rename_i h
      subst h
      exact Option.map_map ..
    · rfl
  unfold packetBegun subTaken
  split
  · exact ⟨fun ctx need va => hubPa_under (G := s.grids) hdescs ctx need va, fun _ _ => rfl, rfl⟩
  · exact ⟨fun _ _ _ => rfl, fun _ _ => rfl, rfl⟩

theorem packetBegun_queues (q : Nat) {r : Queue} (hr : s.queues.get? q = some r) :
    (packetBegun s q r).queues.get? q =
      some { r with packet := some (newPacket s r), used := (subTaken s r).fresh } := by
  refine get?_modQueue_self (s := subTaken s r) ?_ _
  unfold subTaken
  split <;> exact hr

theorem packetBegun_mem (q : Nat) (r : Queue) : (packetBegun s q r).mem = s.mem := by
  unfold packetBegun subTaken
  split <;> rfl

/-- What becomes of a packet that has started: its bytes are read, where its entry may be read and holds no poison. -/
def packetRead (s : State) (q : Nat) (r : Queue) (p : Packet) : State :=
  if !rangeOk s r.ctx .load r.entry 256 then endPacket s q 0x05 0
  else match rangePoison s r.ctx r.entry 256 with
    | some pa => enginePoison s r.ctx pa
    | none => hubHolds (s.modQueue q fun r => { r with packet := some { p with bytes := hubBytes s r.ctx r.entry 256 } })
        r.ctx r.entry 256

theorem packetStarts_eq (q : Nat) (s : State) : packetStarts q s =
    ((s.queues.get? q).filter fun r => r.startable s && servedNow s q && hubReady s r.ctx r.entry 256 &&
      hubReady s r.ctx r.va 64).map fun r => packetRead (packetBegun s q r) q r (newPacket s r) := rfl

theorem packetStarts_of {q : Nat} {r : Queue} (hr : s.queues.get? q = some r) (hstart : r.startable s = true)
    (hserved : servedNow s q = true) (hentry : hubReady s r.ctx r.entry 256 = true) (hrecord : hubReady s r.ctx r.va 64 = true)
    (hok : rangeOk s r.ctx .load r.entry 256 = true) (hpoison : rangePoison s r.ctx r.entry 256 = none) :
    packetStarts q s = some (hubHolds ((packetBegun s q r).modQueue q fun x => { x with
      packet := some { newPacket s r with bytes := hubBytes s x.ctx x.entry 256 } }) r.ctx r.entry 256) := by
  have hsame := sameReads_packetBegun (s := s) q r
  have hcond : (r.startable s && servedNow s q && hubReady s r.ctx r.entry 256 && hubReady s r.ctx r.va 64) = true := by
    simp [hstart, hserved, hentry, hrecord]
  rw [packetStarts_eq, hr, Option.filter_some, if_pos hcond, Option.map_some, packetRead, hsame.rangeOk, hok, hsame.rangePoison,
    hpoison]
  simp only [hsame.hubBytes]
  rfl

/-- The record of a queue whose packet has started. -/
theorem packetStarted_queues {q : Nat} {r : Queue} (hr : s.queues.get? q = some r) :
    (hubHolds ((packetBegun s q r).modQueue q fun x => { x with
      packet := some { newPacket s r with bytes := hubBytes s x.ctx x.entry 256 } }) r.ctx r.entry 256).queues.get? q =
        some { r with
          packet := some { newPacket s r with bytes := hubBytes s r.ctx r.entry 256 }, used := (subTaken s r).fresh } := by
  rw [(hubHolds_frame ..).queues]
  exact get?_modQueue_self (packetBegun_queues q hr) _

/-- A packet starts at operation 0 with HEAD in q7 and its 256 bytes. -/
theorem newPacket_get (s : State) (r : Queue) (n : BitVec 3) : (newPacket s r).get n = if n = 7 then r.head else 0 := by
  have hn : n = 0 ∨ n = 1 ∨ n = 2 ∨ n = 3 ∨ n = 4 ∨ n = 5 ∨ n = 6 ∨ n = 7 := by decide +revert
  rcases hn with rfl | rfl | rfl | rfl | rfl | rfl | rfl | rfl <;> rfl

/-- The condition of a packet that waits is tested: lines are held, and nothing else. -/
theorem pollQueue_frame (s : State) (r : Queue) : StoreFrame s (pollQueue s r) := by
  unfold pollQueue
  split
  · split
    · split
      · exact hubHolds_frame ..
      · exact .refl s
    · exact .refl s
  · exact .refl s

theorem waitResumes_of {q : Nat} {r : Queue} {p : Packet} (hr : s.queues.get? q = some r) (hp : r.packet = some p)
    (hwait : waitHolds s r p = true) (hserved : servedNow s q = true) : waitResumes q s =
      some ((pollQueue s r).modQueue q fun x => { x with packet := some { p with parked := false } }) := by
  have hcond : (r.packet.any (fun p => waitHolds s r p) && servedNow s q) = true := by simp [hp, hwait, hserved]
  rw [waitResumes, hr, Option.filter_some, if_pos hcond, Option.map_some, hp]
  rfl

/-! ### Indirect dimensions (R284) -/

theorem pollDims_frame (s : State) (l : Launch) : StoreFrame s (pollDims s l) := by
  unfold pollDims
  split
  · exact (hubHolds_frame ..).trans (hubHolds_frame ..)
  · exact .refl s

/-- A grid that has blocks left to place is not settled. -/
theorem settle_unfinished {g : Nat} {gr : Grid} (hg : s.grids.get? g = some gr) (h : gr.finished = false) : settle s g = s := by
  rw [settle, settleGrid, hg]
  simp [h]

theorem dimsRead_of {g gx gy gz : Nat} {gr : Grid} (hg : s.grids.get? g = some gr) (hclosed : gr.closed = false)
    (hdims : gr.dims = none) (hdue : dimsDue s gr.rec' = some (some (gx, gy, gz))) (hgx : gx ≤ 2 ^ 31)
    (hcoop : gr.rec'.coop = true → coopFits s gr.rec' (gx * gy * gz) = true) : dimsRead g s =
      some (settle ((pollDims s gr.rec').modGrid g fun x => { x with dims := some (gx, gy, gz) }) g) := by
  have hfits : (gr.rec'.coop && !coopFits s gr.rec' (gx * gy * gz)) = false := by
    cases h : gr.rec'.coop <;> simp [h, hcoop]
  simp only [dimsRead, hg, hclosed, hdims, hdue, hfits, if_neg (Nat.not_lt.mpr hgx)]
  rfl

theorem get?_modGrid_self {g : Nat} {gr : Grid} (h : s.grids.get? g = some gr) (f : Grid → Grid) :
    (s.modGrid g f).grids.get? g = some (f gr) := by
  rw [State.modGrid_grids, SMap.get?_modify, if_pos rfl, h]
  rfl

/-! ### Placement (R288) -/

theorem argumentsRead_frame (s : State) (l : Launch) : StoreFrame s (argumentsRead s l) :=
  .foldl (fun s _ => hubHolds_frame s ..) _ s

/-- A block that starts is listed under the next number of its cluster, and its grid counts it. -/
theorem startBlock_of {g c : Nat} (gr : Grid) (index : Nat) {args : List (Nat × Nat × Nat)}
    (hargs : argumentWords s gr.rec' = some args) : ∃ t, startBlock s g gr index c = some t ∧ t.mem = s.mem ∧ t.lastPlaced = c ∧
      t.grids = s.grids.modify g (fun x => { x with placed := index + 1 }) ∧
      t.block? c (s.cluster c).nextBlock =
        some (newBlock (argumentsRead s gr.rec') g gr index (freeGranules (s.cluster c) (ceilDiv gr.rec'.n 64))) ∧
      (t.cluster c).nextBlock = (s.cluster c).nextBlock + 1 := by
  rw [startBlock, hargs]
  refine ⟨_, rfl, argumentsRead_mem, rfl, ?_, ?_, congrArg Cluster.nextBlock (State.cluster_setCluster ..)⟩
  · exact congrArg (fun G : SMap Grid => G.modify g fun x => { x with placed := index + 1 })
      (argumentsRead_frame s gr.rec').grids
  · refine (congrArg (fun cl : Cluster => cl.blocks.get? (s.cluster c).nextBlock) (State.cluster_setCluster ..)).trans ?_
    exact SMap.get?_set_self ..

theorem blockPlaces_of {g c : Nat} {gr : Grid} {t : State} (hready : s.ready.getLsbD 535 = true)
    (hg : s.grids.get? g = some gr) (hfirst : firstToPlace s gr = true) (hports : argumentsReady s gr.rec' = true)
    (hcoop : gr.rec'.coop = false) (hleft : gr.left ≠ 0) (hc : clusterFor s gr.rec' = some c)
    (ht : startBlock s g gr gr.placed c = some t) : blockPlaces g s = some t := by
  have hno : (!s.ready.getLsbD 535 || !firstToPlace s gr || !argumentsReady s gr.rec') = false := by
    simp [hready, hfirst, hports]
  have hnext : placeNext s g = .done t := by simp only [placeNext, hg, hc, ht]
  have hplace : placeGrid s g = .done t := by
    simp only [placeGrid, hg, hcoop]
    simp [hleft, placeAll, hnext]
  simp only [blockPlaces, hg, hno, hplace]
  rfl

/-! ### Fills (R291) -/

/-- Memory once a fill has copied its source. -/
def filled (s : State) (f : Fill) : List Host.Cell := copyBytes s.mem f.source f.frame (4096 * f.count)

/-- The poison in the frames of a fill is gone. -/
def fillHealed (s : State) (f : Fill) : List ErrSite :=
  s.poison.filter fun p => match p with
    | .weightStore a => !(f.frame ≤ a && a < f.frame + 4096 * f.count)
    | _ => true

theorem fillEnds_of {id : Nat} {f : Fill} (hf : s.fills.find? (fun f => f.id == id) = some f)
    (hsource : portsReady s f.source (4096 * f.count) = true) (hsignal : portReady s f.signal = true) : fillEnds id s = some { s with
      mem := writeNat (filled s f) f.signal 8 ((readNat (filled s f) f.signal 8 + 1) % 2 ^ 64)
      poison := fillHealed s f
      fills := s.fills.filter fun x => x.id != id } := by
  simp only [fillEnds, hf, hsource, hsignal]
  rfl

theorem mem_fillHealed {f : Fill} {a : Nat} (hlow : f.frame ≤ a) (hhigh : a < f.frame + 4096 * f.count) :
    ErrSite.weightStore a ∉ fillHealed s f := by
  intro h
  have := (List.mem_filter.mp h).2
  simp [hlow, hhigh] at this

/-- Bytes that are copied read back at their new place. -/
theorem readByte_copyBytes {mem : List Host.Cell} (hwf : Memory.wf mem = true) (source dest n : Nat) {i : Nat} (hi : i < n) :
    readByte (copyBytes mem source dest n) (dest + i) = readByte mem (source + i) := by
  refine readByte_writeBytes dest _ hwf ?_
  rw [readBytes_eq_map, upto, List.getElem?_map, List.getElem?_range hi]
  rfl

theorem readByte_filled_apart {f : Fill} {a : Nat} (h : a < f.frame ∨ f.frame + 4096 * f.count ≤ a) :
    readByte (filled s f) a = readByte s.mem a :=
  readByte_writeBytes_apart _ _ _ (by rwa [length_readBytes])

theorem readNat_filled_apart {f : Fill} (h : f.signal + 8 ≤ f.frame ∨ f.frame + 4096 * f.count ≤ f.signal) :
    readNat (filled s f) f.signal 8 = readNat s.mem f.signal 8 :=
  readNat_writeBytes_apart _ _ _ (by rwa [length_readBytes])

end

/-- Settles O50, with one lemma for what each event leaves. -/
theorem queuesAndGrids : Obligations.QueuesAndGrids := by
  intro s
  refine ⟨fun q i hq hi hne => ?_, fun q v r hq hfree hvictim hqv hne => ?_, fun q r hr hstart hserved hentry hrecord hok hpoison => ?_,
    fun q r p hr hp hwait hserved => ?_, fun g gr gx gy gz hg hclosed hdims hdue hplaced hgx hcoop => ?_,
    fun g gr c args hready hg hfirst hports hcoop hleft hc hargs => ?_, fun id f hf hwf => ?_⟩
  · obtain ⟨r, hr⟩ := Option.ne_none_iff_exists'.mp hne
    obtain ⟨hslot, hmem⟩ := mapQueue_free hr hi
    exact ⟨_, _, happen_some (slotMaps_of hq (.inl (by simp [hi]))), hslot, rfl, sameBytes_of_mem hmem⟩
  · obtain ⟨x, hx⟩ := Option.ne_none_iff_exists'.mp hne
    obtain ⟨y, hy, hslot, hgone⟩ := mapQueue_victim hfree hvictim hqv hx
    exact ⟨_, y, happen_some (slotMaps_of hq (.inr (by simp [hvictim]))), hy, hslot, hgone⟩
  · refine ⟨_, _, _, happen_some (packetStarts_of hr hstart hserved hentry hrecord hok hpoison), sameBytes_of_mem ?_,
      packetStarted_queues hr, rfl, rfl, rfl, rfl, rfl, newPacket_get s r⟩
    rw [hubHolds_mem, State.modQueue_mem, packetBegun_mem]
  · refine ⟨_, happen_some (waitResumes_of hr hp hwait hserved), sameBytes_of_mem pollQueue_mem, ?_⟩
    exact get?_modQueue_self ((congrArg (SMap.get? · q) (pollQueue_frame s r).queues).trans hr) _
  · have hread := get?_modGrid_self ((congrArg (SMap.get? · g) (pollDims_frame s gr.rec').grids).trans hg)
      fun x => { x with dims := some (gx, gy, gz) }
    have hunfinished : ({ gr with dims := some (gx, gy, gz) } : Grid).finished = false := by
      have hleft : gr.placed ≠ gx * gy * gz := by omega
      simp [Grid.finished, hclosed, hleft]
    refine ⟨_, happen_some (dimsRead_of hg hclosed hdims hdue hgx hcoop), sameBytes_of_mem ?_, ?_⟩
    · rw [settle_unfinished hread hunfinished]
      exact pollDims_mem
    · rw [settle_unfinished hread hunfinished, hread]
  · obtain ⟨t, ht, hmem, hlast, hgrids, hblocks, hnext⟩ := startBlock_of (g := g) (c := c) gr gr.placed hargs
    refine ⟨t, { gr with placed := gr.placed + 1 }, _, happen_some (blockPlaces_of hready hg hfirst hports hcoop hleft hc ht),
      sameBytes_of_mem hmem, hlast, ?_, rfl, hblocks, rfl, rfl, rfl, rfl, rfl, rfl, hnext⟩
    rw [hgrids, SMap.get?_modify, if_pos rfl, hg]
    rfl
  · intro n hsource hsignal hapart
    refine ⟨_, happen_some (fillEnds_of hf hsource hsignal), fun i hi => ?_, ?_, fun a hframe hsig => ?_,
      fun a hlow hhigh => mem_fillHealed hlow hhigh⟩
    · rw [writeNat, readByte_writeBytes_apart _ _ _ (by rw [length_leBytes]; omega)]
      exact readByte_copyBytes hwf _ _ _ hi
    · have hmem : Memory.wf (filled s f) = true := wf_writeBytes _ _ hwf
      rw [readNat_writeNat _ _ _ hmem, readNat_filled_apart hapart]
      exact Nat.mod_mod ..
    · rw [writeNat, readByte_writeBytes_apart _ _ _ (by rw [length_leBytes]; omega), readByte_filled_apart hframe]

end Sys2Proof.Machine
end

section
/-!
PROOFS. The mailbox commands of the device (29 R372-R374, 26 R350, 28 R366-R367).
-/
namespace Sys2Proof.Machine

section
variable {s : State} {h : CmdHdr}

/-! ### The end of a command (R373) -/

/-- A command ends with its status and a result that begins with `res`, and its end writes the mailbox's pages alone. -/
theorem endCommand_answers (s : State) (h : CmdHdr) (st : Nat) (res more : List Byte) : ∃ p0 p1,
    endCommand s h st (res ++ more) = { s with page0 := p0, page1 := p1 } ∧
      Answered { s with page0 := p0, page1 := p1 } h st res := by
  cases hp : h.page0 with
  | false =>
    refine ⟨s.page0, _, by simp only [endCommand, State.modPage, hp]; rfl, ?_⟩
    simp [Answered, State.page, hp, List.append_assoc]
  | true =>
    refine ⟨_, s.page1, by simp only [endCommand, State.modPage, hp]; rfl, ?_⟩
    simp [Answered, State.page, hp, List.append_assoc]

section
variable {operator always : Bool} {k : State → Nat × List Byte × State} {t : State} {st : Nat} {res : List Byte}
  {P : State → Prop}

/-- A command that is carried out ends with a state and a result that begins with `res`, as its meaning `k` says. -/
theorem command_ends_more (more : List Byte) (hop : operator = true → h.page0 = true)
    (hfw : always = false → s.running ≠ none) (hk : k (wakeAll s) = (st, res ++ more, t))
    (hP : ∀ p0 p1, P { t with page0 := p0, page1 := p1 }) :
    ∃ t, command s h operator always k = .next t ∧ Answered t h st res ∧ P t := by
  obtain ⟨p0, p1, he, ha⟩ := endCommand_answers t h st res more
  refine ⟨_, ?_, ha, hP p0 p1⟩
  have h1 : (operator && !h.page0) = false := by
    cases operator with
    | false => rfl
    | true => simp [hop rfl]
  have h2 : (!always && (wakeAll s).running.isNone) = false := by
    cases always with
    | true => rfl
    | false => simpa [wakeAll, Option.isSome_iff_ne_none] using hfw rfl
  simp only [command, h1, h2, hk, Bool.false_eq_true, if_false, he]

theorem command_ends (hop : operator = true → h.page0 = true) (hfw : always = false → s.running ≠ none)
    (hk : k (wakeAll s) = (st, res, t)) (hP : ∀ p0 p1, P { t with page0 := p0, page1 := p1 }) :
    ∃ t, command s h operator always k = .next t ∧ Answered t h st res ∧ P t :=
  command_ends_more [] hop hfw ((List.append_nil res).symm ▸ hk) hP

theorem operatorCommand_ends (hp : h.page0 = true) (hfw : s.running ≠ none) (hk : k (wakeAll s) = (st, res, t))
    (hP : ∀ p0 p1, P { t with page0 := p0, page1 := p1 }) :
    ∃ t, operatorCommand s h k = .next t ∧ Answered t h st res ∧ P t :=
  command_ends (fun _ => hp) (fun _ => hfw) hk hP

end

/-- A command of the operator that is carried out. -/
theorem operatorCommand_does {u : State} {k : State → Nat × List Byte × State} {st : Nat} {res : List Byte}
    (hp : h.page0 = true) (hfw : s.running ≠ none) (hk : k (wakeAll s) = (st, res, u)) :
    operatorCommand s h k = .next (endCommand u h st res) := by
  have hrun : (wakeAll s).running.isNone = false := by simpa [wakeAll, Option.isSome_iff_ne_none] using hfw
  simp only [operatorCommand, command, hp, hrun, hk, Bool.not_true, Bool.and_false, Bool.false_eq_true, if_false]

/-- NORIGHT: a command of the operator on page 1. -/
theorem command_noRight {always : Bool} {k : State → Nat × List Byte × State} (hp : h.page0 = false) :
    command s h true always k = .next (endCommand (wakeAll s) h 2 []) := by
  simp [command, hp]

/-- NOTREADY: no firmware runs. -/
theorem command_notReady {operator : Bool} {k : State → Nat × List Byte × State} (hp : h.page0 = true)
    (hr : s.running = none) :
    command s h operator false k = .next (endCommand (wakeAll s) h 3 []) := by
  simp [command, hp, hr, wakeAll]

/-- A command that is refused waits for nothing. -/
theorem commandWaits_refused {ready : Bool} (hn : h.page0 = false ∨ s.running = none) : commandWaits s h ready = false := by
  rcases hn with hp | hr
  · simp [commandWaits, hp]
  · simp [commandWaits, hr]

/-- Where a command of the operator is refused whatever it means, each of them is, and does nothing else. -/
theorem operatorCommands_refused {st : Nat} (hn : h.page0 = false ∨ s.running = none)
    (hst : ∀ k, operatorCommand s h k = .next (endCommand (wakeAll s) h st [])) (handle ctx entries : Nat) (op raise : Bool)
    (creds : List (Nat × List Byte)) (addr va base : Word) (d : CtxDesc) :
    ∀ i ∈ [Instr.fwcommit h raise, .caplist h, .capview h handle op creds, .caprel h handle, .capfreeze h, .errread h,
        .fnote h addr, .ctxset h ctx d, .mapPage h va base ctx, .unmapPage h va ctx, .qreg h va ctx, .qdereg h va ctx,
        .wsfill h va entries base addr, .cklog h ctx base entries, .censusCmd h ctx base entries],
      exec i s = .next (endCommand (wakeAll s) h st []) := by
  have hw : ∀ ready, commandWaits s h ready = false := fun ready => commandWaits_refused hn
  have hgo : ∀ ready k, (if commandWaits s h ready then .next s else operatorCommand s h k) =
      .next (endCommand (wakeAll s) h st []) := fun ready k => by
    rw [hw, if_neg Bool.false_ne_true]
    exact hst k
  have hctx : exec (.ctxset h ctx d) s = .next (endCommand (wakeAll s) h st []) := by
    simp only [exec_ctxset, execCtxset, hw, Bool.false_eq_true, if_false]
    split
    · exact hst _
    · split
      · exact hst _
      · exact hst _
  have hunmap : exec (.unmapPage h va ctx) s = .next (endCommand (wakeAll s) h st []) := by
    simp only [exec_unmapPage, execUnmapPage, hw, Bool.false_eq_true, if_false]
    split
    · exact hst _
    · exact hst _
  simp only [List.forall_mem_cons, exec_fwcommit, exec_caplist, exec_capview, exec_caprel, exec_capfreeze, exec_errread,
    exec_fnote, exec_mapPage, exec_qreg, exec_qdereg, exec_wsfill, exec_cklog, exec_censusCmd]
  exact ⟨hst _, hst _, hst _, hst _, hst _, hst _, hst _, hctx, hgo _ _, hunmap, hgo _ _, hgo _ _, hst _, hgo _ _, hgo _ _,
    fun i hi => absurd hi List.not_mem_nil⟩

/-! ### The staging window (R372) -/

theorem getD_setD (m : SMap Byte) (k j : Nat) (v : Byte) : (m.setD 0 k v).getD 0 j = if j = k then v else m.getD 0 j := by
  unfold SMap.setD SMap.getD
  by_cases hv : v = 0
  · rw [if_pos hv]
    by_cases hj : j = k
    · simp [hv, hj]
    · simp [hj, SMap.get?_del_ne m hj]
  · rw [if_neg hv, SMap.get?_set]
    by_cases hj : j = k
    · simp [hj]
    · simp [hj]

/-- A byte that is written at each index of a list, the same at equal indices, is read back. -/
theorem getD_foldl_setD (f : Nat → Byte) (at' : Nat) (l : List Nat) (m : SMap Byte) {i : Nat}
    (hi : i ∈ l ∨ m.getD 0 (at' + i) = f i) :
    (l.foldl (fun m j => m.setD 0 (at' + j) (f j)) m).getD 0 (at' + i) = f i := by
  induction l generalizing m with
  | nil => simpa using hi
  | cons j l ih =>
    refine ih _ ?_
    by_cases hij : i = j
    · exact .inr (by rw [hij, getD_setD, if_pos rfl])
    · rw [getD_setD, if_neg (by omega)]
      simpa [hij] using hi

/-- A slot's image with the first `n` bytes of the staging window from `offset`. -/
def stagedImage (w m : SMap Byte) (offset n : Nat) : SMap Byte :=
  ((areaBytes w 0 n).zip (upto n)).foldl (fun m p => m.setD 0 (offset + p.2) p.1) m

theorem getD_stagedImage (w m : SMap Byte) (offset n : Nat) {i : Nat} (hi : i < n) :
    (stagedImage w m offset n).getD 0 (offset + i) = w.getD 0 i := by
  have hzip : (areaBytes w 0 n).zip (upto n) = (upto n).map fun j => (w.getD 0 j, j) := by
    simpa [areaBytes] using (List.zip_map' (f := fun j => w.getD 0 j) (g := id) (l := upto n))
  rw [stagedImage, hzip, List.foldl_map]
  exact getD_foldl_setD (fun j => w.getD 0 j) offset _ m (.inl (List.mem_range.2 hi))

theorem execFwstage_eq (h : CmdHdr) (offset : Nat) (s : State) : execFwstage h offset s = command s h true true fun s =>
    (0, [], if s.inactiveB then { s with fwB := stagedImage s.fwWindow s.fwB offset 65536 }
      else { s with fwA := stagedImage s.fwWindow s.fwA offset 65536 }) := rfl

/-! ### Firmware and its report (R372, R373) -/

theorem takeIdIndex_report (s : State) (nonce : List Byte) (idx : Option Nat) :
    reportBytes (takeIdIndex s).1 nonce idx = reportBytes s nonce idx := by
  unfold takeIdIndex
  split
  · rfl
  · split
    · rfl
    · rfl


theorem slot_false (s : State) : s.slot false = s.fwA := rfl

theorem slot_true (s : State) : s.slot true = s.fwB := rfl

theorem runningSlot_eq (s : State) : s.runningSlot = if s.running = some true then s.fwB else s.fwA := by
  simp only [State.runningSlot, State.slot, beq_iff_eq]

theorem slot_inactive_eq (s : State) : s.slot s.inactiveB = if s.running = some false then s.fwB else s.fwA := by
  simp only [State.slot, State.inactiveB, beq_iff_eq]

theorem bit01_beq (a b : Option Bool) : bit01 (a == b) = if a = b then 1 else 0 := by
  unfold bit01
  simp only [beq_iff_eq]

theorem fwstage_writes (hp : h.page0 = true) (offset : Nat) :
    ∃ t, exec (.fwstage h offset) s = .next t ∧ Answered t h 0 [] ∧
    (∀ i, i < 65536 → (t.slot s.inactiveB).getD 0 (offset + i) = s.fwWindow.getD 0 i) ∧
      t.slot (!s.inactiveB) = s.slot (!s.inactiveB) ∧ t.running = s.running := by
  rw [exec_fwstage, execFwstage_eq]
  have hin : (wakeAll s).inactiveB = s.inactiveB := rfl
  cases hb : s.inactiveB with
  | false =>
    refine command_ends (fun _ => hp) (fun hf => absurd hf.symm Bool.false_ne_true)
      (congrArg (fun t => (0, [], t)) (if_neg (by rw [hin, hb]; decide))) fun p0 p1 => ⟨fun i hi => ?_, ?_, rfl⟩
    · rw [slot_false, getD_stagedImage _ _ _ _ hi]
      rfl
    · rw [Bool.not_false, slot_true, slot_true]
      rfl
  | true =>
    refine command_ends (fun _ => hp) (fun hf => absurd hf.symm Bool.false_ne_true)
      (congrArg (fun t => (0, [], t)) (if_pos (by rw [hin, hb]))) fun p0 p1 => ⟨fun i hi => ?_, ?_, rfl⟩
    · rw [slot_true, getD_stagedImage _ _ _ _ hi]
      rfl
    · rw [Bool.not_true, slot_false, slot_false]
      rfl

theorem attest_signs (hfw : s.running ≠ none) (hsign : s.ready.getLsbD 538 = true) (nonce : List Byte) :
    ∃ t, exec (.attest h nonce) s = .next t ∧ Answered t h 0 [] ∧ ∃ idx,
      t.attWindow = reportBytes s nonce idx ++ signDigest true idx (reportBytes s nonce idx) := by
  have hsign' : ¬(!(wakeAll s).ready.getLsbD 538) = true := by rw [show (wakeAll s).ready = s.ready from rfl, hsign]; decide
  rw [exec_attest]
  obtain ⟨u, idx, hidx⟩ : ∃ u idx, takeIdIndex (wakeAll s) = (u, idx) := ⟨_, _, rfl⟩
  have hreport : reportBytes u nonce idx = reportBytes s nonce idx := by
    rw [show u = (takeIdIndex (wakeAll s)).1 by rw [hidx], takeIdIndex_report]
    rfl
  refine command_ends (t := { u with attWindow := reportBytes u nonce idx ++ signDigest true idx (reportBytes u nonce idx) })
    (fun hf => absurd hf Bool.false_ne_true) (fun _ => hfw) ?_ fun p0 p1 => ⟨idx, by rw [← hreport]⟩
  dsimp only
  rw [if_neg hsign', hidx]

theorem fwcommit_commits (hp : h.page0 = true) (hfw : s.running ≠ none) (raise : Bool)
    (hgood : imageValid s.minSvn (s.slot s.inactiveB) = true) :
    ∃ t, exec (.fwcommit h raise) s = .next t ∧ Answered t h 0 [] ∧
      t.minSvn = (if raise then imageNat (s.slot s.inactiveB) 8 4 else s.minSvn) ∧ t.running = s.running := by
  have hgo : ¬(!imageValid (wakeAll s).minSvn ((wakeAll s).slot (wakeAll s).inactiveB)) = true := by
    rw [show imageValid (wakeAll s).minSvn ((wakeAll s).slot (wakeAll s).inactiveB) = _ from hgood]
    decide
  rw [exec_fwcommit]
  cases raise with
  | false =>
    refine operatorCommand_ends (t := wakeAll s) hp hfw ?_ fun p0 p1 => ⟨rfl, rfl⟩
    exact if_neg hgo
  | true =>
    refine operatorCommand_ends (t := { wakeAll s with minSvn := imageNat (s.slot s.inactiveB) 8 4 }) hp hfw ?_
      fun p0 p1 => ⟨rfl, rfl⟩
    exact if_neg hgo

/-! ### Capsules (R350) -/

/-- The bytes of a retrieval window: the view's bytes, and 0 past its end. -/
theorem window_getElem? (l : List Byte) (n : Nat) {i : Nat} (hi : i < n) :
    ((l.take n ++ List.replicate n 0).take n)[i]? = some (l[i]?.getD 0) := by
  rw [List.getElem?_take_of_lt hi]
  by_cases hl : i < l.length
  · rw [List.getElem?_append_left (by simp; omega), List.getElem?_take_of_lt hi, List.getElem?_eq_getElem hl]
    rfl
  · rw [List.getElem?_append_right (by simp; omega), List.getElem?_replicate_of_lt (by simp; omega),
      List.getElem?_eq_none (by omega)]
    rfl

theorem capread_window (hfw : s.running ≠ none) {v : View} {view offset : Nat}
    (hv : s.views.find? (fun v => v.id == view) = some v) (hoff : offset % 65536 = 0) :
    ∃ t, exec (.capread h view offset) s = .next t ∧ Answered t h 0 [] ∧
      t.capWindow.length = 65536 ∧ ∀ i, i < 65536 → t.capWindow[i]? = some (v.bytes[offset + i]?.getD 0) := by
  have hv' : (wakeAll s).views.find? (fun v => v.id == view) = some v := hv
  have hoff' : ¬(offset % windowBytes != 0) = true := by simpa [windowBytes] using hoff
  rw [exec_capread]
  refine command_ends (t := { wakeAll s with
      capWindow := ((v.bytes.drop offset).take windowBytes ++ List.replicate windowBytes 0).take windowBytes })
    (fun hf => absurd hf Bool.false_ne_true) (fun _ => hfw) ?_ fun p0 p1 => ⟨?_, fun i hi => ?_⟩
  · dsimp only
    rw [hv']
    exact if_neg hoff'
  · rw [List.length_take, List.length_append, List.length_replicate, Nat.min_eq_left (Nat.le_add_left _ _)]
    rfl
  · rw [window_getElem? _ windowBytes hi, List.getElem?_drop]

theorem caprel_releases (hp : h.page0 = true) (hfw : s.running ≠ none) {handle : Nat}
    (hheld : ∃ x ∈ heldCapsules s, x.handle = handle) : ∃ t, exec (.caprel h handle) s = .next t ∧ Answered t h 0 [] ∧
      (∀ x ∈ heldCapsules t, x.handle ≠ handle) ∧ ∀ v ∈ t.views, v.handle ≠ handle := by
  have hany : ¬(!(heldCapsules (wakeAll s)).any fun c => c.handle == handle) = true := by
    rw [show heldCapsules (wakeAll s) = heldCapsules s from rfl]
    simpa [List.any_eq_true] using hheld
  rw [exec_caprel]
  refine operatorCommand_ends (t := { wakeAll s with
      capsule := (wakeAll s).capsule.filter fun c => c.handle != handle
      summaries := (wakeAll s).summaries.filter fun c => c.handle != handle
      views := (wakeAll s).views.filter fun v => v.handle != handle })
    hp hfw ?_ fun p0 p1 => ⟨fun x hx => ?_, fun v hv => ?_⟩
  · exact if_neg hany
  · simp only [heldCapsules, List.mem_append, Option.mem_toList, Option.filter_eq_some_iff, List.mem_filter, bne_iff_ne] at hx
    exact hx.elim And.right And.right
  · simp only [List.mem_filter, bne_iff_ne] at hv
    exact hv.2

theorem capfreeze_ends (hp : h.page0 = true) (hfw : s.running ≠ none) (hready : s.ready.getLsbD 537 = true) :
    ∃ t, exec (.capfreeze h) s = .next t ∧ Answered t h 0 [] ∧
      (s.freeze = none → (t.vault 388).frozen = true ∧ t.freeze ≠ none) ∧
      (∀ f, s.freeze = some f → t.vaults = s.vaults ∧
        t.freeze = some (f.second { cause := 0x82, unit := 388, tlo := s.time.toNat % 2 ^ 32 })) := by
  have hready' : (wakeAll s).ready.getLsbD 537 = true := hready
  have hgo : ¬(!(wakeAll s).ready.getLsbD 537) = true := by rw [hready']; decide
  rw [exec_capfreeze]
  refine operatorCommand_ends (t := startFreeze (wakeAll s) hubUnit 0x82 none 0 false) hp hfw ?_ fun p0 p1 =>
    ⟨fun hf => ⟨?_, ?_⟩, fun f hf => ?_⟩
  · exact if_neg hgo
  · exact (capfreeze_starts hready' hf).1
  · exact startFreeze_freeze hubUnit 0x82 none 0 false hready'
  · rw [capfreeze_adds hready' hf]
    exact ⟨rfl, rfl⟩

theorem takeIndex_kept (s : State) : (takeIndex s).1.serialNo = s.serialNo ∧ (takeIndex s).1.views = s.views := by
  unfold takeIndex
  split
  · exact ⟨rfl, rfl⟩
  · split
    · exact ⟨rfl, rfl⟩
    · exact ⟨rfl, rfl⟩

theorem capview_renders (hp : h.page0 = true) (hfw : s.running ≠ none) (hsign : s.ready.getLsbD 538 = true) {handle : Nat}
    {x : Capsule} (hx : (heldCapsules s).find? (fun c => c.handle == handle) = some x) (op : Bool)
    (creds : List (Nat × List Byte)) : ∃ t v idx, exec (.capview h handle op creds) s = .next t ∧
      t.views = s.views ++ [v] ∧ v.handle = handle ∧
      v.bytes = viewBytes s.serialNo x op ((creds.filter fun p => credentialHolds x p.1 p.2).map Prod.fst) idx ∧
      Answered t h 0 (leBytes 8 v.id ++ leBytes 8 v.bytes.length) := by
  have hgo : ¬(!(wakeAll s).ready.getLsbD 538) = true := by rw [show (wakeAll s).ready = s.ready from rfl, hsign]; decide
  have hx' : (heldCapsules (wakeAll s)).find? (fun c => c.handle == handle) = some x := hx
  obtain ⟨u, idx, hu⟩ : ∃ u idx, takeIndex (wakeAll s) = (u, idx) := ⟨_, _, rfl⟩
  obtain ⟨hserial, hviews⟩ : u.serialNo = s.serialNo ∧ u.views = s.views := by
    rw [show u = (takeIndex (wakeAll s)).1 by rw [hu]]
    exact takeIndex_kept (wakeAll s)
  obtain ⟨v, hv⟩ : ∃ v : View, v = ⟨u.fresh, handle, viewBytes u.serialNo x op
    ((creds.filter fun p => credentialHolds x p.1 p.2).map Prod.fst) idx⟩ := ⟨_, rfl⟩
  have hends : ∃ t, exec (.capview h handle op creds) s = .next t ∧
      Answered t h 0 (leBytes 8 v.id ++ leBytes 8 v.bytes.length) ∧ t.views = s.views ++ [v] := by
    rw [exec_capview, execCapview, operatorCommand]
    refine command_ends_more (P := fun t => t.views = s.views ++ [v])
      (t := { u with views := u.views ++ [v], fresh := u.fresh + 1 })
      (leBytes 8 ((creds.zip (upto creds.length)).foldl
        (fun m p => if credentialHolds x p.1.1 p.1.2 then m else m + 2 ^ p.2) 0))
      (fun _ => hp) (fun _ => hfw) ?_ fun p0 p1 => ?_
    · dsimp only
      rw [if_neg hgo, hx', hu, hv]
    · exact congrArg (· ++ [v]) hviews
  obtain ⟨t, ht, ha, hvs⟩ := hends
  refine ⟨t, v, idx, ht, hvs, ?_, ?_, ha⟩
  · rw [hv]
  · rw [hv, hserial]

end

/-- Settles O52: each command is carried out as its meaning says, on the state with its retained clusters woken, and ends
with its result in the page it came from. -/
theorem deviceCommands : Obligations.DeviceCommands := by
  intro s h nonce handle view offset ctx entries op raise' creds addr va base d
  dsimp only
  refine ⟨fun hp => ⟨?_, ?_⟩, fun hp hr => ?_, ?_, fun hp => fwstage_writes hp offset, fun hfw => ?_⟩
  · rw [exec_fwstage, execFwstage_eq]
    exact command_noRight hp
  · exact operatorCommands_refused (.inl hp) (fun k => command_noRight hp) handle ctx entries op raise' creds addr va base d
  · exact operatorCommands_refused (.inr hr) (fun k => command_notReady hp hr) handle ctx entries op raise' creds addr
      va base d
  · rw [exec_infoCmd]
    refine command_ends (P := fun _ => True) (t := wakeAll s) (fun hf => absurd hf Bool.false_ne_true)
      (fun hf => absurd hf.symm Bool.false_ne_true) ?_ fun p0 p1 => trivial
    dsimp only
    rw [bit01_beq, runningSlot_eq]
    rfl
  refine ⟨fun hsign => attest_signs hfw hsign nonce, fun v hv hoff => capread_window hfw hv hoff, ?_, fun hp => ?_⟩
  · rw [exec_norlist]
    exact command_ends (fun hf => absurd hf Bool.false_ne_true) (fun _ => hfw) rfl fun p0 p1 => rfl
  refine ⟨fun hbad => ?_, fun hgood => ?_, ?_, fun x hsign hx => capview_renders hp hfw hsign hx op creds,
    caprel_releases hp hfw, capfreeze_ends hp hfw, ?_, fun h0 => ?_, fun h0 hrange => ?_⟩
  · rw [exec_fwcommit]
    exact operatorCommand_does hp hfw (if_pos (by rw [slot_inactive_eq]; exact congrArg not hbad))
  · rw [← slot_inactive_eq] at hgood ⊢
    exact fwcommit_commits hp hfw raise' hgood
  · rw [exec_caplist]
    exact operatorCommand_ends hp hfw rfl fun p0 p1 => trivial
  · rw [exec_errread]
    exact operatorCommand_ends hp hfw rfl fun p0 p1 => rfl
  · rw [exec_fnote]
    exact operatorCommand_ends hp hfw (if_pos (by simpa using h0)) fun p0 p1 => rfl
  · rw [exec_fnote]
    refine operatorCommand_ends (t := { wakeAll s with fnote := addr.toNat }) hp hfw ?_ fun p0 p1 => rfl
    have hrange' : ¬(!pooledRange (wakeAll s) addr.toNat 32) = true := by
      rw [show pooledRange (wakeAll s) = pooledRange s from rfl, hrange]
      decide
    exact (if_neg (by simpa using h0)).trans (if_neg hrange')

end Sys2Proof.Machine
end

section
/-!
PROOFS. The commands of a context (23 R295, R307, R310, R377, 21 R276, R279, R291, 27 R356, 29 R371, R374).
-/
namespace Sys2Proof.Machine

/-! ### Commands of the operator on page 0 (R373) -/

section
variable {s u : State} {h : CmdHdr} {ctx : Nat}

/-- An outcome that ends a command answers it, and what does not speak of the mailbox's pages holds after it. -/
theorem answers_of {P : State → Prop} {o : Host.Outcome State Fault Refusal} {st : Nat} {res : List Byte}
    (ho : o = .next (endCommand u h st res)) (hP : ∀ p0 p1, P { u with page0 := p0, page1 := p1 }) :
    ∃ t, o = .next t ∧ Answered t h st res ∧ P t := by
  obtain ⟨p0, p1, he, ha⟩ := endCommand_answers u h st res []
  rw [List.append_nil] at he
  exact ⟨_, by rw [ho, he], ha, hP p0 p1⟩

theorem commandWaits_not (hp : h.page0 = true) (hfw : s.running ≠ none) (ready : Bool) : commandWaits s h ready = !ready := by
  have hrun : s.running.isSome = true := Option.isSome_iff_ne_none.2 hfw
  simp [commandWaits, hp, hrun]

/-- A command that is not ready waits, and changes nothing. -/
theorem commandWaits_next (hp : h.page0 = true) (hfw : s.running ≠ none) {ready : Bool} (hready : ready = false)
    (t : State) (o : Host.Outcome State Fault Refusal) : (if commandWaits s h ready then .next t else o) = .next t := by
  rw [commandWaits_not hp hfw, hready]
  rfl

/-- A command that is ready goes on. -/
theorem commandWaits_past (hp : h.page0 = true) (hfw : s.running ≠ none) {ready : Bool} (hready : ready = true)
    (t o : Host.Outcome State Fault Refusal) : (if commandWaits s h ready then t else o) = o := by
  rw [commandWaits_not hp hfw, hready]
  rfl

/-- A command of a live context. -/
theorem contextCommand_does {k : State → Context → Nat × List Byte × State} {x : Context} {st : Nat} {res : List Byte}
    (hp : h.page0 = true) (hfw : s.running ≠ none) (hx : s.ctx? ctx = some x) (hlive : x.killed = false)
    (hk : k (wakeAll s) x = (st, res, u)) : contextCommand s h ctx k = .next (endCommand u h st res) := by
  refine operatorCommand_does hp hfw ?_
  rw [show (wakeAll s).ctx? ctx = some x from hx]
  simpa only [hlive, Bool.false_eq_true, if_false] using hk

end

/-! ### CTXSET (R295, R374, R377) -/

section
variable {s : State} {h : CmdHdr} {ctx : Nat} {d : CtxDesc}

theorem ctxsetRefused_busy (hctx : ctx < 64) (hd : descOk d = true) (hstart : unmapStarted s ctx none = false)
    (hbusy : (∃ p ∈ s.clusters, p.2.blocksOf ctx ≠ []) ∨ ∃ x, s.ctx? ctx = some x ∧ x.images ≠ []) :
    ctxsetRefused s ctx d = some 0x04 := by
  have hwait : (s.clusters.any (fun p => !(p.2.blocksOf ctx).isEmpty) ||
      (s.ctx? ctx).any fun x => !x.images.isEmpty) = true := by
    rcases hbusy with ⟨p, hp, hne⟩ | ⟨x, hx, hne⟩
    · exact Bool.or_eq_true_iff.2 (.inl (List.any_eq_true.2 ⟨p, hp, by simpa using hne⟩))
    · exact Bool.or_eq_true_iff.2 (.inr (by rw [hx]; simpa using hne))
  rw [ctxsetRefused, if_neg (by simp [hd]; omega), if_pos (by rw [hstart, hwait]; rfl)]

theorem ctxsetRefused_none (hctx : ctx < 64) (hd : descOk d = true) (hblocks : ∀ p ∈ s.clusters, p.2.blocksOf ctx = [])
    (himages : ∀ x, s.ctx? ctx = some x → x.images = []) : ctxsetRefused s ctx d = none := by
  have hfree : (s.clusters.any (fun p => !(p.2.blocksOf ctx).isEmpty) ||
      (s.ctx? ctx).any fun x => !x.images.isEmpty) = false := by
    rw [Bool.or_eq_false_iff]
    refine ⟨List.any_eq_false.2 fun p hp => by simp [hblocks p hp], ?_⟩
    cases hx : s.ctx? ctx with
    | none => rfl
    | some x => simp [himages x hx]
  rw [ctxsetRefused, if_neg (by simp [hd]; omega), if_neg (by rw [hfree]; simp)]

/-- A context that CTXSET leaves is live and has the new descriptor. -/
theorem contextAfter_defined (s : State) (d : CtxDesc) (old : Option Context) (same : Bool) :
    (contextAfter s d old same).desc = d ∧ (contextAfter s d old same).killed = false := by
  cases old with
  | none => exact ⟨rfl, rfl⟩
  | some x =>
    simp only [contextAfter]
    cases hk : x.killed with
    | false => cases same <;> exact ⟨rfl, rfl⟩
    | true => cases same <;> exact ⟨rfl, rfl⟩

/-- The removal of a context's mappings clears its top table. -/
theorem unmapAll_clears {x : Context} (hx : s.ctx? ctx = some x) (hroot : tableExists s.poolsz x.desc.ptroot.toNat 64 = true)
    (hwf : Memory.wf s.mem = true) (hstart : unmapStarted s ctx none = false) {i : Nat} (hi : i < 64) :
    readByte (unmapAll s ctx).mem (x.desc.ptroot.toNat + i) = 0 := by
  have hdesc : s.desc? ctx = some x.desc := by rw [State.desc?, hx]; rfl
  have hzero : (List.replicate 64 (0 : Byte))[i]? = some 0 := List.getElem?_replicate_of_lt hi
  have hmem : (unmapAll s ctx).mem = writeBytes (startUnmap s ctx x.desc.ptroot.toNat none (leavesOf s ctx)).mem
      x.desc.ptroot.toNat (List.replicate 64 0) := by
    rw [unmapAll, hstart, if_neg Bool.false_ne_true, hdesc]
    dsimp only
    rw [if_pos hroot]
  rw [hmem]
  exact readByte_writeBytes _ _ (wf_startUnmap hwf) hzero

/-- A removal that ends leaves none under way. -/
theorem finishUnmap_unmapping (s : State) : (finishUnmap s).unmapping = none := by
  unfold finishUnmap
  split
  · assumption
  · rfl

theorem execCtxset_busy (hp : h.page0 = true) (hfw : s.running ≠ none) (hr : ctxsetRefused s ctx d = some 4) :
    execCtxset h ctx d s = .next (endCommand (wakeAll s) h 4 []) := by
  rw [execCtxset, hr]
  exact operatorCommand_does hp hfw rfl

theorem execCtxset_stays (hp : h.page0 = true) (hfw : s.running ≠ none) (hr : ctxsetRefused s ctx d = none)
    (hstay : tablesStay s ctx d = true) : ∃ t, execCtxset h ctx d s = .next t ∧ Answered t h 0 [] ∧
      (∃ x, t.ctx? ctx = some x ∧ x.desc = d ∧ x.killed = false) ∧ SameBytes s t := by
  rw [execCtxset, hr]
  dsimp only
  rw [hstay, if_pos rfl]
  exact answers_of (operatorCommand_does hp hfw rfl) fun p0 p1 =>
    ⟨⟨_, State.ctx?_setCtx .., contextAfter_defined ..⟩, sameBytes_of_mem rfl⟩

theorem execCtxset_removes (hp : h.page0 = true) (hfw : s.running ≠ none) (hr : ctxsetRefused s ctx d = none)
    (hstay : tablesStay s ctx d = false) :
    (ctxsetReady s ctx = false → execCtxset h ctx d s = .next s) ∧
    (ctxsetReady s ctx = true → unmapWaits (unmapAll s ctx) = true → execCtxset h ctx d s = .next (unmapAll s ctx)) ∧
    (ctxsetReady s ctx = true → unmapWaits (unmapAll s ctx) = false → execCtxset h ctx d s = .next (endCommand
      ((finishUnmap (unmapAll (wakeAll s) ctx)).setCtx ctx (contextAfter (finishUnmap (unmapAll (wakeAll s) ctx)) d
        ((finishUnmap (unmapAll (wakeAll s) ctx)).ctx? ctx) false)) h 0 [])) := by
  rw [execCtxset, hr]
  dsimp only
  rw [hstay, if_neg Bool.false_ne_true]
  refine ⟨fun hready => commandWaits_next hp hfw hready .., fun hready hwaits => ?_, fun hready hwaits => ?_⟩
  · rw [commandWaits_past hp hfw hready, hwaits]
    exact commandWaits_next hp hfw rfl ..
  · rw [commandWaits_past hp hfw hready, hwaits, commandWaits_past hp hfw (ready := !false) rfl]
    exact operatorCommand_does hp hfw rfl

end

/-! ### UNMAP (R310) -/

section
variable {s : State} {h : CmdHdr} {ctx : Nat}

/-- Numbers written to the entries of a run read back. -/
theorem readNat_foldl_run (f : Nat → Nat) (a n : Nat) {mem : List Host.Cell} (hwf : Memory.wf mem = true) {i : Nat}
    (hi : i < n) :
    readNat (((upto n).map fun j => (a + 8 * j, f j)).foldl (fun m p => writeNat m p.1 8 p.2) mem) (a + 8 * i) 8 =
      f i % 2 ^ 64 := by
  induction n with
  | zero => omega
  | succ n ih =>
    rw [upto, List.range_succ, List.map_append, List.foldl_append]
    rw [List.map_cons, List.map_nil, List.foldl_cons, List.foldl_nil]
    by_cases hin : i = n
    · rw [hin, readNat_writeNat _ _ _ (wf_foldl (fun m p hm => wf_writeNat _ _ _ hm) _ hwf)]
    · rw [writeNat, readNat_writeBytes_apart _ _ _ (by rw [length_leBytes]; omega)]
      exact ih (by omega)

theorem readNat_runOf {table va lo k sz leaf : Nat} {mem : List Host.Cell} (hwf : Memory.wf mem = true) {i : Nat}
    (hi : i < 4 ^ (sz - naturalOf sz)) (f : Nat × Nat → Nat) :
    readNat ((runOf table va lo k sz leaf).foldl (fun m p => writeNat m p.1 8 (f p)) mem) (entryAddress table va lo k + 8 * i) 8
      = f (entryAddress table va lo k + 8 * i, leaf + i * pageBytes (naturalOf sz)) % 2 ^ 64 := by
  have hrun := readNat_foldl_run (fun j => f (entryAddress table va lo k + 8 * j, leaf + j * pageBytes (naturalOf sz)))
    (entryAddress table va lo k) (4 ^ (sz - naturalOf sz)) hwf hi
  rw [List.foldl_map] at hrun
  rw [runOf, List.foldl_map]
  exact hrun

/-- A leaf is of the page that holds the address. -/
theorem leafAt_page {poolsz va e lo n b l : Nat} (h : leafAt poolsz va e lo n = some (b, l)) :
    b ≤ va ∧ va < b + pageBytes (pteSz l) := by
  unfold leafAt at h
  dsimp only at h
  split at h
  · obtain ⟨hb, hl⟩ : va / pageBytes (pteSz e) * pageBytes (pteSz e) = b ∧
        e - pteFrame e + (pteFrame e - va / 2 ^ lo % 4 ^ (pteSz e - n) * pageBytes n) = l := by simpa using h
    have hsz : pteSz l = pteSz e := by
      obtain ⟨q, hq⟩ : 4096 ∣ pteFrame e := Nat.dvd_mul_left 4096 _
      obtain ⟨r, hr⟩ : 4096 ∣ pteFrame e - va / 2 ^ lo % 4 ^ (pteSz e - n) * pageBytes n :=
        Nat.dvd_sub (Nat.dvd_mul_left 4096 _) ((page_dvd_pageBytes n).mul_left _)
      have hle : pteFrame e ≤ e := by unfold pteFrame bitsOf; omega
      rw [hr] at hl
      unfold pteSz bitsOf
      omega
    have hpos : 0 < pageBytes (pteSz e) := Nat.mul_pos (by decide) (Nat.pow_pos (by decide))
    rw [hsz, ← hb]
    exact ⟨Nat.div_mul_le_self .., Nat.lt_div_mul_add hpos⟩
  · cases h

theorem walkFrom_page {mem : List Host.Cell} {poolsz va b l : Nat} {levels : List (Nat × Nat × Option Nat)} {table : Nat}
    (h : walkFrom mem poolsz va table levels = some (b, l)) : b ≤ va ∧ va < b + pageBytes (pteSz l) := by
  induction levels generalizing table with
  | nil => cases h
  | cons p rest ih =>
    obtain ⟨lo, k, nat⟩ := p
    simp only [walkFrom] at h
    split at h
    · cases h
    split at h
    · obtain ⟨n, -, hn⟩ := Option.bind_eq_some_iff.1 h
      exact leafAt_page hn
    split at h
    · cases h
    · obtain ⟨t, -, ht⟩ := Option.bind_eq_some_iff.1 h
      split at ht
      · exact ih ht
      · cases ht

theorem walk_page {va b l : Nat} (h : walk s ctx va = some (b, l)) : b ≤ va ∧ va < b + pageBytes (pteSz l) := by
  unfold walk at h
  split at h
  · cases h
  split at h
  · exact walkFrom_page h
  · cases h

/-- No entry of a page is left where every TLB has given it up. -/
theorem covers_of_tlbDrop {b n va : Nat} (hlo : b ≤ va) (hhi : va < b + n) (c : Nat) {e : TlbEntry}
    (he : e ∈ ((tlbDrop s ctx b n).cluster c).utlb) : e.covers ctx va = false := by
  have hcl : ((tlbDrop s ctx b n).cluster c).utlb =
      (s.cluster c).utlb.filter fun e => !(e.ctx == ctx && overlaps e.base (pageBytes (pteSz e.leaf)) b n) := by
    have hmap := congrArg (Option.getD · Cluster.reset) (get?_mapValues s.clusters (fun _ (cl : Cluster) => { cl with
      utlb := cl.utlb.filter fun e => !(e.ctx == ctx && overlaps e.base (pageBytes (pteSz e.leaf)) b n) }) c)
    refine (congrArg Cluster.utlb hmap).trans ?_
    unfold State.cluster
    cases s.clusters.get? c with
    | none => rfl
    | some cl => rfl
  rw [hcl, List.mem_filter] at he
  have hkeep := he.2
  by_contra hcov
  simp only [TlbEntry.covers, Bool.not_eq_false, Bool.and_eq_true, decide_eq_true_eq, beq_iff_eq] at hcov
  obtain ⟨⟨hctx, hbase⟩, hend⟩ := hcov
  have hov : overlaps e.base (pageBytes (pteSz e.leaf)) b n = true := by simp [overlaps]; omega
  simp [hctx, hov] at hkeep

/-- The removal of one page has cleared its run. -/
theorem clearLeaf_clears {root base leaf table lo k : Nat} {rest : List (Nat × Nat × Option Nat)}
    (hpath : pathTo s.mem s.poolsz base (naturalOf (pteSz leaf)) walkLevels root = .found table lo k rest)
    (hwf : Memory.wf s.mem = true) {i : Nat} (hi : i < 4 ^ (pteSz leaf - naturalOf (pteSz leaf))) :
    readNat (clearLeaf s root base leaf).mem (entryAddress table base lo k + 8 * i) 8 = 0 := by
  rw [clearLeaf, hpath]
  exact readNat_runOf hwf hi fun _ => 0

/-- UNMAP of a page that begins. -/
theorem unmapPage_begins {va b l : Nat} {x : Context} (hx : s.ctx? ctx = some x)
    (hstart : unmapStarted s ctx (some va) = false) :
    ∃ w, unmapPage s ctx va b l = { tlbDrop (clearLeaf s x.desc.ptroot.toNat b l) ctx b (pageBytes (pteSz l)) with
      unmapping := w } := by
  have hdesc : s.desc? ctx = some x.desc := by rw [State.desc?, hx]; rfl
  rw [unmapPage, hstart, if_neg Bool.false_ne_true, hdesc]
  exact ⟨_, rfl⟩

/-- A page's mapping is gone: no TLB of a cluster covers the address, and the entries of the leaf's run are 0. -/
def PageCleared (s : State) (ctx va b l : Nat) (t : State) : Prop :=
  (∀ c, ∀ e ∈ (t.cluster c).utlb, e.covers ctx va = false) ∧
    ∀ x table lo k rest i, s.ctx? ctx = some x → Memory.wf s.mem = true →
      pathTo s.mem s.poolsz b (naturalOf (pteSz l)) walkLevels x.desc.ptroot.toNat = .found table lo k rest →
      i < 4 ^ (pteSz l - naturalOf (pteSz l)) → readNat t.mem (entryAddress table b lo k + 8 * i) 8 = 0

theorem pageCleared_unmapPage {va b l : Nat} (hwalk : walk s ctx va = some (b, l))
    (hstart : unmapStarted s ctx (some va) = false) : PageCleared s ctx va b l (unmapPage s ctx va b l) := by
  obtain ⟨x, hx⟩ : ∃ x, s.ctx? ctx = some x := by
    unfold walk State.desc? at hwalk
    cases hx : s.ctx? ctx with
    | none => simp [hx] at hwalk
    | some x => exact ⟨x, rfl⟩
  obtain ⟨hlo, hhi⟩ := walk_page hwalk
  obtain ⟨w, hw⟩ := unmapPage_begins (b := b) (l := l) hx hstart
  rw [hw]
  refine ⟨fun c e he => covers_of_tlbDrop hlo hhi c he, fun y table lo k rest i hy hwf hpath hi => ?_⟩
  obtain rfl : x = y := Option.some.inj (hx.symm.trans hy)
  exact clearLeaf_clears hpath hwf hi

theorem dropMapping_clusters (s : State) (leaf : Nat) : (dropMapping s leaf).clusters = s.clusters := rfl

theorem finishUnmap_clusters (s : State) : (finishUnmap s).clusters = s.clusters := by
  have hfold : ∀ (l : List Nat) (s : State), (l.foldl dropMapping s).clusters = s.clusters := fun l => by
    induction l with
    | nil => exact fun s => rfl
    | cons a l ih => exact fun s => (ih _).trans (dropMapping_clusters s a)
  unfold finishUnmap
  split
  · rfl
  · exact hfold _ s

theorem PageCleared.finishUnmap {va b l : Nat} {t : State} (h : PageCleared s ctx va b l t) :
    PageCleared s ctx va b l (finishUnmap t) := by
  obtain ⟨hcov, hrun⟩ := h
  refine ⟨fun c e he => hcov c e ?_, fun x table lo k rest i hx hwf hpath hi => ?_⟩
  · rwa [State.cluster, finishUnmap_clusters] at he
  · rw [finishUnmap_mem]
    exact hrun x table lo k rest i hx hwf hpath hi

section
variable {va : Word} (hp : h.page0 = true) (hfw : s.running ≠ none)
include hp hfw

theorem execUnmapPage_waits (hready : unmapReady s ctx va.toNat = false) : execUnmapPage h va ctx s = .next s :=
  commandWaits_next hp hfw hready ..

/-- UNMAP of a page whose removal has begun. -/
theorem execUnmapPage_started (hready : unmapReady s ctx va.toNat = true) (hstart : unmapStarted s ctx (some va.toNat) = true) :
    (unmapWaits s = true → execUnmapPage h va ctx s = .next s) ∧
    (unmapWaits s = false → execUnmapPage h va ctx s = .next (endCommand (finishUnmap (wakeAll s)) h 0 [])) := by
  have hstart' : unmapStarted (wakeAll s) ctx (some va.toNat) = true := hstart
  have hsame : ∀ u : State, unmapStarted u ctx (some va.toNat) = true → unmapPage u ctx va.toNat va.toNat 0 = u :=
    fun u hu => by rw [unmapPage, if_pos hu]
  rw [execUnmapPage, commandWaits_past hp hfw hready, unmapLeaf, if_pos hstart]
  dsimp only
  rw [hsame s hstart]
  refine ⟨fun hwaits => ?_, fun hwaits => ?_⟩
  · rw [hwaits]
    exact commandWaits_next hp hfw rfl ..
  · rw [hwaits, commandWaits_past hp hfw (ready := !false) rfl]
    exact operatorCommand_does hp hfw (by rw [hsame _ hstart'])

theorem execUnmapPage_unmapped (hctx : ctx < 64) (hready : unmapReady s ctx va.toNat = true)
    (hstart : unmapStarted s ctx (some va.toNat) = false) (hnone : 2 ^ 57 ≤ va.toNat ∨ walk s ctx va.toNat = none) :
    execUnmapPage h va ctx s = .next (endCommand (wakeAll s) h 0 []) := by
  have hleaf : unmapLeaf s ctx va.toNat = none := by
    rw [unmapLeaf, hstart, if_neg Bool.false_ne_true]
    by_cases hva : 2 ^ 57 ≤ va.toNat
    · rw [if_pos hva]
    · rw [if_neg hva]
      exact hnone.resolve_left hva
  rw [execUnmapPage, commandWaits_past hp hfw hready, hleaf]
  exact operatorCommand_does hp hfw (by rw [if_neg (by omega)])

theorem execUnmapPage_mapped (hready : unmapReady s ctx va.toNat = true) (hstart : unmapStarted s ctx (some va.toNat) = false)
    {b l : Nat} (hva : va.toNat < 2 ^ 57) (hwalk : walk s ctx va.toNat = some (b, l)) :
    (unmapWaits (unmapPage s ctx va.toNat b l) = true → execUnmapPage h va ctx s = .next (unmapPage s ctx va.toNat b l)) ∧
    (unmapWaits (unmapPage s ctx va.toNat b l) = false →
      execUnmapPage h va ctx s = .next (endCommand (finishUnmap (unmapPage (wakeAll s) ctx va.toNat b l)) h 0 [])) := by
  have hleaf : unmapLeaf s ctx va.toNat = some (b, l) := by
    rw [unmapLeaf, hstart, if_neg Bool.false_ne_true, if_neg (by omega), hwalk]
  rw [execUnmapPage, commandWaits_past hp hfw hready, hleaf]
  dsimp only
  refine ⟨fun hwaits => ?_, fun hwaits => ?_⟩
  · rw [hwaits]
    exact commandWaits_next hp hfw rfl ..
  · rw [hwaits, commandWaits_past hp hfw (ready := !false) rfl]
    exact operatorCommand_does hp hfw rfl

end

end

end Sys2Proof.Machine
end

section
/-!
PROOFS. MAP (23 R303-R307).
-/
namespace Sys2Proof.Machine

section
variable {s : State} {h : CmdHdr} {ctx va leaf : Nat} {x : Context}

/-- No check of the leaf's bits refuses MAP. -/
def MapsLeaf (s : State) (va leaf : Nat) : Prop :=
  mapForm s.poolsz va leaf = true ∧ mapKind leaf = true ∧ mapWx leaf = true

/-- The frames of an executable page have been scanned, and hold nothing that a rule rejects. -/
def ScansClean (s : State) (va leaf : Nat) : Prop :=
  pteX leaf = false ∨ (s.ready.getLsbD 536 = true ∧ scanPage s.mem va leaf = none)

theorem mapLeaf_badPte (hform : mapForm s.poolsz va leaf = false) : mapLeaf s ctx x va leaf = (0x10, [], s) := by
  simp [mapLeaf, hform]

theorem mapLeaf_badKind (hform : mapForm s.poolsz va leaf = true) (hkind : mapKind leaf = false) :
    mapLeaf s ctx x va leaf = (0x11, [], s) := by
  simp [mapLeaf, hform, hkind]

theorem mapLeaf_badWx (hform : mapForm s.poolsz va leaf = true) (hkind : mapKind leaf = true) (hwx : mapWx leaf = false) :
    mapLeaf s ctx x va leaf = (0x12, [], s) := by
  simp [mapLeaf, hform, hkind, hwx]

theorem mapLeaf_rejected (hok : MapsLeaf s va leaf) (hx : pteX leaf = true) (hready : s.ready.getLsbD 536 = true)
    {r : Nat × Nat × Nat × Nat} (hr : scanPage s.mem va leaf = some r) :
    mapLeaf s ctx x va leaf = (0x13, scanBytes r, s) := by
  obtain ⟨hform, hkind, hwx⟩ := hok
  simp only [mapLeaf, hform, hkind, hwx, hx, hready, hr, Bool.not_true, Bool.and_false, Bool.false_eq_true, if_false, if_true]

/-- MAP of a page whose leaf and frames pass answers as the tables say. -/
theorem mapLeaf_tables (hok : MapsLeaf s va leaf) (hscan : ScansClean s va leaf) :
    (∀ e, writeLeaf s ctx x va leaf = .error e → mapLeaf s ctx x va leaf = (e, [], s)) ∧
    (∀ u, writeLeaf s ctx x va leaf = .ok u → mapLeaf s ctx x va leaf = (0, [], u)) := by
  obtain ⟨hform, hkind, hwx⟩ := hok
  have hunready : (pteX leaf && !s.ready.getLsbD 536) = false := by
    rcases hscan with hx | ⟨hready, -⟩
    · simp [hx]
    · simp [hready]
  have hclean : (if pteX leaf then scanPage s.mem va leaf else none) = none := by
    rcases hscan with hx | ⟨-, hnone⟩
    · simp [hx]
    · simp [hnone]
  unfold mapLeaf
  rw [hform, hkind, hwx, hunready, hclean]
  exact ⟨fun e he => by rw [he]; rfl, fun u hu => by rw [hu]; rfl⟩

/-- Where the way to the page's entries stands and no leaf bars it, its run is written. -/
theorem writeLeaf_writes {table lo k : Nat} {rest : List (Nat × Nat × Option Nat)}
    (hroot : tableExists s.poolsz x.desc.ptroot.toNat 64 = true)
    (hpath : pathTo s.mem s.poolsz va (naturalOf (pteSz leaf)) walkLevels x.desc.ptroot.toNat = .found table lo k rest)
    (hholds : runHolds s.mem s.poolsz table va lo k (pteSz leaf) rest ≠ none) : ∃ u, writeLeaf s ctx x va leaf = .ok u ∧
      u.mem = (runOf table va lo k (pteSz leaf) leaf).foldl (fun m p => writeNat m p.1 8 p.2) s.mem := by
  obtain ⟨⟨old, gone⟩, hrun⟩ := Option.ne_none_iff_exists'.1 hholds
  rw [writeLeaf, hroot]
  dsimp only
  rw [hpath]
  dsimp only
  rw [hrun]
  refine ⟨_, rfl, ?_⟩
  cases old with
  | none => rfl
  | some e => rfl

variable {va leaf : Word} (hp : h.page0 = true) (hfw : s.running ≠ none)
include hp hfw

theorem execMapPage_waits (hready : mapReady s ctx va.toNat leaf.toNat = false) : execMapPage h va leaf ctx s = .next s :=
  commandWaits_next hp hfw hready ..

theorem execMapPage_does (hx : s.ctx? ctx = some x) (hlive : x.killed = false)
    (hready : mapReady s ctx va.toNat leaf.toNat = true) {st : Nat} {res : List Byte} {u : State}
    (hk : mapLeaf (wakeAll s) ctx x va.toNat leaf.toNat = (st, res, u)) :
    execMapPage h va leaf ctx s = .next (endCommand u h st res) := by
  rw [execMapPage, commandWaits_past hp hfw hready]
  exact contextCommand_does hp hfw hx hlive hk

theorem execMapPage_tables (hx : s.ctx? ctx = some x) (hlive : x.killed = false)
    (hready : mapReady s ctx va.toNat leaf.toNat = true) (hok : MapsLeaf s va.toNat leaf.toNat)
    (hscan : ScansClean s va.toNat leaf.toNat) :
    (∀ e, writeLeaf (wakeAll s) ctx x va.toNat leaf.toNat = .error e →
      execMapPage h va leaf ctx s = .next (endCommand (wakeAll s) h e [])) ∧
    (∀ u, writeLeaf (wakeAll s) ctx x va.toNat leaf.toNat = .ok u →
      execMapPage h va leaf ctx s = .next (endCommand u h 0 [])) := by
  have hk := mapLeaf_tables (s := wakeAll s) (ctx := ctx) (x := x) hok hscan
  exact ⟨fun e he => execMapPage_does hp hfw hx hlive hready (hk.1 e he),
    fun u hu => execMapPage_does hp hfw hx hlive hready (hk.2 u hu)⟩

theorem execMapPage_writes {table lo k : Nat} {rest : List (Nat × Nat × Option Nat)} (hx : s.ctx? ctx = some x)
    (hlive : x.killed = false) (hready : mapReady s ctx va.toNat leaf.toNat = true) (hok : MapsLeaf s va.toNat leaf.toNat)
    (hscan : ScansClean s va.toNat leaf.toNat) (hwf : Memory.wf s.mem = true)
    (hroot : tableExists s.poolsz x.desc.ptroot.toNat 64 = true)
    (hpath : pathTo s.mem s.poolsz va.toNat (naturalOf (pteSz leaf.toNat)) walkLevels x.desc.ptroot.toNat =
      .found table lo k rest)
    (hholds : runHolds s.mem s.poolsz table va.toNat lo k (pteSz leaf.toNat) rest ≠ none) :
    ∃ t, execMapPage h va leaf ctx s = .next t ∧ Answered t h 0 [] ∧
      ∀ i, i < 4 ^ (pteSz leaf.toNat - naturalOf (pteSz leaf.toNat)) →
        readNat t.mem (entryAddress table va.toNat lo k + 8 * i) 8 =
          (leaf.toNat + i * pageBytes (naturalOf (pteSz leaf.toNat))) % 2 ^ 64 := by
  obtain ⟨u, hu, hmem⟩ := writeLeaf_writes (s := wakeAll s) (ctx := ctx) hroot hpath hholds
  refine answers_of ((execMapPage_tables hp hfw hx hlive hready hok hscan).2 u hu) fun p0 p1 i hi => ?_
  dsimp only
  rw [hmem]
  exact readNat_runOf hwf hi Prod.snd

end

end Sys2Proof.Machine
end

section
/-!
PROOFS. QREG and QDEREG (21 R275, R276, R279, 29 R371, R374).
-/
namespace Sys2Proof.Machine

section
variable {s t : State} {h : CmdHdr} {ctx : Nat}

/-! ### What a queue is known by -/

/-- What a record's queue keeps while it is registered. -/
def Queue.named (r : Queue) : Nat × Nat × Nat × List Word × Word := (r.va, r.ctx, r.door, r.ops, r.head)

/-- What queue `q` is known by. -/
def queueNamed (s : State) (q : Nat) : Option (Nat × Nat × Nat × List Word × Word) := (s.queues.get? q).map Queue.named

theorem queueNamed_of_queues (hq : t.queues = s.queues) (q : Nat) : queueNamed t q = queueNamed s q := by
  rw [queueNamed, queueNamed, hq]

theorem queueNamed_modQueue {f : Queue → Queue} (hf : ∀ r, (f r).named = r.named) (v q : Nat) :
    queueNamed (s.modQueue v f) q = queueNamed s q := by
  unfold queueNamed
  rw [State.modQueue_queues, SMap.get?_modify]
  split
  · subst_vars
    rw [Option.map_map, show Queue.named ∘ f = Queue.named from funext hf]
  · rfl

theorem queueNamed_fresh (n q : Nat) : queueNamed { s with fresh := n } q = queueNamed s q := rfl

theorem queueNamed_hubStore (ctx va n v q : Nat) : queueNamed (hubStore s ctx va n v) q = queueNamed s q :=
  queueNamed_of_queues (hubStore_frame ..).queues q

theorem queueNamed_writeStat (v status index q : Nat) : queueNamed (writeStat s v status index) q = queueNamed s q := by
  unfold writeStat
  split
  · rfl
  · exact (queueNamed_hubStore ..).trans (queueNamed_modQueue (by exact fun _ => rfl) v q)

theorem queueNamed_unmapQueue (v q : Nat) : queueNamed (unmapQueue s v) q = queueNamed s q := by
  unfold unmapQueue
  split
  · rfl
  · dsimp only
    refine (queueNamed_modQueue (by exact fun _ => rfl) v q).trans ?_
    rw [queueNamed_hubStore, queueNamed_hubStore]

theorem queueNamed_mapQueue (v q : Nat) : queueNamed (mapQueue s v) q = queueNamed s q := by
  unfold mapQueue
  split
  · exact (queueNamed_fresh ..).trans (queueNamed_modQueue (by exact fun _ => rfl) v q)
  split
  · rfl
  · exact (queueNamed_fresh ..).trans ((queueNamed_modQueue (by exact fun _ => rfl) v q).trans (queueNamed_unmapQueue ..))

theorem queueNamed_checkOverrun (v q : Nat) : queueNamed (checkOverrun s v) q = queueNamed s q := by
  unfold checkOverrun
  split
  · rfl
  split
  · rfl
  dsimp only
  split
  · exact (queueNamed_writeStat ..).trans (queueNamed_modQueue (by exact fun _ => rfl) v q)
  · exact queueNamed_modQueue (by exact fun _ => rfl) v q

theorem record_queues (s : State) (u ty ctx slot ord : Nat) (pay : Word) :
    (record s u ty ctx slot ord pay).queues = s.queues := by
  unfold record
  split <;> rfl

theorem signalGrid_queues (s : State) (ctx sigp status : Nat) : (signalGrid s ctx sigp status).1.queues = s.queues :=
  (signalGrid_frame ..).queues

theorem mergeCensus_queues (s : State) (ctx : Nat) : (mergeCensus s ctx).queues = s.queues := by
  unfold mergeCensus
  dsimp only
  split <;> rfl

theorem settleGrid_queues (fuel : Nat) (s : State) (g : Nat) : (settleGrid fuel s g).queues = s.queues := by
  induction fuel generalizing s g with
  | zero => rfl
  | succ fuel ih =>
    have hsettled : ∀ (gr : Grid), (launchRecord (signalGrid (mergeCensus s gr.rec'.ctx) gr.rec'.ctx gr.rec'.sigp gr.status).1 2
        gr.rec'.ctx gr.va gr.rec'.depth (if (signalGrid (mergeCensus s gr.rec'.ctx) gr.rec'.ctx gr.rec'.sigp gr.status).2
          then gr.status else 0x23)).queues = s.queues := fun gr =>
      (record_queues ..).trans ((signalGrid_queues ..).trans (mergeCensus_queues ..))
    rw [settleGrid]
    split
    · rfl
    split
    · rfl
    dsimp only
    split
    · exact hsettled _
    · exact (ih _ _).trans (hsettled _)

theorem resolveSubmission_queues (s : State) (r : Queue) (p : Packet) : (resolveSubmission s r p).queues = s.queues := by
  unfold resolveSubmission
  split
  · rfl
  · rename_i parent sigp _
    exact (settleGrid_queues ..).trans ((signalGrid_queues ..).trans (record_queues ..))

theorem queueNamed_abandonPacket (v q : Nat) : queueNamed (abandonPacket s v) q = queueNamed s q := by
  unfold abandonPacket
  split
  · rfl
  · rename_i r _
    split
    · rfl
    · rename_i p _
      have hdone : queueNamed (resolveSubmission ((writeStat (packetRecord s r 0x06 p.index) v 0x06 p.index).modQueue v
          fun r => { r with packet := none }) r p) q = queueNamed s q := by
        refine (queueNamed_of_queues (resolveSubmission_queues ..) q).trans
          ((queueNamed_modQueue (by exact fun _ => rfl) v q).trans ?_)
        exact (queueNamed_writeStat ..).trans (queueNamed_of_queues (record_queues ..) q)
      dsimp only
      split
      · rw [queueNamed_writeStat]
        exact hdone
      · exact hdone

/-- A queue that is closed is gone with the tail of its doorbell word. -/
theorem closeQueue_removes {q : Nat} {r : Queue} (hr : s.queues.get? q = some r) :
    (closeQueue s q).queues.get? q = none ∧ (closeQueue s q).bells.get? r.door = none := by
  refine ⟨by rw [closeQueue_queues, SMap.get?_del_self], ?_⟩
  have hbells : ∀ u : State, (keepSub u r).bells = u.bells := fun u => by
    unfold keepSub
    split <;> rfl
  rw [closeQueue_some hr, hbells]
  exact SMap.get?_del_self ..

theorem queueNamed_some {q : Nat} {r : Queue} (hr : s.queues.get? q = some r) (hq : queueNamed t q = queueNamed s q) :
    ∃ y, t.queues.get? q = some y ∧ y.va = r.va ∧ y.ctx = r.ctx ∧ y.door = r.door ∧ y.ops = r.ops ∧ y.head = r.head := by
  rw [queueNamed, queueNamed, hr] at hq
  obtain ⟨y, hy, hn⟩ := Option.map_eq_some_iff.1 hq
  simp only [Queue.named, Prod.mk.injEq] at hn
  exact ⟨y, hy, hn⟩

/-! ### What the hub reads while it registers a record -/

theorem SameReads.trans {u : State} (hst : SameReads s t) (htu : SameReads t u) : SameReads s u :=
  ⟨fun c n va => (htu.pa c n va).trans (hst.pa c n va), fun pa n => (htu.seen pa n).trans (hst.seen pa n),
    htu.poison.trans hst.poison⟩

theorem sameReads_wakeAll (s : State) : SameReads s (wakeAll s) := ⟨fun _ _ _ => rfl, fun _ _ => rfl, rfl⟩

theorem sameReads_hubHolds (s : State) (ctx va n : Nat) : SameReads s (hubHolds s ctx va n) := by
  refine ⟨fun c need x => hubPa_hubHolds ctx va n c need x, fun pa k => ?_, ?_⟩
  · have hmem := hubHolds_mem s ctx va n
    unfold seenBytes
    rw [(hubHolds_frame s ctx va n).rest, hmem]
    rfl
  · rw [(hubHolds_frame s ctx va n).rest]

/-- The queue of a record's bytes. -/
def recordQueue (s : State) (ctx va door : Nat) (bs : List Byte) (ops : List Nat) : Queue :=
  { va := va, ctx := ctx, pri := fieldAt bs 9 1 % 4, dev := fieldAt bs 11 1 % 2 == 1, rbase := fieldAt bs 0 8,
    rlog := fieldAt bs 8 1 % 32, ops := ops.map (BitVec.ofNat 64), stat := BitVec.ofNat 64 (fieldAt bs 56 8), door := door,
    wins := recordWindows bs, head := BitVec.ofNat 64 (fieldAt bs 16 8), slot := none, stopped := false, since := s.fresh,
    used := s.fresh, packet := none }

/-- A queue is listed under the next number, with its tail. -/
def queueListed (s : State) (r : Queue) (tail : Word) : State :=
  { s with queues := s.queues.set s.fresh r, fresh := s.fresh + 1, bells := s.bells.set r.door tail }

/-- A queue that waits takes a slot. -/
def queueMapped (s : State) (q : Nat) (r : Queue) : State := if r.waits s then mapQueue s q else s

theorem registerQueue_eq (s : State) (ctx va door : Nat) (bs : List Byte) (ops : List Nat) :
    registerQueue s ctx va door bs ops = checkOverrun (queueMapped (queueListed s (recordQueue s ctx va door bs ops)
      (BitVec.ofNat 64 (fieldAt bs 24 8))) s.fresh (recordQueue s ctx va door bs ops)) s.fresh := rfl

theorem queueMapped_kept (s : State) (v : Nat) (r : Queue) :
    (queueMapped s v r).bells = s.bells ∧ ∀ q, queueNamed (queueMapped s v r) q = queueNamed s q := by
  unfold queueMapped
  split
  · exact ⟨(mapQueue_hubFrame ..).bells, fun q => queueNamed_mapQueue v q⟩
  · exact ⟨rfl, fun q => rfl⟩

/-- A record that is registered has its tail, and its queue is known by the record's fields. -/
theorem registerQueue_registers (s : State) (ctx va door : Nat) (bs : List Byte) (ops : List Nat) :
    (registerQueue s ctx va door bs ops).bells.get? door = some (BitVec.ofNat 64 (fieldAt bs 24 8)) ∧
      ∃ q r, (registerQueue s ctx va door bs ops).queues.get? q = some r ∧ r.va = va ∧ r.ctx = ctx ∧ r.door = door ∧
        r.ops = ops.map (BitVec.ofNat 64) ∧ r.head = BitVec.ofNat 64 (fieldAt bs 16 8) := by
  have hr : (queueListed s (recordQueue s ctx va door bs ops) (BitVec.ofNat 64 (fieldAt bs 24 8))).queues.get? s.fresh =
      some (recordQueue s ctx va door bs ops) := SMap.get?_set_self ..
  obtain ⟨hbells, hnamed⟩ := queueMapped_kept (queueListed s (recordQueue s ctx va door bs ops)
    (BitVec.ofNat 64 (fieldAt bs 24 8))) s.fresh (recordQueue s ctx va door bs ops)
  rw [registerQueue_eq]
  refine ⟨?_, s.fresh, queueNamed_some hr ((queueNamed_checkOverrun ..).trans (hnamed _))⟩
  rw [(checkOverrun_hubFrame ..).bells, hbells]
  exact SMap.get?_set_self ..

/-! ### QREG -/

/-- What the checks of QREG before a program's ask of a record's bytes. -/
def RecordNamed (s : State) (ctx a : Nat) : Prop :=
  qregPorts s ctx a = true ∧ a % 128 = 0 ∧ rangeOk s ctx .load a 128 = true ∧
    fieldAt (hubBytes s ctx a 128) 32 8 % 8 = 0 ∧ 1 ≤ fieldAt (hubBytes s ctx a 128) 40 2 ∧
    fieldAt (hubBytes s ctx a 128) 40 2 ≤ 256

/-- The operations of a record's program. -/
def programOps (s : State) (ctx : Nat) (bs : List Byte) : List Nat :=
  (upto (fieldAt bs 40 2)).map fun i => hubNat s ctx (fieldAt bs 32 8 + 8 * i) 8

/-- The hub holds the lines of a record and of its program. -/
def recordHeld (s : State) (ctx a : Nat) (bs : List Byte) : State :=
  hubHolds (hubHolds s ctx a 128) ctx (fieldAt bs 32 8) (8 * fieldAt bs 40 2)

/-- What QREG makes of a program: the first rule that it breaks, or its registration. -/
def programEnds (t : State) (ctx a door : Nat) (bs : List Byte) (ops : List Nat) :
    Option (Nat × Nat) → Nat × List Byte × State
  | some (rule, index) => (0x14, rejectBytes a index rule, t)
  | none => (0, [], registerQueue t ctx a door bs ops)

theorem SameReads.programOps (hr : SameReads s t) (ctx : Nat) (bs : List Byte) : programOps t ctx bs = programOps s ctx bs := by
  simp only [Machine.programOps, hubNat, hr.hubBytes]

variable {x : Context} {va : Word} (hp : h.page0 = true) (hfw : s.running ≠ none)
include hp hfw

theorem execQreg_waits (hready : qregPorts s ctx va.toNat = false) : execQreg h va ctx s = .next s :=
  commandWaits_next hp hfw hready ..

/-- QREG of a record whose doorbell word is free ends as its program's rules say. -/
theorem execQreg_named (hx : s.ctx? ctx = some x) (hlive : x.killed = false) (hn : RecordNamed s ctx va.toNat) {door : Nat}
    {bs : List Byte} (hbs : hubBytes s ctx va.toNat 128 = bs) (hdoor : recordDoor s ctx bs = some door)
    {o : Option (Nat × Nat)} (ho : programReject (recordWindows bs) (programOps s ctx bs) = o) {st : Nat} {res : List Byte}
    {u : State} (hends : programEnds (recordHeld (wakeAll s) ctx va.toNat bs) ctx va.toNat door bs (programOps s ctx bs) o =
      (st, res, u)) : execQreg h va ctx s = .next (endCommand u h st res) := by
  obtain ⟨hready, halign, hrange, hprog, hpos, hmax⟩ := hn
  rw [hbs] at hprog hpos hmax
  have hbs' : hubBytes (wakeAll s) ctx va.toNat 128 = bs := ((sameReads_wakeAll s).hubBytes ..).trans hbs
  have hrange' : ¬(va.toNat % 128 != 0 || !rangeOk (wakeAll s) ctx .load va.toNat 128) = true := by
    rw [(sameReads_wakeAll s).rangeOk, hrange, halign]
    decide
  have hdoor' : recordDoor (wakeAll s) ctx bs = some door := hdoor
  have hform : ¬(fieldAt bs 40 2 == 0 || decide (256 < fieldAt bs 40 2) || fieldAt bs 32 8 % 8 != 0) = true := by
    simp [hprog]
    omega
  have hops : (upto (fieldAt bs 40 2)).map (fun i => hubNat (hubHolds (hubHolds (wakeAll s) ctx va.toNat 128) ctx
      (fieldAt bs 32 8) (8 * fieldAt bs 40 2)) ctx (fieldAt bs 32 8 + 8 * i) 8) = programOps s ctx bs :=
    ((sameReads_wakeAll s).trans ((sameReads_hubHolds ..).trans (sameReads_hubHolds ..))).programOps ctx bs
  rw [execQreg, commandWaits_past hp hfw hready]
  refine contextCommand_does hp hfw hx hlive (Eq.trans ?_ hends)
  rw [if_neg hrange', hbs']
  dsimp only
  rw [hdoor']
  dsimp only
  rw [if_neg hform, hops, ho]
  rfl

/-! ### QDEREG -/

theorem execQdereg_unlisted (hx : s.ctx? ctx = some x) (hlive : x.killed = false) (hready : hubReady s ctx va.toNat 128 = true)
    (hnone : ∀ p ∈ s.queues, p.2.ctx = ctx → p.2.va ≠ va.toNat) :
    execQdereg h va ctx s = .next (endCommand (wakeAll s) h 0 []) := by
  have hfind : (wakeAll s).queues.find? (fun p => p.2.ctx == ctx && p.2.va == va.toNat) = none :=
    List.find?_eq_none.2 fun p hp => by
      simp only [Bool.and_eq_true, beq_iff_eq]
      exact fun hq => hnone p hp hq.1 hq.2
  rw [execQdereg, commandWaits_past hp hfw hready]
  exact contextCommand_does hp hfw hx hlive (by rw [hfind])

theorem execQdereg_removes (hx : s.ctx? ctx = some x) (hlive : x.killed = false) (hready : hubReady s ctx va.toNat 128 = true)
    {q : Nat} {r : Queue} (hfind : s.queues.find? (fun p => p.2.ctx == ctx && p.2.va == va.toNat) = some (q, r))
    (hr : s.queues.get? q = some r) : ∃ t, execQdereg h va ctx s = .next t ∧ Answered t h 0 [] ∧
      t.queues.get? q = none ∧ t.bells.get? r.door = none := by
  have hfind' : (wakeAll s).queues.find? (fun p => p.2.ctx == ctx && p.2.va == va.toNat) = some (q, r) := hfind
  have hr' : (wakeAll s).queues.get? q = some r := hr
  obtain ⟨y, hy, -, -, hydoor, -⟩ := queueNamed_some hr' (queueNamed_abandonPacket q q)
  obtain ⟨hqueue, hbell⟩ := closeQueue_removes hy
  rw [execQdereg, commandWaits_past hp hfw hready]
  refine answers_of (contextCommand_does hp hfw hx hlive (by rw [hfind'])) fun p0 p1 => ⟨hqueue, ?_⟩
  rw [← hydoor]
  exact hbell

end

end Sys2Proof.Machine
end

section
/-!
PROOFS. WSFILL, CKLOG and CENSUS (21 R291, 27 R356), and every command of a context.
-/
namespace Sys2Proof.Machine

section
variable {s : State} {h : CmdHdr} {ctx : Nat}

/-! ### WSFILL -/

/-- The frames of a fill are on dies of the weight store. -/
theorem fillForm_dies {poolsz f count source signal : Nat} (hform : fillForm poolsz f count source signal = true)
    (hcount : 1 ≤ count) : bitsOf (f + 4096 * (count - 1)) 35 32 < 4 := by
  simp only [fillForm, Bool.and_eq_true] at hform
  obtain ⟨⟨⟨⟨⟨⟨⟨⟨hw, -⟩, hex⟩, -⟩, -⟩, -⟩, -⟩, -⟩, -⟩ := hform
  have hregion : regionOf f = 8 := by simpa [isWeight] using hw
  have hroom : f % 2 ^ 48 + 4096 * count ≤ 4 * 2 ^ 32 := by
    simpa [frameExists, isPooled, isWeight, isBell, hregion] using hex
  unfold bitsOf
  omega

theorem fillDies_ready {f count : Nat} (hdies : bitsOf (f + 4096 * (count - 1)) 35 32 < 4)
    (hready : ∀ d, d < 4 → s.ready.getLsbD (512 + d) = true) : (List.range' (bitsOf (f + 4096 * 0) 35 32)
      (bitsOf (f + 4096 * (count - 1)) 35 32 + 1 - bitsOf (f + 4096 * 0) 35 32)).all
        (fun d => s.ready.getLsbD (512 + d)) = true := by
  rw [List.all_eq_true]
  intro d hd
  rw [List.mem_range'_1] at hd
  exact hready d (by omega)

section
variable {va base signal : Word} {count : Nat} (hp : h.page0 = true) (hfw : s.running ≠ none) (hcount : 1 ≤ count)
  (hform : fillForm s.poolsz va.toNat count base.toNat signal.toNat = true)
  (hready : ∀ d, d < 4 → s.ready.getLsbD (512 + d) = true)
include hp hfw hcount hform hready

theorem execWsfill_does {st : Nat} {res : List Byte} {u : State}
    (hends : (if s.mapCounts.any (fun p => va.toNat ≤ p.1 && p.1 < va.toNat + 4096 * count && p.2 != 0) then
        (0x15, [], wakeAll s)
      else (0, [], { wakeAll s with
        fills := s.fills ++ [{ id := s.fresh, frame := va.toNat, count := count, source := base.toNat, signal := signal.toNat }]
        fresh := s.fresh + 1 })) = (st, res, u)) :
    execWsfill h va count base signal s = .next (endCommand u h st res) := by
  have hform' : ¬(!fillForm (wakeAll s).poolsz va.toNat count base.toNat signal.toNat) = true := by
    rw [show (wakeAll s).poolsz = s.poolsz from rfl, hform]
    decide
  have hdies := fillDies_ready (s := wakeAll s) (fillForm_dies hform hcount) hready
  refine operatorCommand_does hp hfw (Eq.trans ?_ hends)
  dsimp only
  rw [if_neg hform', hdies]
  rfl

theorem execWsfill_mapped (hmapped : ∃ p ∈ s.mapCounts, va.toNat ≤ p.1 ∧ p.1 < va.toNat + 4096 * count ∧ p.2 ≠ 0) :
    execWsfill h va count base signal s = .next (endCommand (wakeAll s) h 0x15 []) := by
  refine execWsfill_does hp hfw hcount hform hready (if_pos ?_)
  obtain ⟨p, hp, hlo, hhi, hne⟩ := hmapped
  exact List.any_eq_true.2 ⟨p, hp, by simp [hlo, hhi, hne]⟩

theorem execWsfill_accepts (hfree : ∀ p ∈ s.mapCounts, va.toNat ≤ p.1 → p.1 < va.toNat + 4096 * count → p.2 = 0) :
    ∃ t, execWsfill h va count base signal s = .next t ∧ Answered t h 0 [] ∧ t.mem = s.mem ∧
      t.fills = s.fills ++ [⟨s.fresh, va.toNat, count, base.toNat, signal.toNat⟩] := by
  have hnone : ¬s.mapCounts.any (fun p => va.toNat ≤ p.1 && p.1 < va.toNat + 4096 * count && p.2 != 0) = true := by
    rw [List.any_eq_true]
    rintro ⟨p, hp, hany⟩
    simp only [Bool.and_eq_true, decide_eq_true_eq, bne_iff_ne] at hany
    exact hany.2 (hfree p hp hany.1.1 hany.1.2)
  exact answers_of (execWsfill_does hp hfw hcount hform hready (if_neg hnone)) fun p0 p1 => ⟨rfl, rfl⟩

end

/-! ### CKLOG and CENSUS -/

/-- The merged table of a context as CENSUS clears it: entry 0 is in use. -/
def censusCleared (mem : List Host.Cell) (base entries : Nat) : List Host.Cell :=
  writeNat (writeNat (writeBytes mem base (List.replicate (64 + 48 * entries) 0)) base 4 1) (base + 64) 8 (maxW 64)

theorem censusCleared_reads {mem : List Host.Cell} (hwf : Memory.wf mem = true) (base entries : Nat) :
    readNat (censusCleared mem base entries) base 4 = 1 ∧
      readNat (censusCleared mem base entries) (base + 64) 8 = 2 ^ 64 - 1 ∧
      ∀ i, i < 64 + 48 * entries → 4 ≤ i → (i < 64 ∨ 72 ≤ i) → readByte (censusCleared mem base entries) (base + i) = 0 := by
  have hcleared := wf_writeBytes base (List.replicate (64 + 48 * entries) 0) hwf
  refine ⟨?_, ?_, fun i hi hlow hout => ?_⟩
  · rw [censusCleared, writeNat, readNat_writeBytes_apart _ _ _ (by rw [length_leBytes]; omega)]
    exact readNat_writeNat _ 4 1 hcleared
  · exact readNat_writeNat _ 8 _ (wf_writeNat _ _ _ hcleared)
  · have hzero : (List.replicate (64 + 48 * entries) (0 : Byte))[i]? = some 0 := List.getElem?_replicate_of_lt hi
    rw [censusCleared, writeNat, readByte_writeBytes_apart _ _ _ (by rw [length_leBytes]; omega), writeNat,
      readByte_writeBytes_apart _ _ _ (by rw [length_leBytes]; omega)]
    exact readByte_writeBytes base _ hwf hzero

section
variable {x : Context} {base : Word} {entries : Nat} (hp : h.page0 = true) (hfw : s.running ≠ none)
  (hx : s.ctx? ctx = some x) (hlive : x.killed = false)
include hp hfw hx hlive

theorem execCklog_clears (hports : areaPorts s base.toNat 64 = true) : ∃ t, execCklog h ctx base 0 s = .next t ∧
    Answered t h 0 [] ∧ t.ctx? ctx = some { x with log := none } := by
  rw [execCklog, commandWaits_past hp hfw hports]
  exact answers_of (contextCommand_does hp hfw hx hlive (if_pos rfl)) fun p0 p1 => State.ctx?_setCtx ..

theorem execCklog_sets (hpos : 1 ≤ entries) (hpow : entries = 2 ^ entries.log2)
    (hrange : pooledRange s base.toNat (64 + 32 * entries) = true) (hports : areaPorts s base.toNat (64 + 32 * entries) = true)
    (hwf : Memory.wf s.mem = true) : ∃ t, execCklog h ctx base entries s = .next t ∧ Answered t h 0 [] ∧
      t.ctx? ctx = some { x with log := some (base.toNat, entries) } ∧ readNat t.mem base.toNat 8 = 0 ∧
      ∀ a, a < base.toNat ∨ base.toNat + 8 ≤ a → readByte t.mem a = readByte s.mem a := by
  have hzero : ¬(entries == 0) = true := by simpa using Nat.ne_of_gt hpos
  have hok : ¬(!pooledRange (wakeAll s) base.toNat (64 + 32 * entries) || entries != 2 ^ entries.log2) = true := by
    rw [show pooledRange (wakeAll s) = pooledRange s from rfl, hrange]
    simpa using hpow
  rw [execCklog, commandWaits_past hp hfw hports]
  refine answers_of (contextCommand_does hp hfw hx hlive ((if_neg hzero).trans (if_neg hok))) fun p0 p1 =>
    ⟨State.ctx?_setCtx .., readNat_writeNat _ 8 0 hwf, fun a ha => readByte_writeBytes_apart _ _ _ ?_⟩
  rwa [length_leBytes]

theorem execCensusCmd_clears (hpos : 1 ≤ entries) (hmax : entries ≤ 65536)
    (hrange : pooledRange s base.toNat (64 + 48 * entries) = true) (hwf : Memory.wf s.mem = true)
    (hports : areaPorts s base.toNat (64 + 48 * entries) = true) : ∃ t, execCensusCmd h ctx base entries s = .next t ∧
      Answered t h 0 [] ∧ t.ctx? ctx = some { x with merged := some (base.toNat, entries) } ∧
      readNat t.mem base.toNat 4 = 1 ∧ readNat t.mem (base.toNat + 64) 8 = 2 ^ 64 - 1 ∧
      ∀ i, i < 64 + 48 * entries → 4 ≤ i → (i < 64 ∨ 72 ≤ i) → readByte t.mem (base.toNat + i) = 0 := by
  have hok : ¬(entries == 0 || decide (65536 < entries) || !pooledRange (wakeAll s) base.toNat (64 + 48 * entries)) = true := by
    rw [show pooledRange (wakeAll s) = pooledRange s from rfl, hrange]
    simp
    omega
  have hreads := censusCleared_reads (mem := (wakeAll s).mem) hwf base.toNat entries
  obtain ⟨t, ht, ha, hctx, hmem⟩ : ∃ t, execCensusCmd h ctx base entries s = .next t ∧ Answered t h 0 [] ∧
      t.ctx? ctx = some { x with merged := some (base.toNat, entries) } ∧
      t.mem = censusCleared (wakeAll s).mem base.toNat entries := by
    rw [execCensusCmd, commandWaits_past hp hfw hports]
    refine answers_of (u := State.setCtx { wakeAll s with mem := censusCleared (wakeAll s).mem base.toNat entries } ctx
      { x with merged := some (base.toNat, entries) }) (contextCommand_does hp hfw hx hlive (if_neg hok)) fun p0 p1 => ⟨?_, ?_⟩
    · exact State.ctx?_setCtx ..
    · simp only [State.setCtx_mem]
  rw [← hmem] at hreads
  exact ⟨t, ht, ha, hctx, hreads⟩

end

end

/-- Settles O53: each command waits, or is carried out as its meaning says on the state with its retained clusters woken. -/
theorem contextCommands : Obligations.ContextCommands := by
  intro s h ctx hp hfw hctx
  dsimp only
  refine ⟨fun d hd => ?_, fun va => ?_, fun va leaf x hx hlive => ?_, fun x va hx hlive => ?_,
    fun va base signal count hcount hform hready => ?_, fun x base entries hx hlive => ?_⟩
  · refine ⟨fun hstart => ⟨fun hblocks => ?_, fun x hx himages => ?_⟩, fun hblocks himages => ?_⟩
    · exact execCtxset_busy hp hfw (ctxsetRefused_busy hctx hd hstart (.inl hblocks))
    · exact execCtxset_busy hp hfw (ctxsetRefused_busy hctx hd hstart (.inr ⟨x, hx, himages⟩))
    have hr := ctxsetRefused_none hctx hd hblocks himages
    refine ⟨fun hstay => execCtxset_stays hp hfw hr hstay, fun hstay => ?_⟩
    obtain ⟨hwait, hbegin, hend⟩ := execCtxset_removes hp hfw hr hstay
    refine ⟨hwait, fun hready hwaits => ⟨hbegin hready hwaits, fun x i hx hroot hi hwf hstart =>
      unmapAll_clears hx hroot hwf hstart hi⟩, fun hready hwaits => ?_⟩
    refine answers_of (hend hready hwaits) fun p0 p1 => ⟨⟨_, State.ctx?_setCtx .., contextAfter_defined ..⟩,
      fun x i hx hroot hi hwf hstart => ?_, finishUnmap_unmapping _⟩
    have hclear := unmapAll_clears (s := wakeAll s) hx hroot hwf hstart hi
    rw [← finishUnmap_mem] at hclear
    exact hclear
  · refine ⟨execUnmapPage_waits hp hfw, fun hready hstart => ?_, fun hready hstart => ?_⟩
    · obtain ⟨hwait, hend⟩ := execUnmapPage_started hp hfw hready hstart
      exact ⟨hwait, fun hwaits => answers_of (hend hwaits) fun p0 p1 => finishUnmap_unmapping _⟩
    · refine ⟨execUnmapPage_unmapped hp hfw hctx hready hstart, fun b l hva hwalk => ?_⟩
      obtain ⟨hbegin, hend⟩ := execUnmapPage_mapped hp hfw hready hstart hva hwalk
      have hcleared : PageCleared (wakeAll s) ctx va.toNat b l (finishUnmap (unmapPage (wakeAll s) ctx va.toNat b l)) :=
        (pageCleared_unmapPage (s := wakeAll s) hwalk hstart).finishUnmap
      exact ⟨fun hwaits => ⟨hbegin hwaits, pageCleared_unmapPage hwalk hstart⟩,
        fun hwaits => answers_of (hend hwaits) fun p0 p1 => ⟨hcleared, finishUnmap_unmapping _⟩⟩
  · refine ⟨execMapPage_waits hp hfw, fun hgo hform => execMapPage_does hp hfw hx hlive hgo (mapLeaf_badPte hform),
      fun hgo hform hkind => execMapPage_does hp hfw hx hlive hgo (mapLeaf_badKind hform hkind),
      fun hgo hform hkind hwx => execMapPage_does hp hfw hx hlive hgo (mapLeaf_badWx hform hkind hwx),
      fun r hok hexec hready hr => ?_, fun hok hscan => ?_,
      fun table lo k rest hok hscan hwf hroot hpath hholds => ?_⟩
    · exact execMapPage_does hp hfw hx hlive hok.1 (mapLeaf_rejected (s := wakeAll s) hok.2 hexec hready hr)
    · exact execMapPage_tables hp hfw hx hlive hok.1 hok.2 hscan
    · exact execMapPage_writes hp hfw hx hlive hok.1 hok.2 hscan hwf hroot hpath hholds
  · refine ⟨execQreg_waits hp hfw, fun door hn hdoor hnone => ?_, fun door rule index hn hdoor hsome => ?_,
      execQdereg_unlisted hp hfw hx hlive, fun q r hfind hr hready => execQdereg_removes hp hfw hx hlive hready hfind hr⟩
    · exact answers_of (execQreg_named hp hfw hx hlive hn rfl hdoor hnone rfl) fun p0 p1 => registerQueue_registers ..
    · exact execQreg_named hp hfw hx hlive hn rfl hdoor hsome rfl
  · exact ⟨execWsfill_mapped hp hfw hcount hform hready, execWsfill_accepts hp hfw hcount hform hready⟩
  · exact ⟨execCklog_clears hp hfw hx hlive, execCklog_sets hp hfw hx hlive, execCensusCmd_clears hp hfw hx hlive⟩

end Sys2Proof.Machine
end
